-- ==== Sys2Proof/Word.lean ====
section
/-! DEFINITION. The word types of the part and the plain tables every other file uses.

Registers are bit vectors (R27, R43); a table of like things with a number is a list of (number, thing)
pairs, `AMap`, so that State stays plain data. -/

namespace Sys2Proof

/-- A byte of memory (R3). -/
abbrev Byte := BitVec 8
/-- A 32-bit register or half of a pair (R27). -/
abbrev Word := BitVec 32
/-- A 64-bit value: a pair, an address, a handle (R27, R34). -/
abbrev DWord := BitVec 64

/-- A table from numbers to things; an absent number stands for a default the reader names. -/
abbrev AMap (α : Type) := List (Nat × α)

namespace AMap

/-- The entry of number `k`, if there is one. -/
def find? {α : Type} (m : AMap α) (k : Nat) : Option α :=
  match m with
  | [] => none
  | (j, v) :: r => if j = k then some v else find? r k

/-- The entry of number `k`, or the default `d`. -/
def get {α : Type} (d : α) (m : AMap α) (k : Nat) : α :=
  match m with
  | [] => d
  | (j, v) :: r => if j = k then v else get d r k

/-- Writes the entry of number `k`, keeping the numbers in rising order. -/
def set {α : Type} (k : Nat) (v : α) (m : AMap α) : AMap α :=
  match m with
  | [] => [(k, v)]
  | (j, w) :: r =>
    if k < j then (k, v) :: (j, w) :: r
    else if j = k then (k, v) :: r
    else (j, w) :: set k v r

/-- Changes the entry of number `k`, if there is one. -/
def modify {α : Type} (k : Nat) (f : α → α) (m : AMap α) : AMap α :=
  match m with
  | [] => []
  | (j, v) :: r => if j = k then (j, f v) :: r else (j, v) :: modify k f r

/-- Removes the entry of number `k`. -/
def erase {α : Type} (k : Nat) (m : AMap α) : AMap α :=
  m.filter (fun e => e.1 != k)

/-- Applies `f` to every entry. -/
def mapVals {α : Type} (f : Nat → α → α) (m : AMap α) : AMap α :=
  m.map (fun e => (e.1, f e.1 e.2))

/-- The first entry a test picks. -/
def first {α : Type} (m : AMap α) (p : Nat × α → Bool) : Option (Nat × α) := List.find? p m

/-- The numbers that have an entry. -/
def keys {α : Type} (m : AMap α) : List Nat := m.map Prod.fst

/-- Changes the entry of number `k`, starting from the default `d`. -/
def upd {α : Type} (d : α) (k : Nat) (f : α → α) (m : AMap α) : AMap α :=
  set k (f (get d m k)) m

/-- The numbers rise strictly. -/
def sorted {α : Type} : AMap α → Bool
  | [] => true
  | [_] => true
  | a :: b :: r => decide (a.1 < b.1) && sorted (b :: r)

end AMap

/-- The list 0 .. n-1 shifted by `a`: a, a+1, ..., a+n-1. -/
def rangeFrom (a n : Nat) : List Nat := (List.range n).map (a + ·)

/-- The low 32 bits of a pair. -/
def DWord.lo (x : DWord) : Word := x.truncate 32
/-- The high 32 bits of a pair. -/
def DWord.hi (x : DWord) : Word := (x >>> 32).truncate 32
/-- The pair of a low and a high word (R27). -/
def DWord.ofWords (lo hi : Word) : DWord := hi.zeroExtend 64 <<< 32 ||| lo.zeroExtend 64

/-- Bits [lo + n - 1 : lo] of a number. -/
def natField (x lo n : Nat) : Nat := x / 2 ^ lo % 2 ^ n

/-- A Bool as the number 0 or 1. -/
def b2n (b : Bool) : Nat := if b then 1 else 0

end Sys2Proof
end

