-- ==== Sys2Proof/Config.lean ====
section
/-! DEFINITION. What an implementation fixes and the spec leaves open.

Every constant here is opaque: nothing in Lean can evaluate it or prove a value of it, so a claim about the
model holds for every value (log entry 5). -/

namespace Sys2Proof.Config

/-- A free 64-bit value, one for each value of State's counter `free` (log entry 5). -/
opaque freeValue : Nat → BitVec 64
/-- A free choice between two allowed outcomes, one for each value of State's counter `free` (log entry 5). -/
opaque freeChoice : Nat → Bool
/-- The result bits a core delivers for special function `fn` in format `fmt` on an operand (R148): the same bits
for the same operand on every core. Used only inside the error bound of R148 (log entry 12). -/
opaque special : (fn fmt : Nat) → BitVec 64 → BitVec 64
/-- The L2 slice of a physical line: a fixed hash of PA[51:8] that the spec does not give (R261). -/
opaque l2Slice : Nat → Nat
/-- SHA-384 of a byte string (R409, R412), a standard outside the spec (log entry 13). -/
opaque sha384 : List (BitVec 8) → List (BitVec 8)
/-- ECDSA P-384 verification of (r, s) over a hash under the vendor key in Luna's mask ROM (R409; log entry 13). -/
opaque vendorVerify : (hash r s : List (BitVec 8)) → Bool
/-- The P-384 signature by the identity key over a hash (R412; log entry 13). -/
opaque identitySign : (key : BitVec 384) → (hash : List (BitVec 8)) → List (BitVec 8)
/-- The identity key derived from the start-up state of Luna's SRAM (R412). -/
opaque identityKey : BitVec 384

end Sys2Proof.Config

namespace Sys2Proof

/-- What the configuration image sets until power-down (R411). The payload's layout is not in the spec. -/
structure PkgConfig where
  /-- virtualisation on: 256 MiB per die is Cocoon (R262, R351) -/
  virt : Bool
  /-- the package number on Span, PA[49:40] -/
  spanNumber : Nat
  /-- bit n enables Span port n -/
  spanPorts : BitVec 48
  /-- PWR.LIMIT after power-up, if the image gives one -/
  limit : Option Nat
  deriving DecidableEq, Repr, Inhabited

/-- The settings a configuration payload names (R411); its layout is free (log entry 13). -/
opaque Config.parseImage : List (BitVec 8) → PkgConfig

end Sys2Proof
end

