-- ==== Sys2Proof/Syntax.lean ====
section
/-! DEFINITION. The instruction words and the events of the part: one constructor of `Instr` per row of
spec/opcode_table.json. Field records follow the formats of R84 to R86, with register numbers and
sub-operations already read out of the encoding (R87). -/

namespace Sys2Proof

/-- A guard (R82): two predicates, their negations, and how they join. -/
structure Guard where
  negA : Bool
  pA : Fin 32
  negB : Bool
  pB : Fin 32
  joinOr : Bool
  deriving DecidableEq, Repr, Inhabited

/-- Scheduling code (R83); code 11 is reserved and is refused by the decoder. -/
inductive Sched | none | yld | keep
  deriving DecidableEq, Repr, Inhabited

/-- The fields common to every word (R81) besides the opcode. -/
structure Head where
  guard : Guard
  sched : Sched
  deriving DecidableEq, Repr, Inhabited

/-- A source operand code (R87). -/
inductive Src
  | v (n : Fin 96)
  | q (n : Fin 8)
  | zero
  deriving DecidableEq, Repr, Inhabited

/-- The levels and scope codes 0 to 6 of R12; code 7 is refused by the decoder (R13). -/
inductive Scope | core | clu | die | twr | deck | pkg | sys
  deriving DecidableEq, Repr, Inhabited

/-- Memory orders (R84). -/
inductive MOrd | rlx | acq | rel | ar
  deriving DecidableEq, Repr, Inhabited

/-- Engine classes (R75); 7 is reserved. -/
inductive EngClass | vec | mem | sync | tile | smx | sys | acc
  deriving DecidableEq, Repr, Inhabited

/-- Floating formats: the type codes 0 to 3 of R94, R149. -/
inductive FFmt | f16 | bf16 | f32 | f64
  deriving DecidableEq, Repr, Inhabited

/-- Rounding fields MOD[2:0] of R51. -/
inductive RMode | rne | rtz | rup | rdn | rna | dyn
  deriving DecidableEq, Repr, Inhabited

/-- A source modifier (R140): absolute value, then negation. -/
structure SrcMod where
  abs : Bool
  neg : Bool
  deriving DecidableEq, Repr, Inhabited

/-- The special registers of R43. -/
inductive SReg
  | tid | gid | cid | width | col | core | clu | die | clk | dclk | gstat | fst | fmode | smf | rstat | exc | trap
  | faddr | itb | ite | fix
  deriving DecidableEq, Repr, Inhabited

/-! ### Field records of family 000 and 011 words -/

structure Alu1 where
  d : Fin 96
  a : Src
  w : Bool
  sg : Bool
  sat : Bool
  deriving DecidableEq, Repr, Inhabited

structure Alu2 where
  d : Fin 96
  a : Src
  b : Src
  w : Bool
  sg : Bool
  sat : Bool
  deriving DecidableEq, Repr, Inhabited

structure Alu3 where
  d : Fin 96
  a : Src
  b : Src
  c : Src
  w : Bool
  sg : Bool
  deriving DecidableEq, Repr, Inhabited

structure Alu4 where
  d : Fin 96
  a : Src
  b : Src
  c : Src
  e : Src
  w : Bool
  deriving DecidableEq, Repr, Inhabited

structure LeaF where
  d : Fin 96
  a : Src
  b : Src
  sh : Fin 8
  w : Bool
  sg : Bool
  deriving DecidableEq, Repr, Inhabited

structure Bool3F where
  d : Fin 96
  a : Src
  b : Src
  c : Src
  w : Bool
  tt : BitVec 8
  deriving DecidableEq, Repr, Inhabited

structure AluImm where
  d : Fin 96
  a : Src
  imm : BitVec 25
  deriving DecidableEq, Repr, Inhabited

structure ShiftImm where
  d : Fin 96
  a : Src
  amt : Fin 32
  sg : Bool
  deriving DecidableEq, Repr, Inhabited

/-- Conditions of ICMP (R115). -/
inductive ICond | eq | ne | lts | les | ltu | leu
  deriving DecidableEq, Repr, Inhabited

structure IcmpF where
  pa : Fin 32
  pb : Fin 32
  pc : Fin 32
  a : Src
  b : Src
  w : Bool
  cond : ICond
  deriving DecidableEq, Repr, Inhabited

structure IselF where
  d : Fin 96
  a : Src
  b : Src
  pc : Fin 32
  w : Bool
  deriving DecidableEq, Repr, Inhabited

structure PlogF where
  pd : Fin 32
  pa : Fin 32
  pb : Fin 32
  pc : Fin 32
  tt : BitVec 8
  deriving DecidableEq, Repr, Inhabited

structure MovF where
  d : Fin 96
  a : Src
  w : Bool
  deriving DecidableEq, Repr, Inhabited

/-! ### Field records of family 010 and 011 words -/

structure Fp2 where
  t : FFmt
  d : Fin 96
  a : Src
  b : Src
  ma : SrcMod
  mb : SrcMod
  rm : RMode
  deriving DecidableEq, Repr, Inhabited

structure Fp3 where
  t : FFmt
  d : Fin 96
  a : Src
  b : Src
  c : Src
  ma : SrcMod
  mb : SrcMod
  mc : SrcMod
  rm : RMode
  deriving DecidableEq, Repr, Inhabited

structure FpMin where
  t : FFmt
  d : Fin 96
  a : Src
  b : Src
  ma : SrcMod
  mb : SrcMod
  num : Bool
  deriving DecidableEq, Repr, Inhabited

/-- Conditions of FCMP (R144). -/
inductive FCond | eq | ne | lt | le | gt | ge | ord | uno
  deriving DecidableEq, Repr, Inhabited

structure FcmpF where
  t : FFmt
  pa : Fin 32
  pb : Fin 32
  pc : Fin 32
  a : Src
  b : Src
  absA : Bool
  absB : Bool
  cond : FCond
  sig : Bool
  deriving DecidableEq, Repr, Inhabited

structure FclassF where
  t : FFmt
  d : Fin 96
  a : Src
  deriving DecidableEq, Repr, Inhabited

structure FrndF where
  t : FFmt
  d : Fin 96
  a : Src
  ma : SrcMod
  exact : Bool
  rm : RMode
  deriving DecidableEq, Repr, Inhabited

structure FscaleF where
  t : FFmt
  d : Fin 96
  a : Src
  b : Src
  ma : SrcMod
  rm : RMode
  deriving DecidableEq, Repr, Inhabited

/-- A special function word (R148); `t` is f16, f32 or f64. -/
structure FspecF where
  t : FFmt
  d : Fin 96
  a : Src
  ma : SrcMod
  rm : RMode
  deriving DecidableEq, Repr, Inhabited

structure FcvtF where
  dst : FFmt
  src : FFmt
  d : Fin 96
  a : Src
  ma : SrcMod
  rm : RMode
  deriving DecidableEq, Repr, Inhabited

/-- The kinds of ICVT (R150). -/
inductive NumKind | flt (f : FFmt) | s32 | n32 | s64 | n64
  deriving DecidableEq, Repr, Inhabited

structure IcvtF where
  dst : NumKind
  src : NumKind
  d : Fin 96
  a : Src
  ma : SrcMod
  exact : Bool
  rm : RMode
  deriving DecidableEq, Repr, Inhabited

structure ExtpF where
  t6 : Bool
  dst : FFmt
  d : Fin 96
  a : Src
  b : Src
  c : Src
  rm : RMode
  deriving DecidableEq, Repr, Inhabited

structure PackpF where
  t6 : Bool
  src : FFmt
  d : Fin 96
  a : Src
  b : Src
  c : Src
  deriving DecidableEq, Repr, Inhabited

/-- The mask operand of a round (R154): a rejoin mask or a pair. -/
inductive MaskOp | j (n : Fin 8) | pair (s : Src)
  deriving DecidableEq, Repr, Inhabited

inductive ShflMode | idx | up | down | xor
  deriving DecidableEq, Repr, Inhabited

structure ShflF where
  mode : ShflMode
  w : Bool
  d : Fin 96
  a : Src
  b : Src
  mask : MaskOp
  fill : Src
  deriving DecidableEq, Repr, Inhabited

/-- The four operations of VOTE with their destination and fill (R158). -/
inductive VoteDst
  | all (pd pfill : Fin 32)
  | any (pd pfill : Fin 32)
  | uni (pd pfill : Fin 32)
  | ballot (d : Fin 96) (fill : Src)
  deriving DecidableEq, Repr, Inhabited

structure VoteF where
  pa : Fin 32
  mask : MaskOp
  dst : VoteDst
  deriving DecidableEq, Repr, Inhabited

/-- The combinations of R159. -/
inductive RedOp
  | add32 | add64 | mins | maxs | minn | maxn | and | or | xor | fadd32 | fadd64 | fmin | fmax
  deriving DecidableEq, Repr, Inhabited

structure RedxF where
  op : RedOp
  d : Fin 96
  a : Src
  mask : MaskOp
  fill : Src
  rm : RMode
  deriving DecidableEq, Repr, Inhabited

structure ScanxF where
  op : RedOp
  excl : Bool
  d : Fin 96
  a : Src
  mask : MaskOp
  fill : Src
  rm : RMode
  deriving DecidableEq, Repr, Inhabited

structure MatchF where
  all : Bool
  w : Bool
  d : Fin 96
  a : Src
  mask : MaskOp
  fill : Src
  deriving DecidableEq, Repr, Inhabited

structure XsndF where
  w : Bool
  slot : Src
  data : Src
  mask : MaskOp
  deriving DecidableEq, Repr, Inhabited

structure XrcvF where
  w : Bool
  d : Fin 96
  slot : Src
  mask : MaskOp
  fill : Src
  deriving DecidableEq, Repr, Inhabited

/-! ### Field records of memory words (format M) -/

/-- The address fields of format M: record, offset register (none is ZERO, code 104), signed offset (R40). -/
structure MAddr where
  br : Fin 32
  ofs : Option (Fin 96)
  imm : BitVec 12
  deriving DecidableEq, Repr, Inhabited

/-- Types of LD (R166). -/
inductive LdTy | b8 | b16 | b32 | b64 | b128 | s8 | s16
  deriving DecidableEq, Repr, Inhabited

/-- Types of ST (R167). -/
inductive StTy | b8 | b16 | b32 | b64 | b128
  deriving DecidableEq, Repr, Inhabited

structure LdF where
  ty : LdTy
  d : Fin 96
  m : MAddr
  scope : Scope
  ord : MOrd
  hint : Fin 7
  deriving DecidableEq, Repr, Inhabited

structure StF where
  ty : StTy
  data : Src
  m : MAddr
  scope : Scope
  ord : MOrd
  hint : Fin 7
  deriving DecidableEq, Repr, Inhabited

structure BldF where
  bd : Fin 32
  m : MAddr
  scope : Scope
  ord : MOrd
  deriving DecidableEq, Repr, Inhabited

structure BstF where
  data : Src
  m : MAddr
  scope : Scope
  ord : MOrd
  hint : Fin 7
  deriving DecidableEq, Repr, Inhabited

/-- The atomic operations x = 0 to 14 of R96. -/
inductive AtomOp
  | add | sub | mins | maxs | minn | maxn | and | or | xor | exch | inc | fmin | fmax | fadd | faddBf16x2
  deriving DecidableEq, Repr, Inhabited

structure AtomF where
  op : AtomOp
  w : Bool
  d : Fin 96
  m : MAddr
  scope : Scope
  ord : MOrd
  hint : Fin 7
  deriving DecidableEq, Repr, Inhabited

structure AtomNrF where
  op : AtomOp
  w : Bool
  data : Src
  m : MAddr
  scope : Scope
  ord : MOrd
  hint : Fin 7
  deriving DecidableEq, Repr, Inhabited

structure AcasF where
  w : Bool
  d : Fin 96
  m : MAddr
  scope : Scope
  ord : MOrd
  hint : Fin 7
  deriving DecidableEq, Repr, Inhabited

structure SmapF where
  coh : Bool
  bd : Fin 32
  va : Src
  off : Src
  len : Src
  deriving DecidableEq, Repr, Inhabited

/-- CFLUSH, CINV, ICINV: a range through a record (R194, R195). -/
structure RangeF where
  m : MAddr
  len : Src
  scope : Scope
  deriving DecidableEq, Repr, Inhabited

/-! ### Field records of synchronisation, copy and handle words -/

structure BaraF where
  d : Option (Fin 96)
  scope : Scope
  n : Fin 16
  deriving DecidableEq, Repr, Inhabited

structure BarwF where
  a : Src
  scope : Scope
  n : Fin 16
  deriving DecidableEq, Repr, Inhabited

structure WaitcF where
  ld : Fin 64
  st : Fin 64
  cp : Fin 64
  tl : Fin 64
  deriving DecidableEq, Repr, Inhabited

structure CopyF where
  hd : Fin 16
  dst : Src
  src : Src
  len : Src
  scope : Scope
  rel : Bool
  deriving DecidableEq, Repr, Inhabited

/-! ### Field records of tile and small-matrix words -/

/-- The transform a tile word names (R199). -/
inductive XfSel | none | h16 | perm (t : Fin 8) | record
  deriving DecidableEq, Repr, Inhabited

/-- TLD: the tile kind (`y`), number, record, offset pair (none is ZERO), window. -/
structure TldF where
  br : Fin 32
  va : Option (Fin 96)
  vb : Src
  y : Bool
  tn : Fin 8
  xf : XfSel
  scope : Scope
  deriving DecidableEq, Repr, Inhabited

structure TsvF where
  br : Fin 32
  va : Option (Fin 96)
  vb : Src
  tn : Fin 8
  scope : Scope
  deriving DecidableEq, Repr, Inhabited

structure TsumF where
  br : Fin 32
  va : Option (Fin 96)
  vb : Src
  tn : Fin 8
  sums : Bool
  scope : Scope
  deriving DecidableEq, Repr, Inhabited

structure QcvF where
  br : Fin 32
  va : Option (Fin 96)
  vb : Src
  tn : Fin 8
  t6 : Bool
  xf : XfSel
  scope : Scope
  deriving DecidableEq, Repr, Inhabited

structure PtldF where
  br : Fin 32
  va : Option (Fin 96)
  vb : Src
  t : Fin 8
  scope : Scope
  deriving DecidableEq, Repr, Inhabited

structure MmaF where
  br : Fin 32
  va : Option (Fin 96)
  hd : Option (Fin 16)
  scope : Scope
  deriving DecidableEq, Repr, Inhabited

/-- TMOV.get and TMOV.put: the moved register, the selector, the tile. -/
structure TmovGetF where
  d : Fin 96
  sel : Src
  y : Bool
  tn : Fin 8
  deriving DecidableEq, Repr, Inhabited

structure TmovPutF where
  a : Src
  sel : Src
  y : Bool
  tn : Fin 8
  deriving DecidableEq, Repr, Inhabited

structure SmsetF where
  f32 : Bool
  md : Fin 8
  rows : Fin 8
  cols : Fin 8
  deriving DecidableEq, Repr, Inhabited

structure SmMemF where
  md : Fin 8
  m : MAddr
  scope : Scope
  ord : MOrd
  hint : Fin 7
  deriving DecidableEq, Repr, Inhabited

structure SmGetF where
  d : Fin 96
  ma : Fin 8
  i : Src
  j : Src
  deriving DecidableEq, Repr, Inhabited

structure SmPutF where
  md : Fin 8
  a : Src
  i : Src
  j : Src
  deriving DecidableEq, Repr, Inhabited

structure Sm1F where
  md : Fin 8
  ma : Fin 8
  rm : RMode
  deriving DecidableEq, Repr, Inhabited

structure Sm2F where
  md : Fin 8
  ma : Fin 8
  mb : Fin 8
  rm : RMode
  deriving DecidableEq, Repr, Inhabited

structure Sm3F where
  md : Fin 8
  ma : Fin 8
  mb : Fin 8
  mc : Fin 8
  rm : RMode
  deriving DecidableEq, Repr, Inhabited

structure SmsclF where
  md : Fin 8
  ma : Fin 8
  e : Src
  rm : RMode
  deriving DecidableEq, Repr, Inhabited

/-! ### Arguments of events -/

/-- A thread of a group, or its shadow in protected launch mode (R387). -/
structure Lane where
  g : Nat
  t : Nat
  sh : Bool
  deriving DecidableEq, Repr, Inhabited

/-- What an agent outside the package does to bytes of memory (R293, R357, R358). -/
inductive ExtKind
  | read
  | write (data : List Byte)
  | add (v : DWord)
  deriving DecidableEq, Repr, Inhabited

structure ExtAccess where
  port : Nat
  pa : Nat
  kind : ExtKind
  deriving DecidableEq, Repr, Inhabited

/-- Where a register write comes in: a physical function's BAR0 or BAR2, a virtual function's BAR0, or the debugger's view of a
frozen group, where a run of bytes is written (R367). -/
inductive RegSpace
  | pf (port : Fin 2)
  | vf (p : Fin 16)
  | bar2 (port : Fin 2)
  | view (g : Nat) (bytes : List Byte)
  deriving DecidableEq, Repr, Inhabited

/-- An 8-byte register write (R342, R347, R357, R359, R397, R412). -/
structure RegWrite where
  space : RegSpace
  off : Nat
  val : DWord
  deriving DecidableEq, Repr, Inhabited

/-- A flash slot: a firmware image and a configuration image (R409). -/
structure FlashSlot where
  fw : List Byte
  cfg : List Byte
  deriving DecidableEq, Repr, Inhabited

/-- What bring-up measures and reads (R409, R410). -/
structure BootInput where
  slotA : FlashSlot
  slotB : FlashSlot
  /-- the enabled sites the self-test finds, one mask per die (R18) -/
  sites : List (BitVec 96)
  /-- TOFF and TRATE of each die (R398) -/
  calib : List (DWord × BitVec 31)
  deriving DecidableEq, Repr, Inhabited

/-- One constructor per row of spec/opcode_table.json: the words first, then the events. -/
inductive Instr
  -- family 000 (R111 to R122)
  | iadd (h : Head) (x : Alu2)
  | isub (h : Head) (x : Alu2)
  | imul (h : Head) (x : Alu2)
  | imulh (h : Head) (x : Alu2)
  | imad (h : Head) (x : Alu3)
  | imadw (h : Head) (x : Alu3)
  | ineg (h : Head) (x : Alu1)
  | iabs (h : Head) (x : Alu1)
  | imin (h : Head) (x : Alu2)
  | imax (h : Head) (x : Alu2)
  | lea (h : Head) (x : LeaF)
  | and (h : Head) (x : Alu2)
  | or (h : Head) (x : Alu2)
  | xor (h : Head) (x : Alu2)
  | andn (h : Head) (x : Alu2)
  | bool3 (h : Head) (x : Bool3F)
  | shl (h : Head) (x : Alu2)
  | shr (h : Head) (x : Alu2)
  | rot (h : Head) (x : Alu2)
  | fshl (h : Head) (x : Alu3)
  | bfx (h : Head) (x : Alu3)
  | bfi (h : Head) (x : Alu4)
  | brev (h : Head) (x : Alu1)
  | popc (h : Head) (x : Alu1)
  | clz (h : Head) (x : Alu1)
  | ctz (h : Head) (x : Alu1)
  | icmp (h : Head) (x : IcmpF)
  | isel (h : Head) (x : IselF)
  | iaddImm (h : Head) (x : AluImm)
  | isubImm (h : Head) (x : AluImm)
  | imulImm (h : Head) (x : AluImm)
  | iminImm (h : Head) (x : AluImm)
  | imaxImm (h : Head) (x : AluImm)
  | andImm (h : Head) (x : AluImm)
  | orImm (h : Head) (x : AluImm)
  | xorImm (h : Head) (x : AluImm)
  | shlImm (h : Head) (x : ShiftImm)
  | shrImm (h : Head) (x : ShiftImm)
  | rotImm (h : Head) (x : ShiftImm)
  | plog (h : Head) (x : PlogF)
  | pmovGet (h : Head) (d : Fin 96)
  | pmovSet (h : Head) (a b : Src)
  | mov (h : Head) (x : MovF)
  | movi (h : Head) (d : Fin 96) (imm : BitVec 25)
  | movi32 (h : Head) (d : Fin 96) (imm : Word)
  | movs (h : Head) (d : Fin 96) (r : SReg)
  | movsw (h : Head) (r : SReg) (b : Src)
  | elect (h : Head) (pd : Fin 32) (d : Option (Fin 96))
  | movjToJ (h : Head) (j : Fin 8) (a : Src)
  | movjToV (h : Head) (d : Fin 96) (j : Fin 8)
  -- family 001 (R126 to R137)
  | bra (h : Head) (off : Word)
  | brx (h : Head) (r : Fin 96)
  | call (h : Head) (off : Word)
  | callx (h : Head) (r : Fin 96)
  | callL (h : Head) (off : Word) (pad : BitVec 7)
  | callxL (h : Head) (r : Fin 96) (off : Word)
  | ret (h : Head)
  | throw (h : Head)
  | jarm (h : Head) (j : Fin 8)
  | waitj (h : Head) (j : Fin 8)
  | yield (h : Head)
  | exit (h : Head)
  | nop (h : Head)
  -- family 010 (R142 to R152)
  | fadd (h : Head) (x : Fp2)
  | fsub (h : Head) (x : Fp2)
  | fmul (h : Head) (x : Fp2)
  | ffma (h : Head) (x : Fp3)
  | fmin (h : Head) (x : FpMin)
  | fmax (h : Head) (x : FpMin)
  | fcmp (h : Head) (x : FcmpF)
  | fclass (h : Head) (x : FclassF)
  | frnd (h : Head) (x : FrndF)
  | fscale (h : Head) (x : FscaleF)
  | frcp (h : Head) (x : FspecF)
  | frsq (h : Head) (x : FspecF)
  | fsqrt (h : Head) (x : FspecF)
  | fexp2 (h : Head) (x : FspecF)
  | flog2 (h : Head) (x : FspecF)
  | fsin (h : Head) (x : FspecF)
  | fcos (h : Head) (x : FspecF)
  | ftanh (h : Head) (x : FspecF)
  | fcvt (h : Head) (x : FcvtF)
  | icvt (h : Head) (x : IcvtF)
  | extp (h : Head) (x : ExtpF)
  | packp (h : Head) (x : PackpF)
  -- family 011 (R123 to R125, R157 to R163)
  | shfl (h : Head) (x : ShflF)
  | vote (h : Head) (x : VoteF)
  | redx (h : Head) (x : RedxF)
  | scanx (h : Head) (x : ScanxF)
  | matchx (h : Head) (x : MatchF)
  | xsnd (h : Head) (x : XsndF)
  | xrcv (h : Head) (x : XrcvF)
  | shapeQ (h : Head) (d : Fin 96) (a : Src)
  | shapeG (h : Head) (d : Fin 96)
  | aff (h : Head) (d : Fin 96) (a b : Src)
  -- family 100 (R165 to R196)
  | ld (h : Head) (x : LdF)
  | st (h : Head) (x : StF)
  | bld (h : Head) (x : BldF)
  | bst (h : Head) (x : BstF)
  | atom (h : Head) (x : AtomF)
  | atomNr (h : Head) (x : AtomNrF)
  | acas (h : Head) (x : AcasF)
  | smap (h : Head) (x : SmapF)
  | sunmap (h : Head) (bd : Fin 32)
  | sflush (h : Head) (bd : Fin 32)
  | smode (h : Head) (bd : Fin 32) (coh : Bool)
  | cflush (h : Head) (x : RangeF)
  | cinv (h : Head) (x : RangeF)
  | icinv (h : Head) (x : RangeF)
  | mscfl (h : Head) (scope : Scope)
  -- family 101 (R175 to R186, R219 to R223)
  | fence (h : Head) (scope : Scope) (kind : MOrd)
  | bar (h : Head)
  | bara (h : Head) (x : BaraF)
  | barw (h : Head) (x : BarwF)
  | waitc (h : Head) (x : WaitcF)
  | copy (h : Head) (x : CopyF)
  | seal (h : Head) (d : Option (Fin 96))
  | waitb (h : Head) (a : Src)
  | htime (h : Head) (d : Fin 96) (hs : Fin 16)
  | sleept (h : Head) (a : Src) (hs : Option (Fin 16))
  | hwait (h : Head) (hs : Fin 16)
  | htest (h : Head) (pa pb : Fin 32) (hs : Fin 16)
  | hcancel (h : Head) (hs : Fin 16)
  | hmovToH (h : Head) (hd : Fin 16) (a : Src)
  | hmovToV (h : Head) (d : Fin 96) (ha : Fin 16)
  | rbegin (h : Head) (scope : Scope) (off : Word)
  | rcommit (h : Head)
  | rabort (h : Head)
  -- family 110 (R199 to R218)
  | tacq (h : Head) (y : Bool) (va : Src)
  | trel (h : Head) (y : Bool) (va : Src)
  | tld (h : Head) (x : TldF)
  | tsv (h : Head) (x : TsvF)
  | tzero (h : Head) (y : Bool) (tn : Fin 8)
  | tmovGet (h : Head) (x : TmovGetF)
  | tmovPut (h : Head) (x : TmovPutF)
  | mma (h : Head) (x : MmaF)
  | tsum (h : Head) (x : TsumF)
  | qcv (h : Head) (x : QcvF)
  | ptld (h : Head) (x : PtldF)
  | smset (h : Head) (x : SmsetF)
  | smld (h : Head) (x : SmMemF)
  | smst (h : Head) (x : SmMemF)
  | smmov (h : Head) (md ma : Fin 8)
  | smmovGet (h : Head) (x : SmGetF)
  | smmovPut (h : Head) (x : SmPutF)
  | smadd (h : Head) (x : Sm2F)
  | smscl (h : Head) (x : SmsclF)
  | smtr (h : Head) (md ma : Fin 8)
  | smmul (h : Head) (x : Sm2F)
  | smmad (h : Head) (x : Sm3F)
  | smchol (h : Head) (x : Sm1F)
  | smlu (h : Head) (x : Sm1F)
  | smsolve (h : Head) (x : Sm2F)
  -- family 111 (R224 to R228, R188, R189)
  | trap (h : Head) (code : BitVec 16)
  | brk (h : Head) (code : BitVec 16)
  | errinjZflip (h : Head) (va : Src) (n : Fin 8) (bit : Fin 32)
  | errinjVflip1 (h : Head) (va : Fin 96) (bit : Fin 32)
  | errinjVflip2 (h : Head) (va : Fin 96) (b1 b2 : Fin 32)
  | errinjPoison (h : Head) (va : Src)
  | launch (h : Head) (va : Src) (q : BitVec 8) (hd : Option (Fin 16))
  | signalSt (h : Head) (va vb : Src)
  | signalAdd (h : Head) (va vb : Src)
  | irq (h : Head) (vec : BitVec 11)
  | qld (h : Head) (q : Fin 8) (m : MAddr) (scope : Scope) (hint : Fin 7)
  | qloop (h : Head) (r : Fin 96) (off : Word)
  | qend (h : Head)
  -- events: issue (R236 to R247)
  | gangIssue (quad : Nat) (pc : DWord) (gs : List Nat)
  | clauseFetch (g : Nat) (pc : DWord)
  | watchdog (g : Nat)
  | pathAged (g : Nat) (pc : DWord)
  -- events: memory (R37, R262, R267 to R274, R357, R358, R393 to R396)
  | loadComplete (op : Nat)
  | storeComplete (op : Nat)
  | requestRepresent (op : Nat)
  | directoryRequest (op : Nat)
  | forwardedRequest (sector core : Nat)
  | mscWriteback (line : Nat)
  | hostSnoop (x : ExtAccess)
  | remoteAccess (x : ExtAccess)
  | spanNack (port : Nat)
  | spanRecoveryStart (port : Nat)
  | spanLinkDrop (port : Nat)
  | spanRecoveryEnd (port : Nat)
  | recoveryBound (port : Nat)
  | hostLinkDrop (port : Nat)
  -- events: engines (R181 to R186, R202, R203, R210, R222, R302, R304)
  | copyStart (die : Nat)
  | copyComplete (c : Nat)
  | copyStop (c : Nat)
  | copyCancelStop (c : Nat)
  | mmaComplete (core : Nat)
  | tileOpComplete (core op : Nat)
  | tileDataFault (core op : Nat)
  | qldReturn (g i : Nat)
  | commitPerform (core : Nat)
  | sleeptWake (l : Lane)
  -- events: launches (R23, R321 to R333, R381)
  | stagedStart (die : Nat)
  | queueTake (p q : Nat)
  | stampTimeout (p q : Nat)
  | launchBufferWrite (p q : Nat)
  | launchReady (l : Nat)
  | crewAdmit (l unit : Nat)
  | launchComplete (l : Nat)
  | replayRestore (l : Nat)
  -- events: partitions (R341 to R357)
  | pctlCreate (p : Nat)
  | pctlKill (p : Nat)
  | pctlWake (p : Nat)
  | pctlSwapout (p : Nat)
  | functionLevelReset (p : Nat)
  | killComplete (p : Nat)
  | tsliceExpiry (p : Nat)
  | latencyIdleExpiry (p : Nat)
  | saveComplete (p : Nat)
  | swapIn (p : Nat)
  | restoreComplete (p : Nat)
  | tlbinvStart (p : Nat) (val : DWord)
  | tlbinvDone (p : Nat)
  | mbxbaseWrite (port : Nat) (val : DWord)
  | errrecRead (die : Nat)
  | registerWrite (x : RegWrite)
  -- events: debugger (R362 to R371)
  | dbgStop (c : Nat)
  | dbgResume (c : Nat)
  | dbgStep (c : Nat)
  | dbgCancel (c : Nat)
  | clusterFrozen (c : Nat)
  -- events: dies, heat, power, bring-up, attestation (R399 to R412)
  | heartbeatTimeout (die : Nat)
  | rebuildComplete
  | zoneUpdate (die : Nat) (temps : List (BitVec 16))
  | powerMeasure (watts : BitVec 16)
  | timeRecalibrate (die : Nat) (toff : DWord) (trate : BitVec 31)
  | powerUp (x : BootInput)
  | attestRequest (port : Nat)
  | attestDone
  | mmaLastColumn (core : Nat)
  | hostAgentUnanswered (port : Nat)
  | hostLinkRecoveryEnd (port : Nat)
  deriving DecidableEq, Repr

end Sys2Proof
end

