-- ==== Sys2Proof/WellFormed.lean ====
section
/-! DEFINITION. The static rules of the instruction words: every encoding rule of R88 to R90 that depends on the
word alone and is not already part of the types of Syntax.lean. A word that breaks one faults with ILLEGAL_ENC. -/

namespace Sys2Proof

/-- A register that starts a 64-bit pair is even (R27). -/
def evenReg (n : Fin 96) : Bool := n.val % 2 == 0
/-- A register that starts a group of four is a multiple of 4 (R166, R173). -/
def quadReg (n : Fin 96) : Bool := n.val % 4 == 0

/-- A 64-bit source: an even V register, a queue (two pops, R26) or ZERO. -/
def Src.pair : Src → Bool
  | .v n => evenReg n
  | .q _ => true
  | .zero => true

/-- A source of the width `w` names. -/
def Src.okW (w : Bool) (s : Src) : Bool := if w then s.pair else true
/-- A destination of the width `w` names. -/
def regOkW (w : Bool) (d : Fin 96) : Bool := if w then evenReg d else true

/-- A destination or source of a floating format: pairs for f64 (R139). -/
def FFmt.wide : FFmt → Bool
  | .f64 => true
  | _ => false
/-- A modifier field that an instruction does not use is zero (R140). -/
def SrcMod.none (m : SrcMod) : Bool := !m.abs && !m.neg

/-- The 64-bit special registers of R43. -/
def SReg.wide : SReg → Bool
  | .clk | .dclk | .exc | .faddr => true
  | _ => false
/-- The special registers MOVSW may write (R43, R120). -/
def SReg.writable : SReg → Bool
  | .fst | .fmode | .smf | .exc => true
  | _ => false

/-- The integer kinds of ICVT (R150). -/
def NumKind.isInt : NumKind → Bool
  | .flt _ => false
  | _ => true
/-- The 64-bit kinds of ICVT. -/
def NumKind.wide : NumKind → Bool
  | .flt .f64 | .s64 | .n64 => true
  | _ => false

/-- The combinations of R159 that read 64-bit values. -/
def RedOp.wide : RedOp → Bool
  | .add64 | .fadd64 => true
  | _ => false
/-- The combinations of R159 that round. -/
def RedOp.rounds : RedOp → Bool
  | .fadd32 | .fadd64 => true
  | _ => false

/-- A mask operand: a pair where it is one (R154). -/
def MaskOp.ok : MaskOp → Bool
  | .j _ => true
  | .pair s => s.pair

/-- ORD of loads (R169). -/
def MOrd.okLoad : MOrd → Bool
  | .rlx | .acq => true
  | _ => false
/-- ORD of stores (R169). -/
def MOrd.okStore : MOrd → Bool
  | .rlx | .rel => true
  | _ => false

/-- The destination column of LD (R166). -/
def LdTy.okDat (d : Fin 96) : LdTy → Bool
  | .b64 => evenReg d
  | .b128 => quadReg d
  | _ => true
/-- The data column of ST (R167). -/
def StTy.okDat (s : Src) : StTy → Bool
  | .b64 => s.pair
  | .b128 => match s with
    | .v n => quadReg n
    | .q _ => false
    | .zero => true
  | _ => true
/-- The data column of BST (R167). -/
def bstOkDat : Src → Bool
  | .v n => n.val % 16 == 0
  | .q _ => false
  | .zero => true

/-- The atomic operations that have a 64-bit form (R96). -/
def AtomOp.has64 : AtomOp → Bool
  | .fmin | .fmax | .fadd | .faddBf16x2 => false
  | _ => true

/-- A tile word's offset operand is an even pair or ZERO (R199). -/
def tileOfsOk : Option (Fin 96) → Bool
  | none => true
  | some n => evenReg n

/-- SMSET's shape (R215). -/
def smShapeOk (r c : Nat) : Bool := decide (r ≤ 6) && decide (c ≤ 6) && ((r == 0) == (c == 0))

/-- The unused MOD fields of an ALU word are zero (R109). -/
def aluMod (sgUsed satUsed : Bool) (sg sat : Bool) : Bool := (sgUsed || !sg) && (satUsed || !sat)

def Alu2.ok (sgUsed satUsed : Bool) (x : Alu2) : Bool :=
  aluMod sgUsed satUsed x.sg x.sat && regOkW x.w x.d && x.a.okW x.w && x.b.okW x.w

def Fp2.ok (x : Fp2) : Bool := regOkW x.t.wide x.d && x.a.okW x.t.wide && x.b.okW x.t.wide
def FpMin.ok (x : FpMin) : Bool := regOkW x.t.wide x.d && x.a.okW x.t.wide && x.b.okW x.t.wide

/-- A special function word: u is f32, f64 or f16; only FRCP and FSQRT take a rounding mode (R148). -/
def FspecF.ok (cr : Bool) (x : FspecF) : Bool :=
  decide (x.t ≠ .bf16) && (cr || decide (x.rm = .dyn)) && regOkW x.t.wide x.d && x.a.okW x.t.wide

/-- The static rules of each word; an event is no word. -/
def wellFormed : Instr → Bool
  | .iadd _ x => x.ok true true
  | .isub _ x => x.ok true true
  | .imul _ x => x.ok false false
  | .imulh _ x => x.ok true false
  | .imad _ x => !x.sg && regOkW x.w x.d && x.a.okW x.w && x.b.okW x.w && x.c.okW x.w
  | .imadw _ x => !x.w && evenReg x.d && x.c.pair
  | .ineg _ x => x.sg && regOkW x.w x.d && x.a.okW x.w
  | .iabs _ x => x.sg && regOkW x.w x.d && x.a.okW x.w
  | .imin _ x => x.ok true false
  | .imax _ x => x.ok true false
  | .lea _ x => regOkW x.w x.d && x.a.okW x.w
  | .and _ x => x.ok false false
  | .or _ x => x.ok false false
  | .xor _ x => x.ok false false
  | .andn _ x => x.ok false false
  | .bool3 _ x => regOkW x.w x.d && x.a.okW x.w && x.b.okW x.w && x.c.okW x.w
  | .shl _ x => aluMod false false x.sg x.sat && regOkW x.w x.d && x.a.okW x.w
  | .shr _ x => aluMod true false x.sg x.sat && regOkW x.w x.d && x.a.okW x.w
  | .rot _ x => aluMod false false x.sg x.sat && regOkW x.w x.d && x.a.okW x.w
  | .fshl _ x => !x.sg && regOkW x.w x.d && x.a.okW x.w && x.b.okW x.w
  | .bfx _ x => regOkW x.w x.d && x.a.okW x.w
  | .bfi _ x => regOkW x.w x.d && x.a.okW x.w && x.e.okW x.w
  | .brev _ x => aluMod false false x.sg x.sat && regOkW x.w x.d && x.a.okW x.w
  | .popc _ x => aluMod false false x.sg x.sat && x.a.okW x.w
  | .clz _ x => aluMod false false x.sg x.sat && x.a.okW x.w
  | .ctz _ x => aluMod false false x.sg x.sat && x.a.okW x.w
  | .icmp _ x => x.a.okW x.w && x.b.okW x.w
  | .isel _ x => regOkW x.w x.d && x.a.okW x.w && x.b.okW x.w
  | .iaddImm _ _ => true
  | .isubImm _ _ => true
  | .imulImm _ _ => true
  | .iminImm _ _ => true
  | .imaxImm _ _ => true
  | .andImm _ _ => true
  | .orImm _ _ => true
  | .xorImm _ _ => true
  | .shlImm _ x => !x.sg
  | .shrImm _ _ => true
  | .rotImm _ x => !x.sg
  | .plog _ _ => true
  | .pmovGet _ _ => true
  | .pmovSet _ _ _ => true
  | .mov _ x => regOkW x.w x.d && x.a.okW x.w
  | .movi _ _ _ => true
  | .movi32 _ _ _ => true
  | .movs _ d r => regOkW r.wide d
  | .movsw _ r b => r.writable && b.okW r.wide
  | .elect _ _ _ => true
  | .movjToJ _ _ a => a.pair
  | .movjToV _ d _ => evenReg d
  | .bra _ _ => true
  | .brx _ r => evenReg r
  | .call _ _ => true
  | .callx _ r => evenReg r
  | .callL _ _ _ => true
  | .callxL _ r _ => evenReg r
  | .ret _ => true
  | .throw _ => true
  | .jarm _ _ => true
  | .waitj _ _ => true
  | .yield _ => true
  | .exit _ => true
  | .nop _ => true
  | .fadd _ x => x.ok
  | .fsub _ x => x.ok
  | .fmul _ x => x.ok
  | .ffma _ x => regOkW x.t.wide x.d && x.a.okW x.t.wide && x.b.okW x.t.wide && x.c.okW x.t.wide
  | .fmin _ x => x.ok
  | .fmax _ x => x.ok
  | .fcmp _ x => x.a.okW x.t.wide && x.b.okW x.t.wide
  | .fclass _ x => x.a.okW x.t.wide
  | .frnd _ x => regOkW x.t.wide x.d && x.a.okW x.t.wide
  | .fscale _ x => regOkW x.t.wide x.d && x.a.okW x.t.wide
  | .frcp _ x => x.ok true
  | .frsq _ x => x.ok false
  | .fsqrt _ x => x.ok true
  | .fexp2 _ x => x.ok false
  | .flog2 _ x => x.ok false
  | .fsin _ x => x.ok false
  | .fcos _ x => x.ok false
  | .ftanh _ x => x.ok false
  | .fcvt _ x => decide (x.src ≠ x.dst) && regOkW x.dst.wide x.d && x.a.okW x.src.wide
  | .icvt _ x => (x.dst.isInt != x.src.isInt) && (!x.exact || x.dst.isInt) && (!x.src.isInt || x.ma.none) &&
      regOkW x.dst.wide x.d && x.a.okW x.src.wide
  | .extp _ x => regOkW x.dst.wide x.d
  | .packp _ x => x.a.okW x.src.wide
  | .shfl _ x => regOkW x.w x.d && x.a.okW x.w && x.fill.okW x.w && x.mask.ok
  | .vote _ x => x.mask.ok && (match x.dst with
      | .ballot d f => evenReg d && f.pair
      | .all _ _ | .any _ _ | .uni _ _ => true)
  | .redx _ x => x.mask.ok && (x.op.rounds || decide (x.rm = .dyn)) && regOkW x.op.wide x.d &&
      x.a.okW x.op.wide && x.fill.okW x.op.wide
  | .scanx _ x => x.mask.ok && (x.op.rounds || decide (x.rm = .dyn)) && regOkW x.op.wide x.d &&
      x.a.okW x.op.wide && x.fill.okW x.op.wide
  | .matchx _ x => x.mask.ok && evenReg x.d && x.fill.pair && x.a.okW x.w && (x.all || decide (x.fill = .zero))
  | .xsnd _ x => x.mask.ok && x.data.okW x.w
  | .xrcv _ x => x.mask.ok && regOkW x.w x.d && x.fill.okW x.w
  | .shapeQ _ _ _ => true
  | .shapeG _ _ => true
  | .aff _ _ _ _ => true
  | .ld _ x => x.ty.okDat x.d && x.ord.okLoad
  | .st _ x => x.ty.okDat x.data && x.ord.okStore
  | .bld _ x => decide (3 ≤ x.bd.val) && x.ord.okLoad
  | .bst _ x => bstOkDat x.data && x.ord.okStore
  | .atom _ x => (!x.w || x.op.has64) && regOkW x.w x.d
  | .atomNr _ x => (!x.w || x.op.has64) && x.data.okW x.w
  | .acas _ x => if x.w then quadReg x.d else evenReg x.d
  | .smap _ x => decide (3 ≤ x.bd.val) && x.va.pair
  | .sunmap _ _ => true
  | .sflush _ _ => true
  | .smode _ _ _ => true
  | .cflush _ _ => true
  | .cinv _ _ => true
  | .icinv _ _ => true
  | .mscfl _ s => match s with
    | .die | .twr | .deck | .pkg => true
    | .core | .clu | .sys => false
  | .fence _ _ k => decide (k ≠ .rlx)
  | .bar _ => true
  | .bara _ x => decide (x.scope ≠ .sys)
  | .barw _ x => decide (x.scope ≠ .sys)
  | .waitc _ _ => true
  | .copy _ x => x.dst.pair && x.src.pair
  | .seal _ _ => true
  | .waitb _ _ => true
  | .htime _ d _ => evenReg d
  | .sleept _ a _ => a.pair
  | .hwait _ _ => true
  | .htest _ _ _ _ => true
  | .hcancel _ _ => true
  | .hmovToH _ _ a => a.pair
  | .hmovToV _ d _ => evenReg d
  | .rbegin _ s _ => decide (s ≠ .sys)
  | .rcommit _ => true
  | .rabort _ => true
  | .tacq _ _ _ => true
  | .trel _ _ _ => true
  | .tld _ x => tileOfsOk x.va && (x.y || decide (x.xf = .none))
  | .tsv _ x => tileOfsOk x.va
  | .tzero _ _ _ => true
  | .tmovGet _ _ => true
  | .tmovPut _ _ => true
  | .mma _ x => tileOfsOk x.va
  | .tsum _ x => tileOfsOk x.va
  | .qcv _ x => tileOfsOk x.va
  | .ptld _ x => tileOfsOk x.va
  | .smset _ x => smShapeOk x.rows.val x.cols.val
  | .smld _ x => x.ord.okLoad
  | .smst _ x => x.ord.okStore
  | .smmov _ _ _ => true
  | .smmovGet _ _ => true
  | .smmovPut _ _ => true
  | .smadd _ _ => true
  | .smscl _ _ => true
  | .smtr _ _ _ => true
  | .smmul _ _ => true
  | .smmad _ _ => true
  | .smchol _ _ => true
  | .smlu _ _ => true
  | .smsolve _ _ => true
  | .trap _ _ => true
  | .brk _ _ => true
  | .errinjZflip _ _ _ _ => true
  | .errinjVflip1 _ _ _ => true
  | .errinjVflip2 _ _ b1 b2 => decide (b1 ≠ b2)
  | .errinjPoison _ va => va.pair
  | .launch _ va _ _ => va.pair
  | .signalSt _ va vb => va.pair && vb.pair
  | .signalAdd _ va vb => va.pair && vb.pair
  | .irq _ _ => true
  | .qld _ _ _ _ _ => true
  | .qloop _ _ _ => true
  | .qend _ => true
  | .gangIssue .. | .clauseFetch .. | .watchdog .. | .pathAged .. => false
  | .loadComplete .. | .storeComplete .. | .requestRepresent .. | .directoryRequest .. | .forwardedRequest .. => false
  | .mscWriteback .. | .hostSnoop .. | .remoteAccess .. | .spanNack .. | .spanRecoveryStart .. => false
  | .spanLinkDrop .. | .spanRecoveryEnd .. | .recoveryBound .. | .hostLinkDrop .. => false
  | .copyStart .. | .copyComplete .. | .copyStop .. | .copyCancelStop .. | .mmaComplete .. => false
  | .tileOpComplete .. | .tileDataFault .. | .qldReturn .. | .commitPerform .. | .sleeptWake .. => false
  | .stagedStart .. | .queueTake .. | .stampTimeout .. | .launchBufferWrite .. | .launchReady .. => false
  | .crewAdmit .. | .launchComplete .. | .replayRestore .. => false
  | .pctlCreate .. | .pctlKill .. | .pctlWake .. | .pctlSwapout .. | .functionLevelReset .. => false
  | .killComplete .. | .tsliceExpiry .. | .latencyIdleExpiry .. | .saveComplete .. | .swapIn .. => false
  | .restoreComplete .. | .tlbinvStart .. | .tlbinvDone .. | .mbxbaseWrite .. | .errrecRead .. | .registerWrite .. => false
  | .dbgStop .. | .dbgResume .. | .dbgStep .. | .dbgCancel .. | .clusterFrozen .. => false
  | .heartbeatTimeout .. | .rebuildComplete | .zoneUpdate .. | .powerMeasure .. | .timeRecalibrate .. => false
  | .powerUp .. | .attestRequest .. | .attestDone | .mmaLastColumn .. | .hostAgentUnanswered .. => false
  | .hostLinkRecoveryEnd .. => false

end Sys2Proof
end

