-- ==== Sys2Proof/Decode.lean ====
section
/-! DEFINITION. From the 64 bits of a word to an instruction and back (R81 to R99).

A word is a number below 2^64. `unpack` splits off the common fields of R81; one parser per family reads the format
fields of R84 to R86; a word that parses is an instruction when `wellFormed` holds of it, and faults otherwise
(R89, R90). `encode` writes the word of an instruction from the same tables. -/

namespace Sys2Proof

/-! ### Fields -/

/-- Bit `k` of a number. -/
def natBit (x k : Nat) : Bool := x / 2 ^ k % 2 == 1

/-- A number below `n`, or nothing. -/
def finOf (n x : Nat) : Option (Fin n) := if h : x < n then some ⟨x, h⟩ else none

/-- A destination code: V0 to V95 (R87). -/
def vDest (x : Nat) : Option (Fin 96) := finOf 96 x

/-- A destination that may be discarded: V0 to V95, or 104 (R87). -/
def vDestZ (x : Nat) : Option (Option (Fin 96)) :=
  if x = 104 then some none else (vDest x).map some

/-- A source operand code (R87). -/
def srcOf (x : Nat) : Option Src :=
  if h : x < 96 then some (.v ⟨x, h⟩)
  else if h : x - 96 < 8 then some (.q ⟨x - 96, h⟩)
  else if x = 104 then some .zero
  else none

/-- The code of a source (R87). -/
def srcCode : Src → Nat
  | .v n => n.val
  | .q n => 96 + n.val
  | .zero => 104

/-- The code of a destination that may be discarded. -/
def vDestZCode : Option (Fin 96) → Nat
  | some n => n.val
  | none => 104

def scopeOf : Nat → Option Scope
  | 0 => some .core
  | 1 => some .clu
  | 2 => some .die
  | 3 => some .twr
  | 4 => some .deck
  | 5 => some .pkg
  | 6 => some .sys
  | _ => none

def scopeCode : Scope → Nat
  | .core => 0
  | .clu => 1
  | .die => 2
  | .twr => 3
  | .deck => 4
  | .pkg => 5
  | .sys => 6

def ordOf : Nat → Option MOrd
  | 0 => some .rlx
  | 1 => some .acq
  | 2 => some .rel
  | 3 => some .ar
  | _ => none

def ordCode : MOrd → Nat
  | .rlx => 0
  | .acq => 1
  | .rel => 2
  | .ar => 3

def fmtOf : Nat → Option FFmt
  | 0 => some .f16
  | 1 => some .bf16
  | 2 => some .f32
  | 3 => some .f64
  | _ => none

def fmtCode : FFmt → Nat
  | .f16 => 0
  | .bf16 => 1
  | .f32 => 2
  | .f64 => 3

/-- The rounding field of R51. -/
def rmOf : Nat → Option RMode
  | 0 => some .rne
  | 1 => some .rtz
  | 2 => some .rup
  | 3 => some .rdn
  | 4 => some .rna
  | 7 => some .dyn
  | _ => none

def rmCode : RMode → Nat
  | .rne => 0
  | .rtz => 1
  | .rup => 2
  | .rdn => 3
  | .rna => 4
  | .dyn => 7

/-- Two bits of E: absolute value above negation (R140). -/
def smodOf (x : Nat) : SrcMod := { abs := natBit x 1, neg := natBit x 0 }
def smodCode (m : SrcMod) : Nat := 2 * b2n m.abs + b2n m.neg

def icondOf : Nat → Option ICond
  | 0 => some .eq
  | 1 => some .ne
  | 2 => some .lts
  | 3 => some .les
  | 4 => some .ltu
  | 5 => some .leu
  | _ => none

def icondCode : ICond → Nat
  | .eq => 0
  | .ne => 1
  | .lts => 2
  | .les => 3
  | .ltu => 4
  | .leu => 5

def fcondOf : Nat → Option FCond
  | 0 => some .eq
  | 1 => some .ne
  | 2 => some .lt
  | 3 => some .le
  | 4 => some .gt
  | 5 => some .ge
  | 6 => some .ord
  | 7 => some .uno
  | _ => none

def fcondCode : FCond → Nat
  | .eq => 0
  | .ne => 1
  | .lt => 2
  | .le => 3
  | .gt => 4
  | .ge => 5
  | .ord => 6
  | .uno => 7

def kindOf : Nat → Option NumKind
  | 0 => some (.flt .f16)
  | 1 => some (.flt .bf16)
  | 2 => some (.flt .f32)
  | 3 => some (.flt .f64)
  | 4 => some .s32
  | 5 => some .n32
  | 6 => some .s64
  | 7 => some .n64
  | _ => none

def kindCode : NumKind → Nat
  | .flt f => fmtCode f
  | .s32 => 4
  | .n32 => 5
  | .s64 => 6
  | .n64 => 7

/-- The operation codes of R159. -/
def redOf : Nat → Option RedOp
  | 0x00 => some .add32
  | 0x01 => some .add64
  | 0x02 => some .mins
  | 0x03 => some .maxs
  | 0x04 => some .minn
  | 0x05 => some .maxn
  | 0x06 => some .and
  | 0x07 => some .or
  | 0x08 => some .xor
  | 0x10 => some .fadd32
  | 0x11 => some .fadd64
  | 0x12 => some .fmin
  | 0x13 => some .fmax
  | _ => none

def redCode : RedOp → Nat
  | .add32 => 0x00
  | .add64 => 0x01
  | .mins => 0x02
  | .maxs => 0x03
  | .minn => 0x04
  | .maxn => 0x05
  | .and => 0x06
  | .or => 0x07
  | .xor => 0x08
  | .fadd32 => 0x10
  | .fadd64 => 0x11
  | .fmin => 0x12
  | .fmax => 0x13

def shflOf : Nat → ShflMode
  | 0 => .idx
  | 1 => .up
  | 2 => .down
  | _ => .xor

def shflCode : ShflMode → Nat
  | .idx => 0
  | .up => 1
  | .down => 2
  | .xor => 3

/-- The atomic operations of R96. -/
def atomOf : Nat → Option AtomOp
  | 0 => some .add
  | 1 => some .sub
  | 2 => some .mins
  | 3 => some .maxs
  | 4 => some .minn
  | 5 => some .maxn
  | 6 => some .and
  | 7 => some .or
  | 8 => some .xor
  | 9 => some .exch
  | 10 => some .inc
  | 11 => some .fmin
  | 12 => some .fmax
  | 13 => some .fadd
  | 14 => some .faddBf16x2
  | _ => none

def atomCode : AtomOp → Nat
  | .add => 0
  | .sub => 1
  | .mins => 2
  | .maxs => 3
  | .minn => 4
  | .maxn => 5
  | .and => 6
  | .or => 7
  | .xor => 8
  | .exch => 9
  | .inc => 10
  | .fmin => 11
  | .fmax => 12
  | .fadd => 13
  | .faddBf16x2 => 14

def ldTyOf : Nat → Option LdTy
  | 0 => some .b8
  | 1 => some .b16
  | 2 => some .b32
  | 3 => some .b64
  | 4 => some .b128
  | 5 => some .s8
  | 6 => some .s16
  | _ => none

def ldTyCode : LdTy → Nat
  | .b8 => 0
  | .b16 => 1
  | .b32 => 2
  | .b64 => 3
  | .b128 => 4
  | .s8 => 5
  | .s16 => 6

def stTyOf : Nat → Option StTy
  | 0 => some .b8
  | 1 => some .b16
  | 2 => some .b32
  | 3 => some .b64
  | 4 => some .b128
  | _ => none

def stTyCode : StTy → Nat
  | .b8 => 0
  | .b16 => 1
  | .b32 => 2
  | .b64 => 3
  | .b128 => 4

/-- The special register numbers of R43. -/
def sregOf : Nat → Option SReg
  | 0x00 => some .tid
  | 0x01 => some .gid
  | 0x02 => some .cid
  | 0x03 => some .width
  | 0x04 => some .col
  | 0x05 => some .core
  | 0x06 => some .clu
  | 0x07 => some .die
  | 0x08 => some .clk
  | 0x09 => some .dclk
  | 0x0A => some .gstat
  | 0x0B => some .fst
  | 0x0C => some .fmode
  | 0x0D => some .smf
  | 0x0E => some .rstat
  | 0x0F => some .exc
  | 0x10 => some .trap
  | 0x11 => some .faddr
  | 0x12 => some .itb
  | 0x13 => some .ite
  | 0x14 => some .fix
  | _ => none

def sregCode : SReg → Nat
  | .tid => 0x00
  | .gid => 0x01
  | .cid => 0x02
  | .width => 0x03
  | .col => 0x04
  | .core => 0x05
  | .clu => 0x06
  | .die => 0x07
  | .clk => 0x08
  | .dclk => 0x09
  | .gstat => 0x0A
  | .fst => 0x0B
  | .fmode => 0x0C
  | .smf => 0x0D
  | .rstat => 0x0E
  | .exc => 0x0F
  | .trap => 0x10
  | .faddr => 0x11
  | .itb => 0x12
  | .ite => 0x13
  | .fix => 0x14

/-- TOP of TLD and QCV: the transform (R199). -/
def xfOf (top : Nat) : Option XfSel :=
  if top % 4 = 2 then (finOf 8 (top / 4)).map .perm
  else if top / 4 ≠ 0 then none
  else if top = 0 then some .none
  else if top = 1 then some .h16
  else some .record

def xfCode : XfSel → Nat
  | .none => 0
  | .h16 => 1
  | .perm t => 2 + 4 * t.val
  | .record => 3

/-- The mask operand of a round: C and MOD[3] (R154). -/
def maskOf (c : Nat) (kind : Bool) : Option MaskOp :=
  if kind then (srcOf c).map .pair else (finOf 8 c).map .j

def maskCode : MaskOp → Nat
  | .j n => n.val
  | .pair s => srcCode s

def maskKind : MaskOp → Bool
  | .j _ => false
  | .pair _ => true

/-! ### The common fields (R81 to R83) -/

/-- The fields of a word, split but not read. -/
structure RawWord where
  opc : Nat
  gan : Bool
  gap : Nat
  gbn : Bool
  gbp : Nat
  gj : Bool
  sc : Nat
  body : Nat
  deriving DecidableEq, Repr

/-- Splits a word (R81). -/
def unpack (w : Nat) : RawWord :=
  { opc := natField w 54 10, gan := natBit w 53, gap := natField w 48 5, gbn := natBit w 47,
    gbp := natField w 42 5, gj := natBit w 41, sc := natField w 39 2, body := natField w 0 39 }

def schedOf : Nat → Option Sched
  | 0 => some .none
  | 1 => some .yld
  | 2 => some .keep
  | _ => none

def schedCode : Sched → Nat
  | .none => 0
  | .yld => 1
  | .keep => 2

/-- The guard and scheduling fields; SC = 11 is refused (R83). -/
def headOf (r : RawWord) : Option Head := do
  let a ← finOf 32 r.gap
  let b ← finOf 32 r.gbp
  let s ← schedOf r.sc
  some { guard := { negA := r.gan, pA := a, negB := r.gbn, pB := b, joinOr := r.gj }, sched := s }

/-- The bits of the guard and scheduling fields. -/
def headCode (h : Head) : Nat :=
  b2n h.guard.negA * 2 ^ 53 + h.guard.pA.val * 2 ^ 48 + b2n h.guard.negB * 2 ^ 47 + h.guard.pB.val * 2 ^ 42 +
    b2n h.guard.joinOr * 2 ^ 41 + schedCode h.sched * 2 ^ 39

/-- The unguarded head of R82. -/
def Head.plain : Head :=
  { guard := { negA := false, pA := 31, negB := false, pB := 31, joinOr := false }, sched := .none }

/-! ### The formats (R84 to R86) -/

/-- Format K. -/
structure FmtK where
  d : Nat
  a : Nat
  b : Nat
  c : Nat
  e : Nat
  m : Nat
  deriving DecidableEq, Repr

def fmtK (x : Nat) : FmtK :=
  { d := natField x 32 7, a := natField x 25 7, b := natField x 18 7, c := natField x 11 7, e := natField x 4 7,
    m := natField x 0 4 }
def bodyK (d a b c e m : Nat) : Nat :=
  d * 2 ^ 32 + a * 2 ^ 25 + b * 2 ^ 18 + c * 2 ^ 11 + e * 2 ^ 4 + m

/-- E and MOD read together (R84). -/
def FmtK.x11 (k : FmtK) : Nat := k.e * 16 + k.m

/-- Format M. -/
structure FmtM where
  br : Nat
  dat : Nat
  ofs : Nat
  imm : Nat
  scope : Nat
  ord : Nat
  hint : Nat
  deriving DecidableEq, Repr

def fmtM (x : Nat) : FmtM :=
  { br := natField x 34 5, dat := natField x 27 7, ofs := natField x 20 7, imm := natField x 8 12,
    scope := natField x 5 3, ord := natField x 3 2, hint := natField x 0 3 }
def bodyM (br dat ofs imm scope ord hint : Nat) : Nat :=
  br * 2 ^ 34 + dat * 2 ^ 27 + ofs * 2 ^ 20 + imm * 2 ^ 8 + scope * 2 ^ 5 + ord * 2 ^ 3 + hint

/-- Format T. -/
structure FmtT where
  br : Nat
  va : Nat
  vb : Nat
  hd : Nat
  hw : Bool
  tk : Bool
  tn : Nat
  tn2 : Nat
  scope : Nat
  top : Nat
  deriving DecidableEq, Repr

def fmtT (x : Nat) : FmtT :=
  { br := natField x 34 5, va := natField x 27 7, vb := natField x 20 7, hd := natField x 16 4, hw := natBit x 15,
    tk := natBit x 14, tn := natField x 11 3, tn2 := natField x 8 3, scope := natField x 5 3, top := natField x 0 5 }
def bodyT (br va vb hd : Nat) (hw tk : Bool) (tn tn2 scope top : Nat) : Nat :=
  br * 2 ^ 34 + va * 2 ^ 27 + vb * 2 ^ 20 + hd * 2 ^ 16 + b2n hw * 2 ^ 15 + b2n tk * 2 ^ 14 + tn * 2 ^ 11 +
    tn2 * 2 ^ 8 + scope * 2 ^ 5 + top

/-- Format Y. -/
structure FmtY where
  va : Nat
  vb : Nat
  hd : Nat
  hw : Bool
  sub : Nat
  code : Nat
  deriving DecidableEq, Repr

def fmtY (x : Nat) : FmtY :=
  { va := natField x 32 7, vb := natField x 25 7, hd := natField x 21 4, hw := natBit x 20, sub := natField x 16 4,
    code := natField x 0 16 }
def bodyY (va vb hd : Nat) (hw : Bool) (sub code : Nat) : Nat :=
  va * 2 ^ 32 + vb * 2 ^ 25 + hd * 2 ^ 21 + b2n hw * 2 ^ 20 + sub * 2 ^ 16 + code

/-- Format J: OFF32 and JR. -/
def jOff (x : Nat) : Word := BitVec.ofNat 32 (natField x 7 32)
def jReg (x : Nat) : Nat := natField x 0 7
def bodyJ (off : Word) (jr : Nat) : Nat := off.toNat * 2 ^ 7 + jr

/-- `v` where `p` holds. -/
def when' {α : Type} (p : Bool) (v : Option α) : Option α := if p then v else none

/-! ### Family 000 (R92, R109 to R122) -/

def alu1Of (con : Head → Alu1 → Instr) (h : Head) (k : FmtK) : Option Instr := do
  let d ← vDest k.d
  let a ← srcOf k.a
  when' (k.b == 0 && k.c == 0 && k.e == 0 && !natBit k.m 0)
    (some (con h { d, a, w := natBit k.m 3, sg := natBit k.m 2, sat := natBit k.m 1 }))

def alu2Of (con : Head → Alu2 → Instr) (h : Head) (k : FmtK) : Option Instr := do
  let d ← vDest k.d
  let a ← srcOf k.a
  let b ← srcOf k.b
  when' (k.c == 0 && k.e == 0 && !natBit k.m 0)
    (some (con h { d, a, b, w := natBit k.m 3, sg := natBit k.m 2, sat := natBit k.m 1 }))

def alu3Of (con : Head → Alu3 → Instr) (h : Head) (k : FmtK) : Option Instr := do
  let d ← vDest k.d
  let a ← srcOf k.a
  let b ← srcOf k.b
  let c ← srcOf k.c
  when' (k.e == 0 && !natBit k.m 1 && !natBit k.m 0)
    (some (con h { d, a, b, c, w := natBit k.m 3, sg := natBit k.m 2 }))

def immOf (con : Head → AluImm → Instr) (h : Head) (x : Nat) : Option Instr := do
  let d ← vDest (natField x 32 7)
  let a ← srcOf (natField x 25 7)
  some (con h { d, a, imm := BitVec.ofNat 25 (natField x 0 25) })

/-- Immediate shifts: IMM25[4:0] the amount, [5] SG, the rest zero (R114). -/
def shiftImmOf (con : Head → ShiftImm → Instr) (h : Head) (x : Nat) : Option Instr := do
  let d ← vDest (natField x 32 7)
  let a ← srcOf (natField x 25 7)
  let n ← finOf 32 (natField x 0 5)
  when' (natField x 6 19 == 0) (some (con h { d, a, amt := n, sg := natBit x 5 }))

def parse000 (opc : Nat) (h : Head) (x : Nat) : Option Instr :=
  let k := fmtK x
  match opc with
  | 0x000 => alu2Of .iadd h k
  | 0x001 => alu2Of .isub h k
  | 0x002 => alu2Of .imul h k
  | 0x003 => alu2Of .imulh h k
  | 0x004 => alu3Of .imad h k
  | 0x005 => alu3Of .imadw h k
  | 0x006 => alu1Of .ineg h k
  | 0x007 => alu1Of .iabs h k
  | 0x008 => alu2Of .imin h k
  | 0x009 => alu2Of .imax h k
  | 0x00A => do
    let d ← vDest k.d
    let a ← srcOf k.a
    let b ← srcOf k.b
    let sh ← finOf 8 k.e
    when' (k.c == 0 && !natBit k.m 1 && !natBit k.m 0)
      (some (.lea h { d, a, b, sh, w := natBit k.m 3, sg := natBit k.m 2 }))
  | 0x00B => alu2Of .and h k
  | 0x00C => alu2Of .or h k
  | 0x00D => alu2Of .xor h k
  | 0x00E => alu2Of .andn h k
  | 0x00F => do
    let d ← vDest k.d
    let a ← srcOf k.a
    let b ← srcOf k.b
    let c ← srcOf k.c
    when' (natField k.x11 8 2 == 0)
      (some (.bool3 h { d, a, b, c, w := natBit k.x11 10, tt := BitVec.ofNat 8 (natField k.x11 0 8) }))
  | 0x010 => alu2Of .shl h k
  | 0x011 => alu2Of .shr h k
  | 0x012 => alu2Of .rot h k
  | 0x013 => alu3Of .fshl h k
  | 0x014 => alu3Of .bfx h k
  | 0x015 => do
    let d ← vDest k.d
    let a ← srcOf k.a
    let b ← srcOf k.b
    let c ← srcOf k.c
    let e ← srcOf k.e
    when' (natField k.m 0 3 == 0) (some (.bfi h { d, a, b, c, e, w := natBit k.m 3 }))
  | 0x016 => alu1Of .brev h k
  | 0x017 => alu1Of .popc h k
  | 0x018 => alu1Of .clz h k
  | 0x019 => alu1Of .ctz h k
  | 0x01A => do
    let pa ← finOf 32 k.d
    let a ← srcOf k.a
    let b ← srcOf k.b
    let pb ← finOf 32 k.c
    let pc ← finOf 32 k.e
    let cond ← icondOf (natField k.m 0 3)
    some (.icmp h { pa, pb, pc, a, b, w := natBit k.m 3, cond })
  | 0x01B => do
    let d ← vDest k.d
    let a ← srcOf k.a
    let b ← srcOf k.b
    let pc ← finOf 32 k.c
    when' (k.e == 0 && natField k.m 0 3 == 0) (some (.isel h { d, a, b, pc, w := natBit k.m 3 }))
  | 0x020 => immOf .iaddImm h x
  | 0x021 => immOf .isubImm h x
  | 0x022 => immOf .imulImm h x
  | 0x028 => immOf .iminImm h x
  | 0x029 => immOf .imaxImm h x
  | 0x02B => immOf .andImm h x
  | 0x02C => immOf .orImm h x
  | 0x02D => immOf .xorImm h x
  | 0x030 => shiftImmOf .shlImm h x
  | 0x031 => shiftImmOf .shrImm h x
  | 0x032 => shiftImmOf .rotImm h x
  | 0x040 => do
    let pd ← finOf 32 k.d
    let pa ← finOf 32 k.a
    let pb ← finOf 32 k.b
    let pc ← finOf 32 k.c
    when' (natField k.x11 8 3 == 0)
      (some (.plog h { pd, pa, pb, pc, tt := BitVec.ofNat 8 (natField k.x11 0 8) }))
  | 0x041 =>
    if natBit k.m 0 then do
      let a ← srcOf k.a
      let b ← srcOf k.b
      when' (k.d == 0 && k.c == 0 && k.e == 0 && natField k.m 1 3 == 0) (some (.pmovSet h a b))
    else do
      let d ← vDest k.d
      when' (k.a == 0 && k.b == 0 && k.c == 0 && k.e == 0 && natField k.m 1 3 == 0) (some (.pmovGet h d))
  | 0x042 => do
    let d ← vDest k.d
    let a ← srcOf k.a
    when' (k.b == 0 && k.c == 0 && k.e == 0 && natField k.m 0 3 == 0) (some (.mov h { d, a, w := natBit k.m 3 }))
  | 0x043 => do
    let d ← vDest (natField x 32 7)
    when' (natField x 25 7 == 0) (some (.movi h d (BitVec.ofNat 25 (natField x 0 25))))
  | 0x044 => do
    let d ← vDest (natField x 32 7)
    some (.movi32 h d (BitVec.ofNat 32 (natField x 0 32)))
  | 0x045 => do
    let d ← vDest k.d
    let r ← sregOf k.a
    when' (k.b == 0 && k.c == 0 && k.e == 0 && k.m == 0) (some (.movs h d r))
  | 0x046 => do
    let r ← sregOf k.a
    let b ← srcOf k.b
    when' (k.d == 0 && k.c == 0 && k.e == 0 && k.m == 0) (some (.movsw h r b))
  | 0x047 => do
    let pd ← finOf 32 k.c
    let d ← vDestZ k.d
    when' (k.a == 0 && k.b == 0 && k.e == 0 && k.m == 0) (some (.elect h pd d))
  | 0x048 =>
    if natBit k.m 0 then do
      let d ← vDest k.d
      let j ← finOf 8 k.a
      when' (k.b == 0 && k.c == 0 && k.e == 0 && natField k.m 1 3 == 0) (some (.movjToV h d j))
    else do
      let j ← finOf 8 k.d
      let a ← srcOf k.a
      when' (k.b == 0 && k.c == 0 && k.e == 0 && natField k.m 1 3 == 0) (some (.movjToJ h j a))
  | _ => none

/-! ### Family 001 (R93, R126 to R137) -/

/-- A K word all of whose fields are zero. -/
def bareOf (i : Instr) (x : Nat) : Option Instr := when' (x == 0) (some i)

def jMaskOf (con : Fin 8 → Instr) (k : FmtK) : Option Instr := do
  let j ← finOf 8 k.d
  when' (k.a == 0 && k.b == 0 && k.c == 0 && k.e == 0 && k.m == 0) (some (con j))

def parse001 (opc : Nat) (h : Head) (x : Nat) : Option Instr :=
  match opc with
  | 0x080 => when' (jReg x == 0) (some (.bra h (jOff x)))
  | 0x081 => do
    let r ← vDest (jReg x)
    when' (natField x 7 32 == 0) (some (.brx h r))
  | 0x082 => when' (jReg x == 0) (some (.call h (jOff x)))
  | 0x083 => do
    let r ← vDest (jReg x)
    when' (natField x 7 32 == 0) (some (.callx h r))
  | 0x084 => some (.callL h (jOff x) (BitVec.ofNat 7 (jReg x)))
  | 0x085 => do
    let r ← vDest (jReg x)
    some (.callxL h r (jOff x))
  | 0x086 => bareOf (.ret h) x
  | 0x087 => bareOf (.throw h) x
  | 0x088 => jMaskOf (.jarm h) (fmtK x)
  | 0x089 => jMaskOf (.waitj h) (fmtK x)
  | 0x08A => bareOf (.yield h) x
  | 0x08B => bareOf (.exit h) x
  | 0x08C => bareOf (.nop h) x
  | _ => none

/-! ### Family 010 (R94, R139 to R152) -/

def fp2Of (con : Head → Fp2 → Instr) (t : FFmt) (h : Head) (k : FmtK) : Option Instr := do
  let d ← vDest k.d
  let a ← srcOf k.a
  let b ← srcOf k.b
  let rm ← rmOf (natField k.m 0 3)
  when' (k.c == 0 && natField k.e 4 3 == 0 && !natBit k.m 3)
    (some (con h { t, d, a, b, ma := smodOf (natField k.e 0 2), mb := smodOf (natField k.e 2 2), rm }))

def fpMinOf (con : Head → FpMin → Instr) (t : FFmt) (h : Head) (k : FmtK) : Option Instr := do
  let d ← vDest k.d
  let a ← srcOf k.a
  let b ← srcOf k.b
  when' (k.c == 0 && natField k.e 4 3 == 0 && natField k.m 1 3 == 0)
    (some (con h { t, d, a, b, ma := smodOf (natField k.e 0 2), mb := smodOf (natField k.e 2 2), num := natBit k.m 0 }))

def fspecOf (con : Head → FspecF → Instr) (t : FFmt) (h : Head) (k : FmtK) : Option Instr := do
  let d ← vDest k.d
  let a ← srcOf k.a
  let rm ← rmOf (natField k.m 0 3)
  when' (k.b == 0 && k.c == 0 && natField k.e 2 5 == 0 && !natBit k.m 3)
    (some (con h { t, d, a, ma := smodOf (natField k.e 0 2), rm }))

/-- The basic arithmetic words 0x100 + 0x10 t + op. -/
def parseArith (t : FFmt) (op : Nat) (h : Head) (k : FmtK) : Option Instr :=
  match op with
  | 0 => fp2Of .fadd t h k
  | 1 => fp2Of .fsub t h k
  | 2 => fp2Of .fmul t h k
  | 3 => do
    let d ← vDest k.d
    let a ← srcOf k.a
    let b ← srcOf k.b
    let c ← srcOf k.c
    let rm ← rmOf (natField k.m 0 3)
    when' (!natBit k.e 6 && !natBit k.m 3)
      (some (.ffma h { t, d, a, b, c, ma := smodOf (natField k.e 0 2), mb := smodOf (natField k.e 2 2),
                       mc := smodOf (natField k.e 4 2), rm }))
  | 4 => fpMinOf .fmin t h k
  | 5 => fpMinOf .fmax t h k
  | 6 => do
    let pa ← finOf 32 k.d
    let a ← srcOf k.a
    let b ← srcOf k.b
    let pb ← finOf 32 k.c
    let pc ← finOf 32 (natField k.e 0 5)
    let cond ← fcondOf (natField k.m 0 3)
    some (.fcmp h { t, pa, pb, pc, a, b, absA := natBit k.e 5, absB := natBit k.e 6, cond, sig := natBit k.m 3 })
  | 7 => do
    let d ← vDest k.d
    let a ← srcOf k.a
    when' (k.b == 0 && k.c == 0 && k.e == 0 && k.m == 0) (some (.fclass h { t, d, a }))
  | 8 => do
    let d ← vDest k.d
    let a ← srcOf k.a
    let rm ← rmOf (natField k.m 0 3)
    when' (k.b == 0 && k.c == 0 && natField k.e 2 5 == 0)
      (some (.frnd h { t, d, a, ma := smodOf (natField k.e 0 2), exact := natBit k.m 3, rm }))
  | 9 => do
    let d ← vDest k.d
    let a ← srcOf k.a
    let b ← srcOf k.b
    let rm ← rmOf (natField k.m 0 3)
    when' (k.c == 0 && natField k.e 2 5 == 0 && !natBit k.m 3)
      (some (.fscale h { t, d, a, b, ma := smodOf (natField k.e 0 2), rm }))
  | _ => none

/-- The special functions 0x140 + 8 u + fn. -/
def parseSpecial (t : FFmt) (fn : Nat) (h : Head) (k : FmtK) : Option Instr :=
  match fn with
  | 0 => fspecOf .frcp t h k
  | 1 => fspecOf .frsq t h k
  | 2 => fspecOf .fsqrt t h k
  | 3 => fspecOf .fexp2 t h k
  | 4 => fspecOf .flog2 t h k
  | 5 => fspecOf .fsin t h k
  | 6 => fspecOf .fcos t h k
  | 7 => fspecOf .ftanh t h k
  | _ => none

/-- The type of special functions: u is 0 f32, 1 f64, 2 f16 (R94). -/
def specFmtOf : Nat → Option FFmt
  | 0 => some .f32
  | 1 => some .f64
  | 2 => some .f16
  | _ => none

def specFmtCode : FFmt → Nat
  | .f32 => 0
  | .f64 => 1
  | .f16 => 2
  | .bf16 => 3

def parseConvert (opc : Nat) (h : Head) (k : FmtK) : Option Instr :=
  match opc with
  | 0x160 => do
    let d ← vDest k.d
    let a ← srcOf k.a
    let src ← fmtOf k.b
    let dst ← fmtOf k.c
    let rm ← rmOf (natField k.m 0 3)
    when' (natField k.e 2 5 == 0 && !natBit k.m 3)
      (some (.fcvt h { dst, src, d, a, ma := smodOf (natField k.e 0 2), rm }))
  | 0x161 => do
    let d ← vDest k.d
    let a ← srcOf k.a
    let src ← kindOf k.b
    let dst ← kindOf k.c
    let rm ← rmOf (natField k.m 0 3)
    when' (natField k.e 2 5 == 0)
      (some (.icvt h { dst, src, d, a, ma := smodOf (natField k.e 0 2), exact := natBit k.m 3, rm }))
  | 0x162 => do
    let d ← vDest k.d
    let a ← srcOf k.a
    let b ← srcOf k.b
    let c ← srcOf k.c
    let dst ← fmtOf k.e
    let rm ← rmOf (natField k.m 0 3)
    some (.extp h { t6 := natBit k.m 3, dst, d, a, b, c, rm })
  | 0x163 => do
    let d ← vDest k.d
    let a ← srcOf k.a
    let b ← srcOf k.b
    let c ← srcOf k.c
    let src ← fmtOf k.e
    when' (natField k.m 0 3 == 7) (some (.packp h { t6 := natBit k.m 3, src, d, a, b, c }))
  | _ => none

def parse010 (opc : Nat) (h : Head) (x : Nat) : Option Instr :=
  if opc < 0x140 then (fmtOf (natField opc 4 2)).bind fun t => parseArith t (natField opc 0 4) h (fmtK x)
  else if opc < 0x158 then (specFmtOf (natField opc 3 2)).bind fun t => parseSpecial t (natField opc 0 3) h (fmtK x)
  else parseConvert opc h (fmtK x)

/-! ### Family 011 (R95, R123 to R125, R154 to R162) -/

def voteDstOf (op d e : Nat) : Option VoteDst :=
  match op with
  | 0 => do
    let p ← finOf 32 d
    let q ← finOf 32 e
    some (.all p q)
  | 1 => do
    let p ← finOf 32 d
    let q ← finOf 32 e
    some (.any p q)
  | 2 => do
    let p ← finOf 32 d
    let q ← finOf 32 e
    some (.uni p q)
  | 3 => do
    let v ← vDest d
    let f ← srcOf e
    some (.ballot v f)
  | _ => none

def parse011 (opc : Nat) (h : Head) (x : Nat) : Option Instr :=
  let k := fmtK x
  match opc with
  | 0x180 => do
    let d ← vDest k.d
    let a ← srcOf k.a
    let b ← srcOf k.b
    let mask ← maskOf k.c (natBit k.m 3)
    let fill ← srcOf k.e
    some (.shfl h { mode := shflOf (natField k.m 0 2), w := natBit k.m 2, d, a, b, mask, fill })
  | 0x181 => do
    let pa ← finOf 32 k.a
    let mask ← maskOf k.c (natBit k.m 3)
    let dst ← voteDstOf (natField k.m 0 3) k.d k.e
    when' (k.b == 0) (some (.vote h { pa, mask, dst }))
  | 0x182 => do
    let op ← redOf k.b
    let d ← vDest k.d
    let a ← srcOf k.a
    let mask ← maskOf k.c (natBit k.m 3)
    let fill ← srcOf k.e
    let rm ← rmOf (natField k.m 0 3)
    some (.redx h { op, d, a, mask, fill, rm })
  | 0x183 => do
    let op ← redOf (natField k.b 0 6)
    let d ← vDest k.d
    let a ← srcOf k.a
    let mask ← maskOf k.c (natBit k.m 3)
    let fill ← srcOf k.e
    let rm ← rmOf (natField k.m 0 3)
    some (.scanx h { op, excl := natBit k.b 6, d, a, mask, fill, rm })
  | 0x184 => do
    let d ← vDest k.d
    let a ← srcOf k.a
    let mask ← maskOf k.c (natBit k.m 3)
    let fill ← srcOf k.e
    when' (k.b == 0 && !natBit k.m 1) (some (.matchx h { all := natBit k.m 0, w := natBit k.m 2, d, a, mask, fill }))
  | 0x185 => do
    let slot ← srcOf k.a
    let data ← srcOf k.b
    let mask ← maskOf k.c (natBit k.m 3)
    when' (k.d == 104 && k.e == 104 && natField k.m 0 2 == 0) (some (.xsnd h { w := natBit k.m 2, slot, data, mask }))
  | 0x186 => do
    let d ← vDest k.d
    let slot ← srcOf k.a
    let mask ← maskOf k.c (natBit k.m 3)
    let fill ← srcOf k.e
    when' (k.b == 104 && natField k.m 0 2 == 0) (some (.xrcv h { w := natBit k.m 2, d, slot, mask, fill }))
  | 0x188 => do
    let d ← vDest k.d
    let a ← srcOf k.a
    when' (k.b == 0 && k.c == 0 && k.e == 0 && k.m == 0) (some (.shapeQ h d a))
  | 0x189 => do
    let d ← vDest k.d
    when' (k.a == 0 && k.b == 0 && k.c == 0 && k.e == 0 && k.m == 0) (some (.shapeG h d))
  | 0x18A => do
    let d ← vDest k.d
    let a ← srcOf k.a
    let b ← srcOf k.b
    when' (k.c == 0 && k.e == 0 && k.m == 0) (some (.aff h d a b))
  | _ => none

/-! ### Family 100 (R96, R165 to R196) -/

/-- The address fields; an offset code is V0 to V95 or ZERO, never a queue (R33, R40). -/
def maddrOf (f : FmtM) : Option MAddr := do
  let br ← finOf 32 f.br
  let ofs ← vDestZ f.ofs
  some { br, ofs, imm := BitVec.ofNat 12 f.imm }

def ldOf (ty : LdTy) (h : Head) (f : FmtM) : Option Instr := do
  let d ← vDest f.dat
  let m ← maddrOf f
  let scope ← scopeOf f.scope
  let ord ← ordOf f.ord
  let hint ← finOf 7 f.hint
  some (.ld h { ty, d, m, scope, ord, hint })

def stOf (ty : StTy) (h : Head) (f : FmtM) : Option Instr := do
  let data ← srcOf f.dat
  let m ← maddrOf f
  let scope ← scopeOf f.scope
  let ord ← ordOf f.ord
  let hint ← finOf 7 f.hint
  some (.st h { ty, data, m, scope, ord, hint })

def atomRetOf (op : AtomOp) (w : Bool) (h : Head) (f : FmtM) : Option Instr := do
  let d ← vDest f.dat
  let m ← maddrOf f
  let scope ← scopeOf f.scope
  let ord ← ordOf f.ord
  let hint ← finOf 7 f.hint
  some (.atom h { op, w, d, m, scope, ord, hint })

def atomNrOf (op : AtomOp) (w : Bool) (h : Head) (f : FmtM) : Option Instr := do
  let data ← srcOf f.dat
  let m ← maddrOf f
  let scope ← scopeOf f.scope
  let ord ← ordOf f.ord
  let hint ← finOf 7 f.hint
  some (.atomNr h { op, w, data, m, scope, ord, hint })

def acasOf (w : Bool) (h : Head) (f : FmtM) : Option Instr := do
  let d ← vDest f.dat
  let m ← maddrOf f
  let scope ← scopeOf f.scope
  let ord ← ordOf f.ord
  let hint ← finOf 7 f.hint
  some (.acas h { w, d, m, scope, ord, hint })

/-- CFLUSH, CINV, ICINV: ORD and HINT are zero (R194). -/
def rangeOf (con : Head → RangeF → Instr) (h : Head) (f : FmtM) : Option Instr := do
  let len ← srcOf f.dat
  let m ← maddrOf f
  let scope ← scopeOf f.scope
  when' (f.ord == 0 && f.hint == 0) (some (con h { m, len, scope }))

/-- SUNMAP and SFLUSH: D[4:0] the record, every other field zero (R192). -/
def stashOf (con : Head → Fin 32 → Instr) (h : Head) (k : FmtK) : Option Instr := do
  let bd ← finOf 32 k.d
  when' (k.a == 0 && k.b == 0 && k.c == 0 && k.e == 0 && k.m == 0) (some (con h bd))

def parse100 (opc : Nat) (h : Head) (x : Nat) : Option Instr :=
  let f := fmtM x
  let k := fmtK x
  if opc < 0x207 then (ldTyOf (opc - 0x200)).bind fun t => ldOf t h f
  else if 0x220 ≤ opc ∧ opc < 0x230 then (atomOf (opc - 0x220)).bind fun o => atomRetOf o false h f
  else if 0x230 ≤ opc ∧ opc < 0x240 then (atomOf (opc - 0x230)).bind fun o => atomNrOf o false h f
  else if 0x240 ≤ opc ∧ opc < 0x250 then (atomOf (opc - 0x240)).bind fun o => atomRetOf o true h f
  else if 0x250 ≤ opc ∧ opc < 0x260 then (atomOf (opc - 0x250)).bind fun o => atomNrOf o true h f
  else if 0x208 ≤ opc ∧ opc < 0x20D then (stTyOf (opc - 0x208)).bind fun t => stOf t h f
  else match opc with
  | 0x20D => do
    let bd ← finOf 32 f.dat
    let m ← maddrOf f
    let scope ← scopeOf f.scope
    let ord ← ordOf f.ord
    when' (f.hint == 0) (some (.bld h { bd, m, scope, ord }))
  | 0x20E => do
    let data ← srcOf f.dat
    let m ← maddrOf f
    let scope ← scopeOf f.scope
    let ord ← ordOf f.ord
    let hint ← finOf 7 f.hint
    some (.bst h { data, m, scope, ord, hint })
  | 0x260 => acasOf false h f
  | 0x261 => acasOf true h f
  | 0x262 => do
    let bd ← finOf 32 k.d
    let va ← srcOf k.a
    let off ← srcOf k.b
    let len ← srcOf k.c
    when' (k.e == 0 && natField k.m 1 3 == 0) (some (.smap h { coh := natBit k.m 0, bd, va, off, len }))
  | 0x263 => stashOf .sunmap h k
  | 0x264 => stashOf .sflush h k
  | 0x265 => do
    let bd ← finOf 32 k.d
    when' (k.a == 0 && k.b == 0 && k.c == 0 && k.e == 0 && natField k.m 1 3 == 0) (some (.smode h bd (natBit k.m 0)))
  | 0x266 => rangeOf .cflush h f
  | 0x267 => rangeOf .cinv h f
  | 0x268 => rangeOf .icinv h f
  | 0x269 => do
    let s ← scopeOf k.b
    when' (k.d == 0 && k.a == 0 && k.c == 0 && k.e == 0 && k.m == 0) (some (.mscfl h s))
  | _ => none

/-! ### Family 101 (R97, R175 to R186, R219) -/

def parse101 (opc : Nat) (h : Head) (x : Nat) : Option Instr :=
  let k := fmtK x
  match opc with
  | 0x280 => do
    let f := fmtM x
    let scope ← scopeOf f.scope
    let kind ← ordOf f.ord
    when' (f.br == 0 && f.dat == 0 && f.ofs == 0 && f.imm == 0 && f.hint == 0) (some (.fence h scope kind))
  | 0x281 => bareOf (.bar h) x
  | 0x282 => do
    let d ← vDestZ k.d
    let scope ← scopeOf k.b
    let n ← finOf 16 k.c
    when' (k.a == 0 && k.e == 0 && k.m == 0) (some (.bara h { d, scope, n }))
  | 0x283 => do
    let a ← srcOf k.a
    let scope ← scopeOf k.b
    let n ← finOf 16 k.c
    when' (k.d == 0 && k.e == 0 && k.m == 0) (some (.barw h { a, scope, n }))
  | 0x284 => do
    let ld ← finOf 64 k.d
    let st ← finOf 64 k.a
    let cp ← finOf 64 k.b
    let tl ← finOf 64 k.c
    when' (k.e == 0 && k.m == 0) (some (.waitc h { ld, st, cp, tl }))
  | 0x285 => do
    let hd ← finOf 16 k.d
    let dst ← srcOf k.a
    let src ← srcOf k.b
    let len ← srcOf k.c
    let scope ← scopeOf k.e
    when' (natField k.m 0 3 == 0) (some (.copy h { hd, dst, src, len, scope, rel := natBit k.m 3 }))
  | 0x286 => do
    let d ← vDestZ k.d
    when' (k.a == 0 && k.b == 0 && k.c == 0 && k.e == 0 && k.m == 0) (some (.seal h d))
  | 0x287 => do
    let a ← srcOf k.a
    when' (k.d == 0 && k.b == 0 && k.c == 0 && k.e == 0 && k.m == 0) (some (.waitb h a))
  | 0x288 => do
    let d ← vDest k.d
    let hs ← finOf 16 k.a
    when' (k.b == 0 && k.c == 0 && k.e == 0 && k.m == 0) (some (.htime h d hs))
  | 0x289 => do
    let a ← srcOf k.a
    if natBit k.m 0 then do
      let hs ← finOf 16 k.c
      when' (k.d == 0 && k.b == 0 && k.e == 0 && natField k.m 1 3 == 0) (some (.sleept h a (some hs)))
    else when' (k.d == 0 && k.b == 0 && k.c == 0 && k.e == 0 && natField k.m 1 3 == 0) (some (.sleept h a none))
  | 0x28A => do
    let hs ← finOf 16 k.a
    when' (k.d == 0 && k.b == 0 && k.c == 0 && k.e == 0 && k.m == 0) (some (.hwait h hs))
  | 0x28B => do
    let pa ← finOf 32 k.d
    let pb ← finOf 32 k.c
    let hs ← finOf 16 k.a
    when' (k.b == 0 && k.e == 0 && k.m == 0) (some (.htest h pa pb hs))
  | 0x28C => do
    let hs ← finOf 16 k.a
    when' (k.d == 0 && k.b == 0 && k.c == 0 && k.e == 0 && k.m == 0) (some (.hcancel h hs))
  | 0x28D =>
    if natBit k.m 0 then do
      let d ← vDest k.d
      let ha ← finOf 16 k.a
      when' (k.b == 0 && k.c == 0 && k.e == 0 && natField k.m 1 3 == 0) (some (.hmovToV h d ha))
    else do
      let hd ← finOf 16 k.d
      let a ← srcOf k.a
      when' (k.b == 0 && k.c == 0 && k.e == 0 && natField k.m 1 3 == 0) (some (.hmovToH h hd a))
  | 0x290 => do
    let scope ← scopeOf (natField x 4 3)
    when' (natField x 0 4 == 0) (some (.rbegin h scope (jOff x)))
  | 0x291 => bareOf (.rcommit h) x
  | 0x292 => bareOf (.rabort h) x
  | _ => none

/-! ### Family 110 (R98, R199 to R218) -/

/-- The handle field: HD is zero unless HW is set (R85, R86, R88). -/
def handleOf (hd : Nat) (hw : Bool) : Option (Option (Fin 16)) :=
  if hw then (finOf 16 hd).map some else if hd = 0 then some none else none

def parseTile (opc : Nat) (h : Head) (t : FmtT) : Option Instr :=
  match opc with
  | 0x300 => do
    let va ← srcOf t.va
    when' (t.br == 0 && t.vb == 0 && t.hd == 0 && !t.hw && t.tn == 0 && t.tn2 == 0 && t.scope == 0 && t.top == 0)
      (some (.tacq h t.tk va))
  | 0x301 => do
    let va ← srcOf t.va
    when' (t.br == 0 && t.vb == 0 && t.hd == 0 && !t.hw && t.tn == 0 && t.tn2 == 0 && t.scope == 0 && t.top == 0)
      (some (.trel h t.tk va))
  | 0x302 => do
    let br ← finOf 32 t.br
    let va ← vDestZ t.va
    let vb ← srcOf t.vb
    let tn ← finOf 8 t.tn
    let scope ← scopeOf t.scope
    let xf ← xfOf t.top
    when' (t.hd == 0 && !t.hw && t.tn2 == 0) (some (.tld h { br, va, vb, y := t.tk, tn, xf, scope }))
  | 0x303 => do
    let br ← finOf 32 t.br
    let va ← vDestZ t.va
    let vb ← srcOf t.vb
    let tn ← finOf 8 t.tn
    let scope ← scopeOf t.scope
    when' (t.hd == 0 && !t.hw && !t.tk && t.tn2 == 0 && t.top == 0) (some (.tsv h { br, va, vb, tn, scope }))
  | 0x304 => do
    let tn ← finOf 8 t.tn
    when' (t.br == 0 && t.va == 0 && t.vb == 0 && t.hd == 0 && !t.hw && t.tn2 == 0 && t.scope == 0 && t.top == 0)
      (some (.tzero h t.tk tn))
  | 0x305 => do
    let tn ← finOf 8 t.tn
    let sel ← srcOf t.vb
    if natBit t.top 0 then do
      let a ← srcOf t.va
      when' (t.br == 0 && t.hd == 0 && !t.hw && t.tn2 == 0 && t.scope == 0 && natField t.top 1 4 == 0)
        (some (.tmovPut h { a, sel, y := t.tk, tn }))
    else do
      let d ← vDest t.va
      when' (t.br == 0 && t.hd == 0 && !t.hw && t.tn2 == 0 && t.scope == 0 && natField t.top 1 4 == 0)
        (some (.tmovGet h { d, sel, y := t.tk, tn }))
  | 0x306 => do
    let br ← finOf 32 t.br
    let va ← vDestZ t.va
    let hd ← handleOf t.hd t.hw
    let scope ← scopeOf t.scope
    when' (t.vb == 0 && !t.tk && t.tn == 0 && t.tn2 == 0 && t.top == 0) (some (.mma h { br, va, hd, scope }))
  | 0x307 => do
    let br ← finOf 32 t.br
    let va ← vDestZ t.va
    let vb ← srcOf t.vb
    let tn ← finOf 8 t.tn
    let scope ← scopeOf t.scope
    when' (t.hd == 0 && !t.hw && !t.tk && t.tn2 == 0 && natField t.top 1 4 == 0)
      (some (.tsum h { br, va, vb, tn, sums := natBit t.top 0, scope }))
  | 0x308 => do
    let br ← finOf 32 t.br
    let va ← vDestZ t.va
    let vb ← srcOf t.vb
    let tn ← finOf 8 t.tn
    let scope ← scopeOf t.scope
    let xf ← xfOf t.top
    when' (t.hd == 0 && !t.hw && !t.tk && decide (t.tn2 < 2))
      (some (.qcv h { br, va, vb, tn, t6 := natBit t.tn2 0, xf, scope }))
  | 0x309 => do
    let br ← finOf 32 t.br
    let va ← vDestZ t.va
    let vb ← srcOf t.vb
    let tn ← finOf 8 t.tn
    let scope ← scopeOf t.scope
    when' (t.hd == 0 && !t.hw && !t.tk && t.tn2 == 0 && t.top == 0) (some (.ptld h { br, va, vb, t := tn, scope }))
  | _ => none

def sm2Of (con : Head → Sm2F → Instr) (h : Head) (k : FmtK) : Option Instr := do
  let md ← finOf 8 k.d
  let ma ← finOf 8 k.a
  let mb ← finOf 8 k.b
  let rm ← rmOf (natField k.m 0 3)
  when' (k.c == 0 && k.e == 0 && !natBit k.m 3) (some (con h { md, ma, mb, rm }))

def sm1Of (con : Head → Sm1F → Instr) (h : Head) (k : FmtK) : Option Instr := do
  let md ← finOf 8 k.d
  let ma ← finOf 8 k.a
  let rm ← rmOf (natField k.m 0 3)
  when' (k.b == 0 && k.c == 0 && k.e == 0 && !natBit k.m 3) (some (con h { md, ma, rm }))

def smMemOf (con : Head → SmMemF → Instr) (h : Head) (f : FmtM) : Option Instr := do
  let md ← finOf 8 f.dat
  let m ← maddrOf f
  let scope ← scopeOf f.scope
  let ord ← ordOf f.ord
  let hint ← finOf 7 f.hint
  some (con h { md, m, scope, ord, hint })

def smmovOf (h : Head) (k : FmtK) : Option Instr :=
  match k.m with
  | 0 => do
    let md ← finOf 8 k.d
    let ma ← finOf 8 k.a
    when' (k.b == 0 && k.c == 0 && k.e == 0) (some (.smmov h md ma))
  | 1 => do
    let d ← vDest k.d
    let ma ← finOf 8 k.a
    let i ← srcOf k.b
    let j ← srcOf k.c
    when' (k.e == 0) (some (.smmovGet h { d, ma, i, j }))
  | 2 => do
    let md ← finOf 8 k.d
    let a ← srcOf k.a
    let i ← srcOf k.b
    let j ← srcOf k.c
    when' (k.e == 0) (some (.smmovPut h { md, a, i, j }))
  | _ => none

def parse110 (opc : Nat) (h : Head) (x : Nat) : Option Instr :=
  if opc < 0x340 then parseTile opc h (fmtT x)
  else
    let k := fmtK x
    match opc with
    | 0x340 => do
      let md ← finOf 8 k.d
      let rows ← finOf 8 k.b
      let cols ← finOf 8 k.c
      when' (k.a == 0 && k.e == 0 && natField k.m 1 3 == 0) (some (.smset h { f32 := natBit k.m 0, md, rows, cols }))
    | 0x341 => smMemOf .smld h (fmtM x)
    | 0x342 => smMemOf .smst h (fmtM x)
    | 0x343 => smmovOf h k
    | 0x344 => sm2Of .smadd h k
    | 0x345 => do
      let md ← finOf 8 k.d
      let ma ← finOf 8 k.a
      let e ← srcOf k.e
      let rm ← rmOf (natField k.m 0 3)
      when' (k.b == 0 && k.c == 0 && !natBit k.m 3) (some (.smscl h { md, ma, e, rm }))
    | 0x346 => do
      let md ← finOf 8 k.d
      let ma ← finOf 8 k.a
      when' (k.b == 0 && k.c == 0 && k.e == 0 && k.m == 0) (some (.smtr h md ma))
    | 0x347 => sm2Of .smmul h k
    | 0x348 => do
      let md ← finOf 8 k.d
      let ma ← finOf 8 k.a
      let mb ← finOf 8 k.b
      let mc ← finOf 8 k.c
      let rm ← rmOf (natField k.m 0 3)
      when' (k.e == 0 && !natBit k.m 3) (some (.smmad h { md, ma, mb, mc, rm }))
    | 0x349 => sm1Of .smchol h k
    | 0x34A => sm1Of .smlu h k
    | 0x34B => sm2Of .smsolve h k
    | _ => none

/-! ### Family 111 (R99, R187 to R189, R224 to R228) -/

def errinjOf (h : Head) (y : FmtY) : Option Instr :=
  match y.sub with
  | 0 => do
    let va ← srcOf y.va
    let n ← finOf 8 (natField y.code 8 3)
    let bit ← finOf 32 (natField y.code 0 5)
    when' (natField y.code 5 3 == 0 && natField y.code 11 5 == 0) (some (.errinjZflip h va n bit))
  | 1 => do
    let va ← vDest y.va
    let bit ← finOf 32 (natField y.code 0 5)
    when' (natField y.code 5 11 == 0) (some (.errinjVflip1 h va bit))
  | 2 => do
    let va ← vDest y.va
    let b1 ← finOf 32 (natField y.code 0 5)
    let b2 ← finOf 32 (natField y.code 8 5)
    when' (natField y.code 5 3 == 0 && natField y.code 13 3 == 0) (some (.errinjVflip2 h va b1 b2))
  | 3 => do
    let va ← srcOf y.va
    when' (y.code == 0) (some (.errinjPoison h va))
  | _ => none

def parse111 (opc : Nat) (h : Head) (x : Nat) : Option Instr :=
  let y := fmtY x
  match opc with
  | 0x380 => when' (y.va == 0 && y.vb == 0 && y.hd == 0 && !y.hw && y.sub == 0) (some (.trap h (BitVec.ofNat 16 y.code)))
  | 0x381 => when' (y.va == 0 && y.vb == 0 && y.hd == 0 && !y.hw && y.sub == 0) (some (.brk h (BitVec.ofNat 16 y.code)))
  | 0x382 => when' (y.vb == 0 && y.hd == 0 && !y.hw) (errinjOf h y)
  | 0x383 => do
    let va ← srcOf y.va
    let hd ← handleOf y.hd y.hw
    when' (y.vb == 0 && y.sub == 0 && natField y.code 8 8 == 0) (some (.launch h va (BitVec.ofNat 8 y.code) hd))
  | 0x384 => do
    let va ← srcOf y.va
    let vb ← srcOf y.vb
    when' (y.hd == 0 && !y.hw && y.code == 0)
      (if y.sub = 0 then some (.signalSt h va vb) else if y.sub = 1 then some (.signalAdd h va vb) else none)
  | 0x385 => when' (y.va == 0 && y.vb == 0 && y.hd == 0 && !y.hw && y.sub == 0 && natField y.code 11 5 == 0)
      (some (.irq h (BitVec.ofNat 11 y.code)))
  | 0x3C0 => do
    let f := fmtM x
    let m ← maddrOf f
    let q ← finOf 8 (f.dat - 96)
    let scope ← scopeOf f.scope
    let hint ← finOf 7 f.hint
    when' (decide (96 ≤ f.dat) && f.ord == 0) (some (.qld h q m scope hint))
  | 0x3C1 => do
    let r ← vDest (jReg x)
    some (.qloop h r (jOff x))
  | 0x3C2 => bareOf (.qend h) x
  | _ => none

/-! ### Decoding -/

/-- The opcodes the opcode map assigns (R92 to R99). -/
def assigned (opc : Nat) : Bool :=
  let f := opc / 0x80
  let b := fun (lo hi : Nat) => decide (lo ≤ opc) && decide (opc ≤ hi)
  if f = 0 then b 0 0x1B || b 0x20 0x22 || b 0x28 0x29 || b 0x2B 0x2D || b 0x30 0x32 || b 0x40 0x48
  else if f = 1 then b 0x80 0x8C
  else if f = 2 then (decide (opc < 0x140) && decide (opc % 16 < 10)) || b 0x140 0x157 || b 0x160 0x163
  else if f = 3 then b 0x180 0x186 || b 0x188 0x18A
  else if f = 4 then b 0x200 0x206 || b 0x208 0x20E || b 0x220 0x22E || b 0x230 0x23E || b 0x240 0x24A || b 0x250 0x25A ||
    b 0x260 0x269
  else if f = 5 then b 0x280 0x28D || b 0x290 0x292
  else if f = 6 then b 0x300 0x309 || b 0x340 0x34B
  else if f = 7 then b 0x380 0x385 || b 0x3C0 0x3C2
  else false

/-- The fields of an assigned opcode, read under its format. -/
def parse (opc : Nat) (h : Head) (x : Nat) : Option Instr :=
  match opc / 0x80 with
  | 0 => parse000 opc h x
  | 1 => parse001 opc h x
  | 2 => parse010 opc h x
  | 3 => parse011 opc h x
  | 4 => parse100 opc h x
  | 5 => parse101 opc h x
  | 6 => parse110 opc h x
  | 7 => parse111 opc h x
  | _ => none

/-- What a word is (R89): an instruction, or the fault it raises by itself. -/
inductive Decoded
  | ok (i : Instr)
  | illegalOpc
  | illegalEnc
  deriving DecidableEq, Repr

/-- Decodes the number of a word. -/
def decodeNat (w : Nat) : Decoded :=
  let r := unpack w
  if assigned r.opc then
    match (headOf r).bind fun h => parse r.opc h r.body with
    | some i => if wellFormed i then .ok i else .illegalEnc
    | none => .illegalEnc
  else .illegalOpc

/-- Decodes a word. -/
def decode (w : DWord) : Decoded := decodeNat w.toNat

/-- The word of little-endian bytes, the first at the lowest address (R3). -/
def wordOfBytes : List Byte → Nat
  | [] => 0
  | b :: r => b.toNat + 256 * wordOfBytes r

/-- The `n` little-endian bytes of a number. -/
def bytesOfNat : Nat → Nat → List Byte
  | 0, _ => []
  | n + 1, w => BitVec.ofNat 8 (w % 256) :: bytesOfNat n (w / 256)

/-- The 8 bytes of a word as they stand in memory (R3). -/
def bytesOfWord (w : DWord) : List Byte := bytesOfNat 8 w.toNat

/-- Decodes the first word of a list of bytes and answers the rest; fewer than 8 bytes are no word. -/
def decodeBytes (bs : List Byte) : Option (Decoded × List Byte) :=
  if bs.length < 8 then none else some (decodeNat (wordOfBytes (bs.take 8)), bs.drop 8)

/-- The host's numbering: the bits of the one 64-bit word, laid out as memory holds them and decoded. -/
def decodeTableWord (_nbits w : Nat) : Option Instr :=
  match decodeBytes (bytesOfNat 8 w) with
  | some (.ok i, _) => some i
  | _ => none

/-! ### Engine classes and words that end a clause (R75, R76, R92 to R99) -/

/-- Where a word may stand. -/
inductive WordClass
  | anyButAcc
  | alsoAcc
  | only (c : EngClass)
  deriving DecidableEq, Repr

/-- The class column of the opcode map. -/
def classOfOpc (opc : Nat) : WordClass :=
  let f := opc / 0x80
  if f = 0 then
    if opc = 0 ∨ opc = 1 ∨ opc = 2 ∨ opc = 0xA ∨ opc = 0x10 ∨ opc = 0x20 ∨ opc = 0x21 ∨ opc = 0x22 ∨ opc = 0x30 ∨
       opc = 0x42 ∨ opc = 0x43 ∨ opc = 0x44 then .alsoAcc else .anyButAcc
  else if f = 1 then .anyButAcc
  else if f = 2 then .only .vec
  else if f = 3 then (if opc = 0x185 ∨ opc = 0x186 then .only .sync else .only .vec)
  else if f = 4 then .only .mem
  else if f = 5 then .only .sync
  else if f = 6 then (if opc < 0x340 then .only .tile else .only .smx)
  else (if opc < 0x3C0 then .only .sys else .only .acc)

/-- The engine class codes of R75. -/
def engOf : Nat → Option EngClass
  | 0 => some .vec
  | 1 => some .mem
  | 2 => some .sync
  | 3 => some .tile
  | 4 => some .smx
  | 5 => some .sys
  | 6 => some .acc
  | _ => none

def engCode : EngClass → Nat
  | .vec => 0
  | .mem => 1
  | .sync => 2
  | .tile => 3
  | .smx => 4
  | .sys => 5
  | .acc => 6

/-- May a word of class `c` stand in a clause of class `e`? -/
def admits (e : EngClass) (c : WordClass) : Bool :=
  match c with
  | .anyButAcc => decide (e ≠ .acc)
  | .alsoAcc => true
  | .only d => decide (e = d)

/-- The words of R76: they end a clause. -/
def endsClause (opc : Nat) : Bool :=
  (decide (0x080 ≤ opc) && decide (opc ≤ 0x087)) || opc == 0x089 || opc == 0x08A || opc == 0x08B ||
  opc == 0x380 || opc == 0x381 || opc == 0x291 || opc == 0x292 || opc == 0x3C1 || opc == 0x3C2 ||
  (decide (0x180 ≤ opc) && decide (opc ≤ 0x186)) ||
  opc == 0x281 || opc == 0x283 || opc == 0x287 || opc == 0x289 || opc == 0x28A

/-- The blocking instructions of R74: the second row of R76. -/
def isBlocking (opc : Nat) : Bool :=
  opc == 0x089 || opc == 0x08A || (decide (0x180 ≤ opc) && decide (opc ≤ 0x186)) ||
  opc == 0x281 || opc == 0x283 || opc == 0x287 || opc == 0x289 || opc == 0x28A

/-! ### Clause headers (R71) -/

/-- The fields of a clause header. -/
structure Header where
  cnt : Nat
  eng : EngClass
  yld : Bool
  wld : Nat
  wst : Nat
  wcp : Nat
  wtl : Nat
  hold : Nat
  deriving DecidableEq, Repr, Inhabited

/-- Is this 8-byte word a header at all (SIG of R71)? -/
def isHeader (w : Nat) : Bool := natField w 56 8 == 0x9C

/-- Reads a header; nothing where the fourth check of R77 fails. -/
def headerOf (w : Nat) : Option Header := do
  let eng ← engOf (natField w 49 3)
  let cnt := natField w 52 4
  let hold := natField w 16 16
  when' (natField w 0 16 == 0 && !natBit hold 0 && decide (hold < 2 ^ (cnt + 1)))
    (some { cnt, eng, yld := natBit w 48, wld := natField w 44 4, wst := natField w 40 4, wcp := natField w 36 4,
            wtl := natField w 32 4, hold })

/-- The word of a header. -/
def headerWord (h : Header) : Nat :=
  0x9C * 2 ^ 56 + h.cnt * 2 ^ 52 + engCode h.eng * 2 ^ 49 + b2n h.yld * 2 ^ 48 + h.wld * 2 ^ 44 + h.wst * 2 ^ 40 +
    h.wcp * 2 ^ 36 + h.wtl * 2 ^ 32 + h.hold * 2 ^ 16

/-! ### Encoding -/

def modW (w sg sat : Bool) : Nat := 8 * b2n w + 4 * b2n sg + 2 * b2n sat
def kAlu1 (x : Alu1) : Nat := bodyK x.d.val (srcCode x.a) 0 0 0 (modW x.w x.sg x.sat)
def kAlu2 (x : Alu2) : Nat := bodyK x.d.val (srcCode x.a) (srcCode x.b) 0 0 (modW x.w x.sg x.sat)
def kAlu3 (x : Alu3) : Nat := bodyK x.d.val (srcCode x.a) (srcCode x.b) (srcCode x.c) 0 (modW x.w x.sg false)
def kImm (x : AluImm) : Nat := x.d.val * 2 ^ 32 + srcCode x.a * 2 ^ 25 + x.imm.toNat
def kShift (x : ShiftImm) : Nat := x.d.val * 2 ^ 32 + srcCode x.a * 2 ^ 25 + b2n x.sg * 2 ^ 5 + x.amt.val
def kFp2 (x : Fp2) : Nat :=
  bodyK x.d.val (srcCode x.a) (srcCode x.b) 0 (4 * smodCode x.mb + smodCode x.ma) (rmCode x.rm)
def kFpMin (x : FpMin) : Nat :=
  bodyK x.d.val (srcCode x.a) (srcCode x.b) 0 (4 * smodCode x.mb + smodCode x.ma) (b2n x.num)
def kSpec (x : FspecF) : Nat := bodyK x.d.val (srcCode x.a) 0 0 (smodCode x.ma) (rmCode x.rm)
def kSm2 (x : Sm2F) : Nat := bodyK x.md.val x.ma.val x.mb.val 0 0 (rmCode x.rm)
def kSm1 (x : Sm1F) : Nat := bodyK x.md.val x.ma.val 0 0 0 (rmCode x.rm)
def maskMod (m : MaskOp) : Nat := 8 * b2n (maskKind m)
/-- Format M from the address fields. -/
def mBody (m : MAddr) (dat : Nat) (s : Scope) (o : MOrd) (hint : Nat) : Nat :=
  bodyM m.br.val dat (vDestZCode m.ofs) m.imm.toNat (scopeCode s) (ordCode o) hint
def mRange (x : RangeF) : Nat := mBody x.m (srcCode x.len) x.scope .rlx 0
def handleBit : Option (Fin 16) → Bool
  | some _ => true
  | none => false
def handleNum : Option (Fin 16) → Nat
  | some n => n.val
  | none => 0

def voteD : VoteDst → Nat
  | .all p _ | .any p _ | .uni p _ => p.val
  | .ballot d _ => d.val
def voteE : VoteDst → Nat
  | .all _ p | .any _ p | .uni _ p => p.val
  | .ballot _ f => srcCode f
def voteOp : VoteDst → Nat
  | .all _ _ => 0
  | .any _ _ => 1
  | .uni _ _ => 2
  | .ballot _ _ => 3

/-- An opcode, the head and the body fields of an instruction word; an event has none. -/
def parts : Instr → Option (Nat × Head × Nat)
  | .iadd h x => some (0x000, h, kAlu2 x)
  | .isub h x => some (0x001, h, kAlu2 x)
  | .imul h x => some (0x002, h, kAlu2 x)
  | .imulh h x => some (0x003, h, kAlu2 x)
  | .imad h x => some (0x004, h, kAlu3 x)
  | .imadw h x => some (0x005, h, kAlu3 x)
  | .ineg h x => some (0x006, h, kAlu1 x)
  | .iabs h x => some (0x007, h, kAlu1 x)
  | .imin h x => some (0x008, h, kAlu2 x)
  | .imax h x => some (0x009, h, kAlu2 x)
  | .lea h x => some (0x00A, h, bodyK x.d.val (srcCode x.a) (srcCode x.b) 0 x.sh.val (modW x.w x.sg false))
  | .and h x => some (0x00B, h, kAlu2 x)
  | .or h x => some (0x00C, h, kAlu2 x)
  | .xor h x => some (0x00D, h, kAlu2 x)
  | .andn h x => some (0x00E, h, kAlu2 x)
  | .bool3 h x => some (0x00F, h, bodyK x.d.val (srcCode x.a) (srcCode x.b) (srcCode x.c)
      (64 * b2n x.w + x.tt.toNat / 16) (x.tt.toNat % 16))
  | .shl h x => some (0x010, h, kAlu2 x)
  | .shr h x => some (0x011, h, kAlu2 x)
  | .rot h x => some (0x012, h, kAlu2 x)
  | .fshl h x => some (0x013, h, kAlu3 x)
  | .bfx h x => some (0x014, h, kAlu3 x)
  | .bfi h x => some (0x015, h, bodyK x.d.val (srcCode x.a) (srcCode x.b) (srcCode x.c) (srcCode x.e)
      (modW x.w false false))
  | .brev h x => some (0x016, h, kAlu1 x)
  | .popc h x => some (0x017, h, kAlu1 x)
  | .clz h x => some (0x018, h, kAlu1 x)
  | .ctz h x => some (0x019, h, kAlu1 x)
  | .icmp h x => some (0x01A, h, bodyK x.pa.val (srcCode x.a) (srcCode x.b) x.pb.val x.pc.val
      (8 * b2n x.w + icondCode x.cond))
  | .isel h x => some (0x01B, h, bodyK x.d.val (srcCode x.a) (srcCode x.b) x.pc.val 0 (modW x.w false false))
  | .iaddImm h x => some (0x020, h, kImm x)
  | .isubImm h x => some (0x021, h, kImm x)
  | .imulImm h x => some (0x022, h, kImm x)
  | .iminImm h x => some (0x028, h, kImm x)
  | .imaxImm h x => some (0x029, h, kImm x)
  | .andImm h x => some (0x02B, h, kImm x)
  | .orImm h x => some (0x02C, h, kImm x)
  | .xorImm h x => some (0x02D, h, kImm x)
  | .shlImm h x => some (0x030, h, kShift x)
  | .shrImm h x => some (0x031, h, kShift x)
  | .rotImm h x => some (0x032, h, kShift x)
  | .plog h x => some (0x040, h, bodyK x.pd.val x.pa.val x.pb.val x.pc.val (x.tt.toNat / 16) (x.tt.toNat % 16))
  | .pmovGet h d => some (0x041, h, bodyK d.val 0 0 0 0 0)
  | .pmovSet h a b => some (0x041, h, bodyK 0 (srcCode a) (srcCode b) 0 0 1)
  | .mov h x => some (0x042, h, bodyK x.d.val (srcCode x.a) 0 0 0 (modW x.w false false))
  | .movi h d imm => some (0x043, h, d.val * 2 ^ 32 + imm.toNat)
  | .movi32 h d imm => some (0x044, h, d.val * 2 ^ 32 + imm.toNat)
  | .movs h d r => some (0x045, h, bodyK d.val (sregCode r) 0 0 0 0)
  | .movsw h r b => some (0x046, h, bodyK 0 (sregCode r) (srcCode b) 0 0 0)
  | .elect h pd d => some (0x047, h, bodyK (vDestZCode d) 0 0 pd.val 0 0)
  | .movjToJ h j a => some (0x048, h, bodyK j.val (srcCode a) 0 0 0 0)
  | .movjToV h d j => some (0x048, h, bodyK d.val j.val 0 0 0 1)
  | .bra h off => some (0x080, h, bodyJ off 0)
  | .brx h r => some (0x081, h, bodyJ 0 r.val)
  | .call h off => some (0x082, h, bodyJ off 0)
  | .callx h r => some (0x083, h, bodyJ 0 r.val)
  | .callL h off pad => some (0x084, h, bodyJ off pad.toNat)
  | .callxL h r off => some (0x085, h, bodyJ off r.val)
  | .ret h => some (0x086, h, 0)
  | .throw h => some (0x087, h, 0)
  | .jarm h j => some (0x088, h, bodyK j.val 0 0 0 0 0)
  | .waitj h j => some (0x089, h, bodyK j.val 0 0 0 0 0)
  | .yield h => some (0x08A, h, 0)
  | .exit h => some (0x08B, h, 0)
  | .nop h => some (0x08C, h, 0)
  | .fadd h x => some (0x100 + 16 * fmtCode x.t, h, kFp2 x)
  | .fsub h x => some (0x101 + 16 * fmtCode x.t, h, kFp2 x)
  | .fmul h x => some (0x102 + 16 * fmtCode x.t, h, kFp2 x)
  | .ffma h x => some (0x103 + 16 * fmtCode x.t, h, bodyK x.d.val (srcCode x.a) (srcCode x.b) (srcCode x.c)
      (16 * smodCode x.mc + 4 * smodCode x.mb + smodCode x.ma) (rmCode x.rm))
  | .fmin h x => some (0x104 + 16 * fmtCode x.t, h, kFpMin x)
  | .fmax h x => some (0x105 + 16 * fmtCode x.t, h, kFpMin x)
  | .fcmp h x => some (0x106 + 16 * fmtCode x.t, h, bodyK x.pa.val (srcCode x.a) (srcCode x.b) x.pb.val
      (64 * b2n x.absB + 32 * b2n x.absA + x.pc.val) (8 * b2n x.sig + fcondCode x.cond))
  | .fclass h x => some (0x107 + 16 * fmtCode x.t, h, bodyK x.d.val (srcCode x.a) 0 0 0 0)
  | .frnd h x => some (0x108 + 16 * fmtCode x.t, h, bodyK x.d.val (srcCode x.a) 0 0 (smodCode x.ma)
      (8 * b2n x.exact + rmCode x.rm))
  | .fscale h x => some (0x109 + 16 * fmtCode x.t, h, bodyK x.d.val (srcCode x.a) (srcCode x.b) 0 (smodCode x.ma)
      (rmCode x.rm))
  | .frcp h x => some (0x140 + 8 * specFmtCode x.t, h, kSpec x)
  | .frsq h x => some (0x141 + 8 * specFmtCode x.t, h, kSpec x)
  | .fsqrt h x => some (0x142 + 8 * specFmtCode x.t, h, kSpec x)
  | .fexp2 h x => some (0x143 + 8 * specFmtCode x.t, h, kSpec x)
  | .flog2 h x => some (0x144 + 8 * specFmtCode x.t, h, kSpec x)
  | .fsin h x => some (0x145 + 8 * specFmtCode x.t, h, kSpec x)
  | .fcos h x => some (0x146 + 8 * specFmtCode x.t, h, kSpec x)
  | .ftanh h x => some (0x147 + 8 * specFmtCode x.t, h, kSpec x)
  | .fcvt h x => some (0x160, h, bodyK x.d.val (srcCode x.a) (fmtCode x.src) (fmtCode x.dst) (smodCode x.ma)
      (rmCode x.rm))
  | .icvt h x => some (0x161, h, bodyK x.d.val (srcCode x.a) (kindCode x.src) (kindCode x.dst) (smodCode x.ma)
      (8 * b2n x.exact + rmCode x.rm))
  | .extp h x => some (0x162, h, bodyK x.d.val (srcCode x.a) (srcCode x.b) (srcCode x.c) (fmtCode x.dst)
      (8 * b2n x.t6 + rmCode x.rm))
  | .packp h x => some (0x163, h, bodyK x.d.val (srcCode x.a) (srcCode x.b) (srcCode x.c) (fmtCode x.src)
      (8 * b2n x.t6 + 7))
  | .shfl h x => some (0x180, h, bodyK x.d.val (srcCode x.a) (srcCode x.b) (maskCode x.mask) (srcCode x.fill)
      (maskMod x.mask + 4 * b2n x.w + shflCode x.mode))
  | .vote h x => some (0x181, h, bodyK (voteD x.dst) x.pa.val 0 (maskCode x.mask) (voteE x.dst)
      (maskMod x.mask + voteOp x.dst))
  | .redx h x => some (0x182, h, bodyK x.d.val (srcCode x.a) (redCode x.op) (maskCode x.mask) (srcCode x.fill)
      (maskMod x.mask + rmCode x.rm))
  | .scanx h x => some (0x183, h, bodyK x.d.val (srcCode x.a) (64 * b2n x.excl + redCode x.op) (maskCode x.mask)
      (srcCode x.fill) (maskMod x.mask + rmCode x.rm))
  | .matchx h x => some (0x184, h, bodyK x.d.val (srcCode x.a) 0 (maskCode x.mask) (srcCode x.fill)
      (maskMod x.mask + 4 * b2n x.w + b2n x.all))
  | .xsnd h x => some (0x185, h, bodyK 104 (srcCode x.slot) (srcCode x.data) (maskCode x.mask) 104
      (maskMod x.mask + 4 * b2n x.w))
  | .xrcv h x => some (0x186, h, bodyK x.d.val (srcCode x.slot) 104 (maskCode x.mask) (srcCode x.fill)
      (maskMod x.mask + 4 * b2n x.w))
  | .shapeQ h d a => some (0x188, h, bodyK d.val (srcCode a) 0 0 0 0)
  | .shapeG h d => some (0x189, h, bodyK d.val 0 0 0 0 0)
  | .aff h d a b => some (0x18A, h, bodyK d.val (srcCode a) (srcCode b) 0 0 0)
  | .ld h x => some (0x200 + ldTyCode x.ty, h, mBody x.m x.d.val x.scope x.ord x.hint.val)
  | .st h x => some (0x208 + stTyCode x.ty, h, mBody x.m (srcCode x.data) x.scope x.ord x.hint.val)
  | .bld h x => some (0x20D, h, mBody x.m x.bd.val x.scope x.ord 0)
  | .bst h x => some (0x20E, h, mBody x.m (srcCode x.data) x.scope x.ord x.hint.val)
  | .atom h x => some ((if x.w then 0x240 else 0x220) + atomCode x.op, h, mBody x.m x.d.val x.scope x.ord x.hint.val)
  | .atomNr h x => some ((if x.w then 0x250 else 0x230) + atomCode x.op, h,
      mBody x.m (srcCode x.data) x.scope x.ord x.hint.val)
  | .acas h x => some (if x.w then 0x261 else 0x260, h, mBody x.m x.d.val x.scope x.ord x.hint.val)
  | .smap h x => some (0x262, h, bodyK x.bd.val (srcCode x.va) (srcCode x.off) (srcCode x.len) 0 (b2n x.coh))
  | .sunmap h bd => some (0x263, h, bodyK bd.val 0 0 0 0 0)
  | .sflush h bd => some (0x264, h, bodyK bd.val 0 0 0 0 0)
  | .smode h bd coh => some (0x265, h, bodyK bd.val 0 0 0 0 (b2n coh))
  | .cflush h x => some (0x266, h, mRange x)
  | .cinv h x => some (0x267, h, mRange x)
  | .icinv h x => some (0x268, h, mRange x)
  | .mscfl h s => some (0x269, h, bodyK 0 0 (scopeCode s) 0 0 0)
  | .fence h s k => some (0x280, h, bodyM 0 0 0 0 (scopeCode s) (ordCode k) 0)
  | .bar h => some (0x281, h, 0)
  | .bara h x => some (0x282, h, bodyK (vDestZCode x.d) 0 (scopeCode x.scope) x.n.val 0 0)
  | .barw h x => some (0x283, h, bodyK 0 (srcCode x.a) (scopeCode x.scope) x.n.val 0 0)
  | .waitc h x => some (0x284, h, bodyK x.ld.val x.st.val x.cp.val x.tl.val 0 0)
  | .copy h x => some (0x285, h, bodyK x.hd.val (srcCode x.dst) (srcCode x.src) (srcCode x.len) (scopeCode x.scope)
      (8 * b2n x.rel))
  | .seal h d => some (0x286, h, bodyK (vDestZCode d) 0 0 0 0 0)
  | .waitb h a => some (0x287, h, bodyK 0 (srcCode a) 0 0 0 0)
  | .htime h d hs => some (0x288, h, bodyK d.val hs.val 0 0 0 0)
  | .sleept h a hs => some (0x289, h, bodyK 0 (srcCode a) 0 (handleNum hs) 0 (b2n (handleBit hs)))
  | .hwait h hs => some (0x28A, h, bodyK 0 hs.val 0 0 0 0)
  | .htest h pa pb hs => some (0x28B, h, bodyK pa.val hs.val 0 pb.val 0 0)
  | .hcancel h hs => some (0x28C, h, bodyK 0 hs.val 0 0 0 0)
  | .hmovToH h hd a => some (0x28D, h, bodyK hd.val (srcCode a) 0 0 0 0)
  | .hmovToV h d ha => some (0x28D, h, bodyK d.val ha.val 0 0 0 1)
  | .rbegin h s off => some (0x290, h, bodyJ off (scopeCode s * 2 ^ 4))
  | .rcommit h => some (0x291, h, 0)
  | .rabort h => some (0x292, h, 0)
  | .tacq h y va => some (0x300, h, bodyT 0 (srcCode va) 0 0 false y 0 0 0 0)
  | .trel h y va => some (0x301, h, bodyT 0 (srcCode va) 0 0 false y 0 0 0 0)
  | .tld h x => some (0x302, h, bodyT x.br.val (vDestZCode x.va) (srcCode x.vb) 0 false x.y x.tn.val 0
      (scopeCode x.scope) (xfCode x.xf))
  | .tsv h x => some (0x303, h, bodyT x.br.val (vDestZCode x.va) (srcCode x.vb) 0 false false x.tn.val 0
      (scopeCode x.scope) 0)
  | .tzero h y tn => some (0x304, h, bodyT 0 0 0 0 false y tn.val 0 0 0)
  | .tmovGet h x => some (0x305, h, bodyT 0 x.d.val (srcCode x.sel) 0 false x.y x.tn.val 0 0 0)
  | .tmovPut h x => some (0x305, h, bodyT 0 (srcCode x.a) (srcCode x.sel) 0 false x.y x.tn.val 0 0 1)
  | .mma h x => some (0x306, h, bodyT x.br.val (vDestZCode x.va) 0 (handleNum x.hd) (handleBit x.hd) false 0 0
      (scopeCode x.scope) 0)
  | .tsum h x => some (0x307, h, bodyT x.br.val (vDestZCode x.va) (srcCode x.vb) 0 false false x.tn.val 0
      (scopeCode x.scope) (b2n x.sums))
  | .qcv h x => some (0x308, h, bodyT x.br.val (vDestZCode x.va) (srcCode x.vb) 0 false false x.tn.val (b2n x.t6)
      (scopeCode x.scope) (xfCode x.xf))
  | .ptld h x => some (0x309, h, bodyT x.br.val (vDestZCode x.va) (srcCode x.vb) 0 false false x.t.val 0
      (scopeCode x.scope) 0)
  | .smset h x => some (0x340, h, bodyK x.md.val 0 x.rows.val x.cols.val 0 (b2n x.f32))
  | .smld h x => some (0x341, h, mBody x.m x.md.val x.scope x.ord x.hint.val)
  | .smst h x => some (0x342, h, mBody x.m x.md.val x.scope x.ord x.hint.val)
  | .smmov h md ma => some (0x343, h, bodyK md.val ma.val 0 0 0 0)
  | .smmovGet h x => some (0x343, h, bodyK x.d.val x.ma.val (srcCode x.i) (srcCode x.j) 0 1)
  | .smmovPut h x => some (0x343, h, bodyK x.md.val (srcCode x.a) (srcCode x.i) (srcCode x.j) 0 2)
  | .smadd h x => some (0x344, h, kSm2 x)
  | .smscl h x => some (0x345, h, bodyK x.md.val x.ma.val 0 0 (srcCode x.e) (rmCode x.rm))
  | .smtr h md ma => some (0x346, h, bodyK md.val ma.val 0 0 0 0)
  | .smmul h x => some (0x347, h, kSm2 x)
  | .smmad h x => some (0x348, h, bodyK x.md.val x.ma.val x.mb.val x.mc.val 0 (rmCode x.rm))
  | .smchol h x => some (0x349, h, kSm1 x)
  | .smlu h x => some (0x34A, h, kSm1 x)
  | .smsolve h x => some (0x34B, h, kSm2 x)
  | .trap h c => some (0x380, h, bodyY 0 0 0 false 0 c.toNat)
  | .brk h c => some (0x381, h, bodyY 0 0 0 false 0 c.toNat)
  | .errinjZflip h va n b => some (0x382, h, bodyY (srcCode va) 0 0 false 0 (n.val * 256 + b.val))
  | .errinjVflip1 h va b => some (0x382, h, bodyY va.val 0 0 false 1 b.val)
  | .errinjVflip2 h va b1 b2 => some (0x382, h, bodyY va.val 0 0 false 2 (b2.val * 256 + b1.val))
  | .errinjPoison h va => some (0x382, h, bodyY (srcCode va) 0 0 false 3 0)
  | .launch h va q hd => some (0x383, h, bodyY (srcCode va) 0 (handleNum hd) (handleBit hd) 0 q.toNat)
  | .signalSt h va vb => some (0x384, h, bodyY (srcCode va) (srcCode vb) 0 false 0 0)
  | .signalAdd h va vb => some (0x384, h, bodyY (srcCode va) (srcCode vb) 0 false 1 0)
  | .irq h v => some (0x385, h, bodyY 0 0 0 false 0 v.toNat)
  | .qld h q m s hint => some (0x3C0, h, mBody m (96 + q.val) s .rlx hint.val)
  | .qloop h r off => some (0x3C1, h, bodyJ off r.val)
  | .qend h => some (0x3C2, h, 0)
  | .gangIssue .. | .clauseFetch .. | .watchdog .. | .pathAged .. => none
  | .loadComplete .. | .storeComplete .. | .requestRepresent .. | .directoryRequest .. | .forwardedRequest .. => none
  | .mscWriteback .. | .hostSnoop .. | .remoteAccess .. | .spanNack .. | .spanRecoveryStart .. => none
  | .spanLinkDrop .. | .spanRecoveryEnd .. | .recoveryBound .. | .hostLinkDrop .. => none
  | .copyStart .. | .copyComplete .. | .copyStop .. | .copyCancelStop .. | .mmaComplete .. => none
  | .tileOpComplete .. | .tileDataFault .. | .qldReturn .. | .commitPerform .. | .sleeptWake .. => none
  | .stagedStart .. | .queueTake .. | .stampTimeout .. | .launchBufferWrite .. | .launchReady .. => none
  | .crewAdmit .. | .launchComplete .. | .replayRestore .. => none
  | .pctlCreate .. | .pctlKill .. | .pctlWake .. | .pctlSwapout .. | .functionLevelReset .. => none
  | .killComplete .. | .tsliceExpiry .. | .latencyIdleExpiry .. | .saveComplete .. | .swapIn .. => none
  | .restoreComplete .. | .tlbinvStart .. | .tlbinvDone .. | .mbxbaseWrite .. | .errrecRead .. | .registerWrite .. => none
  | .dbgStop .. | .dbgResume .. | .dbgStep .. | .dbgCancel .. | .clusterFrozen .. => none
  | .heartbeatTimeout .. | .rebuildComplete | .zoneUpdate .. | .powerMeasure .. | .timeRecalibrate .. => none
  | .powerUp .. | .attestRequest .. | .attestDone | .mmaLastColumn .. | .hostAgentUnanswered .. => none
  | .hostLinkRecoveryEnd .. => none

/-- The word of an instruction (R81): the opcode, the guard and scheduling fields, the format fields. -/
def encode (i : Instr) : DWord :=
  match parts i with
  | some (opc, h, body) => BitVec.ofNat 64 (opc * 2 ^ 54 + headCode h + body)
  | none => 0

/-- The opcode of an instruction word. -/
def opcOf (i : Instr) : Nat :=
  match parts i with
  | some (opc, _, _) => opc
  | none => 0x3FF

/-- Is this constructor an instruction word (and not an event)? -/
def isWord (i : Instr) : Bool := (parts i).isSome

/-- The head of an instruction word. -/
def headPart (i : Instr) : Head :=
  match parts i with
  | some (_, h, _) => h
  | none => Head.plain

end Sys2Proof
end

