-- ==== Sys2Proof/Machine/State.lean ====
section
/-! DEFINITION. The state of one package, as plain data: threads, groups, gangs, crews, cores, clusters, dies,
partitions, launches, memory with its coherence knowledge, ports, and what Luna keeps.

Field maps that software reads and writes as words stay bit vectors; everything else has the shape the spec gives it.
Time is one Nat in units of 1/17 ns, so that a tick of 1 ns is 17 units and a clk of 850 MHz is 20 (R6, R22). -/

namespace Sys2Proof.Machine

open Sys2Proof

/-! ### Faults of threads (R10, R11) -/

/-- The causes of R11, codes 0x01 to 0x0F in order. -/
inductive Cause
  | illegalOpc | illegalEnc | illegalClause | illegalTarget | shape | token | pageFault | promiseMissed | watchdog
  | poison | bounds | stack | dmrMismatch | fabricLost | brk
  deriving DecidableEq, Repr, Inhabited

/-- `%trap.KIND` (R44). -/
inductive AccKind | none | load | store | atomic
  deriving DecidableEq, Repr, Inhabited

/-- A cause with the address and direction it reports. -/
structure FaultInfo where
  cause : Cause
  kind : AccKind
  addr : DWord
  deriving DecidableEq, Repr, Inhabited

/-! ### Register values (R27 to R39) -/

/-- A buffer record (R38). -/
abbrev BRec := BitVec 256

/-- A general register of a group by its shape tag (R28). -/
inductive VVal
  | u (w : Word)
  | a (b s : Word)
  | g (ws : AMap Word)
  deriving DecidableEq, Repr, Inhabited

/-- A general register: its value, the inverted bits of its stored words (R226, R373), and those of its mirror (R391). -/
structure VReg where
  val : VVal
  err : Word
  errs : AMap Word
  merr : Word := 0
  merrs : AMap Word := []
  deriving DecidableEq, Repr, Inhabited

/-- A general register at creation (R25): U, value 0. -/
def VReg.init : VReg := { val := .u 0, err := 0, errs := [] }

/-- A small-matrix register: descriptor and element slots at row stride d (R35). -/
structure MReg where
  desc : Word
  els : AMap DWord
  /-- element slots with an uncorrectable error (R373) -/
  bad : List Nat := []
  deriving DecidableEq, Repr, Inhabited

def MReg.empty : MReg := { desc := 0, els := [] }

/-- A word of the register pool, for its mirror (R391): a general register's shared words (part 0) or the word of thread `part - 1`; slot `k` of a
thread's small-matrix register, 64 its descriptor; a thread's frame with `k` frames below it. `sh` tells a shadow's. -/
inductive PoolWord
  | v (sh : Bool) (n part : Nat)
  | m (sh : Bool) (t n k : Nat)
  | f (sh : Bool) (t k : Nat)
  deriving DecidableEq, Repr, Inhabited

/-- A control-stack frame (R36); a trap frame has RET[0] = 1 (R131). -/
structure Frame where
  pad : DWord
  ret : DWord
  /-- the resident frame has an uncorrectable error (R373) -/
  bad : Bool := false
  deriving DecidableEq, Repr, Inhabited

/-- A queue entry (R33, R190): the load that fills it, and its value or its fault once it has returned. -/
structure QEntry where
  va : DWord
  scope : Scope
  hint : Nat := 0
  val : Option Word
  fault : Option FaultInfo
  deriving DecidableEq, Repr, Inhabited

/-! ### Atomic regions (R219 to R223, R308, R309) -/

/-- Where the bytes of an access stand (R253, R257, R334). -/
inductive Space
  | phys (pa : Nat)
  | aper (g off : Nat)
  | win (core w off : Nat)
  deriving DecidableEq, Repr, Inhabited

structure Addend where
  neg : Bool
  val : DWord
  rm : RMode
  deriving DecidableEq, Repr, Inhabited

/-- What was added to an input since its load (R220). -/
inductive Chain
  | none
  | int (c : DWord)
  | flt (w : Bool) (l : List Addend)
  deriving DecidableEq, Repr, Inhabited

/-- The symbolic tag of a value: an input and a chain (R220). -/
structure SymTag where
  input : Nat
  wide : Bool
  chain : Chain
  deriving DecidableEq, Repr, Inhabited

structure RInput where
  va : DWord
  space : Space
  size : Nat
  val : DWord
  trackable : Bool
  mark : Bool
  /-- its place among the recorded addresses of its region (R341) -/
  nth : Nat := 0
  deriving DecidableEq, Repr, Inhabited

structure RStore where
  va : DWord
  space : Space
  data : List Byte
  sym : Option SymTag
  nth : Nat := 0
  deriving DecidableEq, Repr, Inhabited

/-- A recorded constraint: the compare, its operands and its outcome (R220). -/
inductive RCmp
  | int (c : ICond) (wide : Bool)
  | flt (c : FCond) (f : FFmt) (absA absB : Bool)
  deriving DecidableEq, Repr, Inhabited

structure RCon where
  cmp : RCmp
  tagFirst : Bool
  tag : SymTag
  other : DWord
  pc : Bool
  outcome : Bool
  deriving DecidableEq, Repr, Inhabited

/-- An open region of a thread (R219). -/
structure Region where
  scope : Scope
  target : DWord
  /-- the gang issue that opened it; threads of one issue share it (R223) -/
  opened : Nat
  /-- the group's V registers at RBEGIN: values and tags to return to -/
  v : AMap VReg
  /-- V registers this thread has written since -/
  wrote : List Nat
  preds : BitVec 31
  fst : Word
  fmode : Word
  smf : Word
  exc : DWord
  pops : AMap DWord
  inputs : List RInput
  stores : List RStore
  cons : List RCon
  tags : AMap SymTag
  untrackable : Bool
  /-- flags only the tracked additions raised (R222) -/
  tflags : Word
  /-- entries popped, oldest first, with their queue (R220) -/
  popped : List (Nat × QEntry)
  deriving DecidableEq, Repr, Inhabited

/-! ### Threads (R25, R234, R240) -/

/-- What a held thread waits for (R240). -/
inductive HoldKind
  | waitj (j : Fin 8)
  | bar
  | barw (n : Fin 16) (p : Word) (scope : Scope)
  | round
  | rendezvous
  | waitb (q : Word)
  | hwait (h : DWord)
  | sleept (until_ : DWord) (h : Option DWord) (woken : Bool)
  | commit
  deriving DecidableEq, Repr, Inhabited

structure Hold where
  kind : HoldKind
  /-- the fall-through clause the thread continues at -/
  ft : DWord
  deriving DecidableEq, Repr, Inhabited

/-- What a fault of a tile operation still has to reach (R202). -/
structure TileFault where
  info : FaultInfo
  /-- Z tiles 0 to 7, Y tiles 8 to 15, tables 16 to 23 -/
  objs : List Nat
  handle : Option DWord
  deriving DecidableEq, Repr, Inhabited

/-- The fault whose handler is active (R45): what it was, whether the thread stood at a clause header, and what it had issued of
the clause it left (R73, R74, R78). -/
structure TrapRec where
  info : FaultInfo
  atHeader : Bool
  ops : List Nat
  yld : Bool
  /-- the clause it left, by its address and header -/
  header : Option (DWord × Header)
  deriving DecidableEq, Repr, Inhabited

/-- A returning access that failed: its fault, raised at the word that waits for one of its registers (R375, R395). -/
structure LoadFault where
  info : FaultInfo
  dst : List Nat
  /-- it was an input of the open region (R220, R223) -/
  input : Bool := false
  deriving DecidableEq, Repr, Inhabited

structure Thread where
  pc : DWord
  live : Bool
  preds : BitVec 31
  h : AMap DWord
  q : AMap (List QEntry)
  pops : AMap DWord
  /-- entries of each queue the restarted slice drops (R190) -/
  drop : AMap DWord
  m : AMap MReg
  frames : List Frame
  ld : Nat
  st : Nat
  cp : Nat
  tl : Nat
  fst : Word
  fmode : Word
  smf : Word
  rstat : Word
  exc : DWord
  trap : Word
  faddr : DWord
  hold : Option Hold
  /-- the thread stands inside a clause: it resumes there without header waits (R78, R370) -/
  mid : Bool
  /-- a TRAP or BRK re-executed by the handler's return raises no BREAK again (R225) -/
  brkDone : Bool
  batch : Word
  tileFaults : List TileFault
  fabric : List FaultInfo
  /-- failed returning accesses nobody has waited for yet -/
  loads : List LoadFault
  /-- the fault the active handler handles -/
  raised : Option TrapRec
  /-- what a thread inside a clause has issued of it, and whether a word of it marked a yield point (R73, R74, R78) -/
  sofar : List Nat
  sofarYld : Bool
  /-- the blocking word a released thread comes from, until its fall-through clause is fetched (R77) -/
  passing : Option DWord
  /-- the header last fetched for the thread, with its address: the picker knows its waits (R243) -/
  header : Option (DWord × Header)
  region : Option Region
  /-- paths (gid, PC) this thread stands behind after a yield point (R246) -/
  behind : List (Nat × DWord)
  /-- the BAR at which a save found the thread held, whose arrival stays counted, and whether its phase is complete since (R198) -/
  barAt : Option (DWord × Bool)
  /-- the part of `%exc`'s thread that ended under R45 -/
  endedBy : Option FaultInfo
  deriving DecidableEq, Repr, Inhabited

/-- `%fmode` at creation: RM 0, TEXP 40 (R44). -/
def fmodeReset : Word := 0x0000_2800

/-- A thread at creation with its PC (R25, R234). `%exc` and `%faddr` are 0: the spec gives no value (log entry 2). -/
def Thread.create (pc : DWord) : Thread :=
  { pc, live := true, preds := 0, h := [], q := [], pops := [], drop := [], m := [], frames := [], ld := 0, st := 0, cp := 0,
    tl := 0, fst := 0, fmode := fmodeReset, smf := 0, rstat := 0, exc := 0, trap := 0, faddr := 0, hold := none,
    mid := false, brkDone := false, batch := 0, tileFaults := [], fabric := [], loads := [], raised := none,
    sofar := [], sofarYld := false, passing := none, header := none, region := none, behind := [], barAt := none, endedBy := none }

/-! ### Groups (R25, R230 to R247) -/

/-- The clause in a fetch slot or in a gang: its address, its header and its words (R71, R241). -/
structure Clause where
  addr : DWord
  hdr : Header
  words : List DWord
  deriving DecidableEq, Repr, Inhabited

structure FetchSlot where
  clause : Clause
  marked : Bool
  deriving DecidableEq, Repr, Inhabited

/-- A tracked path: its PC, its clk without issue, and when it became aged (R245). -/
structure Path where
  pc : DWord
  cnt : Nat
  aged : Option Nat
  deriving DecidableEq, Repr, Inhabited

/-- The Proboscis of a group: PC of its clause, the index of the next word, its registers (R187). -/
structure Slice where
  running : Bool
  pc : DWord
  clause : Option Clause
  ix : Nat
  v : AMap VVal
  deriving DecidableEq, Repr, Inhabited

def Slice.none : Slice := { running := false, pc := 0, clause := Option.none, ix := 0, v := [] }

/-- What a joined thread captured (R155): source, second source, fill, predicate. -/
structure Captured where
  a : DWord
  b : DWord
  fill : DWord
  p : Bool
  pfill : Bool
  ft : DWord
  deriving DecidableEq, Repr, Inhabited

/-- A cross-lane round at one word address of one group (R155), with the slot its first arrival names (R163). -/
structure Round where
  ins : Instr
  mask : Option DWord
  rm : RMode
  slot : Nat
  joined : AMap Captured
  declined : List Nat
  deriving DecidableEq, Repr

/-- A Z tile: elements at 64 i + j, check entries at 4096 + row and 4160 + column. -/
structure ZTile where
  els : AMap Word
  poison : List Nat
  deriving DecidableEq, Repr, Inhabited

/-- A Y tile: I20 elements at 64 k + n. -/
structure YTile where
  els : AMap (BitVec 20)
  poison : List Nat
  deriving DecidableEq, Repr, Inhabited

/-- A tile in a saved group's context (R350). -/
structure SavedTile where
  y : Bool
  tn : Fin 8
  z : ZTile
  yt : YTile
  deriving DecidableEq, Repr, Inhabited

structure Group where
  gid : Nat
  cid : Nat
  width : Nat
  idx : Nat
  crew : Nat
  launch : Nat
  part : Nat
  /-- die × 96 + site -/
  core : Nat
  quad : Nat
  row : Nat
  base : Nat
  slot : Nat
  v : AMap VReg
  /-- the shadows' general registers (R387) -/
  vsh : AMap VReg
  /-- general registers by last use, the latest last, and those spilled to the save area (R30) -/
  lru : List Nat
  spilled : List Nat
  j : AMap DWord
  b : AMap BRec
  /-- B0 to B31 as they stood at placement, for the slice (R187) -/
  bPlaced : AMap BRec
  mirr : Bool
  prot : Bool
  fair : Bool
  ser : Bool
  lastSer : Nat
  fslot : Option FetchSlot
  paths : List Path
  wd : Nat
  slice : Slice
  scratch : AMap Byte
  scratchPoison : List Nat
  rounds : AMap Round
  /-- threads by `%tid`; a shadow stands at `%tid` + 64 (R387) -/
  threads : AMap Thread
  skid : Nat
  stepped : Bool
  /-- tiles of its context a restored group has not taken again yet: it starts once it has (R229) -/
  owed : List SavedTile
  /-- threads whose regions aborted in this step, each with the RBEGIN issue that opened it (R223) -/
  undone : AMap Nat
  deriving DecidableEq, Repr

/-! ### Crews (R177, R162, R163, R333) -/

/-- An arrival whose earlier accesses or copies have not all been performed yet (R177). -/
structure PendArrival where
  t : Nat
  n : Nat
  /-- the phase it arrives at -/
  phase : Word := 0
  lane : Lane
  core : Nat
  before : Nat
  batch : Word
  scope : Scope
  deriving DecidableEq, Repr, Inhabited

/-- A closed rendezvous round: its group, its word address, its threads (R163). -/
structure XRound where
  g : Nat
  pc : DWord
  round : Round
  deriving DecidableEq, Repr

/-- A rendezvous slot of a crew in a cluster (R163): the deposit, the closed sending rounds that wait for it to empty and the
closed receiving rounds, each in closing order. -/
structure RSlot where
  deposit : Option XRound
  senders : List XRound
  receivers : List XRound
  deriving DecidableEq, Repr, Inhabited

structure Crew where
  launch : Nat
  cid : Nat
  /-- group ids in index order -/
  groups : List Nat
  width : Nat
  /-- a[t][n] at key 16 t + n -/
  counts : AMap Word
  pending : List PendArrival
  /-- threads of the crew that have exited, by crew thread number -/
  exited : List Nat
  /-- key 16 × cluster + slot -/
  slots : AMap RSlot
  itb : Word
  ite : Word
  fix : Word
  retired : List Nat
  deriving DecidableEq, Repr, Inhabited

/-! ### Gangs (R236, R237) -/

/-- A member's operation that HOLD waits for (R73). -/
structure Issued where
  lane : Lane
  op : Nat
  deriving DecidableEq, Repr, Inhabited

structure Gang where
  /-- core × 4 + quad -/
  quad : Nat
  clause : Clause
  ix : Nat
  lanes : List Lane
  /-- members whose exit, fault or hold took them out of the gang -/
  ops : List Issued
  /-- the end of the clause is a yield point so far (R74) -/
  yld : Bool
  /-- the debugger steps one word (R368) -/
  step : Bool
  /-- the accesses of the word it stalls at, once the word has begun: BLD, SMLD, SMST -/
  wip : Option (List Issued)
  issueId : Nat
  deriving DecidableEq, Repr, Inhabited

/-! ### Core state (R41, R42, R67, R191, R248, R250, R275, R297, R301, R313) -/

inductive Token | free | group (g : Nat) | engine (g : Nat)
  deriving DecidableEq, Repr, Inhabited

structure PTable where
  len : Nat
  ent : AMap (BitVec 16)
  /-- entries with an uncorrectable error (R373) -/
  bad : List Nat := []
  deriving DecidableEq, Repr, Inhabited

/-- A sector a tile operation touches: the first address touched in it and the place of its first byte, translated at issue
(R201). -/
structure TPlace where
  va : DWord
  space : Space
  /-- the bytes of the sector as the operation issued, which it may still read (R203) -/
  seen : List Byte
  deriving DecidableEq, Repr, Inhabited

structure MmaOp where
  id : Nat
  g : Nat
  /-- the `%gid`, launch and partition of its group, which may have retired (R300) -/
  gid : Nat
  launch : Nat
  part : Nat
  lanes : List Lane
  arec : BRec
  aoff : DWord
  astr : Word
  koff : Nat
  m : Nat
  n : Nat
  k : Nat
  ypair : Bool
  yt : Fin 8
  zt : Fin 8
  alay : Bool
  chk : Bool
  ovw : Bool
  xf : Nat
  tab : Fin 8
  scope : Scope
  handle : Option DWord
  /-- the sectors of A, by address / 64 -/
  places : AMap TPlace
  /-- the Y tiles as the engine read them, once it has read their last column (R203, R298) -/
  cap : Option (YTile × YTile)
  deriving DecidableEq, Repr, Inhabited

inductive TileKind | tldZ | tldY | tsv | tsum (sums : Bool) | qcv (t6 : Bool) | ptld
  deriving DecidableEq, Repr, Inhabited

/-- A tile transfer in flight (R202, R203). -/
structure TileOp where
  id : Nat
  kind : TileKind
  g : Nat
  /-- the `%gid`, launch and partition of its group, which may have retired (R235) -/
  gid : Nat
  launch : Nat
  part : Nat
  lanes : List Lane
  br : BRec
  va : DWord
  vb : Word
  tn : Fin 8
  xf : Nat
  tab : Fin 8
  scope : Scope
  /-- the sectors touched, by address / 64 -/
  places : AMap TPlace
  /-- its Z tile as its group left it, once that has retired (log entry 17) -/
  cap : Option ZTile
  /-- which of its stores, by number, are performed already (R203, R290) -/
  early : List Nat := []
  deriving DecidableEq, Repr, Inhabited

/-- A sector of a stash window: its bytes when filled by a software-managed window (R257). -/
structure WSector where
  dirty : Bool
  bytes : List Byte
  poison : Bool
  deriving DecidableEq, Repr, Inhabited

structure Window where
  g : Nat
  bd : Nat
  va : DWord
  off : Nat
  len : Nat
  coh : Bool
  /-- filled sectors, by number in the window -/
  sectors : AMap WSector
  deriving DecidableEq, Repr, Inhabited

/-- A cached translation (R339): of a 4 KiB page, and of the `span` pages of its leaf. -/
structure TlbEntry where
  part : Nat
  vpn : Nat
  frame : Nat
  span : Nat := 1
  pte : DWord
  /-- where the entry stands, and where its A and D stand (R337) -/
  entry : Nat
  pteAddr : Nat
  /-- the level of the leaf -/
  lev : Nat
  deriving DecidableEq, Repr, Inhabited

/-- An upper-level entry a walk cache holds: its level, the addresses it covers, its bits (R339). -/
structure WalkEntry where
  part : Nat
  lev : Nat
  /-- the virtual address above what the entry covers -/
  top : Nat
  e : Nat
  deriving DecidableEq, Repr, Inhabited

inductive CoreUse | idle | waiting | busy
  deriving DecidableEq, Repr, Inhabited

structure Carve where
  regs : Nat
  scr : Nat
  stash : Nat
  deriving DecidableEq, Repr, Inhabited

structure Core where
  use : CoreUse
  carve : Option Carve
  mark : Option Nat
  /-- the partition that used the core last, and its GEN then (R313) -/
  lastPart : Option Nat
  lastGen : Word
  z : AMap ZTile
  y : AMap YTile
  /-- Z tokens at 0 to 7, Y tokens at 8 to 15 -/
  tok : AMap Token
  /-- groups waiting in TACQ, oldest first: tile key and group -/
  tacq : List (Nat × Nat)
  /-- the words of its groups that hold a mirror, the least recently written first: group and word (R391) -/
  mirs : List (Nat × PoolWord) := []
  tab : AMap PTable
  mma : List MmaOp
  tops : List TileOp
  commits : List Lane
  zpred : AMap Nat
  wins : AMap Window
  tlb : List TlbEntry
  /-- instruction-cache copies by sector (R263, R296) -/
  icache : AMap (List Byte)
  aged : DWord
  refetch : DWord
  serclk : DWord
  serent : DWord
  spill : DWord
  sfill : DWord
  l1miss : DWord
  l1hit : DWord
  aborts : DWord
  reread : DWord
  commitsN : DWord
  zmiss : DWord
  zskip : DWord
  mmas : DWord
  deriving DecidableEq, Repr, Inhabited

/-- A core at power-up. -/
def Core.init : Core :=
  { use := .idle, carve := none, mark := none, lastPart := none, lastGen := 0, z := [], y := [], tok := [], tacq := [], tab := [],
    mma := [], tops := [], commits := [], zpred := [], wins := [], tlb := [], icache := [], aged := 0, refetch := 0, serclk := 0,
    serent := 0, spill := 0, sfill := 0, l1miss := 0, l1hit := 0, aborts := 0, reread := 0, commitsN := 0, zmiss := 0,
    zskip := 0, mmas := 0 }

/-! ### Cluster state (R339, R359 to R366) -/

structure WatchUnit where
  lo : DWord
  hi : DWord
  ctl : DWord
  thr : DWord
  deriving DecidableEq, Repr, Inhabited

/-- STEPST (R369). -/
inductive StepSt | none | done | waitBar | waitOther | waitStall | trapped | exited | notLive
  deriving DecidableEq, Repr, Inhabited

/-- An access a watch unit matched in this step (R362). -/
structure WatchMatch where
  unit : Nat
  site : Nat
  col : Nat
  va : DWord
  pc : DWord
  gid : Nat
  tid : Nat
  core : Nat
  scope : Nat
  kind : Nat
  deriving DecidableEq, Repr, Inhabited

structure Cluster where
  wu : AMap WatchUnit
  /-- the matches of this step, of which one is the trigger -/
  seen : List WatchMatch
  dbgctl : DWord
  stepst : StepSt
  stepping : Bool
  stepLane : Option Lane
  /-- the partitions the stop holds: those with groups on the cluster, or that it may stop for (R364) -/
  stopParts : List Nat
  /-- the cluster is stopping or stopped -/
  stopping : Bool
  /-- every group is frozen -/
  stopped : Bool
  gsel : DWord
  stoprec : BitVec 256
  tlb : List TlbEntry
  deriving DecidableEq, Repr, Inhabited

def Cluster.init : Cluster :=
  { wu := [], seen := [], dbgctl := 0, stepst := .none, stepping := false, stepLane := none, stopParts := [],
    stopping := false, stopped := false, gsel := 0, stoprec := 0, tlb := [] }

/-! ### Die state (R18, R34, R304, R385, R386, R398, R407) -/

inductive HState | pending | complete | failed (f : FaultInfo)
  deriving DecidableEq, Repr, Inhabited

/-- A tracking entry of a handle (R34). -/
structure HEntry where
  kind : Nat
  seq : Nat
  part : Nat
  gen : Word
  state : HState
  launch : Nat
  deriving DecidableEq, Repr, Inhabited

structure Die where
  fenced : Bool
  fencedAt : Option Nat
  sites : BitVec 96
  /-- the die's free-running counter (R22): by how much package time is ahead of the model's, less its offset, and its rate in package time
  in units of 2^-40 -/
  skew : Int
  drift : Int
  toff : DWord
  trate : BitVec 31
  memAged : DWord
  memRej : DWord
  mscWb : DWord
  mscMiss : DWord
  mscHit : DWord
  fabLost : DWord
  snapDrop : DWord
  replay : DWord
  dmr : DWord
  mirror : DWord
  consume : DWord
  uncorr : DWord
  corr : DWord
  errrec : BitVec 128
  zones : AMap DWord
  handles : List HEntry
  /-- operations counted per KIND -/
  seqs : AMap Nat
  /-- cores waiting for a staged start, ascending -/
  stage : List Nat
  /-- the times of the latest starts -/
  starts : List Nat
  tlb : List TlbEntry
  walks : List WalkEntry
  deriving DecidableEq, Repr, Inhabited

/-- A zone register at reset: TTGT 85, VALVE 255, TEMP 0 (R407; log entry 3). -/
def zoneReset : DWord := 0x0000_0055_FF00_0000

def Die.init : Die :=
  { fenced := false, fencedAt := none, sites := 0, skew := 0, drift := 0, toff := 0, trate := 0, memAged := 0, memRej := 0,
    mscWb := 0, mscMiss := 0, mscHit := 0, fabLost := 0, snapDrop := 0, replay := 0, dmr := 0, mirror := 0,
    consume := 0, uncorr := 0, corr := 0, errrec := 0, zones := [], handles := [], seqs := [], stage := [],
    starts := [], tlb := [], walks := [] }

/-! ### Copies (R179 to R186, R304 to R306) -/

inductive CopySt | queued | moving | complete | failed (f : FaultInfo)
  deriving DecidableEq, Repr, Inhabited

structure CopyOp where
  die : Nat
  lane : Lane
  /-- the crew, the core and the `%gid` of the issuing thread's group -/
  crew : Nat
  core : Nat
  gid : Nat
  part : Nat
  gen : Word
  launch : Nat
  scope : Scope
  dst : DWord
  src : DWord
  len : Nat
  rel : Bool
  st : CopySt
  off : Nat
  /-- the offsets above `off` whose sectors have moved already -/
  ahead : List Nat
  promise : Nat
  marked : Bool
  batch : Word
  seq : Nat
  cancel : Bool
  /-- the issuing thread's CP still counts it -/
  counted : Bool
  /-- after a PAGE_FAULT a waiter's re-execution resumes it; POISON and BOUNDS end it (R181) -/
  resumable : Bool
  deriving DecidableEq, Repr, Inhabited

/-! ### Accesses in flight (R37, R165 to R174) -/

inductive OpKind
  | load (sgn : Bool) (dst : List Nat) (input : Option Nat)
  | store
  | atom (op : AtomOp) (wide : Bool) (dst : List Nat)
  | acas (wide : Bool) (dst : List Nat)
  | signal (add : Bool)
  /-- part of the record of BLD, counted by the threads `ts`, and one element of SMLD: the word takes what they read once all of it is
  there (R168, R215) -/
  | bld (ts : List Nat)
  | smld (el : Nat)
  /-- one element of SMST, which moves no counter (R215) -/
  | smst
  deriving DecidableEq, Repr, Inhabited

structure MemOp where
  lane : Lane
  kind : OpKind
  va : DWord
  space : Space
  size : Nat
  /-- where in the access of its word this unit stands (R171), and the bytes a region's load takes from the region's own stores (R220) -/
  off : Nat
  patch : AMap Byte
  scope : Scope
  ord : MOrd
  hint : Nat
  /-- the first access of the same word and thread: accesses of one word are unordered (R277) -/
  word : Nat
  data : List Byte
  /-- the directory level the request has climbed to (0 the L1) -/
  level : Nat
  /-- the request holds a miss-status entry of its slice (R272) -/
  entry : Bool
  rejects : Nat
  rejected : Bool
  /-- a fence of its thread at a narrower scope has passed: nobody reads the sector until the store is performed (R283) -/
  fenced : Bool
  /-- since when the request stands on its slice's aged list (R273) -/
  agedAt : Option Nat
  /-- poison or a lost fabric met by a returning access: raised at the word that waits for its value (R375, R395) -/
  failed : Option FaultInfo
  /-- what a BLD or SMLD access read -/
  got : Option (List Byte)
  /-- the core and the quad it issues from and the `%gid` of its group, which may have retired (R136, R235) -/
  core : Nat
  quad : Nat
  gid : Nat
  part : Nat
  gen : Word
  launch : Nat
  deriving DecidableEq, Repr, Inhabited

/-! ### Coherence knowledge of one 64-byte sector (R260 to R271, R374, R404) -/

inductive L1St | m | o | e | s
  deriving DecidableEq, Repr, Inhabited

inductive DirSt | s | x
  deriving DecidableEq, Repr, Inhabited

/-- The window sector that holds a sector as H: core, window, number (R258). -/
structure HWin where
  core : Nat
  w : Nat
  k : Nat
  deriving DecidableEq, Repr, Inhabited

structure Sector where
  /-- L1 copies by core; an absent core is I -/
  l1 : AMap L1St
  /-- directory states by 64 × level + instance (level 0 cluster to 4 package); an absent entry is N -/
  dir : AMap DirSt
  /-- copies whose invalidation has not arrived, with the bytes they still hold -/
  stale : AMap (List Byte)
  /-- the bytes below the dirty L1 copy, while one is dirty (R180) -/
  below : Option (List Byte)
  /-- the L2 that holds the sector dirty -/
  l2dirty : Option Nat
  /-- the L2 that owns the sector, as M, O or E, while no L1 does (R261, R267) -/
  l2own : Option Nat
  /-- the dies whose L2 holds a clean shared copy that its L1s have given up, and such copies whose invalidation has not arrived
  (R261, R270) -/
  l2s : List Nat
  l2stale : AMap (List Byte)
  /-- the directories the latest bytes have passed while such old copies stand: they answer with nothing older (R268, R278) -/
  fresh : List Nat
  /-- the memory-side cache of the home holds the sector, and since when dirty (R262) -/
  mscHas : Bool
  msc : Option Nat
  poison : Bool
  /-- the window that holds the sector as H, in every cache and directory level (R258, R265) -/
  win : Option HWin
  /-- a die that a fence took held its ownership or its newest bytes, until the rebuild ends: whether they were lost (R402, R404) -/
  gone : Option Bool
  deriving DecidableEq, Repr, Inhabited

def Sector.init : Sector :=
  { l1 := [], dir := [], stale := [], below := none, l2dirty := none, l2own := none, l2s := [], l2stale := [], fresh := [],
    mscHas := false, msc := none, poison := false, win := none, gone := none }

/-! ### Launches (R316, R325, R327, R376 to R381) -/

structure LaunchRec where
  entry : DWord
  access : DWord
  rtab : DWord
  stkbase : DWord
  handler : DWord
  itot : Nat
  itile : Nat
  crews : Nat
  width : Nat
  gpc : Nat
  cscope : Nat
  mcnt : Nat
  mdim : Nat
  vcnt : Nat
  stkf : Nat
  gscr : Nat
  cregs : Nat
  cscr : Nat
  cstash : Nat
  prio : Nat
  split : Bool
  idem : Bool
  snap : Bool
  prot : Bool
  fair : Bool
  preds : List DWord
  crec : DWord
  deriving DecidableEq, Repr, Inhabited

inductive LState | taken | waiting | ready | running | replaying | finishing | done
  deriving DecidableEq, Repr, Inhabited

/-- The reasons of R327, codes 1 to 13 in order. -/
inductive Reason
  | format | carve | record | progress | fit | pred | access | context | fault | uncorrected | sideeffect | killed
  | fabric
  deriving DecidableEq, Repr, Inhabited

/-- A captured granule: its number, the pool entry, and its poisoned sectors (R378). -/
structure Capture where
  granule : Nat
  entry : Nat
  poison : List Nat
  deriving DecidableEq, Repr, Inhabited

inductive SnapSt | none | held | dropped
  deriving DecidableEq, Repr, Inhabited

/-- A crew dealt to a unit and not yet admitted (R330). -/
structure Dealt where
  unit : Nat
  cid : Nat
  deriving DecidableEq, Repr, Inhabited

structure Launch where
  part : Nat
  queue : Nat
  resv : Nat
  lrec : LaunchRec
  rtab : AMap BRec
  state : LState
  reason : Option Reason
  fault : Option (FaultInfo × Nat × Bool)
  /-- the fault that caused the last replay -/
  replayFault : Option (FaultInfo × Nat × Bool)
  tstart : Nat
  tend : Nat
  nreplay : Nat
  /-- C in force -/
  crewsC : Nat
  dealt : List Dealt
  retired : Nat
  mirr : Bool
  sideEffect : Bool
  snap : SnapSt
  caps : List Capture
  /-- the handle of the LAUNCH that enqueued it: die and SEQ -/
  handle : Option (Nat × Nat)
  /-- the order in which the master served it (R332) -/
  served : Option Nat
  /-- a die loss left the replay of this launch to be begun -/
  affected : Bool
  /-- the physical place of its completion record, as the engine found it at taking (R324, R383) -/
  crecPa : Nat
  deriving DecidableEq, Repr, Inhabited

/-! ### Partitions (R318, R323, R341 to R355, R377, R400) -/

inductive PState | free | resident | saving | swapped | restoring | killing
  deriving DecidableEq, Repr, Inhabited

structure PQueue where
  qb : Nat
  slots : Nat
  head : Nat
  drops : Nat
  lastDrop : Nat
  /-- RESIDENT time spent waiting for the stamp of slot HEAD (R322) -/
  waited : Nat
  /-- the LAUNCH handles of reservations written from the launch buffer: die and SEQ (R323) -/
  handles : AMap (Nat × Nat)
  deriving DecidableEq, Repr, Inhabited

/-- A place of the launch buffer (R323). -/
structure LBuf where
  q : Nat
  n : Nat
  bytes : List Byte
  handle : Option (Nat × Nat)
  deriving DecidableEq, Repr, Inhabited

/-- A saved group with the tiles it held and its windows: record, mode, offset (R192, R350), and where its image stands in the
context. -/
structure SavedGroup where
  group : Group
  off : Nat
  tiles : List SavedTile
  windows : List (Nat × Bool × Nat)
  deriving DecidableEq, Repr

/-- The context of one die (R350) and where it lies (R351). -/
structure Context where
  die : Nat
  /-- where it stands in the context area, if it is not in the Cocoon (R351) -/
  base : Nat
  size : Nat
  cocoon : Bool
  crews : List Nat
  groups : List SavedGroup
  copies : List Nat
  deriving DecidableEq, Repr

structure Partition where
  /-- the 128 bytes of R342 as sixteen words -/
  cfg : AMap DWord
  gen : Word
  latmiss : Nat
  badcfg : Bool
  ctxfull : Bool
  wakepend : Bool
  killdone : Bool
  state : PState
  tlbinva : DWord
  tlbBusy : Bool
  tlbAll : Bool
  tlbN : Nat
  snapbase : DWord
  snaplen : Nat
  /-- pool entries that hold a capture -/
  snapuse : List Nat
  ttab : DWord
  queues : AMap PQueue
  lbuf : List LBuf
  master : Nat
  lastServed : Nat
  ctxs : List Context
  /-- a swap-out was requested through PCTL (R345) -/
  swapReq : Bool
  /-- a function-level reset is being carried out (R354) -/
  resetting : Bool
  since : Nat
  wakeAt : Option Nat
  msixPend : List Nat
  msixMask : List Nat
  deriving DecidableEq, Repr

def Partition.init : Partition :=
  { cfg := [], gen := 0, latmiss := 0, badcfg := false, ctxfull := false, wakepend := false, killdone := false,
    state := .free, tlbinva := 0, tlbBusy := false, tlbAll := false, tlbN := 0, snapbase := 0, snaplen := 0,
    snapuse := [], ttab := 0, queues := [], lbuf := [], master := 0, lastServed := 15, ctxs := [], swapReq := false,
    resetting := false, since := 0, wakeAt := none, msixPend := [], msixMask := [] }

/-! ### Ports and the package (R357, R393, R396, R403, R408 to R412) -/

structure SpanPort where
  enabled : Bool
  /-- start of the recovery, while in recovery -/
  recovery : Option Nat
  linkDown : Bool
  nacks : Nat
  deriving DecidableEq, Repr, Inhabited

def SpanPort.init : SpanPort := { enabled := false, recovery := none, linkDown := false, nacks := 0 }

structure HostPort where
  linkDown : Bool
  recovery : Option Nat
  mbxbase : DWord
  nonce : List Byte
  attBusy : Bool
  report : List Byte
  deriving DecidableEq, Repr, Inhabited

def HostPort.init : HostPort :=
  { linkDown := false, recovery := none, mbxbase := 0, nonce := [], attBusy := false, report := [] }

/-- A sector of host memory outside the windows: what it held at the part's last CINV.sys and after each host write since but the
last, and the bytes the part has stored and not handed over (R293). -/
structure HostSec where
  olds : List (List Byte)
  own : AMap Byte
  deriving DecidableEq, Repr, Inhabited

/-- A message sent to a host port: the function it comes from (a partition's virtual function, or the physical
function) and its vector (R228, R354). -/
structure Msg where
  port : Nat
  vf : Option Nat
  vec : Nat
  deriving DecidableEq, Repr, Inhabited

structure Pwr where
  throt : Nat
  meas : Nat
  limit : Nat
  deriving DecidableEq, Repr, Inhabited

structure Boot where
  step : Nat
  slotB : Bool
  degraded : Bool
  recovery : Bool
  fwDigest : List Byte
  cfgDigest : List Byte
  deriving DecidableEq, Repr, Inhabited

/-! ### The model's own fields: who moves next (log entry 1) -/

/-- The agent whose word issues when the agenda is empty. -/
inductive Agent | none | gang (k : Nat) | slice (g : Nat)
  deriving DecidableEq, Repr, Inhabited

/-- Where an error is found (R373). -/
inductive ErrAt
  /-- the word of a V register that supplies a lane -/
  | vreg (l : Lane) (n : Nat)
  | mreg (l : Lane) (m el : Nat)
  | frame (l : Lane) (i : Nat)
  | scratch (g sec : Nat)
  | stash (core w k : Nat)
  | l1 (core sec : Nat)
  | tileZ (core t k : Nat)
  | tileY (core t k : Nat)
  | table (core t k : Nat)
  | l2 (die sec : Nat)
  | msc (sec : Nat)
  | hbm (sec : Nat)
  | icache (core sec : Nat)
  | control (die : Nat)
  deriving DecidableEq, Repr

/-- A move of an agent: a gang or a slice issues its next word, an event of the table happens, the copy engine moves one
sector or unit, a tile operation performs one of its stores, a port in recovery has a held flit acknowledged, or an error is found in stored bits, correctable or not. -/
inductive Move
  | gang (k : Nat)
  | slice (g : Nat)
  | event (e : Instr)
  | copySector (c : Nat)
  | tileStore (core op : Nat)
  | flitAck (port op : Nat)
  | upset (at' : ErrAt) (fatal : Bool)
  deriving DecidableEq, Repr

/-- A move and the time that passes before it, in units of 1/17 ns. -/
structure Turn where
  dt : Nat
  move : Move
  deriving DecidableEq, Repr

/-- A store performed before events of its thread that come before it, or a release before what it releases (R277, R282, R285): its
thread, core, scope and name, its bytes, and what is not performed yet that happens before whoever synchronises with it. -/
structure EarlyRel where
  lane : Lane
  core : Nat
  scope : Scope
  op : Nat
  /-- it is a release -/
  rel : Bool
  space : Space
  size : Nat
  /-- its bytes, or those of its release sequence, are still the latest -/
  last : Bool
  /-- the threads whose relaxed reads have read it, each with the scope of the read -/
  readers : List (Lane × Scope)
  /-- threads with a name: the accesses of the thread before it -/
  needs : List (Lane × Nat)
  deriving DecidableEq, Repr, Inhabited

/-- The package. -/
structure State where
  /-- the model's own fields: the moves to come (log entry 1), the agent at its word, the counter of free values (log
  entry 5), the next name for a group, gang or operation -/
  agenda : List Turn
  cur : Agent
  free : Nat
  nextId : Nat
  /-- time since power-up in units of 1/17 ns (R22, R398) -/
  time : Nat
  groups : AMap Group
  gangs : AMap Gang
  crews : AMap Crew
  /-- by die × 96 + site -/
  cores : AMap Core
  /-- by die × 4 + cluster -/
  clusters : AMap Cluster
  dies : AMap Die
  parts : AMap Partition
  launches : AMap Launch
  ops : AMap MemOp
  /-- releases performed before what they release: an acquire that synchronises with one waits (R282) -/
  rels : List EarlyRel
  copies : AMap CopyOp
  /-- bytes by physical address, the newest in coherence order (R278); an unlisted byte reads 0 (log entry 4) -/
  mem : List Host.Cell
  /-- by PA / 64 -/
  sectors : AMap Sector
  /-- sectors of host memory outside the windows, as the part may see them (R293) -/
  hostCache : AMap HostSec
  span : AMap SpanPort
  hosts : AMap HostPort
  homemap : AMap Nat
  /-- home-map entries whose directory a fence is rebuilding on another die (R402, R413) -/
  lostHomes : List Nat
  pwr : Pwr
  boot : Boot
  pkg : PkgConfig
  msgs : List Msg
  deriving DecidableEq, Repr

/-- The package at power-up, before bring-up (R410): BOOTSTAT step 1, nothing measured, nothing placed. The values the
spec does not give are named in log entries 2, 3 and 4. -/
def State.reset : State :=
  { agenda := [], cur := .none, free := 0, nextId := 1, time := 0, groups := [], gangs := [], crews := [], cores := [],
    clusters := [], dies := [], parts := [], launches := [], ops := [], rels := [], copies := [], mem := [], sectors := [],
    hostCache := [], span := [], hosts := [], homemap := [], lostHomes := [], pwr := { throt := 0, meas := 0, limit := 5400 },
    boot := { step := 1, slotB := false, degraded := false, recovery := false, fwDigest := [], cfgDigest := [] },
    pkg := { virt := false, spanNumber := 0, spanPorts := 0, limit := none }, msgs := [] }

/-! ### How a step can stop -/

/-- The machine has no fault of its own: every fault of the spec is a step (R10). -/
inductive Fault
  /-- Raised by the meaning of an instruction word when no gang and no slice stands at a word: the word has no thread
  that could issue it. Safe: the spec gives a word an effect only in a thread that reaches it (R236, R82). -/
  | noAgent
  deriving DecidableEq, Repr

inductive Refusal
  /-- An instruction the model gives no meaning yet, by its mnemonic in the opcode table. Safe. -/
  | notModelled (mnemonic : String)
  deriving DecidableEq, Repr

end Sys2Proof.Machine
end

