-- ==== Sys2Proof/Machine/Access.lean ====
section
/-! DEFINITION. Reading and changing one part of the state: a group, a thread, a gang, a core, a die, a partition, a
launch. Every other file goes through these. -/

namespace Sys2Proof

/-- The key of a thread in its group: a shadow stands at `%tid` + 64 (R387). -/
def Lane.key (l : Lane) : Nat := l.t + 64 * b2n l.sh

/-- The shadow of a primary. -/
def Lane.shadow (l : Lane) : Lane := { l with sh := true }

end Sys2Proof

namespace Sys2Proof.Machine

open Sys2Proof

/-! ### One part of the state -/

def State.group? (s : State) (g : Nat) : Option Group := s.groups.find? g
def State.modGroup (s : State) (g : Nat) (f : Group → Group) : State := { s with groups := s.groups.modify g f }
def State.gang? (s : State) (k : Nat) : Option Gang := s.gangs.find? k
def State.modGang (s : State) (k : Nat) (f : Gang → Gang) : State := { s with gangs := s.gangs.modify k f }
def State.crew? (s : State) (c : Nat) : Option Crew := s.crews.find? c
def State.modCrew (s : State) (c : Nat) (f : Crew → Crew) : State := { s with crews := s.crews.modify c f }
def State.core (s : State) (c : Nat) : Core := s.cores.get Core.init c
def State.setCore (s : State) (c : Nat) (x : Core) : State := { s with cores := s.cores.set c x }
def State.modCore (s : State) (c : Nat) (f : Core → Core) : State := s.setCore c (f (s.core c))
def State.cluster (s : State) (c : Nat) : Cluster := s.clusters.get Cluster.init c
def State.modCluster (s : State) (c : Nat) (f : Cluster → Cluster) : State :=
  { s with clusters := s.clusters.set c (f (s.cluster c)) }
def State.die (s : State) (d : Nat) : Die := s.dies.get Die.init d
def State.modDie (s : State) (d : Nat) (f : Die → Die) : State := { s with dies := s.dies.set d (f (s.die d)) }
def State.partn (s : State) (p : Nat) : Partition := s.parts.get Partition.init p
def State.modPart (s : State) (p : Nat) (f : Partition → Partition) : State :=
  { s with parts := s.parts.set p (f (s.partn p)) }
def State.launch? (s : State) (l : Nat) : Option Launch := s.launches.find? l
def State.modLaunch (s : State) (l : Nat) (f : Launch → Launch) : State :=
  { s with launches := s.launches.modify l f }
def State.sector (s : State) (n : Nat) : Sector := s.sectors.get Sector.init n
def State.setSector (s : State) (n : Nat) (x : Sector) : State :=
  { s with sectors := if x = Sector.init then s.sectors.erase n else s.sectors.set n x }
def State.modSector (s : State) (n : Nat) (f : Sector → Sector) : State := s.setSector n (f (s.sector n))
def State.spanPort (s : State) (n : Nat) : SpanPort := s.span.get SpanPort.init n
def State.modSpan (s : State) (n : Nat) (f : SpanPort → SpanPort) : State :=
  { s with span := s.span.set n (f (s.spanPort n)) }
def State.hostPort (s : State) (n : Nat) : HostPort := s.hosts.get HostPort.init n
def State.modHost (s : State) (n : Nat) (f : HostPort → HostPort) : State :=
  { s with hosts := s.hosts.set n (f (s.hostPort n)) }

/-! ### Threads -/

def Group.thread? (g : Group) (k : Nat) : Option Thread := g.threads.find? k
def Group.modThread (g : Group) (k : Nat) (f : Thread → Thread) : Group :=
  { g with threads := g.threads.modify k f }

def State.thread? (s : State) (l : Lane) : Option Thread := (s.group? l.g).bind fun g => g.thread? l.key
/-- The thread of a lane; a lane without one reads as a thread that is not live. -/
def State.thread (s : State) (l : Lane) : Thread := (s.thread? l).getD { Thread.create 0 with live := false }
def State.modThread (s : State) (l : Lane) (f : Thread → Thread) : State :=
  s.modGroup l.g fun g => g.modThread l.key f

/-- `%col`: base plus `%tid`, or the even column in protected mode (R230, R231, R387). -/
def Group.colOf (g : Group) (l : Lane) : Nat := if g.prot then g.base + 2 * l.t + b2n l.sh else g.base + l.t

/-- Changes a thread and, in protected mode, its shadow alike. -/
def State.modBoth (s : State) (l : Lane) (f : Thread → Thread) : State :=
  (s.modThread l f).modThread l.shadow f

/-- The primaries of a group in `%tid` order, with their numbers. -/
def Group.primaries (g : Group) : List (Nat × Thread) := g.threads.filter fun e => decide (e.1 < 64)

/-- The live primaries. -/
def Group.live (g : Group) : List (Nat × Thread) := g.primaries.filter fun e => e.2.live

/-- A group of a lane, or a group without threads. -/
def Group.nobody : Group :=
  { gid := 0, cid := 0, width := 0, idx := 0, crew := 0, launch := 0, part := 0, core := 0, quad := 0, row := 0,
    base := 0, slot := 0, v := [], vsh := [], lru := [], spilled := [], j := [], b := [], bPlaced := [], mirr := false,
    prot := false, fair := false, ser := false, lastSer := 0, fslot := none, paths := [], wd := 0, slice := Slice.none,
    scratch := [], scratchPoison := [], rounds := [], threads := [], skid := 0, stepped := false, owed := [], undone := [] }

def State.grp (s : State) (g : Nat) : Group := (s.group? g).getD Group.nobody

/-! ### Where things are (R12, R14, R16, R230) -/

def coreDie (c : Nat) : Nat := c / 96
def coreSite (c : Nat) : Nat := c % 96
/-- The cluster of a core, package-wide: die × 4 + site div 24. -/
def coreCluster (c : Nat) : Nat := coreDie c * 4 + coreSite c / 24

def scopeLevel (s : Scope) : Nat := scopeCode s

/-- The instance of a level that holds a core (R14); every core shares the one system. -/
def instanceOf (s : Scope) (core : Nat) : Nat :=
  match s with
  | .core => core
  | .clu => coreCluster core
  | .die => coreDie core
  | .twr => coreDie core / 2
  | .deck => coreDie core / 8
  | .pkg => 0
  | .sys => 0

/-- ScopeContains of R14 for two agents on cores. -/
def scopeContains (s : Scope) (x y : Nat) : Bool := instanceOf s x == instanceOf s y

/-! ### Time (R6, R22, R398) -/

/-- Package time: ticks of 1 ns since power-up. -/
def State.ticks (s : State) : Nat := s.time / 17
/-- The first reading of a counter with a rate correction `r` whose corrected value reaches `x`. -/
def firstTick (r x : Int) : Int := -((-x * 2 ^ 40) / (2 ^ 40 + r))

/-- `%dclk` of a die: its own free-running count (R22, R398; log entry 15). -/
def State.dclk (s : State) (die : Nat) : Nat := (firstTick (s.die die).drift (s.ticks + (s.die die).skew)).toNat
/-- `%clk`: periods of 850 MHz since power-up. -/
def State.clk (s : State) : Nat := s.time / 20

/-! ### Free values (log entry 5) -/

/-- The next free 64-bit value. -/
def State.freeWord (s : State) : DWord := Config.freeValue s.free
/-- The next free choice. -/
def State.freeBit (s : State) : Bool := Config.freeChoice s.free
/-- Advances the counter of free values. -/
def State.used (s : State) (n : Nat) : State := { s with free := s.free + n }

/-- A new name. -/
def State.fresh (s : State) : State := { s with nextId := s.nextId + 1 }

/-! ### Folding over lists of lanes -/

/-- Applies a change for each element, in order. -/
def State.forEach {α : Type} (l : List α) (f : α → State → State) (s : State) : State :=
  l.foldl (fun s a => f a s) s

/-- The groups present in a list of lanes, each once, in increasing number. -/
def groupsOf (ls : List Lane) : List Nat :=
  (ls.foldl (fun (m : AMap Unit) l => m.set l.g ()) []).keys

/-- The lanes of one group. -/
def lanesOf (ls : List Lane) (g : Nat) : List Lane := ls.filter fun l => l.g == g

/-- The lane with the lowest `%tid`. -/
def lowest : List Lane → Option Lane
  | [] => none
  | l :: r =>
    match lowest r with
    | none => some l
    | some m => if l.t ≤ m.t then some l else some m

/-- The launch record a group runs under. -/
def State.recOf (s : State) (g : Nat) : Option LaunchRec :=
  ((s.group? g).bind fun x => s.launch? x.launch).map fun l => l.lrec

/-! ### Configuration fields of a partition (R342) -/

def Partition.byte (p : Partition) (off : Nat) : Nat :=
  natField (p.cfg.get 0 (off / 8)).toNat (8 * (off % 8)) 8
def Partition.word32 (p : Partition) (off : Nat) : Nat :=
  natField (p.cfg.get 0 (off / 8)).toNat (8 * (off % 8)) 32
def Partition.word64 (p : Partition) (off : Nat) : DWord := p.cfg.get 0 (off / 8)

def Partition.ptroot (p : Partition) : Nat := (p.word64 0).toNat
def Partition.ctxbase (p : Partition) : Nat := (p.word64 8).toNat
def Partition.ctxlen (p : Partition) : Nat := (p.word64 16).toNat
def Partition.qtab (p : Partition) : Nat := (p.word64 24).toNat
def Partition.diemask (p : Partition) : Nat := p.word32 32 % 65536
def Partition.qcnt (p : Partition) : Nat := p.byte 34
/-- 0 LATENCY, 1 THROUGHPUT, 2 BACKGROUND. -/
def Partition.qos (p : Partition) : Nat := p.byte 35 / 64
def Partition.port (p : Partition) : Nat := p.byte 35 / 32 % 2
def Partition.debug (p : Partition) : Bool := natBit (p.byte 35) 4
def Partition.vecs (p : Partition) : Nat := p.word32 36 % 65536
def Partition.whbm (p : Partition) : Nat := p.byte 38
def Partition.wspan (p : Partition) : Nat := p.byte 39
def Partition.wdlog (p : Partition) : Nat := p.byte 40
def Partition.ctxmax (p : Partition) : Nat := p.word32 44
/-- TSLICE in µs (R342). -/
def Partition.tslice (p : Partition) : Nat := if p.word32 48 = 0 then 2000 else p.word32 48
def Partition.hasDie (p : Partition) (d : Nat) : Bool := natBit p.diemask d
/-- The dies of a partition, rising. -/
def Partition.dies (p : Partition) : List Nat := (List.range 16).filter p.hasDie
/-- The watchdog limit in clk (R247, R342). -/
def Partition.wdLimit (p : Partition) : Nat := 2 ^ (if p.wdlog = 0 then 27 else p.wdlog)

/-- The towers DIEMASK touches (R244, R344). -/
def Partition.towers (p : Partition) : Nat :=
  ((List.range 8).filter fun t => p.hasDie (2 * t) || p.hasDie (2 * t + 1)).length

end Sys2Proof.Machine
end

