-- ==== Sys2Proof/Machine/Operands.lean ====
section
/-! DEFINITION. Operands (R26 to R33, R46, R82, R87): shape tags, reading and writing general registers, queue pops, guards,
and the tables that say which registers each word names. -/

namespace Sys2Proof

/-! ### Shape tags (R28, R29) -/

/-- The value the thread with this `%tid` reads (R28). -/
def Machine.VVal.at (v : Machine.VVal) (t : Nat) : Word :=
  match v with
  | .u w => w
  | .a b s => b + BitVec.ofNat 32 t * s
  | .g ws => ws.get 0 t

/-- The tag code of R28. -/
def Machine.VVal.code : Machine.VVal → Nat
  | .u _ => 0
  | .a _ _ => 1
  | .g _ => 2

def Machine.VVal.isU : Machine.VVal → Bool
  | .u _ => true
  | _ => false

/-- The words of a register as G: each thread keeps the value it read (R124). -/
def Machine.VVal.words (v : Machine.VVal) (width : Nat) : AMap Word :=
  match v with
  | .g ws => ws
  | v => (List.range width).map fun t => (t, v.at t)

end Sys2Proof

namespace Sys2Proof.Machine

open Sys2Proof

/-! ### Reading and writing general registers -/

/-- The general registers of the primaries or of the shadows. -/
def Group.file (g : Group) (sh : Bool) : AMap VReg := if sh then g.vsh else g.v

def Group.vreg (g : Group) (sh : Bool) (n : Nat) : VReg := (g.file sh).get VReg.init n

def Group.setVreg (g : Group) (sh : Bool) (n : Nat) (r : VReg) : Group :=
  if sh then { g with vsh := g.vsh.set n r } else { g with v := g.v.set n r }

/-- V[n] as a lane reads it. -/
def Group.readV (g : Group) (l : Lane) (n : Nat) : Word := (g.vreg l.sh n).val.at l.t

/-- The pair V[n], V[n+1] as a lane reads it (R27). -/
def Group.readPair (g : Group) (l : Lane) (n : Nat) : DWord := DWord.ofWords (g.readV l n) (g.readV l (n + 1))

/-- The tag of a register. -/
def Group.shape (g : Group) (sh : Bool) (n : Nat) : Nat := (g.vreg sh n).val.code

/-- Writes one register with a whole value; stored words that were inverted are replaced, in the mirror as well (R226). -/
def Group.putV (g : Group) (sh : Bool) (n : Nat) (v : VVal) : Group :=
  g.setVreg sh n { val := v, err := 0, errs := [] }

/-- Writes the words of some threads of one register, which becomes G (R29). -/
def Group.putG (g : Group) (sh : Bool) (n : Nat) (ws : List (Nat × Word)) : Group :=
  let r := g.vreg sh n
  let old := r.val.words g.width
  let spread := fun (errs : AMap Word) (err : Word) => match r.val with
    | .g _ => errs
    | _ => if err = 0 then [] else (List.range g.width).map fun t => (t, err)
  let left := fun (m : AMap Word) => ws.foldl (fun m e => m.erase e.1) m
  g.setVreg sh n
    { val := .g (ws.foldl (fun m e => m.set e.1 e.2) old), err := 0,
      errs := left (spread r.errs r.err), merrs := left (spread r.merrs r.merr) }

/-- Writes one thread's word of a register. -/
def Group.putLane (g : Group) (l : Lane) (n : Nat) (w : Word) : Group := g.putG l.sh n [(l.t, w)]

/-- Writes one thread's pair. -/
def Group.putLanePair (g : Group) (l : Lane) (n : Nat) (w : DWord) : Group :=
  (g.putLane l n w.lo).putLane l (n + 1) w.hi

/-- A V register write of a lane, recorded in its open region: the tags of what it writes go (R220, R223). -/
def Thread.noteWrite (th : Thread) (ns : List Nat) : Thread :=
  match th.region with
  | none => th
  | some r =>
    { th with region := some { r with wrote := ns.foldl (fun w n => if w.contains n then w else n :: w) r.wrote,
                                      tags := r.tags.filter fun e => !(ns.contains e.1 || (e.2.wide && ns.contains (e.1 + 1))) } }

/-- Writes words of one lane from a list of registers and values, G-shaped. -/
def State.putRegs (s : State) (l : Lane) (ws : List (Nat × Word)) : State :=
  (s.modGroup l.g fun g => ws.foldl (fun g e => g.putLane l e.1 e.2) g).modThread l
    fun th => th.noteWrite (ws.map Prod.fst)

/-- Writes words of one lane and of its shadow alike (R388). -/
def State.putBoth (s : State) (l : Lane) (ws : List (Nat × Word)) : State :=
  if (s.grp l.g).prot then (s.putRegs l ws).putRegs l.shadow ws else s.putRegs l ws

/-! ### Predicates, handles, records (R31, R34, R38) -/

/-- P[n]; P31 reads 1 (R31). -/
def Thread.pred (th : Thread) (n : Nat) : Bool := if n = 31 then true else th.preds.getLsbD n

/-- Writes P[n]; a write of P31 is discarded (R31). -/
def Thread.setPred (th : Thread) (n : Nat) (b : Bool) : Thread :=
  if n = 31 then th
  else { th with preds := if b then th.preds ||| (1#31 <<< n) else th.preds &&& ~~~(1#31 <<< n) }

def Thread.handle (th : Thread) (n : Fin 16) : DWord := th.h.get 0 n.val
def Thread.setHandle (th : Thread) (n : Fin 16) (v : DWord) : Thread := { th with h := th.h.set n.val v }

/-- GuardTrue of R82. -/
def guardTrue (g : Guard) (th : Thread) : Bool :=
  let a := th.pred g.pA.val != g.negA
  let b := th.pred g.pB.val != g.negB
  if g.joinOr then a || b else a && b

/-- Raises flags in `%fst` (R52). -/
def Thread.raise (th : Thread) (fl : Word) : Thread := { th with fst := th.fst ||| fl }

/-- Flags that something untracked has raised in an open region are no longer its additions' alone (R222). -/
def Thread.ownFlags (th : Thread) (fl : Word) : Thread := { th with region := th.region.map fun r => { r with tflags := r.tflags &&& ~~~fl } }

def Group.brec (g : Group) (n : Nat) : BRec := g.b.get 0 n

/-! ### Which operands a word reads, in the order A, B, C, E (R26) -/

/-- Source operand codes with their width (true for a pair), in pop order. -/
def sources : Instr → List (Src × Bool)
  | .iadd _ x | .isub _ x | .imul _ x | .imulh _ x | .imin _ x | .imax _ x | .and _ x | .or _ x | .xor _ x
  | .andn _ x => [(x.a, x.w), (x.b, x.w)]
  | .imad _ x => [(x.a, x.w), (x.b, x.w), (x.c, x.w)]
  | .imadw _ x => [(x.a, false), (x.b, false), (x.c, true)]
  | .ineg _ x | .iabs _ x | .brev _ x | .popc _ x | .clz _ x | .ctz _ x => [(x.a, x.w)]
  | .lea _ x => [(x.a, x.w), (x.b, false)]
  | .bool3 _ x => [(x.a, x.w), (x.b, x.w), (x.c, x.w)]
  | .shl _ x | .shr _ x | .rot _ x => [(x.a, x.w), (x.b, false)]
  | .fshl _ x => [(x.a, x.w), (x.b, x.w), (x.c, false)]
  | .bfx _ x => [(x.a, x.w), (x.b, false), (x.c, false)]
  | .bfi _ x => [(x.a, x.w), (x.b, false), (x.c, false), (x.e, x.w)]
  | .icmp _ x => [(x.a, x.w), (x.b, x.w)]
  | .isel _ x => [(x.a, x.w), (x.b, x.w)]
  | .iaddImm _ x | .isubImm _ x | .imulImm _ x | .iminImm _ x | .imaxImm _ x | .andImm _ x | .orImm _ x
  | .xorImm _ x => [(x.a, false)]
  | .shlImm _ x | .shrImm _ x | .rotImm _ x => [(x.a, false)]
  | .plog _ _ | .pmovGet _ _ => []
  | .pmovSet _ a b => [(a, false), (b, false)]
  | .mov _ x => [(x.a, x.w)]
  | .movi _ _ _ | .movi32 _ _ _ | .movs _ _ _ => []
  | .movsw _ r b => [(b, r.wide)]
  | .elect _ _ _ => []
  | .movjToJ _ _ a => [(a, true)]
  | .movjToV _ _ _ => []
  | .bra _ _ | .call _ _ | .callL _ _ _ => []
  | .brx _ r | .callx _ r => [(.v r, true)]
  | .callxL _ r _ => [(.v r, true)]
  | .ret _ | .throw _ | .jarm _ _ | .waitj _ _ | .yield _ | .exit _ | .nop _ => []
  | .fadd _ x | .fsub _ x | .fmul _ x => [(x.a, x.t.wide), (x.b, x.t.wide)]
  | .ffma _ x => [(x.a, x.t.wide), (x.b, x.t.wide), (x.c, x.t.wide)]
  | .fmin _ x | .fmax _ x => [(x.a, x.t.wide), (x.b, x.t.wide)]
  | .fcmp _ x => [(x.a, x.t.wide), (x.b, x.t.wide)]
  | .fclass _ x => [(x.a, x.t.wide)]
  | .frnd _ x => [(x.a, x.t.wide)]
  | .fscale _ x => [(x.a, x.t.wide), (x.b, false)]
  | .frcp _ x | .frsq _ x | .fsqrt _ x | .fexp2 _ x | .flog2 _ x | .fsin _ x | .fcos _ x
  | .ftanh _ x => [(x.a, x.t.wide)]
  | .fcvt _ x => [(x.a, x.src.wide)]
  | .icvt _ x => [(x.a, x.src.wide)]
  | .extp _ x => [(x.a, false), (x.b, false), (x.c, false)]
  | .packp _ x => [(x.a, x.src.wide), (x.b, false), (x.c, false)]
  | .shfl _ x => [(x.a, x.w), (x.b, false)] ++ (match x.mask with | .pair m => [(m, true)] | .j _ => []) ++ [(x.fill, x.w)]
  | .vote _ x => (match x.mask with | .pair m => [(m, true)] | .j _ => []) ++
      (match x.dst with | .ballot _ f => [(f, true)] | .all _ _ | .any _ _ | .uni _ _ => [])
  | .redx _ x => [(x.a, x.op.wide)] ++ (match x.mask with | .pair m => [(m, true)] | .j _ => []) ++ [(x.fill, x.op.wide)]
  | .scanx _ x => [(x.a, x.op.wide)] ++ (match x.mask with | .pair m => [(m, true)] | .j _ => []) ++ [(x.fill, x.op.wide)]
  | .matchx _ x => [(x.a, x.w)] ++ (match x.mask with | .pair m => [(m, true)] | .j _ => []) ++ [(x.fill, true)]
  | .xsnd _ x => [(x.slot, false), (x.data, x.w)] ++ (match x.mask with | .pair m => [(m, true)] | .j _ => [])
  | .xrcv _ x => [(x.slot, false)] ++ (match x.mask with | .pair m => [(m, true)] | .j _ => []) ++ [(x.fill, x.w)]
  | .shapeQ _ _ a => [(a, false)]
  | .shapeG _ _ => []
  | .aff _ _ a b => [(a, false), (b, false)]
  | .ld _ _ => []
  | .st _ x => match x.ty with
    | .b64 => [(x.data, true)]
    | .b128 => []
    | .b8 | .b16 | .b32 => [(x.data, false)]
  | .bld _ _ | .bst _ _ => []
  | .atom _ x => [(.v x.d, x.w)]
  | .atomNr _ x => [(x.data, x.w)]
  | .acas _ _ => []
  | .smap _ x => [(x.va, true), (x.off, false), (x.len, false)]
  | .sunmap _ _ | .sflush _ _ | .smode _ _ _ => []
  | .cflush _ x | .cinv _ x | .icinv _ x => [(x.len, false)]
  | .mscfl _ _ | .fence _ _ _ | .bar _ | .bara _ _ => []
  | .barw _ x => [(x.a, false)]
  | .waitc _ _ => []
  | .copy _ x => [(x.dst, true), (x.src, true), (x.len, false)]
  | .seal _ _ => []
  | .waitb _ a => [(a, false)]
  | .htime _ _ _ => []
  | .sleept _ a _ => [(a, true)]
  | .hwait _ _ | .htest _ _ _ _ | .hcancel _ _ => []
  | .hmovToH _ _ a => [(a, true)]
  | .hmovToV _ _ _ => []
  | .rbegin _ _ _ | .rcommit _ | .rabort _ => []
  | .tacq _ _ va | .trel _ _ va => [(va, false)]
  | .tld _ x => [(x.vb, false)]
  | .tsv _ x => [(x.vb, false)]
  | .tzero _ _ _ => []
  | .tmovGet _ x => [(x.sel, false)]
  | .tmovPut _ x => [(x.a, false), (x.sel, false)]
  | .mma _ _ => []
  | .tsum _ x => [(x.vb, false)]
  | .qcv _ x => [(x.vb, false)]
  | .ptld _ x => [(x.vb, false)]
  | .smset _ _ | .smld _ _ | .smst _ _ | .smmov _ _ _ => []
  | .smmovGet _ x => [(x.i, false), (x.j, false)]
  | .smmovPut _ x => [(x.a, false), (x.i, false), (x.j, false)]
  | .smscl _ x => [(x.e, false)]
  | .smadd _ _ | .smtr _ _ _ | .smmul _ _ | .smmad _ _ | .smchol _ _ | .smlu _ _ | .smsolve _ _ => []
  | .trap _ _ | .brk _ _ => []
  | .errinjZflip _ va _ _ => [(va, false)]
  | .errinjVflip1 _ _ _ | .errinjVflip2 _ _ _ _ => []
  | .errinjPoison _ va => [(va, true)]
  | .launch _ va _ _ => [(va, true)]
  | .signalSt _ va vb | .signalAdd _ va vb => [(va, true), (vb, true)]
  | .irq _ _ => []
  | .qld _ _ _ _ _ | .qloop _ _ _ | .qend _ => []
  | .gangIssue .. | .clauseFetch .. | .watchdog .. | .pathAged .. => []
  | .loadComplete .. | .storeComplete .. | .requestRepresent .. | .directoryRequest .. | .forwardedRequest .. => []
  | .mscWriteback .. | .hostSnoop .. | .remoteAccess .. | .spanNack .. | .spanRecoveryStart .. => []
  | .spanLinkDrop .. | .spanRecoveryEnd .. | .recoveryBound .. | .hostLinkDrop .. => []
  | .copyStart .. | .copyComplete .. | .copyStop .. | .copyCancelStop .. | .mmaComplete .. => []
  | .tileOpComplete .. | .tileDataFault .. | .qldReturn .. | .commitPerform .. | .sleeptWake .. => []
  | .stagedStart .. | .queueTake .. | .stampTimeout .. | .launchBufferWrite .. | .launchReady .. => []
  | .crewAdmit .. | .launchComplete .. | .replayRestore .. => []
  | .pctlCreate .. | .pctlKill .. | .pctlWake .. | .pctlSwapout .. | .functionLevelReset .. => []
  | .killComplete .. | .tsliceExpiry .. | .latencyIdleExpiry .. | .saveComplete .. | .swapIn .. => []
  | .restoreComplete .. | .tlbinvStart .. | .tlbinvDone .. | .mbxbaseWrite .. | .errrecRead .. | .registerWrite .. => []
  | .dbgStop .. | .dbgResume .. | .dbgStep .. | .dbgCancel .. | .clusterFrozen .. => []
  | .heartbeatTimeout .. | .rebuildComplete | .zoneUpdate .. | .powerMeasure .. | .timeRecalibrate .. => []
  | .powerUp .. | .attestRequest .. | .attestDone | .mmaLastColumn .. | .hostAgentUnanswered .. => []
  | .hostLinkRecoveryEnd .. => []

/-- The registers of an operand of a width. -/
def srcRegs : Src × Bool → List Nat
  | (.v n, w) => if w then [n.val, n.val + 1] else [n.val]
  | (.q _, _) => []
  | (.zero, _) => []

def regsW (d : Fin 96) (w : Bool) : List Nat := if w then [d.val, d.val + 1] else [d.val]

/-- The registers of an offset operand: the pair, of which BLK mode reads the first (R40). -/
def ofsRegs (o : Option (Fin 96)) : List Nat :=
  match o with
  | none => []
  | some n => if n.val % 2 = 0 then [n.val, n.val + 1] else [n.val]

/-- Bytes a store of a type stores. -/
def stSize : StTy → Nat
  | .b8 => 1
  | .b16 => 2
  | .b32 => 4
  | .b64 => 8
  | .b128 => 16

/-- The words of the offset operand. -/
def Group.offsetPair (g : Group) (l : Lane) (o : Option (Fin 96)) : DWord :=
  match o with
  | none => 0
  | some n => if n.val % 2 = 0 then g.readPair l n.val else (g.readV l n.val).zeroExtend 64

/-- The address operand of a word, if it has one. -/
def addrOf : Instr → Option MAddr
  | .ld _ x => some x.m
  | .st _ x => some x.m
  | .bld _ x => some x.m
  | .bst _ x => some x.m
  | .atom _ x => some x.m
  | .atomNr _ x => some x.m
  | .acas _ x => some x.m
  | .cflush _ x | .cinv _ x | .icinv _ x => some x.m
  | .smld _ x | .smst _ x => some x.m
  | _ => none

/-- General registers a word reads beside its operand codes. -/
def otherReads : Instr → List Nat
  | .st _ x => match x.ty, x.data with
    | .b128, .v n => rangeFrom n.val 4
    | _, _ => []
  | .bst _ x => match x.data with
    | .v n => rangeFrom n.val 16
    | .q _ | .zero => []
  | .acas _ x => rangeFrom x.d.val (if x.w then 4 else 2)
  | .packp _ x => [x.d.val]
  | .shapeG _ d => [d.val]
  | .tld _ x => ofsRegs x.va
  | .tsv _ x => ofsRegs x.va
  | .mma _ x => ofsRegs x.va
  | .tsum _ x => ofsRegs x.va
  | .qcv _ x => ofsRegs x.va
  | .ptld _ x => ofsRegs x.va
  | _ => []

/-- Every general register a word reads. -/
def reads (i : Instr) : List Nat :=
  ((sources i).map srcRegs).flatten ++ (match addrOf i with | some m => ofsRegs m.ofs | none => []) ++ otherReads i

def optReg (d : Option (Fin 96)) : List Nat :=
  match d with
  | some n => [n.val]
  | none => []

/-- Every general register a word writes. -/
def writes : Instr → List Nat
  | .iadd _ x | .isub _ x | .imul _ x | .imulh _ x | .imin _ x | .imax _ x | .and _ x | .or _ x | .xor _ x
  | .andn _ x | .shl _ x | .shr _ x | .rot _ x => regsW x.d x.w
  | .imad _ x | .fshl _ x | .bfx _ x => regsW x.d x.w
  | .imadw _ x => regsW x.d true
  | .ineg _ x | .iabs _ x | .brev _ x => regsW x.d x.w
  | .popc _ x | .clz _ x | .ctz _ x => [x.d.val]
  | .lea _ x => regsW x.d x.w
  | .bool3 _ x => regsW x.d x.w
  | .bfi _ x => regsW x.d x.w
  | .isel _ x => regsW x.d x.w
  | .iaddImm _ x | .isubImm _ x | .imulImm _ x | .iminImm _ x | .imaxImm _ x | .andImm _ x | .orImm _ x
  | .xorImm _ x => [x.d.val]
  | .shlImm _ x | .shrImm _ x | .rotImm _ x => [x.d.val]
  | .pmovGet _ d => [d.val]
  | .mov _ x => regsW x.d x.w
  | .movi _ d _ => [d.val]
  | .movi32 _ d _ => [d.val]
  | .movs _ d r => regsW d r.wide
  | .elect _ _ d => optReg d
  | .movjToV _ d _ => regsW d true
  | .fadd _ x | .fsub _ x | .fmul _ x => regsW x.d x.t.wide
  | .ffma _ x => regsW x.d x.t.wide
  | .fmin _ x | .fmax _ x => regsW x.d x.t.wide
  | .fclass _ x => [x.d.val]
  | .frnd _ x => regsW x.d x.t.wide
  | .fscale _ x => regsW x.d x.t.wide
  | .frcp _ x | .frsq _ x | .fsqrt _ x | .fexp2 _ x | .flog2 _ x | .fsin _ x | .fcos _ x
  | .ftanh _ x => regsW x.d x.t.wide
  | .fcvt _ x => regsW x.d x.dst.wide
  | .icvt _ x => regsW x.d x.dst.wide
  | .extp _ x => regsW x.d x.dst.wide
  | .packp _ x => [x.d.val]
  | .shfl _ x => regsW x.d x.w
  | .vote _ x => match x.dst with
    | .ballot d _ => regsW d true
    | .all _ _ | .any _ _ | .uni _ _ => []
  | .redx _ x => regsW x.d x.op.wide
  | .scanx _ x => regsW x.d x.op.wide
  | .matchx _ x => regsW x.d true
  | .xrcv _ x => regsW x.d x.w
  | .shapeQ _ d _ => [d.val]
  | .shapeG _ d => [d.val]
  | .aff _ d _ _ => [d.val]
  | .ld _ x => match x.ty with
    | .b64 => regsW x.d true
    | .b128 => rangeFrom x.d.val 4
    | _ => [x.d.val]
  | .atom _ x => regsW x.d x.w
  | .acas _ x => regsW x.d x.w
  | .bara _ x => optReg x.d
  | .seal _ d => optReg d
  | .htime _ d _ => regsW d true
  | .hmovToV _ d _ => regsW d true
  | .tmovGet _ x => [x.d.val]
  | .smmovGet _ x => [x.d.val]
  | .errinjVflip1 _ va _ | .errinjVflip2 _ va _ _ => [va.val]
  | _ => []

/-- The small-matrix registers a word names. -/
def mregs : Instr → List Nat
  | .smset _ x => [x.md.val]
  | .smld _ x | .smst _ x => [x.md.val]
  | .smmov _ md ma => [md.val, ma.val]
  | .smmovGet _ x => [x.ma.val]
  | .smmovPut _ x => [x.md.val]
  | .smadd _ x | .smmul _ x | .smsolve _ x => [x.md.val, x.ma.val, x.mb.val]
  | .smscl _ x => [x.md.val, x.ma.val]
  | .smtr _ md ma => [md.val, ma.val]
  | .smmad _ x => [x.md.val, x.ma.val, x.mb.val, x.mc.val]
  | .smchol _ x | .smlu _ x => [x.md.val, x.ma.val]
  | _ => []

/-- The small-matrix registers whose elements a word reads (R215). -/
def mreads : Instr → List Nat
  | .smst _ x => [x.md.val]
  | .smmov _ _ ma => [ma.val]
  | .smmovGet _ x => [x.ma.val]
  | .smadd _ x | .smmul _ x | .smsolve _ x => [x.ma.val, x.mb.val]
  | .smscl _ x => [x.ma.val]
  | .smtr _ _ ma => [ma.val]
  | .smmad _ x => [x.ma.val, x.mb.val, x.mc.val]
  | .smchol _ x | .smlu _ x => [x.ma.val]
  | _ => []

/-- The small-matrix register a word writes. -/
def mwrites : Instr → List Nat
  | .smset _ x => [x.md.val]
  | .smld _ x => [x.md.val]
  | .smmov _ md _ => [md.val]
  | .smmovPut _ x => [x.md.val]
  | .smadd _ x | .smmul _ x | .smsolve _ x => [x.md.val]
  | .smscl _ x => [x.md.val]
  | .smtr _ md _ => [md.val]
  | .smmad _ x => [x.md.val]
  | .smchol _ x | .smlu _ x => [x.md.val]
  | _ => []

/-- Does a word name a queue register? -/
def usesQueue (i : Instr) : Bool :=
  (sources i).any fun s => match s.1 with
    | .q _ => true
    | .v _ | .zero => false

/-- How many entries of queue `n` a word pops in one thread (R26). -/
def popsOf (i : Instr) (n : Nat) : Nat :=
  ((sources i).map fun s => match s.1 with
    | .q k => if k.val = n then (if s.2 then 2 else 1) else 0
    | .v _ | .zero => 0).sum

/-! ### Operand values -/

/-- Pops the head entry of a queue: its word, or the fault it carries (R190). In an open region the entry is kept
aside (R220). -/
def Thread.pop (th : Thread) (n : Nat) : Except FaultInfo Word × Thread :=
  match th.q.get [] n with
  | [] => (.error { cause := .illegalEnc, kind := .none, addr := 0 }, th)
  | e :: r =>
    match e.fault with
    | some f => (.error f, th)
    | none =>
      let th' := { th with q := th.q.set n r, pops := th.pops.upd 0 n (· + 1) }
      let th' := match th'.region with
        | some rg => { th' with region := some { rg with popped := rg.popped ++ [(n, e)] } }
        | none => th'
      (.ok (e.val.getD 0), th')

/-- The queues a word's operands pop, in order. -/
def popOrder (os : List (Src × Bool)) : List Nat :=
  (os.map fun o => match o.1 with
    | .q n => if o.2 then [n.val, n.val] else [n.val]
    | .v _ | .zero => []).flatten

/-- The queue and the place in it of the entry whose fault ends a run of pops. -/
def Thread.popFault (th : Thread) : List Nat → (Nat → Nat) → Option (Nat × Nat)
  | [], _ => none
  | n :: r, taken =>
    match ((th.q.get [] n).drop (taken n)).head? with
    | none => none
    | some e => if e.fault.isSome then some (n, taken n) else th.popFault r fun k => if k = n then taken k + 1 else taken k

/-- A PAGE_FAULT that a pop has raised is marked by a value in its entry, for the handler's return to see (R190). -/
def Thread.popRaised (th : Thread) (os : List (Src × Bool)) : Thread :=
  match th.popFault (popOrder os) (fun _ => 0) with
  | none => th
  | some (n, k) => { th with q := th.q.modify n fun es => es.modify k fun e => { e with val := some 0 } }

/-- The handler's return makes the engine repeat the loads whose PAGE_FAULT a pop has raised (R190). -/
def Thread.repeatLoads (th : Thread) : Thread :=
  let again := fun (e : QEntry) => if e.fault.isSome && e.val.isSome then { e with fault := none, val := none } else e
  { th with q := th.q.mapVals fun _ es => es.map again }

/-- The value of one operand, and the thread after its pops. -/
def readSrc (g : Group) (l : Lane) (th : Thread) (o : Src × Bool) : Except FaultInfo DWord × Thread :=
  match o.1 with
  | .v n => (.ok (if o.2 then g.readPair l n.val else (g.readV l n.val).zeroExtend 64), th)
  | .zero => (.ok 0, th)
  | .q n =>
    match th.pop n.val with
    | (.error f, th) => (.error f, th)
    | (.ok lo, th) =>
      if o.2 then
        match th.pop n.val with
        | (.error f, th) => (.error f, th)
        | (.ok hi, th) => (.ok (DWord.ofWords lo hi), th)
      else (.ok (lo.zeroExtend 64), th)

/-- The values of a list of operands in order, and the thread after its pops. -/
def readSrcs (g : Group) (l : Lane) : Thread → List (Src × Bool) → Except FaultInfo (List DWord) × Thread
  | th, [] => (.ok [], th)
  | th, o :: r =>
    match readSrc g l th o with
    | (.error f, th) => (.error f, th)
    | (.ok v, th) =>
      match readSrcs g l th r with
      | (.error f, th) => (.error f, th)
      | (.ok vs, th) => (.ok (v :: vs), th)

/-- An operand's tag and words in the group: a queue is G, ZERO is U (R29, R33). -/
def srcShape (g : Group) (sh : Bool) : Src → VVal
  | .v n => (g.vreg sh n.val).val
  | .q _ => .g []
  | .zero => .u 0

/-- Is an operand U, in full width (R28)? -/
def srcIsU (g : Group) (sh : Bool) (o : Src × Bool) : Bool :=
  (srcShape g sh o.1).isU && (!o.2 || (match o.1 with
    | .v n => (g.vreg sh (n.val + 1)).val.isU
    | .q _ => false
    | .zero => true))

/-- Does an issue of these lanes contain every live member of the group (R29)? -/
def wholeGroup (g : Group) (ls : List Lane) : Bool :=
  g.live.all fun e => ls.any fun l => l.t == e.1 && !l.sh

end Sys2Proof.Machine
end

