-- ==== Sys2Proof/Machine/Float.lean ====
section
/-! DEFINITION. Floating arithmetic (R49 to R52, R139 to R152): bits to exact values, exact results, and one rounding.

A finite value is sign, integer m and exponent e, standing for m × 2^e; every operation computes exactly and `roundTo`
narrows once. Flags are the low bits of `%fst` (R44). -/

namespace Sys2Proof.Machine

open Sys2Proof

/-! ### Flags of `%fst` -/

def flNV : Word := 1
def flDZ : Word := 2
def flOF : Word := 4
def flUF : Word := 8
def flNX : Word := 16
def flCHK : Word := 32
def flSAT : Word := 64

/-- The flag where the condition holds. -/
def flagIf (b : Bool) (f : Word) : Word := if b then f else 0

/-! ### Formats (R49, R50) -/

/-- Exponent and fraction bits of a binary format. -/
structure FPar where
  eb : Nat
  fb : Nat
  deriving DecidableEq, Repr

def FPar.width (f : FPar) : Nat := 1 + f.eb + f.fb
def FPar.bias (f : FPar) : Nat := 2 ^ (f.eb - 1) - 1
def FPar.emin (f : FPar) : Int := 1 - (f.bias : Int)
def FPar.emax (f : FPar) : Int := f.bias
def FPar.signBit (f : FPar) : Nat := 2 ^ (f.eb + f.fb)
def FPar.inf (f : FPar) (neg : Bool) : Nat := b2n neg * f.signBit + (2 ^ f.eb - 1) * 2 ^ f.fb
/-- The canonical quiet NaN (R50). -/
def FPar.nan (f : FPar) : Nat := (2 ^ f.eb - 1) * 2 ^ f.fb + 2 ^ (f.fb - 1)
def FPar.maxFin (f : FPar) (neg : Bool) : Nat := b2n neg * f.signBit + (2 ^ f.eb - 1) * 2 ^ f.fb - 1
def FPar.zero (f : FPar) (neg : Bool) : Nat := b2n neg * f.signBit

def parF16 : FPar := { eb := 5, fb := 10 }
def parBf16 : FPar := { eb := 8, fb := 7 }
def parF32 : FPar := { eb := 8, fb := 23 }
def parF64 : FPar := { eb := 11, fb := 52 }

def fpar : FFmt → FPar
  | .f16 => parF16
  | .bf16 => parBf16
  | .f32 => parF32
  | .f64 => parF64

/-- A value read from bits. -/
inductive FVal
  | nan (signalling : Bool)
  | inf (neg : Bool)
  | fin (neg : Bool) (m : Nat) (e : Int)
  deriving DecidableEq, Repr, Inhabited

def FVal.isNan : FVal → Bool
  | .nan _ => true
  | _ => false
def FVal.isSnan : FVal → Bool
  | .nan s => s
  | _ => false
def FVal.isInf : FVal → Bool
  | .inf _ => true
  | _ => false
def FVal.isZero : FVal → Bool
  | .fin _ m _ => m == 0
  | _ => false
def FVal.neg : FVal → FVal
  | .nan s => .nan s
  | .inf n => .inf !n
  | .fin n m e => .fin (!n) m e
def FVal.isNeg : FVal → Bool
  | .nan _ => false
  | .inf n => n
  | .fin n _ _ => n
def FVal.abs : FVal → FVal
  | .nan s => .nan s
  | .inf _ => .inf false
  | .fin _ m e => .fin false m e

/-- Reads the bits of a format; subnormals are kept (R49). -/
def unpackF (f : FPar) (x : Nat) : FVal :=
  let neg := natBit x (f.eb + f.fb)
  let ex := natField x f.fb f.eb
  let fr := natField x 0 f.fb
  if ex = 2 ^ f.eb - 1 then
    if fr = 0 then .inf neg else .nan (!natBit fr (f.fb - 1))
  else if ex = 0 then .fin neg fr (f.emin - f.fb)
  else .fin neg (fr + 2 ^ f.fb) ((ex : Int) - f.bias - f.fb)

/-- The mode in force: MOD[2:0], or `%fmode.RM` for the dynamic mode (R51). -/
def modeOf (rm : RMode) (fmode : Word) : RMode :=
  match rm with
  | .dyn =>
    match (rmOf (fmode.toNat % 8)) with
    | some .dyn => .rne
    | some m => m
    | none => .rne
  | m => m

/-- Does a rounding go up in magnitude? `odd` is the kept last bit, `c` compares the cut part with one half. -/
def roundsUp (rm : RMode) (neg odd : Bool) (rem : Bool) (c : Ordering) : Bool :=
  match rm with
  | .rne | .dyn => c == .gt || (c == .eq && odd)
  | .rtz => false
  | .rup => rem && !neg
  | .rdn => rem && neg
  | .rna => c == .gt || c == .eq

/-- m × 2^e cut at weight 2^q and rounded: the integer multiple of 2^q and whether it is inexact. -/
def cutAt (rm : RMode) (neg : Bool) (m : Nat) (e q : Int) : Nat × Bool :=
  if q ≤ e then (m * 2 ^ (e - q).toNat, false)
  else
    let d := (q - e).toNat
    let k := m / 2 ^ d
    let r := m % 2 ^ d
    let up := roundsUp rm neg (k % 2 == 1) (r != 0) (compare (2 * r) (2 ^ d))
    (k + b2n up, r != 0)

/-- The number of bits of a positive number. -/
def bitLen (m : Nat) : Nat := if m = 0 then 0 else Nat.log2 m + 1

/-- The overflow result of a mode (R52). -/
def overflowBits (f : FPar) (rm : RMode) (neg : Bool) : Nat :=
  let toMax := match rm with
    | .rtz => true
    | .rup => neg
    | .rdn => !neg
    | .rne | .rna | .dyn => false
  if toMax then f.maxFin neg else f.inf neg

/-- Rounds m × 2^e once into a format: bits and flags OF, UF, NX; tininess after rounding (R52). -/
def roundTo (f : FPar) (rm : RMode) (neg : Bool) (m : Nat) (e : Int) : Nat × Word :=
  if m = 0 then (f.zero neg, 0)
  else
    let top : Int := e + bitLen m - 1
    let q := max top f.emin - f.fb
    let (k, nx) := cutAt rm neg m e q
    let (k, q) := if k = 2 ^ (f.fb + 1) then (2 ^ f.fb, q + 1) else (k, q)
    if k = 0 then (f.zero neg, flagIf nx (flNX ||| flUF))
    else
      let ex := q + f.fb
      if k ≥ 2 ^ f.fb ∧ ex > f.emax then (overflowBits f rm neg, flOF ||| flNX)
      else
        -- tiny: below 2^emin also with an unbounded exponent
        let tiny := decide (top < f.emin) &&
          !(top == f.emin - 1 && (cutAt rm neg m e (top - f.fb)).1 == 2 ^ (f.fb + 1))
        let bits := if k < 2 ^ f.fb then k else (ex + f.bias).toNat * 2 ^ f.fb + (k - 2 ^ f.fb)
        (b2n neg * f.signBit + bits, flagIf nx flNX ||| flagIf (nx && tiny) flUF)

/-- Rounds a value into a format; a NaN becomes the canonical NaN, with NV when it is signalling. -/
def roundVal (f : FPar) (rm : RMode) : FVal → Nat × Word
  | .nan s => (f.nan, flagIf s flNV)
  | .inf n => (f.inf n, 0)
  | .fin n m e => roundTo f rm n m e

/-! ### Exact arithmetic -/

/-- m × 2^e with sign as an integer multiple of 2^q, for q ≤ e. -/
def asInt (neg : Bool) (m : Nat) (e q : Int) : Int :=
  let k : Int := m * 2 ^ (e - q).toNat
  if neg then -k else k

/-- An exact sum; `zneg` is the sign of an exact zero of opposite operands. -/
def addExact (zneg : Bool) (n1 : Bool) (m1 : Nat) (e1 : Int) (n2 : Bool) (m2 : Nat) (e2 : Int) : FVal :=
  let q := min e1 e2
  let v := asInt n1 m1 e1 q + asInt n2 m2 e2 q
  if v = 0 then .fin (if n1 = n2 then n1 else zneg) 0 0
  else .fin (decide (v < 0)) v.natAbs q

/-- A sum and its NV. -/
def addVal (zneg : Bool) (a b : FVal) : FVal × Word :=
  match a, b with
  | .nan s, .nan t => (.nan false, flagIf (s || t) flNV)
  | .nan s, _ => (.nan false, flagIf s flNV)
  | _, .nan t => (.nan false, flagIf t flNV)
  | .inf x, .inf y => if x = y then (.inf x, 0) else (.nan false, flNV)
  | .inf x, .fin _ _ _ => (.inf x, 0)
  | .fin _ _ _, .inf y => (.inf y, 0)
  | .fin n1 m1 e1, .fin n2 m2 e2 => (addExact zneg n1 m1 e1 n2 m2 e2, 0)

/-- A product and its NV. -/
def mulVal (a b : FVal) : FVal × Word :=
  match a, b with
  | .nan s, .nan t => (.nan false, flagIf (s || t) flNV)
  | .nan s, _ => (.nan false, flagIf s flNV)
  | _, .nan t => (.nan false, flagIf t flNV)
  | .inf x, .inf y => (.inf (x != y), 0)
  | .inf x, .fin n m _ => if m = 0 then (.nan false, flNV) else (.inf (x != n), 0)
  | .fin n m _, .inf y => if m = 0 then (.nan false, flNV) else (.inf (n != y), 0)
  | .fin n1 m1 e1, .fin n2 m2 e2 => (.fin (n1 != n2) (m1 * m2) (e1 + e2), 0)

/-- a × b + c before rounding; 0 × ∞ raises NV whatever c is (R142). -/
def fmaVal (zneg : Bool) (a b c : FVal) : FVal × Word :=
  let (p, f1) := mulVal a b
  let (r, f2) := addVal zneg p c
  (r, f1 ||| f2)

/-- The sign of an exact zero under a mode (R142). -/
def zeroNeg (rm : RMode) : Bool := rm == .rdn

def faddBits (f : FPar) (rm : RMode) (a b : Nat) : Nat × Word :=
  let (v, f1) := addVal (zeroNeg rm) (unpackF f a) (unpackF f b)
  let (r, f2) := roundVal f rm v
  (r, f1 ||| f2)

def fsubBits (f : FPar) (rm : RMode) (a b : Nat) : Nat × Word :=
  let (v, f1) := addVal (zeroNeg rm) (unpackF f a) (unpackF f b).neg
  let (r, f2) := roundVal f rm v
  (r, f1 ||| f2)

def fmulBits (f : FPar) (rm : RMode) (a b : Nat) : Nat × Word :=
  let (v, f1) := mulVal (unpackF f a) (unpackF f b)
  let (r, f2) := roundVal f rm v
  (r, f1 ||| f2)

def ffmaBits (f : FPar) (rm : RMode) (a b c : Nat) : Nat × Word :=
  let (v, f1) := fmaVal (zeroNeg rm) (unpackF f a) (unpackF f b) (unpackF f c)
  let (r, f2) := roundVal f rm v
  (r, f1 ||| f2)

/-! ### Comparison (R143, R144) -/

/-- The order of two values that are not NaN; −0 equals +0. -/
def cmpVal (a b : FVal) : Ordering :=
  match a, b with
  | .inf x, .inf y => if x = y then .eq else if x then .lt else .gt
  | .inf x, _ => if x then .lt else .gt
  | _, .inf y => if y then .gt else .lt
  | .fin n1 m1 e1, .fin n2 m2 e2 =>
    let q := min e1 e2
    compare (asInt n1 m1 e1 q) (asInt n2 m2 e2 q)
  | .nan _, _ => .eq
  | _, .nan _ => .eq

/-- Is a below b, with −0 below +0 (R143)? -/
def belowVal (a b : FVal) : Bool :=
  match cmpVal a b with
  | .lt => true
  | .gt => false
  | .eq => a.isNeg && !b.isNeg

/-- FMIN and FMAX in one: `mx` for the maximum, `num` for the form that passes numbers over NaNs. -/
def fminmaxBits (f : FPar) (mx num : Bool) (a b : Nat) : Nat × Word :=
  let x := unpackF f a
  let y := unpackF f b
  let nv := flagIf (x.isSnan || y.isSnan) flNV
  if x.isNan && y.isNan then (f.nan, nv)
  else if x.isNan then (if num then b else f.nan, nv)
  else if y.isNan then (if num then a else f.nan, nv)
  else (if mx then (if belowVal x y then b else a) else (if belowVal y x then b else a), nv)

/-- The conditions of R144 with NV. -/
def fcmpVal (c : FCond) (sig : Bool) (x y : FVal) : Bool × Word :=
  let un := x.isNan || y.isNan
  let nv := flagIf (x.isSnan || y.isSnan || (sig && un)) flNV
  let o := cmpVal x y
  let r := match c with
    | .eq => !un && o == .eq
    | .ne => un || o != .eq
    | .lt => !un && o == .lt
    | .le => !un && o != .gt
    | .gt => !un && o == .gt
    | .ge => !un && o != .lt
    | .ord => !un
    | .uno => un
  (r, nv)

/-- The class mask of R145. -/
def fclassBits (f : FPar) (x : Nat) : Nat :=
  match unpackF f x with
  | .nan true => 2 ^ 0
  | .nan false => 2 ^ 1
  | .inf true => 2 ^ 2
  | .inf false => 2 ^ 9
  | .fin n m _ =>
    if m = 0 then (if n then 2 ^ 5 else 2 ^ 6)
    else if natField x f.fb f.eb = 0 then (if n then 2 ^ 4 else 2 ^ 7)
    else (if n then 2 ^ 3 else 2 ^ 8)

/-! ### Rounding to an integer, scaling, conversions (R146 to R150) -/

/-- FRND: an integral value in the same format. -/
def frndBits (f : FPar) (rm : RMode) (exact : Bool) (x : Nat) : Nat × Word :=
  match unpackF f x with
  | .nan s => (f.nan, flagIf s flNV)
  | .inf n => (f.inf n, 0)
  | .fin n m e =>
    let (k, nx) := cutAt rm n m e 0
    ((roundTo f rm n k 0).1, flagIf (nx && exact) flNX)

/-- A scale factor cut to a range beyond which every format's result is the same. -/
def clampScale (n : Int) : Int := max (-4500) (min 4500 n)

/-- The value times 2^n, exactly. -/
def FVal.scale (n : Int) : FVal → FVal
  | .fin s m e => .fin s m (e + clampScale n)
  | v => v

def fscaleBits (f : FPar) (rm : RMode) (x : Nat) (n : Int) : Nat × Word :=
  roundVal f rm ((unpackF f x).scale n)

/-- FCVT: one rounding into the destination. -/
def fcvtBits (dst src : FPar) (rm : RMode) (x : Nat) : Nat × Word := roundVal dst rm (unpackF src x)

/-- Bounds of an integer type of w bits. -/
def intLo (w : Nat) (sg : Bool) : Int := if sg then -(2 ^ (w - 1) : Int) else 0
def intHi (w : Nat) (sg : Bool) : Int := if sg then 2 ^ (w - 1) - 1 else 2 ^ w - 1

/-- Float to integer (R150): the integer as w bits, and NV or NX. -/
def toIntBits (w : Nat) (sg exact : Bool) (rm : RMode) : FVal → Nat × Word
  | .nan _ => (0, flNV)
  | .inf n => (((if n then intLo w sg else intHi w sg) % 2 ^ w).toNat, flNV)
  | .fin n m e =>
    let (k, nx) := if e > 200 then (if m = 0 then 0 else 2 ^ 70, false) else cutAt rm n m e 0
    let v : Int := if n then -(k : Int) else k
    if v < intLo w sg then ((intLo w sg % 2 ^ w).toNat, flNV)
    else if v > intHi w sg then ((intHi w sg % 2 ^ w).toNat, flNV)
    else ((v % 2 ^ w).toNat, flagIf (nx && exact) flNX)

/-- Integer to float (R150). -/
def ofIntBits (f : FPar) (rm : RMode) (v : Int) : Nat × Word := roundTo f rm (decide (v < 0)) v.natAbs 0

/-! ### Division and square root, correctly rounded (R148, R217) -/

/-- a ÷ b as a dyadic with a sticky last bit: enough for one correct rounding. -/
def divSticky (m1 : Nat) (e1 : Int) (m2 : Nat) (e2 : Int) : Nat × Int :=
  let sh := 70 + bitLen m2
  let q := m1 * 2 ^ sh / m2
  let r := m1 * 2 ^ sh % m2
  (2 * q + b2n (r != 0), e1 - e2 - sh - 1)

def divVal (a b : FVal) : FVal × Word :=
  match a, b with
  | .nan s, .nan t => (.nan false, flagIf (s || t) flNV)
  | .nan s, _ => (.nan false, flagIf s flNV)
  | _, .nan t => (.nan false, flagIf t flNV)
  | .inf _, .inf _ => (.nan false, flNV)
  | .inf x, .fin n _ _ => (.inf (x != n), 0)
  | .fin n _ _, .inf y => (.fin (n != y) 0 0, 0)
  | .fin n1 m1 e1, .fin n2 m2 e2 =>
    if m2 = 0 then (if m1 = 0 then (.nan false, flNV) else (.inf (n1 != n2), flDZ))
    else if m1 = 0 then (.fin (n1 != n2) 0 0, 0)
    else
      let (q, e) := divSticky m1 e1 m2 e2
      (.fin (n1 != n2) q e, 0)

/-- The integer square root, bit by bit from weight 2^k. -/
def isqrtFrom (x : Nat) : Nat → Nat → Nat
  | 0, r => r
  | k + 1, r =>
    let t := r + 2 ^ k
    isqrtFrom x k (if t * t ≤ x then t else r)

def isqrt (x : Nat) : Nat := isqrtFrom x (bitLen x / 2 + 1) 0

/-- √(m × 2^e) as a dyadic with a sticky last bit. -/
def sqrtSticky (m : Nat) (e : Int) : Nat × Int :=
  -- an even exponent and at least 140 bits
  let sh : Nat := 140 + (if (e - 140) % 2 = 0 then 0 else 1)
  let x := m * 2 ^ sh
  let r := isqrt x
  (2 * r + b2n (r * r != x), (e - sh) / 2 - 1)

def sqrtVal : FVal → FVal × Word
  | .nan s => (.nan false, flagIf s flNV)
  | .inf n => if n then (.nan false, flNV) else (.inf false, 0)
  | .fin n m e =>
    if m = 0 then (.fin n 0 0, 0)
    else if n then (.nan false, flNV)
    else
      let (r, q) := sqrtSticky m e
      (.fin false r q, 0)

/-- Rounds a result with its flags. -/
def finish (f : FPar) (rm : RMode) (v : FVal × Word) : Nat × Word :=
  let (r, fl) := roundVal f rm v.1
  (r, fl ||| v.2)

def fdivBits (f : FPar) (rm : RMode) (a b : Nat) : Nat × Word := finish f rm (divVal (unpackF f a) (unpackF f b))
def fsqrtBits (f : FPar) (rm : RMode) (a : Nat) : Nat × Word := finish f rm (sqrtVal (unpackF f a))

/-- Absolute value, then negation, on the sign bit of one element (R140). -/
def applyMod (f : FPar) (m : SrcMod) (x : Nat) : Nat :=
  let x := if m.abs then x % f.signBit else x
  if m.neg then (if natBit x (f.eb + f.fb) then x - f.signBit else x + f.signBit) else x

end Sys2Proof.Machine
end

