-- ==== Sys2Proof/Machine/Tapered.lean ====
section
/-! DEFINITION. Tapered formats, the I20 format, self-described blocks, transforms and quantising (R54 to R68), and the
exact sums of the matrix engine (R69). -/

namespace Sys2Proof.Machine

open Sys2Proof

/-! ### Tapered formats (R54, R56) -/

/-- The length of the run of bits equal to `b` from bit `i` down to bit 0. -/
def runLen (p : Nat) (b : Bool) : Nat → Nat
  | 0 => 0
  | i + 1 => if natBit p i = b then 1 + runLen p b i else 0

/-- DecodeTap: exact; NaR gives NaN, quiet. -/
def decodeTap (p n : Nat) : FVal :=
  if p = 0 then .fin false 0 0
  else if p = 2 ^ (n - 1) then .nan false
  else
    let s := natBit p (n - 1)
    let p := if s then (2 ^ n - p) % 2 ^ n else p
    let b := natBit p (n - 2)
    let m := runLen p b (n - 1)
    let k : Int := if b then (m : Int) - 1 else -(m : Int)
    -- bits below the run's terminating bit
    let rl := n - 1 - m - 1
    let rest := p % 2 ^ rl
    let e : Int := if rl = 0 then 0 else (b2n (natBit rest (rl - 1)) : Nat)
    let fl := rl - 1
    let f := rest % 2 ^ fl
    .fin s (2 ^ fl + f) (2 * k + e - fl)

/-- EncodeTap: the pattern and the flags of R56. -/
def encodeTap (x : FVal) (n : Nat) : Nat × Word :=
  match x with
  | .nan s => (2 ^ (n - 1), flagIf s flNV)
  | .inf neg => (if neg then 2 ^ n - (2 ^ (n - 1) - 1) else 2 ^ (n - 1) - 1, flSAT ||| flNX)
  | .fin neg m ex =>
    if m = 0 then (0, 0)
    else
      let big := cmpVal (.fin false m ex) (.fin false 1 (2 * (n - 2 : Nat)))
      let small := cmpVal (.fin false m ex) (.fin false 1 (-2 * (n - 2 : Nat)))
      let (p, fl) :=
        if big != .lt then (2 ^ (n - 1) - 1, flagIf (big == .gt) (flSAT ||| flNX))
        else if small != .gt then (1, flagIf (small == .lt) (flUF ||| flNX))
        else
          let bl := bitLen m
          let top : Int := ex + bl - 1
          let k := top / 2
          let e := (top - 2 * k).toNat
          let (rv, rlen) := if k ≥ 0 then ((2 ^ (k.toNat + 1) - 1) * 2, k.toNat + 2) else (1, (-k).toNat + 1)
          let fb := bl - 1
          let str := (rv * 2 + e) * 2 ^ fb + m % 2 ^ fb
          let len := rlen + 1 + fb
          let (str, len) := if len < n then (str * 2 ^ (n - len), n) else (str, len)
          let cut := len - (n - 1)
          let p := str / 2 ^ cut
          let r := str % 2 ^ cut
          let up := match compare (2 * r) (2 ^ cut) with
            | .gt => true
            | .eq => p % 2 == 1
            | .lt => false
          (p + b2n up, flagIf (r != 0) flNX)
      (if neg then (2 ^ n - p) % 2 ^ n else p, fl)

/-! ### I20 (R57, R58) -/

/-- The canonical I20 NaN, 0x7_FC00 (R57). -/
def i20Nan : BitVec 20 := 0x7FC00

/-- Reads an I20 value. -/
def ofI20 (x : BitVec 20) : FVal :=
  let n := x.toNat
  let ex := natField n 10 9
  let fr := natField n 0 10
  let neg := natBit n 19
  if ex = 511 then .nan false
  else if ex = 0 then .fin neg 0 0
  else .fin neg (1024 + fr) ((ex : Int) - 255 - 10)

/-- Rounds a value RNE to I20; infinities and NaN give the NaN (R58). A magnitude below the smallest I20 value rounds
to that value or to zero, to nearest; no source of the engine reaches there (R58). -/
def toI20 (v : FVal) : BitVec 20 :=
  match v with
  | .nan _ => i20Nan
  | .inf _ => i20Nan
  | .fin neg m e =>
    let sg := b2n neg * 2 ^ 19
    if m = 0 then BitVec.ofNat 20 sg
    else
      let top : Int := e + bitLen m - 1
      let q := max top (-254) - 10
      let (k, _) := cutAt .rne neg m e q
      let (k, q) := if k = 2048 then (1024, q + 1) else (k, q)
      if k < 1024 then BitVec.ofNat 20 (if 512 ≤ k then sg + 1024 else sg)
      else if q + 10 > 255 then i20Nan
      else BitVec.ofNat 20 (sg + (q + 10 + 255).toNat * 1024 + (k - 1024))

/-- The hi and lo parts of an FP32 value (R58). -/
def splitF32 (v : FVal) : BitVec 20 × BitVec 20 :=
  match v with
  | .nan _ => (i20Nan, i20Nan)
  | .inf _ => (i20Nan, i20Nan)
  | .fin _ _ _ =>
    let hi := toI20 v
    (hi, toI20 (addVal false v (ofI20 hi).neg).1)

/-! ### Exact sums and one rounding (R69) -/

/-- The exact sum of a list, in any order: NaN if any term is NaN or infinities of both signs meet. -/
def sumExact (l : List FVal) : FVal :=
  if l.any FVal.isNan then .nan false
  else
    let pos := l.any fun v => v == .inf false
    let negI := l.any fun v => v == .inf true
    if pos && negI then .nan false
    else if pos then .inf false
    else if negI then .inf true
    else l.foldl (fun a v => (addVal false a v).1) (.fin false 0 0)

/-- RoundFP32(sum), RNE; an exact zero sum gives +0 (R69). -/
def roundF32 (v : FVal) : Word :=
  match v with
  | .fin n m e => if m = 0 then 0 else BitVec.ofNat 32 (roundTo parF32 .rne n m e).1
  | v => BitVec.ofNat 32 (roundVal parF32 .rne v).1

def f32Val (w : Word) : FVal := unpackF parF32 w.toNat

/-- One step of MmaElement: acc plus the exact sum of the step's terms, rounded once. An infinite accumulator that
meets only finite terms stays. -/
def mmaStep (acc : Word) (terms : List FVal) : Word := roundF32 (sumExact (f32Val acc :: terms))

/-- MmaElement of R69: the terms of each K position, taken in steps of 16. `fuel` bounds the number of steps. -/
def stepSum : Nat → Word → List (List FVal) → Word
  | 0, acc, _ => acc
  | n + 1, acc, ts =>
    match ts with
    | [] => acc
    | _ => stepSum n (mmaStep acc (ts.take 16).flatten) (ts.drop 16)

/-- MmaElement in FP32 bits: `start` is exact 0 or the old element; each step's sum is rounded once. -/
def mmaElement (start : Word) (terms : List (List FVal)) : Word := stepSum terms.length start terms

/-! ### Blocks (R59 to R64) -/

def blkByte (b : List Byte) (i : Nat) : Nat := (b.getD i 0).toNat

/-- One byte of Crc16 (R62). -/
def crcBits : Nat → Nat → Nat
  | 0, c => c
  | n + 1, c =>
    let d := (c * 2) % 65536
    crcBits n (if c / 32768 % 2 = 1 then d ^^^ 0x1021 else d)

/-- Crc16 of R62. -/
def crc16 (bs : List Byte) : Nat := bs.foldl (fun c b => crcBits 8 (c ^^^ (b.toNat * 256))) 0xFFFF

/-- KIND of byte 0 (R59). -/
inductive BlkKind | zero | tap8 | tap6 | const | reserved
  deriving DecidableEq, Repr

def blkXf (b : List Byte) : Nat := blkByte b 0 / 64
def blkTab (b : List Byte) : Nat := blkByte b 0 % 8
def blkKind (b : List Byte) : BlkKind :=
  match blkByte b 0 / 8 % 8 with
  | 0 => .zero
  | 1 => .tap8
  | 2 => .tap6
  | 3 => .const
  | _ => .reserved

/-- The used outlier slots of a block: index and BF16 (R61). -/
def blkSlots (b : List Byte) : List (Nat × Nat) :=
  let (base, n) := match blkKind b with
    | .tap8 => (50, 4)
    | .tap6 => (38, 8)
    | _ => (0, 0)
  ((List.range n).map fun i => (blkByte b (base + 3 * i), blkByte b (base + 3 * i + 1) + 256 * blkByte b (base + 3 * i + 2))).filter
    fun s => s.1 != 255

/-- Malformed (R63). -/
def blkMalformed (b : List Byte) : Bool :=
  blkXf b == 3 || blkKind b == .reserved || (blkTab b != 0 && blkXf b != 2) ||
  (blkSlots b).any (fun s => decide (48 ≤ s.1)) || !decide ((blkSlots b).map Prod.fst).Nodup

def blkCrcOk (b : List Byte) : Bool := crc16 (b.take 62) == blkByte b 62 + 256 * blkByte b 63

/-- What a block check gives (R63): the block decodes, or all 48 elements are NaN, with a flag, or BOUNDS. -/
inductive BlkCheck | decode | nan (fl : Word) | fault
  deriving DecidableEq, Repr

/-- R63 in the order of its rows. `check` is the record's CHECK; `xf` and `tab` the transform the reader names; the
table counts only for readers that ask for it, and never at a ZERO block (log entry 71). -/
def blkCheck (check : Nat) (b : List Byte) (xf tab : Nat) (tabCounts : Bool) : BlkCheck :=
  let mis := blkKind b != .zero && (blkXf b != xf || (tabCounts && xf == 2 && blkTab b != tab))
  if !blkCrcOk b && check == 1 then .nan flCHK
  else if !blkCrcOk b && check == 2 then .fault
  else if blkMalformed b || mis then
    (if check == 0 then .nan flNV else if check == 1 then .nan flCHK else .fault)
  else if blkByte b 1 = 255 then .nan 0
  else .decode

/-- DecodeBlockElement of R64. -/
def blkElement (b : List Byte) (j : Nat) : FVal :=
  if blkByte b 1 = 255 then .nan false
  else
    let sc : Int := (blkByte b 1 : Int) - 127
    match blkKind b with
    | .zero => .fin false 0 0
    | .const => unpackF parBf16 (blkByte b 2 + 256 * blkByte b 3)
    | .tap8 =>
      match (blkSlots b).find? fun s => s.1 == j with
      | some s => unpackF parBf16 s.2
      | none => (decodeTap (blkByte b (2 + j)) 8).scale sc
    | .tap6 =>
      match (blkSlots b).find? fun s => s.1 == j with
      | some s => unpackF parBf16 s.2
      | none => (decodeTap (natField (wordOfBytes ((b.drop 2).take 36)) (6 * j) 6) 6).scale sc
    | .reserved => .nan false

/-- A block all of whose elements are +0 (a block outside the extent under ZERO bounds, R201). -/
def zeroBlock : List Byte := List.replicate 64 0

/-! ### Transforms (R66) -/

/-- The parity of the number of ones of i AND j. -/
def popParity : Nat → Nat → Bool
  | 0, _ => false
  | n + 1, x => (x % 2 == 1) != popParity n (x / 2)

/-- H applied to 16 values: entry i, exact. -/
def h16Entry (xs : List FVal) (i : Nat) : FVal :=
  (sumExact ((List.range 16).map fun j =>
    let v := xs.getD j (.fin false 0 0)
    if popParity 4 (i &&& j) then v.neg else v)).scale (-2)

def h16 (xs : List FVal) : List FVal := (List.range 16).map (h16Entry xs)

/-! ### Quantising (R68) -/

/-- Inserts an index into a list sorted by magnitude, descending, lower index first on ties. -/
def insertMag (xs : List FVal) (i : Nat) : List Nat → List Nat
  | [] => [i]
  | j :: r =>
    let c := cmpVal (xs.getD i (.fin false 0 0)).abs (xs.getD j (.fin false 0 0)).abs
    if c == .gt || (c == .eq && decide (i < j)) then i :: j :: r else j :: insertMag xs i r

/-- Floor(log2) of a positive finite magnitude. -/
def floorLog2 : FVal → Int
  | .fin _ m e => e + bitLen m - 1
  | _ => 0

/-- The first of the k largest that stay outliers (R68). -/
def outliers (xs : List FVal) (t : FVal) : List Nat → List Nat
  | [] => []
  | i :: r =>
    let v := (xs.getD i (.fin false 0 0)).abs
    if !v.isZero && cmpVal v (t.scale 6) != .lt then i :: outliers xs t r else []

def leBytes (n x : Nat) : List Byte := bytesOfNat n x

def packTap6 : List Nat → Nat
  | [] => 0
  | p :: r => p + 64 * packTap6 r

/-- The bytes of a block from its first 62, with the CRC. -/
def sealBlock (b62 : List Byte) : List Byte := b62 ++ leBytes 2 (crc16 b62)

/-- QuantiseBlock of R68: the 64 bytes and the flags of the performer. -/
def quantise (xs : List FVal) (t6 : Bool) (xf tab : Nat) : List Byte × Word :=
  let n := if t6 then 6 else 8
  let k := if t6 then 8 else 4
  let emax : Int := if t6 then 8 else 12
  let kind := if t6 then 2 else 1
  let b0 := xf * 64 + kind * 8 + tab
  let slotsOff := fun (l : List (Nat × Nat)) =>
    (l.map fun s => BitVec.ofNat 8 s.1 :: leBytes 2 s.2).flatten ++
      (List.replicate (k - l.length) [0xFF, 0x00, 0x00]).flatten
  if xs.any fun v => v.isNan || v.isInf then
    let payload := List.replicate (if t6 then 36 else 48) (0 : Byte)
    (sealBlock (BitVec.ofNat 8 b0 :: 0xFF :: (payload ++ slotsOff [])), flNV)
  else
    let xs := if xf = 1 then h16 (xs.take 16) ++ h16 ((xs.drop 16).take 16) ++ h16 ((xs.drop 32).take 16) else xs
    if xs.all FVal.isZero then
      (sealBlock (BitVec.ofNat 8 (xf * 64 + tab) :: 127 :: List.replicate 60 0), 0)
    else
      let order := (List.range 48).foldl (fun l i => insertMag xs i l) []
      let t := (xs.getD (order.getD k 0) (.fin false 0 0)).abs
      let out := outliers xs t (order.take k)
      let rest := (List.range 48).filter fun j => !(out.contains j)
      let m := rest.foldl (fun (a : FVal) j =>
        let v := (xs.getD j (.fin false 0 0)).abs
        if cmpVal v a == .gt then v else a) (.fin false 0 0)
      let s : Int := if m.isZero then 127 else max 0 (min 254 (127 + floorLog2 m - emax + 1))
      let enc := (List.range 48).map fun j =>
        if out.contains j then (0, (0 : Word)) else encodeTap ((xs.getD j (.fin false 0 0)).scale (127 - s)) n
      let sl := out.map fun j => (j, roundVal parBf16 .rne (xs.getD j (.fin false 0 0)))
      let fl := (enc.map Prod.snd).foldl (· ||| ·) 0 ||| ((sl.map fun x => x.2.2).foldl (· ||| ·) 0 &&& (flNX ||| flOF))
      let payload := if t6 then leBytes 36 (packTap6 (enc.map Prod.fst)) else enc.map fun e => BitVec.ofNat 8 e.1
      (sealBlock (BitVec.ofNat 8 b0 :: BitVec.ofNat 8 s.toNat :: (payload ++ slotsOff (sl.map fun x => (x.1, x.2.1)))), fl)

end Sys2Proof.Machine
end

