-- ==== Sys2Proof/Machine/Transcend.lean ====
section
/-! DEFINITION. The special functions (R148).

FRCP and FSQRT are correctly rounded. For the others the spec bounds the error in ulp and leaves the bits open: the
model takes the free value `Config.special` where it lies within the bound of the exact result, and the nearest value
otherwise, so that the bound holds whatever the free value is (log entry 12). The exact result is computed in fixed
point with 200 fraction bits, far beyond any format's ulp. -/

namespace Sys2Proof.Machine

open Sys2Proof

/-- Fraction bits of the fixed-point work. -/
def fxBits : Nat := 200
def fxOne : Nat := 2 ^ fxBits

/-- The eight functions of R148. -/
inductive SpecFn | rcp | rsq | sqrt | exp2 | log2 | sin | cos | tanh
  deriving DecidableEq, Repr

def specCode : SpecFn → Nat
  | .rcp => 0
  | .rsq => 1
  | .sqrt => 2
  | .exp2 => 3
  | .log2 => 4
  | .sin => 5
  | .cos => 6
  | .tanh => 7

/-- The error bound in ulp (R148). -/
def specUlp (fn : SpecFn) (t : FFmt) : Nat :=
  match fn, t with
  | .rsq, _ => 1
  | _, .f16 => 1
  | _, _ => 2

/-- Sum over k = 1 .. n of 1 / (k 2^k): ln 2. -/
def ln2Sum : Nat → Nat
  | 0 => 0
  | k + 1 => ln2Sum k + fxOne / ((k + 1) * 2 ^ (k + 1))
def fxLn2 : Nat := ln2Sum 200

/-- arctan(1/q) by its series: terms alternate; `n` counts down, `p` is 1/q^(2k+1) in fixed point. -/
def atanInv (q2 : Nat) : Nat → Nat → Nat → Int
  | 0, _, _ => 0
  | n + 1, p, d => (p / d : Nat) - atanInv q2 n (p / q2) (d + 2)
/-- π by Machin's formula. -/
def fxPi : Nat := (16 * atanInv 25 90 (fxOne / 5) 1 - 4 * atanInv 57121 40 (fxOne / 239) 1).toNat

/-- Sum of y^k / k! from the term `t` of index `k` on. -/
def expSum (y : Nat) : Nat → Nat → Nat → Nat
  | 0, _, _ => 0
  | n + 1, t, k => t + expSum y n (t * y / fxOne / (k + 1)) (k + 1)

/-- 2^f for a fixed-point f in [0, 1). -/
def fxExp2 (f : Nat) : Nat := expSum (f * fxLn2 / fxOne) 60 fxOne 0

/-- A dyadic in fixed point, cut towards zero. -/
def toFx (neg : Bool) (m : Nat) (e : Int) : Int :=
  let k : Int := if e + fxBits ≥ 0 then m * 2 ^ (e + fxBits).toNat else m / 2 ^ (-(e + fxBits)).toNat
  if neg then -k else k

/-- Sum of z^(2k+1) / (2k+1): artanh. -/
def atanhSum (z2 : Nat) : Nat → Nat → Nat → Nat
  | 0, _, _ => 0
  | n + 1, p, d => p / d + atanhSum z2 n (p * z2 / fxOne) (d + 2)

/-- ln of a fixed-point r in [1, 2). -/
def fxLn (r : Nat) : Nat :=
  let z := (r - fxOne) * fxOne / (r + fxOne)
  2 * atanhSum (z * z / fxOne) 70 z 1

/-- Sum of (−y2)^k / (2k+1)! : sin y / y for y2 = y². -/
def sincSum (y2 : Nat) : Nat → Nat → Nat → Int
  | 0, _, _ => 0
  | n + 1, t, d => (t : Int) - sincSum y2 n (t * y2 / fxOne / (d * (d + 1))) (d + 2)

/-- sin(π x) for a dyadic x = m × 2^e in [0, 1/2]: m × (π sinc) × 2^e. -/
def sinPiSmall (m : Nat) (e : Int) : Nat × Int :=
  let x := (toFx false m e).toNat
  let y2 := x * x / fxOne * fxPi / fxOne * fxPi / fxOne
  let s := (sincSum y2 50 fxOne 2).toNat
  (m * (fxPi * s / fxOne), e - fxBits)

/-- An exact or nearly exact result: sign, integer and exponent. -/
structure SpecRes where
  neg : Bool
  m : Nat
  e : Int
  exact : Bool
  deriving Repr

/-- x mod 2 for a positive dyadic, with the same exponent where it is not positive. -/
def mod2 (m : Nat) (e : Int) : Nat × Int :=
  if e ≥ 1 then (0, 0) else (m % 2 ^ (1 - e).toNat, e)

/-- sin(π x) for t = x mod 2 of a positive x. -/
def sinPi (neg : Bool) (m : Nat) (e : Int) : SpecRes :=
  let (t, q) := mod2 m e
  let one := 2 ^ (-q).toNat
  if t % one = 0 then { neg, m := 0, e := 0, exact := true }
  else
    let (t, flip) := if t > one then (t - one, true) else (t, false)
    let t := if 2 * t > one then one - t else t
    if 2 * t = one then { neg := neg != flip, m := fxOne, e := -fxBits, exact := false }
    else
      let (r, re) := sinPiSmall t q
      { neg := neg != flip, m := r, e := re, exact := false }

/-- A value so near 1 that only its side of 1 counts: the ulp below a binade's edge is half that above it. -/
def near1 (neg below : Bool) : SpecRes := { neg, m := if below then 2 ^ 300 - 1 else 2 ^ 300 + 1, e := -300, exact := false }

/-- cos(π x). -/
def cosPi (m : Nat) (e : Int) : SpecRes :=
  let (t, q) := mod2 m e
  let (t, q) := if q = 0 then (2 * t, -1) else (t, q)
  let one := 2 ^ (-q).toNat
  -- fold to [0, 1]: cos(π (2 - t)) = cos(π t)
  let t := if t > one then 2 * one - t else t
  let (t, neg) := if 2 * t > one then (one - t, true) else (t, false)
  if 2 * t = one then { neg := false, m := 0, e := 0, exact := true }
  else if t = 0 then { neg, m := 1, e := 0, exact := true }
  else if q + bitLen t < -60 then near1 neg true
  else
    let (r, re) := sinPiSmall (one - 2 * t) (q - 1)
    { neg, m := r, e := re, exact := false }

/-- 2^x. -/
def exp2Of (neg : Bool) (m : Nat) (e : Int) : SpecRes :=
  let integral := decide (e ≥ 0) || m % 2 ^ (-e).toNat == 0
  if e + bitLen m < -100 then near1 false neg
  else if e + bitLen m > 16 then { neg := false, m := 1, e := if neg then -60000 else 60000, exact := integral }
  else
    let x := toFx neg m e
    let n := x / fxOne
    let f := (x - n * fxOne).toNat
    if integral then { neg := false, m := 1, e := n, exact := true }
    else { neg := false, m := fxExp2 f, e := n - fxBits, exact := false }

/-- log2 x of a positive x. -/
def log2Of (m : Nat) (e : Int) : SpecRes :=
  let bl := bitLen m
  let top : Int := e + bl - 1
  if m = 2 ^ (bl - 1) then { neg := decide (top < 0), m := top.natAbs, e := 0, exact := true }
  else
    let r := m * fxOne / 2 ^ (bl - 1)
    let v : Int := top * fxOne + fxLn r * fxOne / fxLn2
    { neg := decide (v < 0), m := v.natAbs, e := -fxBits, exact := false }

/-- 1 / √x of a positive x. -/
def rsqOf (m : Nat) (e : Int) : SpecRes :=
  -- an even exponent
  let (m, e) := if e % 2 = 0 then (m, e) else (2 * m, e - 1)
  let bl := bitLen m
  if m = 2 ^ (bl - 1) ∧ (bl - 1) % 2 = 0 then
    { neg := false, m := 1, e := -(e / 2) - ((bl - 1) / 2 : Nat), exact := true }
  else
    let k := 300 + bl
    { neg := false, m := isqrt (2 ^ (2 * k) / m), e := -(e / 2) - k, exact := false }

/-- tanh of a magnitude. -/
def tanhOf (neg : Bool) (m : Nat) (e : Int) : SpecRes :=
  let top : Int := e + bitLen m
  if top < -40 then
    -- x (1 − x²/3)
    let x := (toFx false m e).toNat
    { neg, m := m * (fxOne - max 1 (x * x / fxOne / 3)), e := e - fxBits, exact := false }
  else if top > 7 then { neg, m := fxOne - 1, e := -fxBits, exact := false }
  else
    let x := (toFx false m e).toNat
    let y := 2 * x * fxOne / fxLn2
    let n := y / fxOne
    let ex := fxExp2 (y % fxOne) * 2 ^ n
    { neg, m := (ex - fxOne) * fxOne / (ex + fxOne), e := -fxBits, exact := false }

/-- Is a value within `k` ulp of the exact result? The ulp is that of the format at the exact result, the subnormal
spacing below the normal range. -/
def withinUlp (f : FPar) (k : Nat) (r : SpecRes) (c : FVal) : Bool :=
  match c with
  | .nan _ => false
  | .inf _ => false
  | .fin cn cm ce =>
    let top : Int := r.e + bitLen r.m - 1
    let u := max top f.emin - f.fb
    let q := min (min r.e ce) u
    let d := (asInt cn cm ce q - asInt r.neg r.m r.e q).natAbs
    decide (d ≤ k * 2 ^ (u - q).toNat)

/-- The delivered bits and flags of a function that is not correctly rounded. An exact result is rounded to nearest, FEXP2 of an integer
beyond the range of the type too (R52, R148; log entry 62). -/
def deliver (fn : SpecFn) (t : FFmt) (x : Nat) (r : SpecRes) : Nat × Word :=
  let f := fpar t
  let near := roundTo f .rne r.neg r.m r.e
  if r.exact then near
  else
    let free := (Config.special (specCode fn) (fmtCode t) (BitVec.ofNat 64 x)).toNat % 2 ^ f.width
    let c := unpackF f free
    let bits := if natField near.1 f.fb f.eb ≠ 2 ^ f.eb - 1 ∧ withinUlp f (specUlp fn t) r c then free else near.1
    let tiny := natField bits f.fb f.eb == 0
    (bits, flNX ||| flagIf (natField bits f.fb f.eb == 2 ^ f.eb - 1) flOF ||| flagIf tiny flUF)

/-- A special function of the bits of one element (R148). -/
def specBits (fn : SpecFn) (t : FFmt) (rm : RMode) (x : Nat) : Nat × Word :=
  let f := fpar t
  let v := unpackF f x
  match fn, v with
  | .rcp, _ => finish f rm (divVal (.fin false 1 0) v)
  | .sqrt, _ => finish f rm (sqrtVal v)
  | _, .nan s => (f.nan, flagIf s flNV)
  | .rsq, .inf n => if n then (f.nan, flNV) else (f.zero false, 0)
  | .rsq, .fin n m e =>
    if m = 0 then (f.inf n, flDZ)
    else if n then (f.nan, flNV)
    else deliver .rsq t x (rsqOf m e)
  | .exp2, .inf n => if n then (f.zero false, 0) else (f.inf false, 0)
  | .exp2, .fin n m e => if m = 0 then roundTo f .rne false 1 0 else deliver .exp2 t x (exp2Of n m e)
  | .log2, .inf n => if n then (f.nan, flNV) else (f.inf false, 0)
  | .log2, .fin n m e =>
    if m = 0 then (f.inf true, flDZ)
    else if n then (f.nan, flNV)
    else deliver .log2 t x (log2Of m e)
  | .sin, .inf _ => (f.nan, flNV)
  | .sin, .fin n m e => deliver .sin t x (sinPi n m e)
  | .cos, .inf _ => (f.nan, flNV)
  | .cos, .fin _ m e => deliver .cos t x (cosPi m e)
  | .tanh, .inf n => roundTo f .rne n 1 0
  | .tanh, .fin n m e => if m = 0 then (f.zero n, 0) else deliver .tanh t x (tanhOf n m e)

end Sys2Proof.Machine
end

