-- ==== Sys2Proof/Machine/Flags.lean ====
section
/-! DEFINITION. Conditions and flags: the compares of ICMP and FCMP (R115, R144), the predicates a compare writes, and the
float flags a word raises in `%fst` (R44, R52). Integer arithmetic sets no flag (R48). -/

namespace Sys2Proof.Machine

open Sys2Proof

/-- Compare of R115 on values of `w` bits. -/
def icondHolds (c : ICond) (w : Nat) (a b : DWord) : Bool :=
  let sa := (BitVec.ofNat w a.toNat).toInt
  let sb := (BitVec.ofNat w b.toNat).toInt
  let ua := a.toNat % 2 ^ w
  let ub := b.toNat % 2 ^ w
  match c with
  | .eq => ua == ub
  | .ne => ua != ub
  | .lts => decide (sa < sb)
  | .les => decide (sa ≤ sb)
  | .ltu => decide (ua < ub)
  | .leu => decide (ua ≤ ub)

/-- The predicate writes of a compare (R115, R31): the second destination is written second. -/
def comparePreds (pa pb : Fin 32) (cond pc : Bool) : List (Nat × Bool) := [(pa.val, cond && pc), (pb.val, !cond && pc)]

/-- The condition and the flags of FCMP on the low element of each operand (R144). -/
def fcmpHolds (c : FCond) (sig absA absB : Bool) (t : FFmt) (a b : DWord) : Bool × Word :=
  let f := fpar t
  let m := fun (ab : Bool) (x : DWord) => applyMod f { abs := ab, neg := false } (x.toNat % 2 ^ f.width)
  fcmpVal c sig (unpackF f (m absA a)) (unpackF f (m absB b))

/-- Writes predicates in order. -/
def Thread.setPreds (th : Thread) (l : List (Nat × Bool)) : Thread := l.foldl (fun th e => th.setPred e.1 e.2) th

end Sys2Proof.Machine
end

