-- ==== Sys2Proof/Machine/Pool.lean ====
section
/-! DEFINITION. The register pool of a core: the words it stores and their errors (R226, R373, R385, R392), the mirrors of MIRR groups
(R391), and the spill of G registers (R30). -/

namespace Sys2Proof.Machine

open Sys2Proof

/-! ### Words and their mirrors (R391) -/

/-- The part of a register that supplies a thread: the group's shared words, or the thread's own. -/
def VReg.part (r : VReg) (t : Nat) : Nat :=
  match r.val with
  | .g _ => t + 1
  | .u _ | .a _ _ => 0

/-- The word of V[n] that supplies a lane. -/
def Group.word (g : Group) (l : Lane) (n : Nat) : PoolWord := .v l.sh n ((g.vreg l.sh n).part l.t)

/-- Does the pool hold a mirror of a word of a group? -/
def State.mirrored (s : State) (g : Nat) (w : PoolWord) : Bool := (s.core (s.grp g).core).mirs.contains (g, w)

/-- Words of a MIRR group that have just been written take a mirror, the latest last. -/
def State.mirrorPut (s : State) (g : Nat) (keys : List PoolWord) : State :=
  if !(s.grp g).mirr || keys.isEmpty then s
  else
    let new := keys.map fun k => (g, k)
    s.modCore (s.grp g).core fun c => { c with mirs := c.mirs.filter (fun e => !new.contains e) ++ new }

/-- A lane and its shadow. -/
def State.both (s : State) (l : Lane) : List Lane := if (s.grp l.g).prot then [l, l.shadow] else [l]

/-- The slot of a small-matrix register's descriptor. -/
def descSlot : Nat := 64

/-- The slots of a shape at row stride `d`, as many as a test on row and column picks, and the descriptor. -/
def MReg.slots (d : Nat) (r : MReg) (pick : Nat → Nat → Bool) : List Nat :=
  let n := r.desc.toNat
  descSlot :: ((List.range (natField n 22 3)).map fun i =>
    ((List.range (natField n 19 3)).filter (pick i)).map fun j => i * d + j).flatten

/-! ### Stored words with errors (R226, R373, R392) -/

/-- Bits inverted in the stored word a lane reads of a register (R226). -/
def VReg.errAt (r : VReg) (t : Nat) : Word :=
  match r.val with
  | .g _ => r.errs.get 0 t
  | _ => r.err

/-- Bits inverted in the mirror of that word. -/
def VReg.merrAt (r : VReg) (t : Nat) : Word :=
  match r.val with
  | .g _ => r.merrs.get 0 t
  | _ => r.merr

/-- The stored word a lane reads, rewritten without errors. -/
def VReg.heal (r : VReg) (t : Nat) : VReg :=
  match r.val with
  | .g _ => { r with errs := r.errs.erase t }
  | _ => { r with err := 0 }

def wordPopc (w : Word) : Nat := ((List.range 32).filter w.getLsbD).length

/-- What the read of a stored word finds: nothing, a single error, an uncorrectable one with a valid mirror, or one without. -/
inductive EccSt | clean | single | mirror | bad
  deriving DecidableEq, Repr, Inhabited

/-- The state of the word of V[n] that a lane reads. -/
def State.eccV (s : State) (l : Lane) (n : Nat) : EccSt :=
  let r := (s.grp l.g).vreg l.sh n
  match wordPopc (r.errAt l.t) with
  | 0 => .clean
  | 1 => .single
  | _ => if s.mirrored l.g ((s.grp l.g).word l n) && decide (wordPopc (r.merrAt l.t) ≤ 1) then .mirror else .bad

/-- The largest matrix dimension of a lane's launch. -/
def State.smDim (s : State) (l : Lane) : Nat :=
  match s.recOf l.g with
  | some r => r.mdim
  | none => 0

/-- The element SMMOV.get or SMMOV.put names for a lane: its slot. -/
def State.smSlot (s : State) (l : Lane) (ops : List (Src × Bool)) : List Nat :=
  match readSrcs (s.grp l.g) l (s.thread l) ops with
  | (.ok vs, _) => [descSlot, (vs.getD 0 0).toNat * s.smDim l + (vs.getD 1 0).toNat]
  | (.error _, _) => [descSlot]

/-- The slots a word of a lane reads of its small-matrix registers: the whole shape, SMCHOL its lower triangle, SMMOV.get one element (R215, R217);
SMLD and SMMOV.put the descriptor. -/
def State.slotsRead (s : State) (l : Lane) (i : Instr) : List (Nat × Nat) :=
  let m := fun (n : Nat) => (s.thread l).m.get MReg.empty n
  let all := fun (n : Nat) (pick : Nat → Nat → Bool) => ((m n).slots (s.smDim l) pick).map fun k => (n, k)
  match i with
  | .smmovGet _ x => (s.smSlot l (sources i)).map fun k => (x.ma.val, k)
  | .smld _ x => [(x.md.val, descSlot)]
  | .smmovPut _ x => [(x.md.val, descSlot)]
  | .smchol _ x => all x.ma.val fun i j => decide (j ≤ i)
  | i => ((mreads i).map fun n => all n fun _ _ => true).flatten

/-- How many frames of a thread a word reads: RET the top one, THROW down to the landing pad (R129, R130). -/
def framesRead (i : Instr) (fs : List Frame) : Nat :=
  match i with
  | .ret _ => 1
  | .throw _ => (fs.takeWhile fun f => f.pad = 0).length + 1
  | _ => 0

/-- The words a lane reads at a word of which the stored form has an error, with what the read finds. -/
def State.eccReads (s : State) (l : Lane) (i : Instr) : List (PoolWord × EccSt) :=
  let th := s.thread l
  let kept := fun (w : PoolWord) => if s.mirrored l.g w then EccSt.mirror else .bad
  let vs := (reads i).dedup.map fun n => ((s.grp l.g).word l n, s.eccV l n)
  let ms := (((s.slotsRead l i).dedup.filter fun e => (th.m.get MReg.empty e.1).bad.contains e.2).map fun e => PoolWord.m l.sh l.t e.1 e.2).map
    fun w => (w, kept w)
  let fs := ((th.frames.take (framesRead i th.frames)).zipIdx.filter fun e => e.1.bad).map fun e =>
    PoolWord.f l.sh l.t (th.frames.length - 1 - e.2)
  vs.filter (fun e => e.2 != .clean) ++ ms ++ fs.map fun w => (w, kept w)

/-- A correction, or a mirror that served a read, is counted on the die (R385). -/
def State.eccCount (s : State) (l : Lane) (e : EccSt) : State :=
  s.modDie (coreDie (s.grp l.g).core) fun d =>
    match e with
    | .single => { d with corr := d.corr + 1 }
    | .mirror => { d with mirror := d.mirror + 1 }
    | .clean | .bad => d

/-- A stored word is rewritten without errors (R373, R392). -/
def State.healWord (s : State) (l : Lane) : PoolWord → State
  | .v _ n _ => s.modGroup l.g fun g => g.setVreg l.sh n ((g.vreg l.sh n).heal l.t)
  | .m _ _ n k => s.modThread l fun th => { th with m := th.m.modify n fun m => { m with bad := m.bad.filter (· != k) } }
  | .f _ _ k => s.modThread l fun th => { th with frames := th.frames.modify (th.frames.length - 1 - k) fun f => { f with bad := false } }

/-- The reads of a word by a lane, where none of them is uncorrectable: what they found is corrected, or its mirror's word is written back. -/
def State.eccRead (s : State) (l : Lane) (i : Instr) : State :=
  (s.eccReads l i).foldl (fun s e => if e.2 = .bad then s else (s.healWord l e.1).eccCount l e.2) s

/-- The uncorrectable stored words a lane reads at a word, by group (R392). -/
def State.eccWords (s : State) (l : Lane) (i : Instr) : List (Nat × PoolWord) :=
  ((s.eccReads l i).filter fun e => e.2 == .bad).map fun e => (l.g, e.1)

/-- Does a lane read an uncorrectable stored word (R392)? -/
def State.eccBad (s : State) (l : Lane) (i : Instr) : Bool := !(s.eccWords l i).isEmpty

/-! ### The pool's space (R30, R391) -/

/-- Pool words a group's G registers take. -/
def Group.gWords (g : Group) : Nat :=
  let n := fun (vs : AMap VReg) => (vs.filter fun e => e.2.val.code == 2 && !g.spilled.contains e.1).length
  (n g.v + n g.vsh) * g.width

/-- The space reserved for a group's first 16 G registers. -/
def Group.poolKept (g : Group) : Nat := 16 * g.width * (1 + b2n g.prot)

/-- That space, or what the group has taken beyond. -/
def Group.poolShare (g : Group) : Nat := max g.poolKept g.gWords

/-- Pool words of a core that V registers and mirrors may take: its part for registers less the small matrices and the resident frames
of its groups. -/
def State.poolWords (s : State) (core : Nat) : Nat :=
  match (s.core core).carve with
  | none => 0
  | some c =>
    let fixed := (s.groups.filter fun e => e.2.core == core).map fun e =>
      match s.launch? e.2.launch with
      | some l => e.2.width * (1 + b2n e.2.prot) * (l.lrec.mcnt * (2 * l.lrec.mdim * l.lrec.mdim + 1) + 16)
      | none => 0
    c.regs * 16384 - fixed.sum

/-- Pool words the mirror of a word takes; 0 for a word the pool no longer holds. -/
def State.mirrorWords (s : State) (e : Nat × PoolWord) : Nat :=
  match s.group? e.1, e.2 with
  | some g, .v sh n p =>
    if g.spilled.contains n then 0
    else match (g.vreg sh n).val, p with
      | .u _, 0 => 1
      | .a _ _, 0 => 2
      | .g _, _ + 1 => 1
      | _, _ => 0
  | some _, .m _ _ _ k => if k = descSlot then 1 else 2
  | some g, .f sh t k =>
    let n := ((g.thread? (t + 64 * b2n sh)).map fun th => th.frames.length).getD 0
    if k < n ∧ n ≤ k + 4 then 4 else 0
  | none, _ => 0

/-- Pool words the groups of a core take, mirrors apart. -/
def State.poolTaken (s : State) (core : Nat) : Nat :=
  ((s.groups.filter fun e => e.2.core == core).map fun e => e.2.poolShare).sum

/-- The mirrors that stay where `room` words are left for them: the least recently written ones are dropped first. -/
def keepMirrors (size : Nat × PoolWord → Nat) (room : Nat) : List (Nat × PoolWord) → List (Nat × PoolWord)
  | [] => []
  | e :: r => if size e + (r.map size).sum ≤ room then e :: r else keepMirrors size room r

/-- Mirrors give way to allocations, and go with their words (R391). -/
def State.fitMirrors (s : State) (core : Nat) : State :=
  if (s.core core).mirs.isEmpty then s
  else
    let room := s.poolWords core - s.poolTaken core
    let keep := keepMirrors s.mirrorWords room ((s.core core).mirs.filter fun e =>
      decide (s.mirrorWords e ≠ 0) && (s.group? e.1).any fun g => g.core == core)
    s.modCore core fun c => { c with mirs := keep }

/-- Spills the least recently used G register of a group, its shadows' words with it, other than the word's own (R30). -/
def Group.spillOne (g : Group) (keep : List Nat) : Option Group :=
  match g.lru.find? fun n => ((g.vreg false n).val.code == 2 || (g.vreg true n).val.code == 2) && !g.spilled.contains n && !keep.contains n with
  | some n => some { g with spilled := n :: g.spilled }
  | none => none

/-- G registers of a group beyond its reservation are spilled, least recently used first, while the pool is short. -/
def State.fitGroup (s : State) (g : Nat) (own : List Nat) : State :=
  let core := (s.grp g).core
  (List.range 96).foldl (fun (s : State) _ =>
    if s.poolTaken core ≤ s.poolWords core || decide ((s.grp g).gWords ≤ (s.grp g).poolKept) then s
    else match (s.grp g).spillOne own with
      | some x => (s.modGroup g fun _ => x).modCore core fun c => { c with spill := c.spill + 1 }
      | none => s) s

/-- The words of a general register that its reload writes: those without an uncorrectable error. -/
def Group.reloaded (g : Group) (n : Nat) : List PoolWord :=
  [false, true].flatMap fun sh => match (g.vreg sh n).val with
    | .g ws => (AMap.keys ws |>.filter fun t => decide (wordPopc ((g.vreg sh n).errAt t) ≤ 1)).map fun t => .v sh n (t + 1)
    | .u _ | .a _ _ => []

/-- Registers of a group were used: spilled ones are reloaded, and the pool makes room, of mirrors first (R30, R391). -/
def State.useRegs (s : State) (g : Nat) (own : List Nat) : State :=
  let s := s.mirrorPut g ((own.dedup.filter (s.grp g).spilled.contains).flatMap (s.grp g).reloaded)
  let s := s.modGroup g fun x =>
    { x with lru := x.lru.filter (fun n => !own.contains n) ++ own, spilled := x.spilled.filter fun n => !own.contains n }
  (s.fitMirrors (s.grp g).core).fitGroup g own

/-! ### What a write puts into the pool (R391) -/

/-- The words that a lane's write of V[n] has written, from the group before and after: its own, or every thread's where the tag became G, but for
copies of an uncorrectable word. -/
def Group.wrote (before after : Group) (l : Lane) (n : Nat) : List PoolWord :=
  let own := after.word l n
  if (after.vreg l.sh n).val.code = 2 ∧ (before.vreg l.sh n).val.code ≠ 2 ∧ wordPopc (before.vreg l.sh n).err ≤ 1 then
    (List.range after.width).map fun t => .v l.sh n (t + 1)
  else [own]

/-- The pool words of a group that placing it fills, but for copies of uncorrectable ones. -/
def Group.filled (g : Group) (r : LaunchRec) : List PoolWord :=
  let vs := fun (sh : Bool) => (List.range r.vcnt).flatMap fun n =>
    let x := g.vreg sh n
    match x.val with
    | .g _ => ((List.range g.width).filter fun t => decide (wordPopc (x.errAt t) ≤ 1)).map fun t => PoolWord.v sh n (t + 1)
    | .u _ | .a _ _ => if wordPopc x.err ≤ 1 then [.v sh n 0] else []
  let ths := fun (e : Nat × Thread) =>
    let sh := decide (64 ≤ e.1)
    let t := e.1 % 64
    (List.range r.mcnt).flatMap (fun n =>
      let m := e.2.m.get MReg.empty n
      ((m.slots r.mdim fun _ _ => true).filter fun k => !m.bad.contains k).map fun k => PoolWord.m sh t n k) ++
    ((e.2.frames.take 4).zipIdx.filter fun f => !f.1.bad).map fun f => PoolWord.f sh t (e.2.frames.length - 1 - f.2)
  vs false ++ (if g.prot then vs true else []) ++ g.threads.flatMap ths

/-- Every word of a group that has just been placed is mirrored (R352, R391). -/
def State.mirrorAll (s : State) (g : Nat) : State :=
  match s.recOf g with
  | some r => (s.mirrorPut g ((s.grp g).filled r)).fitMirrors (s.grp g).core
  | none => s

/-- Does a word of the execute slice write its registers only later: when its access returns or its round closes? -/
def Instr.writesLater : Instr → Bool
  | .ld _ _ | .atom _ _ | .acas _ _ | .shfl _ _ | .vote _ _ | .redx _ _ | .scanx _ _ | .matchx _ _ | .xrcv _ _ => true
  | _ => false

/-- The slots a word of a lane writes of its small-matrix registers, from the state before and after it. -/
def State.slotsWritten (s0 s : State) (l : Lane) (i : Instr) : List (Nat × Nat) :=
  match i with
  | .smmovPut _ x => (s0.smSlot l [(x.i, false), (x.j, false)]).map fun k => (x.md.val, k)
  | .smset _ x => ((((s.thread l).m.get MReg.empty x.md.val).slots (s.smDim l)) fun _ _ => true).map fun k => (x.md.val, k)
  | i => ((mwrites i).map fun n => (((s.thread l).m.get MReg.empty n).slots (s.smDim l) fun _ _ => true).map fun k => (n, k)).flatten

/-- The frames that a return or THROW of a lane has made resident again. -/
def State.framesBack (s0 s : State) (l : Lane) (i : Instr) : List PoolWord :=
  let n0 := (s0.thread l).frames.length
  let n := (s.thread l).frames.length
  if framesRead i [] = 0 then [] else ((List.range n).filter fun k => decide (n ≤ k + 4 ∧ k + 4 < n0)).map fun k => .f l.sh l.t k

/-- The pool words a word of a lane has written. -/
def State.written (s0 s : State) (i : Instr) (l : Lane) : List PoolWord :=
  (if Instr.writesLater i then [] else (match i with
    | .errinjVflip1 _ _ _ | .errinjVflip2 _ _ _ _ => []
    | i => ((writes i).map fun n => (s0.grp l.g).wrote (s.grp l.g) l n).flatten)) ++
  (s0.slotsWritten s l i).map (fun e => .m l.sh l.t e.1 e.2) ++ s0.framesBack s l i

/-- A word of these lanes was issued by a group: what it wrote is mirrored, and what it names was used. -/
def State.touchRegs (s0 s : State) (g : Nat) (i : Instr) (ls : List Lane) : State :=
  (s.mirrorPut g ((ls.flatMap s.both).flatMap (s0.written s i)).dedup).useRegs g (reads i ++ writes i)

/-- Registers of these lanes of a group have received values from outside a word of theirs: an access that returns, a round that closes, a commit,
an abort. -/
def State.gave (s0 s : State) (g : Nat) (ls : List Lane) (ns : List Nat) : State :=
  (s.mirrorPut g (ls.flatMap fun l => ns.flatMap fun n => (s0.grp g).wrote (s.grp g) l n)).useRegs g ns

/-- Values from outside a word for registers of a lane and its shadow. -/
def State.give (s : State) (l : Lane) (ws : List (Nat × Word)) : State :=
  if ws.isEmpty then s else s.gave (s.putBoth l ws) l.g (s.both l) (ws.map Prod.fst)

end Sys2Proof.Machine
end

