-- ==== Sys2Proof/Machine/Memory.lean ====
section
/-! DEFINITION. Memory and what stands between a thread and it: bytes by physical address in one canonical form, the
physical map (R334), the sector protocol with its directories (R265 to R271), translation (R335 to R339), records and
addresses (R38 to R40), the scratchpad aperture (R253, R254), stash windows (R257, R258) and snapshots (R378, R379). -/

namespace Sys2Proof.Machine

open Sys2Proof

/-! ### Bytes -/

/-- One byte; an unlisted address reads 0 (log entry 4). -/
def Memory.get : List Host.Cell → Nat → Byte
  | [], _ => 0
  | (x, b) :: r, a => if x = a then b else if a < x then 0 else Memory.get r a

/-- Writes one byte and keeps the canonical form: a byte of 0 is not listed. -/
def Memory.set (a : Nat) (b : Byte) : List Host.Cell → List Host.Cell
  | [] => if b = 0 then [] else [(a, b)]
  | (x, c) :: r =>
    if a < x then (if b = 0 then (x, c) :: r else (a, b) :: (x, c) :: r)
    else if x = a then (if b = 0 then r else (a, b) :: r)
    else (x, c) :: Memory.set a b r

/-- The canonical form above an address: addresses rise strictly and no listed byte is 0. -/
def Memory.wfFrom (lo : Nat) : List Host.Cell → Bool
  | [] => true
  | (x, b) :: r => decide (lo ≤ x) && decide (b ≠ 0) && Memory.wfFrom (x + 1) r

/-- The canonical form of a memory. -/
def Memory.wf (m : List Host.Cell) : Bool := Memory.wfFrom 0 m

/-- `n` bytes from an address, the lowest first. -/
def Memory.read (m : List Host.Cell) (a : Nat) : Nat → List Byte
  | 0 => []
  | n + 1 => Memory.get m a :: Memory.read m (a + 1) n

/-- Writes bytes from an address, the first at the lowest. -/
def Memory.write (a : Nat) : List Byte → List Host.Cell → List Host.Cell
  | [], m => m
  | b :: r, m => Memory.write (a + 1) r (Memory.set a b m)

/-- The bytes of memory as the newest writes left them (R278). -/
def State.rdN (s : State) (pa n : Nat) : List Byte := Memory.read s.mem pa n
/-- A little-endian number read from memory (R3). -/
def State.rdNat (s : State) (pa n : Nat) : Nat := wordOfBytes (s.rdN pa n)
/-- Writes bytes to memory, nothing else. -/
def State.wrN (s : State) (pa : Nat) (bs : List Byte) : State := { s with mem := Memory.write pa bs s.mem }

/-! ### The physical map (R334, R357) -/

/-- 768 GiB of HBM. -/
def hbmSize : Nat := 0x00C0_0000_0000

inductive PaKind
  | hbm
  | span
  | window (port : Nat)
  | host (port : Nat)
  | none
  deriving DecidableEq, Repr, Inhabited

/-- Does the enabled mailbox window of a port hold this host physical address (R357)? -/
def State.inWindow (s : State) (port hpa : Nat) : Bool :=
  let m := (s.hostPort port).mbxbase.toNat
  natBit m 0 && natField m 28 22 == natField hpa 28 22

/-- What a physical address reaches (R334). -/
def State.paKind (s : State) (pa : Nat) : PaKind :=
  if pa < hbmSize then .hbm
  else if pa < 0x4_0000_0000_0000 then .none
  else if pa < 0x8_0000_0000_0000 then
    (if natField pa 40 10 = s.pkg.spanNumber ∨ hbmSize ≤ natField pa 0 40 then .none else .span)
  else if pa < 0x10_0000_0000_0000 then
    let port := if pa < 0xC_0000_0000_0000 then 0 else 1
    if s.inWindow port (natField pa 0 50) then .window port else .host port
  else .none

/-- Is the address cached under the sector protocol: HBM or an enabled window (R267, R357)? -/
def PaKind.coherent : PaKind → Bool
  | .hbm | .window _ => true
  | .span | .host _ | .none => false

/-- Host memory outside the windows, or another package: a write there is an external side effect (R380). -/
def PaKind.external : PaKind → Bool
  | .span | .window _ | .host _ => true
  | .hbm | .none => false

/-! ### Ports (R393, R396) -/

/-- Does some enabled Span port work? -/
def State.spanOpen (s : State) : Bool := s.span.any fun e => e.2.enabled && e.2.recovery.isNone

/-- Do the ports between the part and a sort of address work? -/
def State.kindOpen (s : State) : PaKind → Bool
  | .span => s.spanOpen
  | .host p | .window p => (s.hostPort p).recovery.isNone
  | .hbm | .none => true

/-- Has a port been in recovery for its bound of 50 ms (R393)? -/
def pastBound (s : State) (since : Option Nat) : Bool := since.any fun t => decide (t + 50000000 * 17 ≤ s.time)

/-- Are the ports to a sort of address lost: none of them works, and the bound of some recovery has passed (R394, R395)? -/
def State.kindLost (s : State) : PaKind → Bool
  | .span => !s.spanOpen && s.span.any fun e => e.2.enabled && pastBound s e.2.recovery
  | .host p | .window p => pastBound s (s.hostPort p).recovery
  | .hbm | .none => false

/-- Bytes of a failed write: each old or new as the free choices fall (R395; log entry 11). -/
def State.mixBytes (s : State) (old new : List Byte) : List Byte × State :=
  ((List.zip old new).zipIdx.map fun e => if Config.freeChoice (s.free + e.2) then e.1.2 else e.1.1, s.used new.length)

/-- The home die of a line (R264). -/
def State.home (s : State) (pa : Nat) : Nat := s.homemap.get 0 (pa / 0x1_0000 % 256)

/-- Does a fence still rebuild the package directory entry of a sector's home (R402, R413)? -/
def State.homeLost (s : State) (sec : Nat) : Bool := s.lostHomes.contains (sec / 1024 % 256)

/-- Is a die fenced, as the directories know it: the parts a fence in progress rebuilds still count on the lost die? -/
def State.goneFor (s : State) (now : Bool) (die : Nat) : Bool :=
  (s.die die).fenced && (now || (s.die die).fencedAt.isNone)

/-- The die of a tower that holds the tower entry of an address (R265). -/
def State.towerDie (s : State) (now : Bool) (tower pa : Nat) : Nat :=
  let d := 2 * tower + natField pa 16 1
  if s.goneFor now d then 2 * tower + (1 - natField pa 16 1) else d

/-- The die of a deck that holds the deck entry of an address (R265). -/
def State.deckDie (s : State) (now : Bool) (deck pa : Nat) : Nat :=
  let d := 8 * deck + natField pa 17 3
  let other := if d % 2 = 0 then d + 1 else d - 1
  if !s.goneFor now d then d
  else if !s.goneFor now other then other
  else ((rangeFrom (8 * deck) 8).find? fun k => !s.goneFor now k).getD d

/-! ### The sector protocol (R265 to R271) -/

/-- The directory levels from cluster to package. -/
def dirScope : Nat → Scope
  | 0 => .clu
  | 1 => .die
  | 2 => .twr
  | 3 => .deck
  | _ => .pkg

/-- Is the directory entry of a level on a core's path one that a fence is rebuilding (R402, R413)? -/
def State.entryLost (s : State) (lev core sec : Nat) : Bool :=
  let rebuilt := fun (d : Nat) => (s.die d).fenced && (s.die d).fencedAt.isSome
  match lev with
  | 0 | 1 => false
  | 2 => rebuilt (s.towerDie false (coreDie core / 2) (64 * sec))
  | 3 => rebuilt (s.deckDie false (coreDie core / 8) (64 * sec))
  | _ => s.homeLost sec

/-- The key of the directory of a level on the path of a core. -/
def dirKey (lev core : Nat) : Nat := 64 * lev + instanceOf (dirScope lev) core

/-- Is the instance of a directory key on the path of a core? -/
def onPath (key core : Nat) : Bool := dirKey (key / 64) core == key

/-- The core that holds the sector in M, O or E, if one does (R269). -/
def Sector.owner (x : Sector) : Option Nat := (x.l1.first fun e => e.2 != .s).map Prod.fst
/-- Is the owner's copy dirty? -/
def Sector.dirty (x : Sector) : Bool := x.l1.any fun e => e.2 == .m || e.2 == .o

/-- The 64-byte sector of a place. -/
def spaceSec : Space → Space
  | .phys pa => .phys (pa / 64)
  | .aper g off => .aper g (off / 64)
  | .win c w off => .win c w (off / 64)

/-- Marks the input of every open region that a predicate on its lane picks (R308). -/
def State.markSec (s : State) (sec : Space) (hit : Lane → Group → Bool) : State :=
  let touch : RInput → RInput := fun i => if spaceSec i.space = sec then { i with mark := true } else i
  let mk : Thread → Thread := fun th => { th with region := th.region.map fun r => { r with inputs := r.inputs.map touch } }
  { s with groups := s.groups.mapVals fun k g =>
      { g with threads := g.threads.mapVals fun t th =>
          if hit { g := k, t := t % 64, sh := decide (64 ≤ t) } g then mk th else th } }

def State.mark (s : State) (sec : Nat) (hit : Lane → Group → Bool) : State := s.markSec (.phys sec) hit

/-- Is any region open (so that marks matter)? -/
def State.anyRegion (s : State) : Bool := s.groups.any fun e => e.2.threads.any fun t => t.2.region.isSome

/-- Marks for an invalidation that arrives at a core. -/
def State.markCore (s : State) (sec core : Nat) : State :=
  if s.anyRegion then s.mark sec fun _ g => g.core == core else s

/-- Marks for a write by a lane on its own core: every other thread of the core. -/
def State.markOthers (s : State) (sec : Nat) (who : Lane) : State :=
  if s.anyRegion then s.mark sec fun l g => g.core == (s.grp who.g).core && l != who else s

/-- Marks for a write performed at once by an engine: every thread but the writer. -/
def State.markAll (s : State) (sec : Nat) (who : Option Lane) : State :=
  if s.anyRegion then s.mark sec fun l _ => some l != who else s

/-- Marks for a write to scratchpad or to a window sector. -/
def State.markPlace (s : State) (sp : Space) (who : Option Lane) : State :=
  if s.anyRegion then s.markSec (spaceSec sp) fun l _ => some l != who else s

/-- The sector's copies outside what a new owner keeps: clean ones hold their old bytes until their invalidation arrives (R270). -/
def State.staleAfter (s : State) (sec : Nat) (keepL1 keepL2 : Nat → Bool) : Sector :=
  let x := s.sector sec
  let bytes := s.rdN (64 * sec) 64
  { x with stale := x.l1.foldl (fun m e => if keepL1 e.1 || e.2 != L1St.s then m else m.set e.1 bytes) x.stale,
           l2stale := x.l2s.foldl (fun m d => if keepL2 d then m else m.set d bytes) x.l2stale }

/-- The directories on the path of a core. -/
def pathKeys (core : Nat) : List Nat := (List.range 5).map fun k => dirKey k core

/-- The latest bytes pass some directories: those answer with nothing older, as long as an older copy stands anywhere (R278). -/
def Sector.freshen (x : Sector) (keys : List Nat) : Sector :=
  { x with fresh := if x.stale.isEmpty && x.l2stale.isEmpty then [] else (x.fresh ++ keys).dedup }

/-- Marks for every owner that answers a new one at once (R308). -/
def State.markOwners (s : State) (sec : Nat) (keep : Nat → Bool) : State :=
  (s.sector sec).l1.foldl (fun s e => if keep e.1 || e.2 == L1St.s then s else s.markCore sec e.1) s

/-- Ownership of a sector passes to a core (R267, R268, R269): every other owner answers at once and is I; clean copies
elsewhere keep their old bytes until their invalidation arrives (R270). Every directory above the core becomes X, every
other one N. Dirty bytes travel with the ownership. -/
def State.grantOwn (s : State) (core sec : Nat) : State :=
  let x := s.sector sec
  let bytes := s.rdN (64 * sec) 64
  let y := s.staleAfter sec (· == core) (· == coreDie core)
  let held := x.dirty || x.l2dirty.isSome
  let below := if x.dirty then x.below else if x.l2dirty.isSome then some bytes else none
  let z := { y with l1 := [(core, if held then .m else .e)],
                    dir := (pathKeys core).foldl (fun m k => m.set k .x) [], stale := y.stale.erase core,
                    l2stale := y.l2stale.erase (coreDie core), below, l2dirty := none, l2own := none, l2s := [], fresh := [] }
  (s.markOwners sec (· == core)).setSector sec (z.freshen (pathKeys core))

/-- Clean copies and dirty ones after a forwarded read (R267). -/
def sharedL1 (l1 : AMap L1St) : AMap L1St := l1.mapVals fun _ v => match v with
  | .m => .o
  | .e => .s
  | v => v

/-- The L2s with a clean shared copy once an L2 has given its ownership up. -/
def Sector.givenUp (x : Sector) (own : Option Nat) : List Nat :=
  match x.l2own with
  | some d => if own.isSome || x.l2s.contains d then x.l2s else d :: x.l2s
  | none => x.l2s

/-- A read by a core is answered: exclusively where no copy stood outside its die, shared otherwise (R268). A dirty L2 stays the
owner, a clean one gives its ownership up. The bytes pass the directories of the core and the L2 of its die. -/
def State.grantRead (s : State) (core sec : Nat) : State :=
  let x := s.sector sec
  let far := fun (d : Nat) => d != coreDie core
  if x.l1 = [] && x.stale = [] && x.l2stale = [] && !x.l2own.any far && !x.l2s.any far then
    s.setSector sec { x with l1 := [(core, .e)], l2own := none, l2s := [],
                             dir := (List.range 5).foldl (fun m k => m.set (dirKey k core) .x) [] }
  else
    let top := ((List.range 5).find? fun k => (x.dir.find? (dirKey k core)).isSome).getD 4
    let l1 := sharedL1 x.l1
    let topX := x.dir.find? (dirKey top core) == some .x
    let dir := x.dir.mapVals fun k v =>
      if topX && decide (k / 64 < top) then .s else v
    let dir := (List.range top).foldl (fun m k => m.set (dirKey k core) .s) dir
    let own := if l1.any fun e => e.2 != .s then none else x.l2dirty
    let y := { x with l1 := l1.set core .s, dir, l2own := own, l2s := x.givenUp own, l2stale := x.l2stale.erase (coreDie core) }
    s.setSector sec (y.freshen (pathKeys core))

/-- A read that an agent outside the L1s makes is answered by the holder, who then shares the sector (R267, R268): the directories below
the level the request came to pass to S. -/
def State.shareOut (s : State) (sec top : Nat) : State :=
  if (s.sector sec).win.isSome then s
  else s.modSector sec fun x =>
    let l1 := sharedL1 x.l1
    let own := if l1.any fun e => e.2 != .s then none else x.l2dirty
    { x with l1, dir := x.dir.mapVals fun k v => (if k / 64 < top then .s else v), l2own := own, l2s := x.givenUp own }

/-- The first directory from a level of a core's path up that answers a read, or grants an ownership (R268): 5 is what lies beyond the
package's. -/
def State.answerLevel (s : State) (lev core sec : Nat) (own : Bool) : Nat :=
  ((rangeFrom lev (5 - lev)).find? fun k => match (s.sector sec).dir.find? (dirKey k core) with
    | some .x => true
    | some .s => !own
    | none => false).getD 5

/-- Does a fence rebuild a directory entry that a request from a level of a core's path has to reach, or did the die it took hold the
sector as its owner (R402, R413)? -/
def State.pathLost (s : State) (lev core sec : Nat) (own : Bool) : Bool :=
  let top := s.answerLevel lev core sec own
  let shared := !own && (s.sector sec).dir.find? (dirKey top core) == some .s
  ((rangeFrom lev (5 - lev)).any fun k => decide (k ≤ top) && s.entryLost k core sec) || (!shared && (s.sector sec).gone.isSome)

/-- The directory entries that still have a copy below them: an L1 copy, or at the die and above one in an L2. -/
def Sector.dirLeft (x : Sector) : AMap DirSt :=
  x.dir.filter fun e => (x.l1.any fun c => onPath e.1 c.1) ||
    (decide (64 ≤ e.1) && ((x.l2own.any fun d => onPath e.1 (96 * d)) || x.l2s.any fun d => onPath e.1 (96 * d)))

/-- A core's copy leaves its L1 (R267): the L2 of its die keeps the sector, with its ownership and its dirty bytes (R261); a
directory with no copy left below it becomes N (R268). -/
def State.dropCopy (s : State) (core sec : Nat) : State :=
  let x := s.sector sec
  match x.l1.find? core with
  | none => s
  | some st =>
    let die := coreDie core
    let dirty := st == L1St.m || st == L1St.o
    let y := { x with l1 := x.l1.erase core, l2own := if st == L1St.s then x.l2own else some die,
                      l2s := if st == L1St.s && !x.l2s.contains die then die :: x.l2s else x.l2s,
                      below := if dirty then none else x.below, l2dirty := if dirty then some die else x.l2dirty }
    (s.setSector sec { y with dir := y.dirLeft }).markCore sec core

/-- Every cached copy of a sector is invalidated without a write-back (R381). -/
def State.forget (s : State) (sec : Nat) : State :=
  let x := s.sector sec
  s.setSector sec { Sector.init with win := x.win }

/-- The dirty data of a sector of HBM reach the memory-side cache of the home, which keeps the time of the first (R262). -/
def Sector.atMsc (x : Sector) (now : Nat) (hbm : Bool) : Sector :=
  if hbm then { x with mscHas := true, msc := x.msc <|> some now } else x

/-- The sectors of a 256-byte line. -/
def lineSectors (line : Nat) : List Nat := rangeFrom (4 * line) 4

/-- A dirty memory-side cache line is written back to HBM (R262, R275). -/
def State.mscDrain (s : State) (line : Nat) : State :=
  if (lineSectors line).any fun k => (s.sector k).msc.isSome then
    ((lineSectors line).foldl (fun (s : State) k => s.modSector k fun x => { x with msc := none }) s).modDie (s.home (256 * line))
      fun d => { d with mscWb := d.mscWb + 1 }
  else s

/-- The lines that the sectors a test picks lie in, one for each sector. -/
def State.linesOf (s : State) (p : Nat × Sector → Bool) : List Nat := (AMap.keys (s.sectors.filter p)).map (· / 4)

/-- Do the sectors a test picks lie in more than `cap` lines? They do not where there are no more than `cap` sectors. -/
def State.overfull (s : State) (cap : Nat) (p : Nat × Sector → Bool) : Bool :=
  decide (cap < s.sectors.length) && decide (cap < (s.linesOf p).dedup.length)

/-- How many lines a die's memory-side cache has room for: 768 MiB, or 512 MiB beside the Cocoon (R21, R262). -/
def State.mscCap (s : State) : Nat := if s.pkg.virt then 2097152 else 3145728

/-- A line leaves the memory-side cache of a sector's home, dirty data first written back: one must where the cache is full, and one may
where it is not. -/
def State.mscRoom (s : State) (sec : Nat) (may : Bool) : State :=
  let holds := fun (e : Nat × Sector) => e.2.mscHas && s.home (64 * e.1) == s.home (64 * sec)
  let other := fun (e : Nat × Sector) => e.1 / 4 != sec / 4 && holds e
  let out := fun (s : State) =>
    let l := s.linesOf other
    let line := l.getD (s.freeWord.toNat % l.length) 0
    (lineSectors line).foldl (fun (s : State) k => s.modSector k fun x => { x with mscHas := false }) ((s.used 1).mscDrain line)
  if s.overfull s.mscCap holds then out s
  else if !may then s
  else if !s.sectors.any other || !s.freeBit then s.used 1
  else out (s.used 1)

/-- A miss of the memory-side cache takes the sector in, unless HINT 5 forbids; another may make room (R170, R262). -/
def State.mscTake (s : State) (sec hint : Nat) : State :=
  if hint = 5 then s else (s.modSector sec fun x => { x with mscHas := true }).mscRoom sec true

/-- An access to the memory-side cache of a home is a hit or a miss there (R275; log entry 66). -/
def State.mscCount (s : State) (sec : Nat) : State :=
  let die := s.home (64 * sec)
  if (s.sector sec).mscHas then s.modDie die fun d => { d with mscHit := d.mscHit + 1 }
  else s.modDie die fun d => { d with mscMiss := d.mscMiss + 1 }

/-- The dirty data beyond L2 reach the memory-side cache (R262). -/
def State.toMsc (s : State) (sec : Nat) : State :=
  let take := fun (s : State) (hbm : Bool) => s.modSector sec fun x => Sector.atMsc { x with l2dirty := none } s.time hbm
  if s.paKind (64 * sec) == .hbm then (take (s.mscCount sec) true).mscRoom sec false else take s false

/-- What answers a request for a sector of HBM that no cached copy answers: the memory-side cache of its home, or HBM (R262, R268,
R275). -/
def State.fromHome (s : State) (sec hint : Nat) : State :=
  let x := s.sector sec
  if s.paKind (64 * sec) != .hbm || x.win.isSome || !x.l1.isEmpty || x.l2own.isSome || x.l2dirty.isSome || !x.l2s.isEmpty then s
  else
    let t := s.mscCount sec
    if x.mscHas then t else t.mscTake sec hint

/-- An engine of a die, or from level 5 an agent outside the package, reads a sector: what answers it is counted, and a holder shares it
(R267, R268, R275). -/
def State.readAt (s : State) (lev die hint sec : Nat) : State :=
  (s.fromHome sec hint).shareOut sec (s.answerLevel lev (96 * die) sec false)

/-- An engine of a die reads a physical place that is kept coherent. -/
def State.readPhys (s : State) (die hint pa : Nat) : State :=
  if (s.paKind pa).coherent then s.readAt 1 die hint (pa / 64) else s

/-- An engine, a host agent or the home takes the sector for a write: every copy anywhere is invalidated at once. -/
def State.takeAway (s : State) (sec : Nat) (who : Option Lane) : State :=
  let x := s.sector sec
  if x.win.isSome then s.markAll sec who
  else (s.setSector sec { x with l1 := [], dir := [], stale := [], below := none, l2dirty := none, l2own := none, l2s := [],
                                 l2stale := [], fresh := [] }).markAll sec who

/-- Ownership passes to the L2 of a die inside a core's instance of a narrower scope (R266, R270, R286): copies inside are invalidated, a
clean copy outside keeps its old bytes until its invalidation arrives. -/
def State.takeInside (s : State) (core : Nat) (scope : Scope) (die sec : Nat) : State :=
  let inside := fun (c : Nat) => scopeContains scope core c
  let within := fun (d : Nat) => d == die || inside (96 * d)
  let y := s.staleAfter sec inside within
  let s := (s.sector sec).l1.foldl (fun s e => if inside e.1 || e.2 != L1St.s then s.markCore sec e.1 else s) s
  let s := y.stale.foldl (fun s e => if inside e.1 then s.markCore sec e.1 else s) s
  let held := (s.sector sec).dirty || (s.sector sec).l2dirty.isSome
  let z := { y with l1 := [], stale := y.stale.filter (fun e => !inside e.1), l2stale := y.l2stale.filter (fun e => !within e.1),
                    l2s := [], l2own := some die, l2dirty := if held then some die else none, below := none,
                    dir := [1, 2, 3, 4].foldl (fun m k => m.set (dirKey k (96 * die)) .x) [] }
  s.setSector sec (z.freshen (pathKeys core))

/-! ### Snapshots (R377 to R380) -/

/-- The granule copy of a capture lives in the pool entry. -/
def granuleBytes : Nat := 0x1_0000

/-- The listed bytes of a range, moved by a distance. -/
def Memory.moved (m : List Host.Cell) (lo n dst : Nat) : List Host.Cell :=
  (m.filter fun e => decide (lo ≤ e.1) && decide (e.1 < lo + n)).map fun e => (e.1 - lo + dst, e.2)

/-- Replaces a range by the bytes of another. -/
def Memory.copyRange (m : List Host.Cell) (src n dst : Nat) : List Host.Cell :=
  let cleared := m.filter fun e => !(decide (dst ≤ e.1) && decide (e.1 < dst + n))
  (Memory.moved m src n dst).foldl (fun m e => Memory.set e.1 e.2 m) cleared

/-- The pool of a partition is usable (R377). -/
def State.poolValid (s : State) (p : Nat) : Bool :=
  let q := s.partn p
  decide (q.snaplen ≠ 0) && decide (q.snapbase.toNat + q.snaplen * granuleBytes ≤ hbmSize)

/-- The physical base of pool entry `e`. -/
def State.poolBase (s : State) (p e : Nat) : Nat := (s.partn p).snapbase.toNat + e * granuleBytes

/-- Drops a launch's snapshot (R379). -/
def State.snapDrop (s : State) (l : Nat) : State :=
  match s.launch? l with
  | none => s
  | some x =>
    let s := s.modPart x.part fun p => { p with snapuse := p.snapuse.filter fun e => !x.caps.any fun c => c.entry == e }
    let s := s.modLaunch l fun x => { x with snap := .dropped, caps := [] }
    s.modDie (s.partn x.part).master fun d => { d with snapDrop := d.snapDrop + 1 }

/-- Captures the granule of a physical address before a launch's first write to it (R378). -/
def State.capture (s : State) (launch : Option Nat) (pa : Nat) : State :=
  match launch.bind s.launch? with
  | none => s
  | some x =>
    let g := pa / granuleBytes
    if x.snap != .held || !(s.paKind pa == .hbm) || x.caps.any (fun c => c.granule == g) then s
    else
      let p := s.partn x.part
      match (List.range p.snaplen).find? fun e => !p.snapuse.contains e with
      | none => s.snapDrop launch.get!
      | some e =>
        let pois := (List.range 1024).filter fun k => (s.sector (g * 1024 + k)).poison
        let s := { s with mem := Memory.copyRange s.mem (g * granuleBytes) granuleBytes (s.poolBase x.part e) }
        let s := s.modPart x.part fun p => { p with snapuse := e :: p.snapuse }
        s.modLaunch launch.get! fun x => { x with caps := { granule := g, entry := e, poison := pois } :: x.caps }

/-! ### Waking a partition (R321, R353) -/

/-- A wake event: held pending while the partition is not RESIDENT. -/
def State.wake (s : State) (p : Nat) : State :=
  match (s.partn p).state with
  | .free | .saving | .swapped | .restoring | .killing =>
    s.modPart p fun x => { x with wakepend := true, wakeAt := x.wakeAt <|> some s.time }
  | .resident => s

/-- The partitions with a queue whose TAIL lies in a sector. -/
def State.tailsIn (s : State) (sec : Nat) : List Nat :=
  AMap.keys (s.parts.filter fun e => e.2.queues.any fun q => q.2.qb / 64 == sec)

/-- A write to a sector invalidates the queue engine's copy of a TAIL there. -/
def State.wakeSector (s : State) (sec : Nat) : State := (s.tailsIn sec).foldl (fun s p => s.wake p) s

/-! ### Reading and writing by physical address -/

/-- Is some byte of the range poisoned (R374)? -/
def State.poisoned (s : State) (pa n : Nat) : Bool :=
  (rangeFrom (pa / 64) ((pa + n - 1) / 64 - pa / 64 + 1)).any fun k => (s.sector k).poison

/-- An uncorrectable error that poisons what it finds: counted on a die and, the first since the record was read, recorded with its source
and its physical address (R385, R386). -/
def State.uncorrAt (s : State) (die src pa : Nat) : State :=
  s.modDie die fun d =>
    { d with uncorr := d.uncorr + 1,
             errrec := if d.errrec.getLsbD 0 then d.errrec ||| 2 else BitVec.ofNat 128 (pa * 2 ^ 64 + src * 256 + 1) }

/-- Marks a sector poisoned (R374, R385, R386), found in source `src`. -/
def State.poisonSector (s : State) (sec die src : Nat) : State :=
  (s.modSector sec fun x => { x with poison := true }).uncorrAt die src (64 * sec)

/-- Bytes with the part's own stores in them. -/
def overlay (own : AMap Byte) (bs : List Byte) : List Byte := bs.zipIdx.map fun e => (own.find? e.2).getD e.1

/-- One sector of host memory outside the windows as a load of the part may find it (R293): as of the part's last CINV.sys, or after
any later host write, with the part's own stores. -/
def State.hostSector (s : State) (sec : Nat) : List Byte × State :=
  let now := s.rdN (64 * sec) 64
  match s.hostCache.find? sec with
  | none => (now, s)
  | some h =>
    if h.olds.isEmpty then (overlay h.own now, s)
    else
      let l := h.olds ++ [now]
      (overlay h.own (l.getD (s.freeWord.toNat % l.length) now), s.used 1)

/-- A host write is about to change a sector that the part may still read as it was (R293). -/
def State.hostKeeps (s : State) (sec : Nat) : State :=
  let h := s.hostCache.get { olds := [], own := [] } sec
  { s with hostCache := s.hostCache.set sec { h with olds := h.olds ++ [s.rdN (64 * sec) 64] } }

/-- The part's own stores to a sector reach host memory, and the part sees them in whatever it may still read (R293). -/
def State.hostFlush (s : State) (sec : Nat) : State :=
  match s.hostCache.find? sec with
  | none => s
  | some h =>
    let s := if h.own.isEmpty then s else s.wrN (64 * sec) (overlay h.own (s.rdN (64 * sec) 64))
    if h.olds.isEmpty then { s with hostCache := s.hostCache.erase sec }
    else { s with hostCache := s.hostCache.set sec { olds := h.olds.map (overlay h.own), own := [] } }

/-- Reads bytes of one sector by the part, coherently where the address is coherent. -/
def State.peek (s : State) (pa n : Nat) : List Byte × State :=
  match s.paKind pa with
  | .host _ =>
    let (bs, s) := s.hostSector (pa / 64)
    ((bs.drop (pa % 64)).take n, s)
  | _ => (s.rdN pa n, s)

/-- Overwrites a stretch of a list. -/
def splice (bs : List Byte) (at' : Nat) (new : List Byte) : List Byte :=
  bs.take at' ++ new ++ bs.drop (at' + new.length)

/-- Writes bytes of one sector: to memory, or beside it for host memory outside the windows (R293). A write of the whole sector clears
its poison when the word allows it (R374); one of a queue's TAIL wakes its partition (R353). -/
def State.poke (s : State) (pa : Nat) (bs : List Byte) (whole : Bool) : State :=
  let s := s.wakeSector (pa / 64)
  let s := match s.paKind pa with
    | .host _ =>
      let h := s.hostCache.get { olds := [], own := [] } (pa / 64)
      let own := (List.zip (rangeFrom (pa % 64) bs.length) bs).foldl (fun m e => m.set e.1 e.2) h.own
      { s with hostCache := s.hostCache.set (pa / 64) { h with own } }
    | .hbm | .span | .window _ | .none => s.wrN pa bs
  if whole && decide (bs.length = 64) && (s.sector (pa / 64)).poison then
    s.modSector (pa / 64) fun x => { x with poison := false }
  else s

/-- The window that holds a sector as H is written: its sector is dirty, and a whole write clears its mark (R257, R258, R374). -/
def State.dirtyWindow (s : State) (sec : Nat) (whole : Bool) : State :=
  match (s.sector sec).win with
  | none => s
  | some h => s.modCore h.core fun c => { c with wins := c.wins.modify h.w fun x =>
      { x with sectors := x.sectors.modify h.k fun y => { y with dirty := true, poison := y.poison && !whole } } }

/-- A write performed at once by an engine for a launch (R267, R378): captured, and every copy elsewhere is invalidated. A sector that a
window holds is written there, any other of HBM in the memory-side cache (R258, R262). -/
def State.storeNow (s : State) (launch : Option Nat) (who : Option Lane) (pa : Nat) (bs : List Byte)
    (whole : Bool) : State :=
  let sec := pa / 64
  let s := s.capture launch pa
  if !(s.paKind pa).coherent then s.poke pa bs whole
  else
    let s := (s.takeAway sec who).poke pa bs whole
    if (s.sector sec).win.isSome then s.dirtyWindow sec (whole && decide (bs.length = 64)) else s.toMsc sec

/-- The L2 slice of a line in each die (R261). -/
def sliceOf (pa : Nat) : Nat := Config.l2Slice (pa / 256) % 160

/-- A sector leaves the L2 of a die: its L1 copies there first, then its dirty bytes pass to the memory-side cache of the home, or
to the host's memory (R261, R262, R267). -/
def State.leaveL2 (s : State) (die sec : Nat) : State :=
  let x := s.sector sec
  let s := (x.l1.keys.filter fun c => coreDie c == die).foldl (fun (s : State) c => s.dropCopy c sec) s
  let s := (x.stale.keys.filter fun c => coreDie c == die).foldl (fun (s : State) c => s.markCore sec c) s
  let out := (s.sector sec).l2dirty == some die
  let s := s.modSector sec fun y =>
    let z := { y with l2own := y.l2own.filter (· != die), l2s := y.l2s.filter (· != die), l2stale := y.l2stale.erase die,
                      stale := y.stale.filter (fun e => coreDie e.1 != die), l2dirty := if out then none else y.l2dirty }
    ({ z with dir := z.dirLeft }).freshen []
  if out then s.toMsc sec else s

/-- Does the L2 of a die hold a sector, or the tag of an L1 copy of it (R261)? -/
def Sector.inL2 (x : Sector) (die : Nat) : Bool :=
  x.l2own == some die || x.l2dirty == some die || x.l2s.contains die || x.l1.any fun c => coreDie c.1 == die

/-- A line is evicted from its slice of the L2 of a die where the slice's 2,048 lines are taken, and may be where they are not (R261). -/
def State.evictL2 (s : State) (die keep : Nat) : State :=
  let slice := sliceOf (64 * keep)
  let holds := fun (e : Nat × Sector) => e.2.inL2 die && sliceOf (64 * e.1) == slice
  let other := fun (e : Nat × Sector) =>
    e.1 / 4 != keep / 4 && holds e && !s.homeLost (e.1 / 4 * 4) && (lineSectors (e.1 / 4)).all fun i => (s.sector i).win.isNone
  if !s.sectors.any other then s
  else if s.overfull 2048 holds || s.freeBit then
    let l := s.linesOf other
    let line := l.getD ((s.used 1).freeWord.toNat % l.length) 0
    (lineSectors line).foldl (fun (s : State) k => s.leaveL2 die k) (s.used 2)
  else s.used 1

/-- The same at the scope of an engine's store, for a core (R270, R286, R289, R290). -/
def State.storeAt (s : State) (core : Nat) (scope : Scope) (launch : Option Nat) (who : Option Lane) (pa : Nat) (bs : List Byte)
    (whole : Bool) : State :=
  let sec := pa / 64
  if scope == .pkg || scope == .sys || !(s.paKind pa).coherent || (s.sector sec).win.isSome then s.storeNow launch who pa bs whole
  else
    let die := coreDie core
    ((((s.capture launch pa).takeInside core scope die sec).modSector sec fun x => { x with l2dirty := some die }).poke pa bs
      whole).evictL2 die sec

/-- A write under ownership in a core's own L1 (R267, R270): captured, performed, seen by the core's regions. -/
def State.ownWrite (s : State) (core : Nat) (launch : Option Nat) (who : Option Lane) (pa : Nat) (bs : List Byte) (whole : Bool) : State :=
  let sec := pa / 64
  let s := s.capture launch pa
  let old := s.rdN (64 * sec) 64
  let s := (s.poke pa bs whole).modSector sec fun x =>
    { x with l1 := x.l1.set core .m, below := if x.dirty then x.below else some old }
  match who with
  | some l => s.markOthers sec l
  | none => s

/-- Splits a range into pieces that stay inside one sector. -/
def pieces (pa : Nat) : List Byte → Nat → List (Nat × List Byte)
  | _, 0 => []
  | bs, fuel + 1 =>
    if bs.isEmpty then []
    else
      let k := 64 - pa % 64
      (pa, bs.take k) :: pieces (pa + k) (bs.drop k) fuel

/-- `storeNow` over any range of physical bytes. -/
def State.storeRange (s : State) (launch : Option Nat) (who : Option Lane) (pa : Nat) (bs : List Byte) : State :=
  (pieces pa bs (bs.length + 1)).foldl (fun s e => s.storeNow launch who e.1 e.2 false) s

/-! ### Translation (R335 to R340) -/

/-- What an access needs of a leaf (R337). -/
structure Need where
  r : Bool
  w : Bool
  x : Bool
  deriving DecidableEq, Repr, Inhabited

def Need.rd : Need := { r := true, w := false, x := false }
def Need.wr : Need := { r := false, w := true, x := false }
def Need.rw : Need := { r := true, w := true, x := false }
def Need.ex : Need := { r := false, w := false, x := true }
def Need.leaf : Need := { r := false, w := false, x := false }

inductive XErr | page | bounds | poison
  deriving DecidableEq, Repr, Inhabited

def XErr.cause : XErr → Cause
  | .page => .pageFault
  | .bounds => .bounds
  | .poison => .poison

/-- The fields of a page-table entry (R336). -/
def pteAddr (e : Nat) : Nat := natField e 12 40 * 4096

/-- Does an entry of level `lev` pass R337? -/
def pteOk (e lev : Nat) : Bool :=
  let leaf := lev == 0 || natBit e 4
  natBit e 0 && natField e 52 12 == 0 && natField e 8 4 == 0 &&
  !(natBit e 4 && (lev == 0 || lev == 3 || lev == 4)) && !(natBit e 7 && lev != 0) &&
  (if leaf then !(natBit e 2 && !natBit e 1) &&
      pteAddr e % (if lev = 2 then 2 ^ 30 else if lev = 1 then 2 ^ 21 else 4096) == 0
   else natField e 1 7 == 0)

structure Leaf where
  lev : Nat
  e : Nat
  addr : Nat
  deriving DecidableEq, Repr, Inhabited

/-- One step of the walk: the entry of a level, if the table is in HBM and the entry passes R337. -/
def State.walkEntry (s : State) (va t lev : Nat) : Except XErr Leaf :=
  let a := t + 8 * natField va (12 + 9 * lev) 9
  if hbmSize ≤ t then .error .page
  else if s.poisoned a 8 then .error .poison
  else
    let e := s.rdNat a 8
    if pteOk e lev then .ok { lev, e, addr := a } else .error .page

/-- An entry of level 0 as it stands: what R338 takes decides whether it passes R337. -/
def State.walkLast (s : State) (va t : Nat) : Except XErr Leaf :=
  let a := t + 8 * natField va 12 9
  if hbmSize ≤ t then .error .page
  else if s.poisoned a 8 then .error .poison
  else .ok { lev := 0, e := s.rdNat a 8, addr := a }

/-- The walk of R335 from a table, over the levels from `lev` down: the leaf, and the upper entries passed. -/
def State.walk (s : State) (part va t : Nat) : Nat → Except XErr (Leaf × List WalkEntry)
  | 0 => (s.walkLast va t).map fun f => (f, [])
  | l + 1 =>
    match s.walkEntry va t (l + 1) with
    | .error x => .error x
    | .ok f =>
      if natBit f.e 4 then .ok (f, [])
      else (s.walk part va (pteAddr f.e) l).map fun r =>
        (r.1, { part, lev := l + 1, top := va / 2 ^ (12 + 9 * (l + 1)), e := f.e } :: r.2)

/-- The upper entry of the lowest level that a die's walk cache holds for an address (R339). -/
def State.walkHit (s : State) (die part va : Nat) : Option WalkEntry :=
  [1, 2, 3, 4].findSome? fun lev => (s.die die).walks.find? fun w =>
    w.part == part && w.lev == lev && w.top == va / 2 ^ (12 + 9 * lev)

/-- A walk cache after a walk. -/
def walksAdd (new old : List WalkEntry) : List WalkEntry :=
  new ++ old.filter fun w => !new.any fun x => x.part == w.part && x.lev == w.lev && x.top == w.top

/-- The 16 level-0 entries around one agree: every field but A and D, and consecutive frames from an aligned one (R338; log
entry 60). -/
def State.groupAgrees (s : State) (first : Nat) : Bool :=
  let e := fun (i : Nat) => s.rdNat (first + 8 * i) 8
  let flags := fun (x : Nat) => x - natField x 12 40 * 4096 - natField x 5 2 * 32
  decide (pteAddr (e 0) % 65536 = 0) &&
  (List.range 16).all fun i => flags (e i) == flags (e 0) && pteAddr (e i) == pteAddr (e 0) + 4096 * i

/-- The frame of a 4 KiB page through an entry of level 0: one of a 64 KiB page drops ADDR[15:12] (R335). -/
def frameOf (e vpn : Nat) : Nat := if natBit e 7 then pteAddr e / 65536 * 16 + vpn % 16 else pteAddr e / 4096

/-- The translation of a page through one entry of its group, whose A and D for a 64 KiB page are those of the first entry (R337). -/
def pageThrough (part vpn e addr e0 first : Nat) : Except XErr TlbEntry :=
  if !pteOk e 0 then .error .page
  else
    let ad := natField (if natBit e 7 then e0 else e) 5 2
    .ok { part, vpn, frame := frameOf e vpn, pte := BitVec.ofNat 64 (e - natField e 5 2 * 32 + ad * 32), lev := 0, entry := addr,
          pteAddr := if natBit e 7 then first else addr }

/-- The translation of a 4 KiB page through an entry of level 0: through the entry itself, or through the first entry of its 64 KiB page,
either where the 16 do not agree (R338). -/
def State.leafPage (s : State) (part vpn : Nat) (f : Leaf) : Except XErr TlbEntry × State :=
  let first := f.addr / 128 * 128
  let e0 := s.rdNat first 8
  let own := pageThrough part vpn f.e f.addr e0 first
  if !natBit f.e 7 && !(natBit e0 0 && natBit e0 7) then (own, s)
  else
    let head := if s.poisoned first 8 then .error .poison else pageThrough part vpn e0 first e0 first
    if !s.poisoned first 128 && s.groupAgrees first then (head.map fun e => { e with span := 16 }, s)
    else if s.freeBit then (own, s.used 1) else (head, s.used 1)

/-- The translation a leaf gives. -/
def State.leafEntry (s : State) (part vpn : Nat) (f : Leaf) : Except XErr TlbEntry × State :=
  if f.lev = 0 then s.leafPage part vpn f
  else
    let n := 512 ^ f.lev
    (.ok { part, vpn, frame := pteAddr f.e / 4096 + vpn % n, span := n, pte := BitVec.ofNat 64 f.e, entry := f.addr, pteAddr := f.addr,
           lev := f.lev }, s)

/-- Adds an entry to a list of cached translations, dropping the oldest beyond the capacity. -/
def tlbAdd (cap : Nat) (e : TlbEntry) (l : List TlbEntry) : List TlbEntry :=
  (e :: l.filter fun x => !(x.part == e.part && x.vpn / x.span == e.vpn / x.span && x.span == e.span)).take cap

/-- Keeps a translation at all three levels (R339). -/
def State.tlbFill (s : State) (core : Nat) (e : TlbEntry) : State :=
  ((s.modCore core fun c => { c with tlb := tlbAdd 256 e c.tlb }).modCluster (coreCluster core)
    fun c => { c with tlb := tlbAdd 4096 e c.tlb }).modDie (coreDie core)
    fun d => { d with tlb := tlbAdd 131072 e d.tlb }

/-- What a cached translation says of a page of its leaf. -/
def TlbEntry.forPage (e : TlbEntry) (vpn : Nat) : TlbEntry :=
  { e with vpn, frame := e.frame - e.vpn % e.span + vpn % e.span }

/-- A cached translation of a page, if some level near the core holds one. -/
def State.tlbHit (s : State) (core part vpn : Nat) : Option TlbEntry :=
  let p : TlbEntry → Bool := fun e => e.part == part && e.vpn / e.span == vpn / e.span
  (((s.core core).tlb.find? p) <|> ((s.cluster (coreCluster core)).tlb.find? p) <|>
    ((s.die (coreDie core)).tlb.find? p)).map fun e => e.forPage vpn

/-- A walk of the partition's table from its root. -/
def State.walkPage (s : State) (part va vpn : Nat) : Except XErr (TlbEntry × List WalkEntry) × State :=
  match s.walk part va (s.partn part).ptroot 4 with
  | .error e => (.error e, s)
  | .ok (f, ws) => match s.leafEntry part vpn f with
    | (.error e, s) => (.error e, s)
    | (.ok e, s) => (.ok (e, ws), s)

/-- A walk from what the die's walk cache holds. -/
def State.walkCached (s : State) (die part va vpn : Nat) : Option (Except XErr (TlbEntry × List WalkEntry) × State) :=
  (s.walkHit die part va).map fun w => match s.walk part va (pteAddr w.e) (w.lev - 1) with
    | .error e => (.error e, s)
    | .ok (f, ws) => match s.leafEntry part vpn f with
      | (.error e, s) => (.error e, s)
      | (.ok e, s) => (.ok (e, ws), s)

/-- Do two translations of a page say the same? -/
def TlbEntry.same (a b : TlbEntry) : Bool := a.frame == b.frame && natField a.pte.toNat 1 3 == natField b.pte.toNat 1 3

/-- A new walk: from the root, or from the walk cache while that may differ. -/
def State.walkNow (s : State) (core part va vpn : Nat) : Except XErr TlbEntry × State :=
  let die := coreDie core
  let keep := fun (s : State) (e : TlbEntry) (ws : List WalkEntry) =>
    ((s.modDie die fun d => { d with walks := walksAdd ws d.walks }).tlbFill core e)
  let full := s.walkPage part va vpn
  let take := fun (r : Except XErr (TlbEntry × List WalkEntry) × State) => match r with
    | (.ok (e, ws), s) => ((.ok e : Except XErr TlbEntry), keep s e ws)
    | (.error x, s) => (.error x, s)
  match s.walkCached die part va vpn with
  | none => take full
  | some old =>
    let agree := match full.1, old.1 with
      | .ok a, .ok b => a.1.same b.1
      | .error a, .error b => a == b
      | _, _ => false
    if agree then take full
    else if s.freeBit then (match s.used 1 with
      | s => take ((s.walkCached die part va vpn).getD (s.walkPage part va vpn)))
    else take ((s.used 1).walkPage part va vpn)

/-- The translation an access uses: a cached one or a new walk, either while they differ (R339). -/
def State.lookup (s : State) (core part va : Nat) : Except XErr TlbEntry × State :=
  let vpn := natField va 12 45
  match s.tlbHit core part vpn with
  | none => s.walkNow core part va vpn
  | some c =>
    match s.walkPage part va vpn with
    | (.ok (e, _), s') =>
      if e.same c then (.ok c, s')
      else if s'.freeBit then (.ok c, s'.used 1) else (s'.used 1).walkNow core part va vpn
    | (.error _, s') => if s'.freeBit then (.ok c, s'.used 1) else (s'.used 1).walkNow core part va vpn

/-- Cached translations of a leaf know that its A and D are set. -/
def State.tlbTouched (s : State) (core : Nat) (e : TlbEntry) (bits : DWord) : State :=
  let set : List TlbEntry → List TlbEntry := fun l => l.map fun x =>
    if x.part = e.part ∧ x.pteAddr = e.pteAddr ∧ x.vpn / x.span = e.vpn / e.span then { x with pte := x.pte ||| bits } else x
  ((s.modCore core fun c => { c with tlb := set c.tlb }).modCluster (coreCluster core) fun c => { c with tlb := set c.tlb }).modDie
    (coreDie core) fun d => { d with tlb := set d.tlb }

/-- Translates an address, checks permission, and sets A on the first access through the leaf and D on the first write (R335, R337). A
leaf that the table no longer holds is not marked (log entry 60). -/
def State.xlate (s : State) (core part : Nat) (va : DWord) (n : Need) : Except XErr Nat × State :=
  match s.lookup core part va.toNat with
  | (.error e, s) => (.error e, s)
  | (.ok e, s) =>
    let p := e.pte.toNat
    if (n.r && !natBit p 1) || (n.w && !natBit p 2) || (n.x && !natBit p 3) then (.error .page, s)
    else
      let pa := e.frame * 4096 + va.toNat % 4096
      if s.paKind pa = .none then (.error .bounds, s)
      else
        let bits : DWord := if n.w then 0x60 else 0x20
        if e.pte &&& bits = bits then (.ok pa, s)
        else
          let there := s.rdNat e.entry 8
          let same : Bool := natBit there 0 && decide (pteAddr there / 4096 = pteAddr p / 4096)
          let old := s.rdNat e.pteAddr 8 % 256
          let s := if same && (BitVec.ofNat 64 old &&& bits != bits) then
              s.storeNow none none e.pteAddr [BitVec.ofNat 8 old ||| bits.truncate 8] false
            else s
          (.ok pa, s.tlbTouched core e bits)

/-! ### Records and addresses (R38 to R40) -/

def recField (r : BRec) (lo n : Nat) : Nat := natField r.toNat lo n
def recBase (r : BRec) : DWord := r.extractLsb' 0 64
def recExtent (r : BRec) : Nat := recField r 64 48
def recMode (r : BRec) : Nat := recField r 112 2
def recBounds (r : BRec) : Nat := recField r 114 2
def recCheck (r : BRec) : Nat := recField r 116 2
def recWr (r : BRec) : Bool := r.getLsbD 118
def recStash (r : BRec) : Bool := r.getLsbD 119
def recStride1 (r : BRec) : Word := r.extractLsb' 128 32
def recStride2 (r : BRec) : Word := r.extractLsb' 160 32
def recEfmt (r : BRec) : Nat := recField r 192 8
def recPtab (r : BRec) : Nat := recField r 200 3
def recXform (r : BRec) : Nat := recField r 206 2

/-- The null record (R39). -/
def nullRec : BRec := 1#256 <<< 114

/-- A record built from its fields, everything else 0. -/
def mkRec (base : DWord) (extent bounds : Nat) (wr stash : Bool) : BRec :=
  BitVec.ofNat 256 (base.toNat + extent * 2 ^ 64 + bounds * 2 ^ 114 + b2n wr * 2 ^ 118 + b2n stash * 2 ^ 119)

/-- The flat record B0 (R39). -/
def flatRec : BRec := mkRec 0 0 0 true false

/-- Does a loaded entry pass R38? -/
def recOk (r : BRec) : Bool :=
  recField r 208 48 == 0 && recXform r != 3 && recField r 203 3 == 0 &&
  (recPtab r == 0 || recXform r == 2) && decide (recEfmt r ≤ 5) && recField r 121 7 == 0 &&
  !(r.getLsbD 120 && recWr r) && recCheck r != 3 && recMode r != 3

/-- What a record register receives from 32 bytes of memory: the null record for zeros, STASH cleared (R38, R39). -/
def recLoad (r : BRec) : BRec := if r = 0 then nullRec else r &&& ~~~(1#256 <<< 119)

inductive RecAddr
  | at (va : DWord)
  | outside
  | bad (addr : DWord)
  deriving DecidableEq, Repr, Inhabited

def sext64 (w : Word) : DWord := w.signExtend 64
def canonical (va : DWord) : Bool := va.extractLsb' 57 7 == (if va.getLsbD 56 then 0x7F#7 else 0#7)

/-- The bounds, write and canonical checks of R40 for a formed offset. -/
def recCheckOff (rec : BRec) (off : DWord) (size : Nat) (isWrite : Bool) : RecAddr :=
  let first := recBase rec + off
  let so := off.toInt
  let last := fun (o : DWord) =>
    let va := recBase rec + o
    if canonical va then RecAddr.at va else .bad va
  if isWrite && !recWr rec then .bad first
  else if recBounds rec != 0 && (decide (so < 0) || decide (so + size > recExtent rec)) then
    if recBounds rec = 2 then .outside
    else if recBounds rec = 3 then
      if recExtent rec = 0 then .bad first
      else
        let w := so % (recExtent rec : Int)
        if w + size > recExtent rec then .bad first else last (BitVec.ofInt 64 w)
    else .bad first
  else last off

/-- RecordAddress of R40, `extra` bytes on: the offset from the pair of the offset operand by mode, then the checks. In BLK
mode the size is 64. -/
def recordAddressAt (rec : BRec) (pair : DWord) (imm : BitVec 12) (extra size : Nat) (isWrite : Bool) : RecAddr :=
  let i := imm.signExtend 64 + BitVec.ofNat 64 extra
  if recMode rec = 1 then
    recCheckOff rec (BitVec.ofInt 64 (pair.lo.toInt * (recStride1 rec).toInt) +
      BitVec.ofInt 64 (pair.hi.toInt * (recStride2 rec).toInt) + i) size isWrite
  else if recMode rec = 2 then recCheckOff rec (BitVec.ofNat 64 (pair.lo.toNat / 48 * 64) + i) 64 isWrite
  else recCheckOff rec (pair + i) size isWrite

/-- RecordAddress of R40. -/
def recordAddress (rec : BRec) (pair : DWord) (imm : BitVec 12) (size : Nat) (isWrite : Bool) : RecAddr :=
  recordAddressAt rec pair imm 0 size isWrite

/-! ### The aperture (R253, R254) -/

def aperBase : Nat := 0x00FF_0000_0000_0000

/-- The offset of an aperture address. -/
def aperOff (va : DWord) : Option Nat :=
  if aperBase ≤ va.toNat ∧ va.toNat < aperBase + 2 ^ 32 then some (va.toNat - aperBase) else none

/-- GSCR of a group in bytes. -/
def State.gscr (s : State) (g : Nat) : Nat := match s.recOf g with
  | some r => r.gscr * 256
  | none => 0

/-- The group and byte an aperture range names, seen from a core of a crew; a group that has retired has none (R253, R254; log entry
17). -/
def State.apertureOf (s : State) (crew core n off size : Nat) : Option (Nat × Nat) :=
  if n = 0 then none
  else
    match (s.crew? crew).bind fun c => c.groups[off / n]? with
    | none => none
    | some h =>
      match s.group? h with
      | none => none
      | some x => if coreCluster x.core == coreCluster core && decide (off % n + size ≤ n) then some (h, off % n) else none

/-- The same seen from a group of the crew. -/
def State.aperture (s : State) (g off size : Nat) : Option (Nat × Nat) :=
  s.apertureOf (s.grp g).crew (s.grp g).core (s.gscr g) off size

def State.scrRead (s : State) (g off n : Nat) : List Byte :=
  (rangeFrom off n).map fun k => (s.grp g).scratch.get 0 k

def State.scrWrite (s : State) (g off : Nat) (bs : List Byte) : State :=
  s.modGroup g fun x =>
    { x with scratch := (List.zip (rangeFrom off bs.length) bs).foldl (fun m e => m.set e.1 e.2) x.scratch,
             scratchPoison := if bs.length = 64 ∧ off % 64 = 0 then x.scratchPoison.filter (· != off / 64)
                              else x.scratchPoison }

/-! ### Stash windows (R257 to R259) -/

/-- The mapping-table entry of a group's record, if it maps a window. -/
def State.winOf (s : State) (g bd : Nat) : Option (Nat × Window) :=
  (s.core (s.grp g).core).wins.first fun e => e.2.g == g && e.2.bd == bd

def State.win? (s : State) (core w : Nat) : Option Window := (s.core core).wins.find? w

def State.modWin (s : State) (core w : Nat) (f : Window → Window) : State :=
  s.modCore core fun c => { c with wins := c.wins.modify w f }

/-- The physical sector of window sector `k`; a window stays translated by its partition's table. -/
def State.winPa (s : State) (core w k : Nat) (n : Need) : Except XErr Nat × State :=
  match s.win? core w with
  | none => (.error .page, s)
  | some x => s.xlate core (s.grp x.g).part (x.va + BitVec.ofNat 64 (64 * k)) n

/-- Fills one sector of a window on first touch by a read at `.pkg` (R257); a coherent window registers it as H (R258). -/
def State.winFill (s : State) (core w k : Nat) (n : Need) : Except XErr Unit × State :=
  match s.win? core w with
  | none => (.error .page, s)
  | some x =>
    match s.winPa core w k n with
    | (.error e, s) => (.error e, s)
    | (.ok pa, s) =>
      if (x.sectors.find? k).isSome then (.ok (), s)
      else
        let pois := s.poisoned pa 64
        let (bs, s) := (s.readPhys (coreDie core) 0 pa).peek pa 64
        let s := if x.coh then
            (s.takeAway (pa / 64) none).modSector (pa / 64) fun y => { y with win := some { core, w, k } }
          else s
        let s := s.modCore core fun c => { c with sfill := c.sfill + 1 }
        (.ok (), s.modWin core w fun x =>
          { x with sectors := x.sectors.set k { dirty := false, bytes := if x.coh then [] else bs, poison := pois } })

/-- A place an access reaches is ready for it: the window's sector is filled (R257). -/
def State.fillPlace (s : State) (sp : Space) : State :=
  match sp with
  | .phys _ | .aper _ _ => s
  | .win core w off => (s.winFill core w (off / 64) .leaf).2

/-- Writes one dirty sector back at `.pkg`. Where its page no longer translates for writing the sector stays dirty, and what is
dirty when the window goes is lost (log entry 58). Past a port that is lost each byte is old or new (R395). -/
def State.winBack (s : State) (core w k : Nat) : State :=
  match s.win? core w with
  | none => s
  | some x =>
    match x.sectors.find? k with
    | none => s
    | some y =>
      if !y.dirty then s
      else
        let launch := (s.group? x.g).map fun g => g.launch
        match s.winPa core w k .wr with
        | (.error _, s) => s
        | (.ok pa, s) =>
          let s := if x.coh then s.toMsc (pa / 64)
            else if s.kindLost (s.paKind pa) then
              let (old, s) := s.peek pa 64
              let (bs, s) := s.mixBytes old y.bytes
              s.storeNow launch none pa bs true
            else
              let s := s.storeNow launch none pa y.bytes true
              if y.poison then s.modSector (pa / 64) fun z => { z with poison := true } else s
          s.modWin core w fun x => { x with sectors := x.sectors.modify k (fun y => { y with dirty := false }) }

/-- SFLUSH of one window (R192). -/
def State.winFlush (s : State) (core w : Nat) : State :=
  match s.win? core w with
  | none => s
  | some x => x.sectors.keys.foldl (fun s k => s.winBack core w k) s

/-- The sectors of a window leave H (R258). -/
def State.winUnregister (s : State) (core w : Nat) : State :=
  { s with sectors := (s.sectors.mapVals fun _ y => if y.win.any (fun h => h.core == core && h.w == w) then { y with win := none } else y).filter (fun e => decide (e.2 ≠ Sector.init)) }

/-- The place in memory behind a place in a window (R191, R277). -/
def State.memOf (s : State) (sp : Space) : Space :=
  match sp with
  | .win core w off => (match (s.winPa core w (off / 64) .leaf).1 with
    | .ok pa => .phys (pa + off % 64)
    | .error _ => sp)
  | .phys _ | .aper _ _ => sp

/-- A place in a window that is to go, as the place in memory its bytes return to (R192; log entry 17). -/
def State.behindWin (s : State) (core w : Nat) (sp : Space) : Space :=
  match sp with
  | .win c v _ => if c = core ∧ v = w then s.memOf sp else sp
  | .phys _ | .aper _ _ => sp

/-- A region whose accesses through a window that goes stand where its bytes return to (R309). -/
def Region.moved (f : Space → Space) (r : Region) : Region :=
  { r with inputs := r.inputs.map (fun i => { i with space := f i.space }), stores := r.stores.map fun t => { t with space := f t.space } }

/-- What is in flight through a window that goes is performed where its bytes return to, the recorded accesses of open regions among it. -/
def State.winLeave (s : State) (core w : Nat) : State :=
  let mv : TPlace → TPlace := fun p => { p with space := s.behindWin core w p.space }
  let out : Thread → Thread := fun th => { th with region := th.region.map (Region.moved (s.behindWin core w)) }
  { s with ops := s.ops.mapVals (fun _ o => { o with space := s.behindWin core w o.space }),
           groups := s.groups.mapVals (fun _ g => { g with threads := g.threads.mapVals fun _ th => out th }),
           cores := s.cores.modify core fun c =>
             { c with tops := c.tops.map (fun o => { o with places := o.places.mapVals fun _ p => mv p }),
                      mma := c.mma.map fun o => { o with places := o.places.mapVals fun _ p => mv p } } }

/-- SUNMAP of one window (R192). -/
def State.winUnmap (s : State) (core w : Nat) : State :=
  let s := ((s.winFlush core w).winLeave core w).winUnregister core w
  match s.win? core w with
  | none => s
  | some x =>
    (s.modGroup x.g fun g => { g with b := g.b.set x.bd 0 }).modCore core
      fun c => { c with wins := c.wins.erase w }

/-- Drops a window without writing it back (R381, R404). -/
def State.winDrop (s : State) (core w : Nat) : State :=
  (s.winUnregister core w).modCore core fun c => { c with wins := c.wins.erase w }

/-! ### Bytes of any space -/

/-- Poison of the bytes an access reads. -/
def State.spacePoison (s : State) (sp : Space) (n : Nat) : Bool :=
  match sp with
  | .phys pa => s.poisoned pa n
  | .aper g off => (s.grp g).scratchPoison.contains (off / 64)
  | .win core w off =>
    match (s.win? core w).bind fun x => x.sectors.find? (off / 64) with
    | some y => y.poison
    | none => false

/-- Reads bytes of one sector in any space, the newest. -/
def State.spaceRead (s : State) (sp : Space) (n : Nat) : List Byte × State :=
  match sp with
  | .phys pa => s.peek pa n
  | .aper g off => (s.scrRead g off n, s)
  | .win core w off =>
    match s.win? core w with
    | none => (List.replicate n 0, s)
    | some x =>
      if x.coh then
        match s.winPa core w (off / 64) .rd with
        | (.ok pa, s) => s.peek (pa + off % 64) n
        | (.error _, s) => (List.replicate n 0, s)
      else
        let y := (x.sectors.find? (off / 64)).getD default
        ((y.bytes.drop (off % 64)).take n, s)

/-- Writes bytes of one sector in any space, performed at once. -/
def State.spaceWrite (s : State) (launch : Option Nat) (who : Option Lane) (sp : Space) (bs : List Byte)
    (whole : Bool) : State :=
  match sp with
  | .phys pa => s.storeNow launch who pa bs whole
  | .aper g off => (s.markPlace sp who).scrWrite g off bs
  | .win core w off =>
    match s.win? core w with
    | none => s
    | some x =>
      let s := if x.coh then s else s.markPlace sp who
      let clear := whole && decide (bs.length = 64)
      let s := if x.coh then
          (match s.winPa core w (off / 64) .wr with
          | (.ok pa, s) => s.storeNow launch who (pa + off % 64) bs whole
          | (.error _, s) => s)
        else s
      s.modWin core w fun x => { x with sectors := x.sectors.modify (off / 64) (fun y =>
        { dirty := true, bytes := if x.coh then [] else splice y.bytes (off % 64) bs,
          poison := y.poison && !clear }) }

/-- The same by an engine at the scope of its store, for a core (R286). -/
def State.spaceStore (s : State) (core : Nat) (scope : Scope) (launch : Option Nat) (who : Option Lane) (sp : Space) (bs : List Byte)
    (whole : Bool) : State :=
  match sp with
  | .phys pa => s.storeAt core scope launch who pa bs whole
  | .aper _ _ | .win _ _ _ => s.spaceWrite launch who sp bs whole

/-- An engine of a die reads a place: a window's sector is filled, and what answers a read of memory is counted (R257, R275). -/
def State.engineReads (s : State) (die hint : Nat) (sp : Space) : State :=
  match sp with
  | .phys pa => s.readPhys die hint pa
  | .aper _ _ => s
  | .win _ _ _ => s.fillPlace sp

/-! ### A virtual address of an engine or a thread (R201, R256) -/

/-- Resolves a range that stays inside one page for a group: aperture addresses against its crew, the others by
translation. -/
def State.resolve (s : State) (g : Nat) (va : DWord) (size : Nat) (n : Need) : Except XErr Space × State :=
  match aperOff va with
  | some off =>
    match s.aperture g off size with
    | some (h, o) => (.ok (.aper h o), s)
    | none => (.error .bounds, s)
  | none =>
    match s.xlate (s.grp g).core (s.grp g).part va n with
    | (.ok pa, s) => (.ok (.phys pa), s)
    | (.error e, s) => (.error e, s)

end Sys2Proof.Machine
end

