-- ==== Sys2Proof/Machine/Ops.lean ====
section
/-! DEFINITION. The named operations words and events share: completing an access in flight, ending a thread, the error
action (R376), aborting a region (R223), fetching a clause (R77), TAKING A FAULT and returning from one (R10, R45, R131,
R129, R78), watch units and the debugger's stop (R361 to R363), handles (R34). -/

namespace Sys2Proof.Machine

open Sys2Proof

/-! ### Sorting -/

/-- Puts one thing into a sorted list, before its equals. -/
def insertBy {α : Type} (le : α → α → Bool) (x : α) : List α → List α
  | [] => [x]
  | y :: r => if le x y then x :: y :: r else y :: insertBy le x r

/-- A list in the order of `le`; equals keep their order. -/
def sortBy {α : Type} (le : α → α → Bool) : List α → List α
  | [] => []
  | x :: r => insertBy le x (sortBy le r)

/-! ### Codes (R11, R44) -/

def causeCode : Cause → Nat
  | .illegalOpc => 1
  | .illegalEnc => 2
  | .illegalClause => 3
  | .illegalTarget => 4
  | .shape => 5
  | .token => 6
  | .pageFault => 7
  | .promiseMissed => 8
  | .watchdog => 9
  | .poison => 10
  | .bounds => 11
  | .stack => 12
  | .dmrMismatch => 13
  | .fabricLost => 14
  | .brk => 15

def kindBits : AccKind → Nat
  | .none => 0
  | .load => 1
  | .store => 2
  | .atomic => 3

/-- `%trap` (R44). -/
def trapWord (f : FaultInfo) (nest : Bool) : Word :=
  BitVec.ofNat 32 (b2n nest * 1024 + kindBits f.kind * 256 + causeCode f.cause)

/-- `%rstat` (R44). -/
def rstatWord (reason : Nat) (active : Bool) : Word := BitVec.ofNat 32 (reason * 16 + b2n active)

/-- A fault whose `%faddr` the spec does not state: the address is the next free value (log entry 6). -/
def State.freeFault (s : State) (c : Cause) : FaultInfo := { cause := c, kind := .none, addr := s.freeWord }

/-! ### Atomic operations (R172, R174) -/

def f32Add (a b : Nat) : Nat := (faddBits parF32 .rne a b).1
def bf16Add (a b : Nat) : Nat := (faddBits parBf16 .rne a b).1

/-- The new value an atomic stores, from the old value and the operand, on `w` bits. -/
def atomNew (op : AtomOp) (w : Nat) (o v : Nat) : Nat :=
  let so := (BitVec.ofNat w o).toInt
  let sv := (BitVec.ofNat w v).toInt
  match op with
  | .add => (o + v) % 2 ^ w
  | .sub => (o + 2 ^ w - v) % 2 ^ w
  | .mins => if so ≤ sv then o else v
  | .maxs => if so ≤ sv then v else o
  | .minn => min o v
  | .maxn => max o v
  | .and => o &&& v
  | .or => o ||| v
  | .xor => o ^^^ v
  | .exch => v
  | .inc => if v ≤ o then 0 else (o + 1) % 2 ^ w
  | .fmin => (fminmaxBits parF32 false true o v).1
  | .fmax => (fminmaxBits parF32 true true o v).1
  | .fadd => f32Add o v
  | .faddBf16x2 => bf16Add (o % 65536) (v % 65536) + 65536 * bf16Add (o / 65536) (v / 65536)

/-! ### Gangs and threads -/

/-- A thread and its shadow leave whatever gang holds them (R237). -/
def State.leaveGang (s : State) (l : Lane) : State :=
  { s with gangs := s.gangs.mapVals fun _ k =>
      { k with lanes := k.lanes.filter fun x => !(x.g == l.g && x.t == l.t) } }

/-- A launch takes its first failure reason, with the fault that gave it (R325, R327, R384; log entry 24). The attempt that a replay
discards gives none (R381). -/
def State.failLaunch (s : State) (l : Nat) (r : Reason) (f : Option (FaultInfo × Nat × Bool)) : State :=
  s.modLaunch l fun x => if x.reason.isSome || x.state == .replaying then x else { x with reason := some r, fault := f }

/-- The fault of a lane as a completion record reports it. -/
def State.report (s : State) (l : Lane) (f : FaultInfo) (nest : Bool) : FaultInfo × Nat × Bool :=
  (f, (s.grp l.g).gid, nest)

/-- A thread ends (R136): it is live no more, its control stack and its queue entries are gone (R303), and every barrier
counts it as exited. A lost access nobody waited for is reported (R395). -/
def State.exitThread (s : State) (l : Lane) : State :=
  let g := s.grp l.g
  let th := s.thread l
  let s := match th.fabric.find? fun f => f.cause == .fabricLost with
    | none => s
    | some f => s.failLaunch g.launch .fabric (some (s.report l f false))
  let s := s.modBoth l fun th =>
    { th with live := false, frames := [], hold := none, q := [], region := none, mid := false, behind := [], raised := none,
              loads := [], fabric := [], passing := none, sofar := [], sofarYld := false }
  let s := s.modCrew g.crew fun c => { c with exited := (g.idx * g.width + l.t) :: c.exited }
  s.leaveGang l

/-! ### Completing accesses in flight (R37, R172, R173) -/

/-- The threads an access is counted in, with its shadows. -/
def MemOp.counts (o : MemOp) : List Lane :=
  match o.kind with
  | .bld ts => ts.map fun t => { o.lane with t }
  | .load _ _ _ | .store | .atom _ _ _ | .acas _ _ | .signal _ => [o.lane]
  | .smld _ | .smst => []

/-- Does an access count on ST? -/
def OpKind.onSt : OpKind → Bool
  | .store | .signal _ => true
  | .atom _ _ dst => dst.isEmpty
  | .load _ _ _ | .acas _ _ | .bld _ | .smld _ | .smst => false

/-- A unit of an access is over; with the last of its word the counter falls (R37, R171). -/
def State.opDone (s : State) (id : Nat) : State :=
  match s.ops.find? id with
  | none => s
  | some o =>
    let s := { s with ops := s.ops.erase id }
    if s.ops.any fun e => e.2.word == o.word then s
    else o.counts.foldl (fun s l => s.modBoth l fun th =>
      if o.kind.onSt then { th with st := th.st - 1 } else { th with ld := th.ld - 1 }) s

/-- The units of the access an operation belongs to. -/
def State.unitsOf (s : State) (o : MemOp) : List (Nat × MemOp) := s.ops.filter fun e => e.2.word == o.word && e.2.lane == o.lane

/-- The registers that one unit of a returning access writes. -/
def MemOp.unitDst (o : MemOp) (dst : List Nat) : List Nat := (dst.drop (o.off / 4)).take (max 1 (o.size / 4))

/-- The registers a returning access writes, each with its word, from the bytes read. -/
def loadWords (sgn : Bool) (dst : List Nat) (bs : List Byte) : List (Nat × Word) :=
  match dst with
  | [d] =>
    let v := wordOfBytes bs
    [(d, if sgn then BitVec.ofInt 32 ((BitVec.ofNat (8 * bs.length) v).toInt) else BitVec.ofNat 32 v)]
  | ds => (List.zip ds (List.range ds.length)).map fun e =>
      (e.1, BitVec.ofNat 32 (wordOfBytes ((bs.drop (4 * e.2)).take 4)))

/-- A read-modify-write on bytes that are held in ownership: the old bytes, and what is written, if anything. -/
def rmwBytes (k : OpKind) (old data : List Byte) : Option (List Byte) :=
  match k with
  | .atom op _ _ => some (bytesOfNat old.length (atomNew op (8 * old.length) (wordOfBytes old) (wordOfBytes data)))
  | .acas _ _ => if old = data.take old.length then some (data.drop old.length) else none
  | .signal true => some (bytesOfNat 8 (atomNew .add 64 (wordOfBytes old) (wordOfBytes data)))
  | .signal false | .store | .smst => some data
  | .load _ _ _ | .bld _ | .smld _ => none

/-- The destination registers of a returning access. -/
def opDst : OpKind → List Nat
  | .load _ dst _ => dst
  | .atom _ _ dst => dst
  | .acas _ dst => dst
  | .store | .signal _ | .bld _ | .smld _ | .smst => []

/-- Is the access single-copy atomic over a whole sector, so that it clears poison (R374)? -/
def MemOp.whole (o : MemOp) : Bool := o.kind == .store && decide (o.size = 64)

/-- A region input takes the value its load returned (R220). -/
def Thread.inputVal (th : Thread) (i : Nat) (bs : List Byte) : Thread :=
  { th with region := th.region.map fun r =>
      { r with inputs := r.inputs.modify i fun x => { x with val := BitVec.ofNat 64 (wordOfBytes bs) } } }

/-- The input a load records. -/
def opInput : OpKind → Option Nat
  | .load _ _ i => i
  | .store | .atom _ _ _ | .acas _ _ | .signal _ | .bld _ | .smld _ | .smst => none

/-- What a returning access leaves in its thread: its registers, and the value of the region input it records. -/
def State.loadReturns (s : State) (o : MemOp) (bs : List Byte) : State :=
  let bs := if o.patch.isEmpty then bs else bs.zipIdx.map fun e => (o.patch.find? e.2).getD e.1
  let s := match opInput o.kind with
    | some i => s.modBoth o.lane fun th => th.inputVal i bs
    | none => s
  match o.unitDst (opDst o.kind) with
  | [] => s
  | dst =>
    let ws := loadWords (match o.kind with
      | .load b _ _ => b
      | .store | .atom _ _ _ | .acas _ _ | .signal _ | .bld _ | .smld _ | .smst => false) dst bs
    let t := s.modGroup o.lane.g fun g =>
      let g := ws.foldl (fun g e => g.putLane o.lane e.1 e.2) g
      if g.prot then ws.foldl (fun g e => g.putLane o.lane.shadow e.1 e.2) g else g
    s.gave t o.lane.g (s.both o.lane) dst

/-- Does the word itself take what the access reads? -/
def OpKind.staged : OpKind → Bool
  | .bld _ | .smld _ => true
  | .load _ _ _ | .store | .atom _ _ _ | .acas _ _ | .signal _ | .smst => false

/-- Is the access still to be performed? -/
def MemOp.live (o : MemOp) : Bool := o.failed.isNone && o.got.isNone

/-- An access has taken its value or stored its bytes: it is complete, or its word takes what it read. -/
def State.opPerformed (s : State) (id : Nat) (o : MemOp) (old : List Byte) : State :=
  if o.kind.staged then { s with ops := s.ops.modify id fun o => { o with got := some old } }
  else (s.loadReturns o old).opDone id

/-- Performs an access at once, wherever its bytes stand, writes its registers and counts it complete. -/
def State.performNow (s : State) (id : Nat) : State :=
  match s.ops.find? id with
  | none => s
  | some o =>
    let (old, s) := s.spaceRead o.space o.size
    let s := match rmwBytes o.kind old o.data with
      | some bs => s.spaceWrite (some o.launch) (some o.lane) o.space bs o.whole
      | none => s
    s.opPerformed id o old

/-- The tokens a group holds, or the engine holds for it, become FREE (R42). -/
def Core.freeTokens (c : Core) (g : Nat) : Core :=
  { c with tok := c.tok.mapVals fun _ t => if t = .group g ∨ t = .engine g then .free else t,
           tacq := c.tacq.filter fun e => e.2 != g }

/-- The tokens a retiring group holds become FREE; what the engine holds stays until its MMA ends (R42, R300). -/
def Core.releaseTokens (c : Core) (g : Nat) : Core :=
  { c with tok := c.tok.mapVals fun _ t => if t = .group g then .free else t,
           tacq := c.tacq.filter fun e => e.2 != g }

/-- A group is discarded without a save (R355, R381, R405): what is left of it in flight, its windows, its tokens and its tile
operations go. -/
def State.discardGroup (s : State) (g : Nat) : State :=
  match s.group? g with
  | none => s
  | some x =>
    let s := { s with ops := s.ops.filter fun e => e.2.lane.g != g }
    let s := ((s.core x.core).wins.filter fun e => e.2.g == g).foldl (fun s e => s.winDrop x.core e.1) s
    let s := s.modCore x.core fun c =>
      { c.freeTokens g with mma := c.mma.filter (fun m => m.g != g), tops := c.tops.filter (fun t => t.g != g),
                            commits := c.commits.filter (fun l => l.g != g) }
    let s := { s with gangs := s.gangs.mapVals fun _ k => { k with lanes := k.lanes.filter fun l => l.g != g } }
    { s with groups := s.groups.erase g }

/-- The groups of a launch. -/
def State.launchGroups (s : State) (l : Nat) : List Nat := AMap.keys (s.groups.filter fun e => e.2.launch == l)

/-- A core without the operations of a launch: their tokens are FREE (R381 step 2). -/
def Core.dropLaunch (c : Core) (l : Nat) : Core :=
  let zs := (c.mma.filter fun m => m.launch == l).map fun m => m.zt.val
  { c with mma := c.mma.filter (fun m => m.launch != l), tops := c.tops.filter (fun t => t.launch != l),
           tok := zs.foldl (fun m z => m.set z .free) c.tok }

/-- Every group and crew of a launch is discarded, and what its retired groups left in flight. -/
def State.discardLaunch (s : State) (l : Nat) : State :=
  let s := (s.launchGroups l).foldl (fun s g => s.discardGroup g) s
  { s with crews := s.crews.filter fun e => e.2.launch != l,
           ops := s.ops.filter fun e => e.2.launch != l,
           cores := s.cores.mapVals fun _ c => if c.mma.isEmpty && c.tops.isEmpty then c else c.dropLaunch l,
           parts := s.parts.mapVals fun _ p => { p with ctxs := p.ctxs.map fun c =>
             { c with groups := c.groups.filter fun x => x.group.launch != l } } }

/-- The groups of a launch issue no more: they stand in no gang (R381 step 1). -/
def State.haltLaunch (s : State) (l : Nat) : State :=
  let gs := s.launchGroups l
  { s with gangs := s.gangs.mapVals fun _ k => { k with lanes := k.lanes.filter fun x => !gs.contains x.g } }

/-! ### The error action (R375, R376, R380, R381 step 1) -/

def Launch.replayable (x : Launch) : Bool :=
  x.lrec.snap && x.snap == .held && !x.sideEffect && decide (x.nreplay < 2)

/-- Begins or joins a replay (R381 step 1, R382): the launch is REPLAYING, and its groups issue no more. They go with
REPLAY_RESTORE, once what they have in flight has completed (step 2). -/
def State.replayStart (s : State) (l : Nat) (f : Option (FaultInfo × Nat × Bool)) : State :=
  match s.launch? l with
  | none => s
  | some x =>
    if x.state = .replaying then s
    else
      let s := s.modLaunch l fun x => { x with state := .replaying, replayFault := f, dealt := [] }
      let s := s.modDie (s.partn x.part).master fun d => { d with replay := d.replay + 1 }
      s.haltLaunch l

/-- The error action for a launch; answers whether the launch replays (R376). -/
def State.errorAction (s : State) (l : Nat) (f : Option (FaultInfo × Nat × Bool)) : State × Bool :=
  match s.launch? l with
  | none => (s, false)
  | some x =>
    if x.replayable || x.state == .replaying then (s.replayStart l f, true)
    else (s.failLaunch l (if x.sideEffect && x.snap == .held then .sideeffect else .uncorrected) f, false)

/-- Counts a consumption or a mismatch on a die (R385). -/
def State.countError (s : State) (die : Nat) (c : Cause) : State :=
  match c with
  | .poison => s.modDie die fun d => { d with consume := d.consume + 1 }
  | .dmrMismatch => s.modDie die fun d => { d with dmr := d.dmr + 1 }
  | .fabricLost => s.modDie die fun d => { d with fabLost := d.fabLost + 1 }
  | .illegalOpc | .illegalEnc | .illegalClause | .illegalTarget | .shape | .token | .pageFault | .promiseMissed | .watchdog | .bounds
  | .stack | .brk => s

/-! ### Control-stack frames in memory (R36) -/

/-- The VA of frame `i` from the bottom in a thread's stack area. -/
def frameVa (r : LaunchRec) (g : Group) (t i : Nat) : DWord :=
  r.stkbase + BitVec.ofNat 64 (((g.gid * g.width + t) * (r.stkf + 1) + i) * 16)

/-- Where the frame that a push makes leave the four resident ones goes (R36). -/
def State.spillPlace (s : State) (l : Lane) : Option Space :=
  match s.recOf l.g with
  | some r => if (s.thread l).frames.length < 4 then none
    else match (s.resolve l.g (frameVa r (s.grp l.g) l.t ((s.thread l).frames.length - 4)) 16 .wr).1 with
      | .ok sp => some sp
      | .error _ => none
  | none => none

/-- The frame that leaves the four resident ones is written to the stack area (R36); past a lost port each byte is old or new (R395). -/
def State.spillFrame (s : State) (l : Lane) : State :=
  let th := s.thread l
  match th.frames[4]?, s.recOf l.g with
  | some f, some r =>
    let g := s.grp l.g
    let va := frameVa r g l.t (th.frames.length - 5)
    match s.resolve l.g va 16 .wr with
    | (.ok sp, s) =>
      let bs := bytesOfNat 8 f.ret.toNat ++ bytesOfNat 8 f.pad.toNat
      let kind := match sp with
        | .phys pa => s.paKind pa
        | .aper _ _ | .win _ _ _ => .hbm
      let (bs, s) := if s.kindLost kind then (let (old, s) := s.spaceRead sp 16; s.mixBytes old bs) else (bs, s)
      s.spaceWrite none (some l) sp bs false
    | (.error _, s) => s
  | _, _ => s

def State.pushFrame (s : State) (l : Lane) (f : Frame) : State :=
  let k := (s.thread l).frames.length
  ((s.modBoth l fun th => { th with frames := f :: th.frames }).mirrorPut l.g ((s.both l).map fun m => .f m.sh m.t k)).spillFrame l

/-! ### Aborting a region (R223) -/

/-- Does every tag of a group return to RBEGIN with this thread's abort: has every other live thread aborted in this step, all of
them opened in one gang issue? -/
def State.abortWhole (s : State) (l : Lane) (issue : Nat) : Bool :=
  let x := s.grp l.g
  x.live.all fun e => e.1 == l.t || x.undone.find? e.1 == some issue

/-- One thread's registers and queues return to RBEGIN. -/
def State.undoRegion (s : State) (l : Lane) (r : Region) (whole : Bool) : State :=
  let t := s.modGroup l.g fun g =>
    if whole then (if l.sh then { g with vsh := r.v } else { g with v := r.v })
    else r.wrote.foldl (fun g n => g.putLane l n ((r.v.get VReg.init n).val.at l.t)) g
  (s.gave t l.g [l] r.wrote).modThread l fun th =>
    { th with preds := r.preds, fst := r.fst, fmode := r.fmode, smf := r.smf, exc := r.exc, pops := r.pops,
              q := r.popped.foldr (fun e q => q.upd [] e.1 (e.2 :: ·)) th.q, region := none }

/-- Aborts one thread's region. The loads it still has in flight complete, and their values are discarded. -/
def State.abortOne (s : State) (l : Lane) (reason : Nat) (f : Option FaultInfo) : State :=
  match (s.thread l).region with
  | none => s
  | some r =>
    let whole := s.abortWhole l r.opened
    let s := s.modGroup l.g fun g => { g with undone := g.undone.set l.t r.opened }
    let s := s.undoRegion l r whole
    let s := match (s.thread l.shadow).region with
      | some r' => s.undoRegion l.shadow r' whole
      | none => s
    let s := { s with ops := s.ops.mapVals fun _ o =>
      if o.lane = l ∧ (opInput o.kind).isSome then { o with kind := .load false [] none } else o }
    let s := s.modBoth l fun th =>
      let th := { th with rstat := rstatWord reason false, pc := r.target, mid := false, hold := none, passing := none,
                          sofar := [], sofarYld := false, loads := th.loads.filter fun x => !x.input }
      match f with
      | some f => { th with trap := trapWord f false, faddr := f.addr }
      | none => th
    let s := s.modCore (s.grp l.g).core fun c =>
      { c with aborts := c.aborts + 1, commits := c.commits.filter (· != l) }
    s.leaveGang l

/-- Aborts the regions of several threads in one step. -/
def State.regionAbort (s : State) (ls : List Lane) (reason : Nat) (f : Option FaultInfo) : State :=
  ls.foldl (fun s l => s.abortOne l reason f) s

/-! ### Fetching a clause (R71, R77, R241, R263, R296) -/

/-- The bytes of one sector as the instruction cache may deliver them: its copy or memory, while they differ (R296). Nothing of another
package's memory is kept (R358). -/
def State.fetchSector (s : State) (core sec : Nat) : List Byte × State :=
  let now := s.rdN (64 * sec) 64
  let keep := fun (s : State) =>
    if s.paKind (64 * sec) = .span then s else s.modCore core fun c => { c with icache := c.icache.set sec now }
  match (s.core core).icache.find? sec with
  | none => (now, keep s)
  | some old =>
    if old = now then (old, s)
    else if s.freeBit then (old, s.used 1) else (now, keep (s.used 1))

/-- The bytes of a fetch that starts at one translated page and may go on in another. -/
def State.fetchBytes (s : State) (core : Nat) (va n : Nat) (page : Nat → Nat) : List Byte × State :=
  (rangeFrom (va / 64) ((va + n - 1) / 64 - va / 64 + 1)).foldl
    (fun (acc : List Byte × State) k =>
      let pa := page (k * 64 / 4096) + k * 64 % 4096
      let (bs, s) := acc.2.fetchSector core (pa / 64)
      (acc.1 ++ bs, s)) ([], s)

/-- FetchClause: the checks of R77 in their order; a failure names the clause address. -/
def State.fetchCheck (s : State) (core part : Nat) (va : DWord) : Except FaultInfo Clause × State :=
  let fail := fun (c : Cause) => { cause := c, kind := .none, addr := va : FaultInfo }
  let tr := fun (s : State) (a : Nat) => s.xlate core part (BitVec.ofNat 64 a) .ex
  let a := va.toNat
  if (aperOff va).isSome then (.error (fail .illegalTarget), s)
  else if !canonical va then (.error (fail .pageFault), s)
  else match tr s a with
    | (.error e, s) => (.error (fail e.cause), s)
    | (.ok p0, s) =>
      match (if (a + 7) / 4096 = a / 4096 then (Except.ok 0, s) else tr s (a + 7)) with
      | (.error e, s) => (.error (fail e.cause), s)
      | (.ok p1, s) =>
        let base := p0 - a % 4096
        let pg1 := fun k => if k = a / 4096 then base else p1 / 4096 * 4096
        let (hb, s) := s.fetchBytes core a 8 pg1
        let hw := wordOfBytes ((hb.drop (a % 64)).take 8)
        let n := if isHeader hw then 8 * (natField hw 52 4 + 2) else 8
        match (if (a + n - 1) / 4096 = a / 4096 then (Except.ok 0, s) else tr s ((a + n - 1) / 4096 * 4096)) with
        | (.error e, s) => (.error (fail e.cause), s)
        | (.ok p2, s) =>
          let pg := fun k => if k = a / 4096 then base else p2 / 4096 * 4096
          let pois := (rangeFrom (a / 64) ((a + n - 1) / 64 - a / 64 + 1)).any fun k =>
            (s.sector ((pg (k * 64 / 4096) + k * 64 % 4096) / 64)).poison
          if pois then (.error (fail .poison), s)
          else if a % 8 ≠ 0 ∨ !isHeader hw then (.error (fail .illegalTarget), s)
          else match headerOf hw with
            | none => (.error (fail .illegalEnc), s)
            | some h =>
              let (bs, s) := s.fetchBytes core a n pg
              let body := (bs.drop (a % 64 + 8)).take (n - 8)
              (.ok { addr := va, hdr := h, words := (List.range (h.cnt + 1)).map fun i =>
                       BitVec.ofNat 64 (wordOfBytes ((body.drop (8 * i)).take 8)) }, s)

/-- A group's fetch slot may serve a fetch at its own clause, unless an ICINV marked it (R241). -/
def State.fetchFor (s : State) (g : Nat) (va : DWord) : Except FaultInfo Clause × State :=
  let x := s.grp g
  match x.fslot with
  | some f => if f.clause.addr = va ∧ !f.marked then (.ok f.clause, s) else s.fetchCheck x.core x.part va
  | none => s.fetchCheck x.core x.part va

/-! ### Taking a fault (R10, R45, R131) -/

/-- Is the handler active: does a trap frame stand on the control stack (R45)? -/
def Thread.handlerActive (th : Thread) : Bool := th.frames.any fun f => f.ret.getLsbD 0

/-- The handler cannot be entered: NEST is set and the thread ends as by EXIT; its launch reports the fault, or a FABRIC_LOST that the thread
was handling (R45, R384, R395). -/
def State.nestEnd (s : State) (l : Lane) (pc : DWord) (f : FaultInfo) : State :=
  let s := s.modBoth l fun th => { th with pc, trap := trapWord f true, faddr := f.addr, endedBy := some f }
  let s := s.failLaunch (s.grp l.g).launch (if f.cause = .fabricLost ∨ ((s.thread l).raised.any fun r => r.info.cause == .fabricLost) = true then .fabric else .fault) (some (s.report l f true))
  s.exitThread l

/-- What a thread has issued of the clause it stands in, and whether that marked a yield point: its gang's marks, or what it kept
(R73, R74). -/
def State.clauseSoFar (s : State) (l : Lane) : List Nat × Bool :=
  match s.gangs.first fun k => k.2.lanes.any fun x => x.g == l.g && x.t == l.t with
  | some (_, k) => (((k.ops.filter fun o => o.lane.g == l.g && o.lane.t == l.t).map fun o => o.op), k.yld)
  | none => ((s.thread l).sofar, (s.thread l).sofarYld)

/-- A shadow takes its primary's values and state (R389). -/
def State.shadowTakes (s : State) (l : Lane) : State :=
  let x := s.grp l.g
  if !x.prot then s
  else
    let ns := ((AMap.keys x.v ++ AMap.keys x.vsh).dedup).filter fun n => x.readV l.shadow n != x.readV l n
    let t := s.modGroup l.g fun g =>
      let g := ns.foldl (fun g n => g.putLane l.shadow n (g.readV l n)) g
      match g.thread? l.t with
      | some th => g.modThread l.shadow.key fun _ => th
      | none => g
    let own : PoolWord → Bool := fun w => match w with
      | .m sh t _ _ => sh && t == l.t
      | .f sh t _ => sh && t == l.t
      | .v _ _ _ => false
    (s.gave t l.g [l.shadow] ns).mirrorPut l.g (match s.recOf l.g with
      | some r => ((t.grp l.g).filled r).filter own
      | none => [])

/-- The trap entry: a frame that holds the faulting word's address with bit 0 set and PAD 0 is pushed, `%trap` and `%faddr`
are written, and the thread goes on at the handler (R10, R131). The shadow takes the primary's values (R389). -/
def State.trapEntry (s : State) (l : Lane) (pc handler : DWord) (f : FaultInfo) : State :=
  let (ops, yld) := s.clauseSoFar l
  let s := s.modBoth l fun th =>
    { th with pc := handler, mid := false, hold := none, brkDone := false, trap := trapWord f false, faddr := f.addr,
              raised := some { info := f, atHeader := false, ops, yld, header := th.header }, sofar := [], sofarYld := false,
              passing := none, barAt := th.barAt.filter fun b => b.2 }
  let s := s.pushFrame l { pad := 0, ret := pc ||| 1 }
  let s := s.modGroup l.g fun g => { g with rounds := g.rounds.mapVals fun _ r => { r with joined := r.joined.erase l.t } }
  (s.shadowTakes l).leaveGang l

/-- Is a group to be discarded by its launch's replay (R381)? -/
def State.halted (s : State) (g : Group) : Bool := match s.launch? g.launch with
  | some x => x.state == .replaying
  | none => false

/-- A fault reaches its thread: a region abort (R223), else the handler, or the end of the thread (R45). A thread that its launch's replay
discards only stops (R381). -/
def State.enterFault (s : State) (l : Lane) (pc : DWord) (f : FaultInfo) : State :=
  let g := s.grp l.g
  let th := s.thread l
  if !th.live || s.halted g then s.leaveGang l
  else if th.region.isSome then s.regionAbort [l] 6 (some f)
  else
    let handler := match s.recOf l.g with
      | some r => r.handler
      | none => 0
    if th.handlerActive || handler = 0 then s.nestEnd l pc f
    else match s.fetchCheck g.core g.part handler with
      | (.error e, s) =>
        if e.cause = .poison then
          let (s, gone) := ((s.countError (coreDie g.core) .poison).errorAction g.launch (some (s.report l e false)))
          if gone then s.leaveGang l else s.nestEnd l pc f
        else s.nestEnd l pc f
      | (.ok _, s) => s.trapEntry l pc handler f

/-- TAKING A FAULT at a word address, the one operation every word and event uses: the error action first (R376), then the
thread. -/
def State.takeFault (s : State) (l : Lane) (pc : DWord) (f : FaultInfo) : State :=
  let g := s.grp l.g
  let isErr := f.cause == .poison || f.cause == .dmrMismatch
  let s := s.countError (coreDie g.core) f.cause
  let (s, gone) := if isErr then s.errorAction g.launch (some (s.report l f false)) else (s, false)
  if gone then s.leaveGang l else s.enterFault l pc f

/-- An engine meets poison for a launch: it is counted and takes the error action; the answer says that the launch replays
(R375, R376). -/
def State.consume (s : State) (die launch gid : Nat) (f : FaultInfo) : State × Bool :=
  (s.countError die .poison).errorAction launch (some (f, gid, false))

/-- A fault an engine has kept is delivered; for poison the error action was taken when the engine met it. -/
def State.deliverFault (s : State) (l : Lane) (pc : DWord) (f : FaultInfo) : State :=
  if f.cause = .poison then s.enterFault l pc f else s.takeFault l pc f

/-- A fault without a stated address, in every lane of a list. -/
def State.faultAll (s : State) (ls : List Lane) (pc : DWord) (c : Cause) : State :=
  ls.foldl (fun s l => (s.takeFault l pc (s.freeFault c)).used 1) s

/-- The fault was met at a clause header: the handler's return starts that clause, header waits included (R78, R247). -/
def State.markHeader (s : State) (l : Lane) : State :=
  s.modBoth l fun th => { th with raised := th.raised.map fun r => { r with atHeader := true } }

/-- A fault met at a clause header, unless it ended the thread or aborted its region. -/
def State.headerEntry (s0 s : State) (l : Lane) : State :=
  if (s0.thread l).region.isSome || (s0.thread l).handlerActive then s else s.markHeader l

/-- May the handler return to the faulting word, which then executes again (R11)? -/
def Cause.recoverable : Cause → Bool
  | .pageFault | .promiseMissed | .watchdog | .brk => true
  | .illegalOpc | .illegalEnc | .illegalClause | .illegalTarget | .shape | .token | .poison | .bounds | .stack | .dmrMismatch
  | .fabricLost => false

/-- RETURN FROM THE HANDLER: the trap frame leaves the stack and the thread resumes at the word it records, without header
waits, and loads whose faults it popped are repeated (R78, R129, R190). A cause that is not recoverable is raised again there at
once (R10; log entry 54). -/
def State.trapReturn (s : State) (l : Lane) (ret : DWord) : State :=
  let pc := ret &&& ~~~1#64
  let leave : Thread → Thread := fun th => { th.repeatLoads with frames := th.frames.drop 1, pc, raised := none }
  match (s.thread l).raised with
  | none => (s.modBoth l fun th => { leave th with mid := true, brkDone := natField th.trap.toNat 0 8 == 15 }).leaveGang l
  | some r =>
    let s1 := (s.modBoth l fun th =>
      { leave th with mid := !r.atHeader, brkDone := r.info.cause == .brk, sofar := r.ops, sofarYld := r.yld, header := r.header }).leaveGang l
    if r.info.cause.recoverable then s1
    else
      let s2 := s1.enterFault l pc r.info
      if r.atHeader then s1.headerEntry s2 l else s2

/-! ### Handles (R34, R186) -/

inductive HSt | complete | pending | failed (f : FaultInfo)
  deriving DecidableEq, Repr, Inhabited

def hKind (h : DWord) : Nat := natField h.toNat 60 4
def hDie (h : DWord) : Nat := natField h.toNat 56 4
def hGen (h : DWord) : Nat := natField h.toNat 48 8
def hSeq (h : DWord) : Nat := natField h.toNat 0 48

/-- The live tracking entry a handle names for a partition (R34). -/
def State.hEntry (s : State) (part : Nat) (h : DWord) : Option HEntry :=
  if hKind h = 0 ∨ 3 < hKind h then none
  else (s.die (hDie h)).handles.find? fun e =>
    e.kind == hKind h && e.seq == hSeq h && e.part == part && e.gen == (s.partn part).gen &&
      e.gen.toNat % 256 == hGen h

/-- How a handle reads (R34). -/
def State.hState (s : State) (part : Nat) (h : DWord) : HSt :=
  match s.hEntry part h with
  | none => .complete
  | some e => match e.state with
    | .pending => .pending
    | .complete => .complete
    | .failed f => .failed f

/-- The copy a COPY handle names. -/
def State.hCopy (s : State) (part : Nat) (h : DWord) : Option (Nat × CopyOp) :=
  if hKind h = 1 ∧ (s.hEntry part h).isSome then
    s.copies.first fun e => e.2.die == hDie h && e.2.seq == hSeq h
  else none

/-- A new handle of a KIND on a die, with its tracking entry (R34); the first SEQ is 0 (log entry 16). -/
def State.newHandle (s : State) (die kind part launch : Nat) : DWord × State :=
  let d := s.die die
  let seq := d.seqs.get 0 kind
  let gen := (s.partn part).gen
  let h := BitVec.ofNat 64 (kind * 2 ^ 60 + die * 2 ^ 56 + gen.toNat % 256 * 2 ^ 48 + seq)
  let e : HEntry := { kind, seq, part, gen, state := .pending, launch }
  (h, s.modDie die fun d => { d with seqs := d.seqs.set kind ((seq + 1) % 2 ^ 48), handles := e :: d.handles })

/-- Changes the state of a tracking entry; a completed MMA's entry goes (R34). -/
def State.setHandleState (s : State) (die kind seq : Nat) (st : HState) : State :=
  s.modDie die fun d =>
    { d with handles := if kind = 2 ∧ st = .complete then d.handles.filter fun e => !(e.kind == 2 && e.seq == seq)
             else d.handles.map fun e => if e.kind = kind ∧ e.seq = seq then { e with state := st } else e }

/-! ### Copies a thread waits on (R181 to R183) -/

/-- Has a copy ended: completed, cancelled and stopped, or failed (R183)? -/
def CopyOp.ended (c : CopyOp) : Bool :=
  match c.st with
  | .complete | .failed _ => true
  | .queued | .moving => false

/-- Is batch number `q` at or before `v` (R183)? -/
def batchLe (q v : Word) : Bool := decide (0 ≤ (v - q).toInt)

/-- The copies of a thread's sealed batches. -/
def State.sealedCopies (s : State) (l : Lane) : List CopyOp :=
  ((s.copies.filter fun e => e.2.lane == l).map Prod.snd).filter fun c =>
    c.batch != (s.thread l).batch && batchLe c.batch (s.thread l).batch

/-- Every copy of every sealed batch has ended: an arrival counts (R183). -/
def State.sealedEnded (s : State) (l : Lane) : Bool := (s.sealedCopies l).all CopyOp.ended

/-- The first waiting word re-executed after a PAGE_FAULT stopped a copy makes the engine resume it: it waits for a free channel,
ahead of the copies issued after it (R181, R304). -/
def State.resumeCopy (s : State) (c : Nat) : State :=
  match s.copies.find? c with
  | none => s
  | some x =>
    { s with copies := s.copies.set c { x with st := .queued, resumable := false } }.setHandleState x.die 1 x.seq .pending

/-! ### Watch units and stops (R361 to R363) -/

/-- The observed kinds: 0 load, 1 store, 2 local atomic, 3 remote atomic (R360, R362). -/
def watchHit (w : WatchUnit) (g : Group) (t part kind size : Nat) (va : DWord) (scope : Scope) : Bool :=
  let c := w.ctl.toNat
  let thr := w.thr.toNat
  natBit c 0 && natField c 12 4 == part && natBit c (5 + scopeCode scope) && natBit c (1 + kind) &&
  decide (w.lo.toNat ≤ va.toNat + size - 1) && decide (va.toNat ≤ w.hi.toNat) && decide (w.lo.toNat ≤ w.hi.toNat) &&
  (!natBit thr 40 || natField thr 0 32 == (if natBit thr 32 then g.gid else g.cid)) &&
  (!natBit thr 39 || natField thr 33 6 == t)

/-- May the debugger stop a cluster for a partition: a debug partition of its die whose groups may stand there (R359)? -/
def State.debugParts (s : State) (clu : Nat) : List Nat :=
  AMap.keys (s.parts.filter fun e => e.2.debug && e.2.hasDie (clu / 4) && (e.2.state == .resident || e.2.state == .saving))

/-- Starts a stop of a cluster with its record (R362, R363); a cluster already stopping keeps its record. -/
def State.trigger (s : State) (clu : Nat) (va pc : DWord) (gid tid core scope kind trig : Nat) : State :=
  let c := s.cluster clu
  if c.stopping || c.stoprec.getLsbD 0 then s
  else
    let low := gid * 2 ^ 32 + tid * 2 ^ 26 + coreSite core * 2 ^ 19 + scope * 2 ^ 16 + kind * 2 ^ 12 + trig * 32 + 1
    let dclk := s.dclk (clu / 4) % 2 ^ 64
    let r := BitVec.ofNat 256 (va.toNat * 2 ^ 192 + pc.toNat * 2 ^ 128 + dclk * 2 ^ 64 + low)
    let here := (s.groups.filter fun e => coreCluster e.2.core == clu).map fun e => e.2.part
    let stopParts := (here ++ s.debugParts clu).dedup
    let s := s.modCluster clu fun c => { c with stoprec := r, stopping := true, stopParts }
    { s with groups := s.groups.mapVals fun _ g =>
        if coreCluster g.core = clu then { g with skid := 0, stepped := false } else g }

/-- Compares an access that passed its checks with the units of its cluster: each match sets HIT and may be the trigger of the
step (R361, R362). -/
def State.watch (s : State) (l : Lane) (pc va : DWord) (kind size : Nat) (scope : Scope) : State :=
  let g := s.grp l.g
  let clu := coreCluster g.core
  let hits := (s.cluster clu).wu.filter fun e => (s.partn g.part).debug && watchHit e.2 g l.t g.part kind size va scope
  match hits with
  | [] => s
  | (u, _) :: _ => s.modCluster clu fun c =>
      { c with wu := c.wu.mapVals fun k w => if hits.any (fun e => e.1 == k) then { w with ctl := w.ctl ||| (1#64 <<< 16) }
                                             else w,
               seen := c.seen ++ [{ unit := u, site := coreSite g.core, col := g.colOf l, va, pc, gid := g.gid, tid := l.t,
                                    core := g.core, scope := scopeCode scope, kind }] }

/-- Does a match come before another: lower unit, then lower site, then lower `%col` (R362)? -/
def WatchMatch.before (a b : WatchMatch) : Bool :=
  decide (a.unit < b.unit) || (a.unit == b.unit && (decide (a.site < b.site) || (a.site == b.site && decide (a.col ≤ b.col))))

/-- The matches of a step are over: the first of them triggers a stop, where one may. -/
def State.watchEnd (s : State) (clu : Nat) : State :=
  match sortBy WatchMatch.before (s.cluster clu).seen with
  | [] => s
  | m :: _ => (s.modCluster clu fun c => { c with seen := [] }).trigger clu m.va m.pc m.gid m.tid m.core m.scope m.kind m.unit

/-- An atomic is remote when its point of coherence lies outside the issuing core (R361). -/
def State.atomKind (s : State) (g : Nat) (sp : Space) (scope : Scope) : Nat :=
  let core := (s.grp g).core
  match sp with
  | .aper h _ => if (s.grp h).core = core then 2 else 3
  | .win c _ _ => if c = core then 2 else 3
  | .phys pa =>
    match (s.sector (pa / 64)).win with
    | some w => if w.core = core then 2 else 3
    | none => if scope = .core && s.paKind pa != .span then 2 else 3

/-! ### Marking external side effects (R380) -/

def State.sideEffect (s : State) (launch : Nat) : State := s.modLaunch launch fun x => { x with sideEffect := true }

end Sys2Proof.Machine
end

