-- ==== Sys2Proof/Machine/Words.lean ====
section
/-! DEFINITION. What every word of a gang goes through, whatever it does: its encoding faults (R89, R90), the gate of open
regions (R138, R153, R197, R220), errors that reach it (R202, R375, R388, R395), stalls at the word (R26, R34, R37, R73, R76),
and the end of the word and of the clause (R72, R74, R77, R79, R237). A word's own effect is a function on the threads whose
guard is true. -/

namespace Sys2Proof.Machine

open Sys2Proof

/-- What a word knows of its place: gang, address, fall-through, whether it is the clause's last, its index and issue. -/
structure Ctx where
  k : Nat
  w : DWord
  ft : DWord
  last : Bool
  ix : Nat
  issue : Nat
  deriving DecidableEq, Repr, Inhabited

/-- The fall-through clause of a clause (R72). -/
def Clause.ft (c : Clause) : DWord := c.addr + BitVec.ofNat 64 (8 * (c.hdr.cnt + 2))

def Gang.ctx (g : Gang) (k : Nat) : Ctx :=
  { k, w := g.clause.addr + BitVec.ofNat 64 (8 * (g.ix + 1)), ft := g.clause.ft, last := decide (g.ix = g.clause.hdr.cnt),
    ix := g.ix, issue := g.issueId }

/-- The effect of a word on the threads whose guard is true; nothing means that the gang stalls at the word. -/
abbrev Effect := Ctx → List Lane → State → Option State

/-! ### Encoding faults (R75, R76, R89, R90) -/

/-- ILLEGAL_CLAUSE for a word of an opcode at its place. -/
def clauseFault (g : Gang) (opc : Nat) : Bool :=
  g.clause.hdr.eng == .acc || !admits g.clause.hdr.eng (classOfOpc opc) ||
  (endsClause opc && decide (g.ix ≠ g.clause.hdr.cnt))

/-- Is the group's partition a debug partition (R342)? -/
def State.debugGroup (s : State) (g : Nat) : Bool := (s.partn (s.grp g).part).debug

/-- The encoding rules that need the launch record or the partition's configuration (R27, R33, R35, R177, R323, R228). -/
def configOk (s : State) (g : Nat) (i : Instr) : Bool :=
  match s.recOf g with
  | none => true
  | some r =>
    (reads i).all (fun n => decide (n < r.vcnt)) && (writes i).all (fun n => decide (n < r.vcnt)) &&
    (mregs i).all (fun n => decide (n < r.mcnt)) && (!usesQueue i || decide (r.access ≠ 0)) &&
    (match i with
    | .smset _ x => decide (x.rows.val ≤ r.mdim) && decide (x.cols.val ≤ r.mdim)
    | .bara _ x => decide (r.cscope ≤ scopeCode x.scope)
    | .barw _ x => decide (r.cscope ≤ scopeCode x.scope)
    | .launch _ _ q _ => decide (q.toNat < (s.partn (s.grp g).part).qcnt)
    | .irq _ v => decide (v.toNat < (s.partn (s.grp g).part).vecs)
    | .brx _ r' | .callx _ r' | .callxL _ r' _ => decide (r'.val + 1 < r.vcnt)
    | _ => true)

/-- The first encoding fault of a decoded word, in the order OPC, CLAUSE, ENC (R90). -/
def encFault (s : State) (gang : Gang) (i : Instr) : Option Cause :=
  let g := match gang.lanes with
    | l :: _ => l.g
    | [] => 0
  if opcOf i = 0x382 ∧ !s.debugGroup g then some .illegalOpc
  else if clauseFault gang (opcOf i) then some .illegalClause
  else if !configOk s g i then some .illegalEnc
  else none

/-! ### Words in an open region (R138, R153, R197, R220) -/

/-- Does this word abort an open region with reason UNTRACKABLE? -/
def abortsRegion : Instr → Bool
  | .call _ _ | .callx _ _ | .callL _ _ _ | .callxL _ _ _ | .ret _ | .throw _ | .brx _ _ | .jarm _ _ | .movjToJ _ _ _
  | .waitj _ _ | .yield _ | .exit _ => true
  | .xsnd _ _ | .xrcv _ _ => true
  | .rbegin _ _ _ | .rcommit _ | .rabort _ | .ld _ _ | .st _ _ => false
  | i => decide (0x200 ≤ opcOf i)

/-! ### Counters (R37) -/

inductive Counter | ld | st | cp | tl
  deriving DecidableEq, Repr, Inhabited

/-- The counter a word moves at issue. -/
def counterOf : Instr → Option Counter
  | .ld _ _ | .bld _ _ | .atom _ _ | .acas _ _ => some .ld
  | .st _ _ | .bst _ _ | .atomNr _ _ | .signalSt _ _ _ | .signalAdd _ _ _ => some .st
  | .copy _ _ => some .cp
  | .tld _ _ | .tsv _ _ | .mma _ _ | .tsum _ _ | .qcv _ _ | .ptld _ _ => some .tl
  | _ => none

def Thread.count (th : Thread) : Counter → Nat
  | .ld => th.ld
  | .st => th.st
  | .cp => th.cp
  | .tl => th.tl

def Thread.bump (th : Thread) : Counter → Thread
  | .ld => { th with ld := th.ld + 1 }
  | .st => { th with st := th.st + 1 }
  | .cp => { th with cp := th.cp + 1 }
  | .tl => { th with tl := th.tl + 1 }

/-! ### Stalls at a word (R73, R76) -/

/-- Is an operation of some engine still to complete? -/
def State.opPending (s : State) (core id : Nat) : Bool :=
  (s.ops.find? id).isSome || (match s.copies.find? id with
    | some c => !c.ended
    | none => false) ||
  (s.core core).mma.any (fun m => m.id == id) || (s.core core).tops.any (fun t => t.id == id)

/-- The returning access of a lane in flight that names a register the word names (R73). -/
def State.interlocked (s : State) (l : Lane) (i : Instr) : Option MemOp :=
  let ns := reads i ++ writes i
  (s.ops.first fun e => e.2.lane == { l with sh := false } && (opDst e.2.kind).any ns.contains).map Prod.snd

/-- A pop waits: an entry it needs is not there yet and may still come (R33, R190). -/
def popWaits (running : Bool) : Nat → List QEntry → Bool
  | 0, _ => false
  | _ + 1, [] => running
  | n + 1, e :: r => if e.fault.isSome then false else if e.val.isSome then popWaits running n r else true

/-- Does a lane stall at the word, for a reason every word shares? -/
def State.laneStalls (s : State) (gang : Gang) (i : Instr) (l : Lane) : Bool :=
  let g := s.grp l.g
  let th := s.thread l
  (s.interlocked l i).isSome ||
  (natBit gang.clause.hdr.hold gang.ix && gang.ops.any fun o => o.lane == l && s.opPending g.core o.op) ||
  (usesQueue i && (List.range 8).any fun n => popWaits g.slice.running (popsOf i n) (th.q.get [] n)) ||
  (match counterOf i with
  | some c => th.count c == 63
  | none => false)

/-- The memory pipe of a quad is full of rejected requests (R273). -/
def State.pipeFull (s : State) (g : Group) (i : Instr) : Bool :=
  classOfOpc (opcOf i) == .only .mem &&
  decide (32 ≤ (s.ops.filter fun e => e.2.rejected && e.2.core == g.core &&
    e.2.quad == g.quad).length)

/-! ### Errors that reach a word -/

/-- Counts and records an uncorrectable register word (R385, R386). -/
def State.regPoison (s : State) (die : Nat) : State := s.uncorrAt die 1 0

/-- The transform and table in force: the word's, or the record's. -/
def resolveXf (x : XfSel) (br : BRec) : Nat × Fin 8 :=
  match x with
  | .none => (0, 0)
  | .h16 => (1, 0)
  | .perm t => (2, t)
  | .record => (recXform br, Fin.ofNat 8 (recPtab br))

/-- The table a transform uses, as a tile object. -/
def xfObjs (x : Nat × Fin 8) : List Nat := if x.1 = 2 then [16 + x.2.val] else []

/-- The tile objects a word of a group names, the table its transform uses among them: Z 0 to 7, Y 8 to 15, tables 16 to 23 (R67, R202). -/
def Group.tileObjs (g : Group) : Instr → List Nat
  | .tld _ x =>
    let r := g.brec x.br.val
    (x.tn.val + 8 * b2n x.y) :: (if x.y ∧ recEfmt r = 4 then [9 + x.tn.val] else []) ++ xfObjs (resolveXf x.xf r)
  | .tsv _ x => [x.tn.val]
  | .tzero _ y tn => [tn.val + 8 * b2n y]
  | .tmovGet _ x => [x.tn.val + 8 * b2n x.y]
  | .tmovPut _ x => [x.tn.val + 8 * b2n x.y]
  | .tsum _ x => [x.tn.val]
  | .qcv _ x => x.tn.val :: xfObjs (resolveXf x.xf (g.brec x.br.val))
  | .ptld _ x => [16 + x.t.val]
  | _ => []

/-- Is a kept tile fault raised at this word of a group (R202)? -/
def TileFault.hits (f : TileFault) (g : Group) (i : Instr) : Bool :=
  (g.tileObjs i).any f.objs.contains || (match i with
    | .waitc _ x => decide (x.tl.val < 63)
    | _ => false)

/-- Does a word wait on the ST counter (R395)? -/
def waitsSt : Instr → Bool
  | .waitc _ x => decide (x.st.val < 63)
  | .fence _ _ k => decide (k ≠ .acq)
  | .bar _ | .bara _ _ | .waitj _ _ => true
  | .st _ x => x.ord == .rel
  | .bst _ x => x.ord == .rel
  | .atom _ x => x.ord == .rel || x.ord == .ar
  | .atomNr _ x => x.ord == .rel || x.ord == .ar
  | .acas _ x => x.ord == .rel || x.ord == .ar
  | .smst _ x => x.ord == .rel
  | .signalSt _ _ _ | .signalAdd _ _ _ | .rcommit _ | .launch _ _ _ _ | .irq _ _ | .xsnd _ _ | .trel _ _ _ => true
  | _ => false

/-- Does a word act once for its group, by one performer (R200)? -/
def groupWord : Instr → Bool
  | .elect _ _ _ | .bld _ _ | .smap _ _ | .sunmap _ _ | .sflush _ _ | .smode _ _ _ | .launch _ _ _ _ | .irq _ _ => true
  | .tacq _ _ _ | .trel _ _ _ | .tld _ _ | .tsv _ _ | .tzero _ _ _ | .tmovGet _ _ | .tmovPut _ _ | .mma _ _ | .tsum _ _
  | .qcv _ _ | .ptld _ _ => true
  | _ => false

/-- Is the word compared between a primary and its shadow, and performed once (R388)? -/
def compared : Instr → Bool
  | .shfl _ _ | .vote _ _ | .redx _ _ | .scanx _ _ | .matchx _ _ | .xsnd _ _ | .xrcv _ _ => true
  | .ld _ _ | .st _ _ | .bst _ _ | .atom _ _ | .atomNr _ _ | .acas _ _ | .smld _ _ | .smst _ _ => true
  | .signalSt _ _ _ | .signalAdd _ _ _ | .copy _ _ => true
  | i => groupWord i

/-- The performers of a group word: of each group the guard-true lane with the lowest `%tid`, with the group's lanes
(R200). -/
def performers (act : List Lane) : List (Lane × List Lane) :=
  (groupsOf act).filterMap fun g => (lowest (lanesOf act g)).map fun p => (p, lanesOf act g)

/-- The address a word forms with a lane's offset operand: through a record whole, or the offset alone for a tile word, of which BLK mode reads the
first register (R40, R201). -/
def Group.addressOf (g : Group) (l : Lane) (i : Instr) : RecAddr :=
  let ofs := fun (br : Fin 32) (o : Option (Fin 96)) =>
    let v := g.offsetPair l o
    RecAddr.at (if recMode (g.brec br.val) = 2 then v.lo.zeroExtend 64 else v)
  match i with
  | .tld _ x => ofs x.br x.va
  | .tsv _ x => ofs x.br x.va
  | .mma _ x => ofs x.br x.va
  | .tsum _ x => ofs x.br x.va
  | .qcv _ x => ofs x.br x.va
  | .ptld _ x => ofs x.br x.va
  | i => match addrOf i with
    | some m => recordAddress (g.brec m.br.val) (g.offsetPair l m.ofs) m.imm 1 false
    | none => .outside

/-- The values of an M register that SMLD takes its size from, and that SMST stores (R388). -/
def State.shapeValues (s : State) (l : Lane) (n : Nat) (data : Bool) : List DWord :=
  let m := (s.thread l).m.get MReg.empty n
  let f32 := natBit m.desc.toNat 25
  BitVec.ofNat 64 (natField m.desc.toNat 19 7) :: (if data then (m.slots (s.smDim l) fun _ _ => true).map fun k =>
    let v := m.els.get 0 k
    if f32 then v &&& 0xFFFF_FFFF else v
  else [])

/-- The address, size and data a lane's word has at a point of comparison, or its captured sources (R388). -/
def State.comparedOf (s : State) (i : Instr) (l : Lane) : RecAddr × List DWord :=
  let g := s.grp l.g
  let th := s.thread l
  let ops := match readSrcs g l th (sources i) with
    | (.ok vs, _) => vs
    | (.error _, _) => []
  let regs := fun (ns : List Nat) => ns.map fun n => (g.readV l n).zeroExtend 64
  (g.addressOf l i, match i with
    | .st _ x => if x.ty = .b128 then regs (otherReads i) else ops.map fun v => v &&& BitVec.ofNat 64 (2 ^ (8 * stSize x.ty) - 1)
    | .bst _ _ | .acas _ _ => regs (otherReads i)
    | .smld _ x => s.shapeValues l x.md.val false
    | .smst _ x => s.shapeValues l x.md.val true
    | .vote _ x => ops ++ [BitVec.ofNat 64 (b2n (th.pred x.pa.val)), BitVec.ofNat 64 (b2n (match x.dst with
        | .all _ f | .any _ f | .uni _ f => th.pred f.val
        | .ballot _ _ => false))]
    | _ => ops)

/-- Do a primary and its shadow differ at a compared word (R389)? -/
def State.dmrDiffers (s : State) (i : Instr) (gd : Guard) (l : Lane) : Bool :=
  (s.grp l.g).prot && compared i &&
  (guardTrue gd (s.thread l) != guardTrue gd (s.thread l.shadow) ||
    (guardTrue gd (s.thread l) && s.comparedOf i l != s.comparedOf i l.shadow))

/-- The performers of a group word whose shadow differs, each with its group's guard-true lanes, who all take the fault (R200, R389). -/
def State.dmrGroups (s : State) (i : Instr) (gd : Guard) (ls : List Lane) : List (Lane × List Lane) :=
  if groupWord i then (performers (ls.filter fun l => !l.sh && guardTrue gd (s.thread l))).filter fun p => s.dmrDiffers i gd p.1 else []

/-- Where an error that meets a lane at a word comes from: the kept fault of that place in its list, or the registers read. -/
inductive ErrFrom | dmr | load (i : Nat) | tile (i : Nat) | fabric | ecc
  deriving DecidableEq, Repr, Inhabited

/-- Does a word wait for the value of a failed load: it names a register of it, or it commits a region (R73, R222, R395)? -/
def LoadFault.hits (f : LoadFault) (i : Instr) : Bool :=
  (reads i ++ writes i).any f.dst.contains || (match i with
  | .rcommit _ => f.input
  | _ => false)

/-- The place of the first thing in a list a test picks, and the thing. -/
def firstAt {α : Type} (p : α → Bool) (l : List α) : Option (Nat × α) := (l.zipIdx.find? fun e => p e.1).map fun e => (e.2, e.1)

/-- The first error that meets a lane at a word, if any; what its shadow reads is its own error (R387). -/
def State.laneError (s : State) (i : Instr) (gd : Guard) (l : Lane) : Option (FaultInfo × ErrFrom) :=
  let th := s.thread l
  let shadowBad := (s.grp l.g).prot && guardTrue gd (s.thread l.shadow) && s.eccBad l.shadow i
  if l.sh then none
  else if !groupWord i && s.dmrDiffers i gd l then some (s.freeFault .dmrMismatch, .dmr)
  else if !guardTrue gd th then (if shadowBad then some (s.freeFault .poison, .ecc) else none)
  else match firstAt (fun f => f.hits i) th.loads with
    | some (n, f) => some (f.info, .load n)
    | none =>
      match firstAt (fun f => TileFault.hits f (s.grp l.g) i) th.tileFaults with
      | some (n, f) => some (f.info, .tile n)
      | none =>
        match (if waitsSt i then th.fabric.head? else none) with
        | some f => some (f, .fabric)
        | none => if s.eccBad l i || shadowBad then some (s.freeFault .poison, .ecc) else none

/-- Exactly the kept fault that is raised leaves its thread. -/
def Thread.dropFault (th : Thread) : ErrFrom → Thread
  | .load n => { th with loads := th.loads.eraseIdx n }
  | .tile n => { th with tileFaults := th.tileFaults.eraseIdx n }
  | .fabric => { th with fabric := th.fabric.drop 1 }
  | .dmr | .ecc => th

/-- Does the fault wait in its thread, its consumption counted when it was met (R375, R376)? -/
def ErrFrom.kept : ErrFrom → Bool
  | .load _ | .tile _ | .fabric => true
  | .dmr | .ecc => false

/-- A lane takes an error at an address: a kept fault is delivered once. -/
def State.raiseError (s : State) (l : Lane) (pc : DWord) (f : FaultInfo) (e : ErrFrom) : State :=
  let s := (s.modBoth l fun th => th.dropFault e).used 1
  if e.kept then s.deliverFault l pc f else s.takeFault l pc f

/-- A group word whose performer and its shadow differ: every guard-true lane of the group takes the mismatch, which counts once (R200, R385, R389). -/
def State.dmrStage (s : State) (c : Ctx) (i : Instr) (gd : Guard) (ls : List Lane) : State :=
  (s.dmrGroups i gd ls).foldl (fun s p =>
    let f := s.freeFault .dmrMismatch
    p.2.foldl (fun s l => if l = p.1 then s.takeFault l c.w f else s.deliverFault l c.w f) (s.used 1)) s

/-- The uncorrectable stored words a lane and its shadow read (R387, R392). -/
def State.badWords (s : State) (gd : Guard) (i : Instr) (l : Lane) : List (Nat × PoolWord) :=
  (s.both l).flatMap fun m => if guardTrue gd (s.thread m) then s.eccWords m i else []

/-- Every lane that meets an error takes it; an uncorrectable stored word counts once, however many lanes share it (R226,
R385). The others have their single-bit errors corrected (R373). -/
def State.errorStage (s : State) (c : Ctx) (i : Instr) (gd : Guard) (ls : List Lane) : State :=
  let bad := (ls.map fun l => match s.laneError i gd l with
    | some (_, .ecc) => s.badWords gd i l
    | some (_, .dmr) | some (_, .load _) | some (_, .tile _) | some (_, .fabric) | none => []).flatten.dedup
  let s := bad.foldl (fun s e => s.regPoison (coreDie (s.grp e.1).core)) s
  ls.foldl (fun s l =>
    match s.laneError i gd l with
    | some (f, e) => s.raiseError l c.w f e
    | none => if guardTrue gd (s.thread l) then s.eccRead l i else s) s

/-- Regions the word aborts (R138). -/
def State.regionStage (s : State) (i : Instr) (act : List Lane) : State :=
  if abortsRegion i then
    match act.filter fun l => !l.sh && (s.thread l).region.isSome with
    | [] => s
    | ls => s.regionAbort ls 4 none
  else s

/-! ### Paths and serial mode (R242, R243) -/

/-- The PC by which a live thread counts: inside a clause, the clause's own address (R242). -/
def State.pathPc (s : State) (g : Nat) (t : Nat) (th : Thread) : DWord :=
  match s.gangs.first fun k => k.2.lanes.any fun l => l.g == g && l.t == t && !l.sh with
  | some k => k.2.clause.addr
  | none => th.pc

/-- The distinct PCs of a group's live threads. -/
def State.groupPcs (s : State) (g : Nat) : List DWord :=
  (s.grp g).live.foldl (fun l e =>
    let p := s.pathPc g e.1 e.2
    if l.contains p then l else l ++ [p]) []

/-- PATHS, SER and the tracked paths follow the threads' PCs. -/
def Group.repath (g : Group) (pcs : List DWord) : Group :=
  let n := pcs.length
  let ser := if 8 < n then true else if n ≤ 6 then false else g.ser
  { g with ser, paths := (pcs.map fun p =>
      match g.paths.find? fun x => x.pc == p with
      | some x => x
      | none => { pc := p, cnt := 0, aged := none }).take 8 }

/-- Serial mode is entered or left; entries are counted (R243, R248). -/
def State.repath (s : State) (g : Nat) : State :=
  match s.group? g with
  | none => s
  | some x =>
    let y := x.repath (s.groupPcs g)
    let s := s.modGroup g fun _ => y
    if y.ser && !x.ser then s.modCore x.core fun c => { c with serent := c.serent + 1 } else s

/-! ### The end of a word -/

/-- The paths of a quad that other threads than these have ready to issue now: group and PC (R246). -/
def State.readyPaths (s : State) (quad : Nat) (ls : List Lane) : List (Nat × DWord) :=
  ((s.groups.filter fun e => e.2.core * 4 + e.2.quad == quad).map fun e =>
    ((e.2.live.filter fun t => t.2.hold.isNone && !(ls.any fun l => l.g == e.1 && l.t == t.1) &&
      !(s.gangs.any fun k => k.2.lanes.any fun l => l.g == e.1 && l.t == t.1)).map fun t => (e.1, t.2.pc)).dedup).flatten

/-- A yield point: the threads of the gang, wherever the word has taken them, stand behind the ready paths of their quad (R74,
R246), whatever the class of their group. -/
def State.yieldPoint (s : State) (quad : Nat) (ls : List Lane) : State :=
  let ps := s.readyPaths quad ls
  ls.foldl (fun s l => s.modThread l fun th => { th with behind := ps.filter fun p => !(p.1 == l.g && p.2 == th.pc) }) s

/-- STEPST for a stepped thread after its word (R369). RCOMMIT holds nobody in the sense of R240: its step is DONE while the commit
runs on (R364). -/
def stepOutcome (before after : Thread) : StepSt :=
  if !after.live then (if after.endedBy.isSome && before.endedBy.isNone then .trapped else .exited)
  else match after.hold with
    | some h => (match h.kind with
      | .waitj _ | .bar | .barw _ _ _ => .waitBar
      | .round | .rendezvous | .waitb _ | .hwait _ | .sleept _ _ _ => .waitOther
      | .commit => .done)
    | none => if after.handlerActive && !before.handlerActive then .trapped else .done

/-- STEPST, and STEPPING while the step still waits to issue; DBGCTL.STEP stands as long (R365, R369). -/
def State.stepReport (s : State) (clu : Nat) (o : StepSt) : State :=
  s.modCluster clu fun c =>
    { c with stepst := o, stepping := o == .waitStall, dbgctl := if o = .waitStall then c.dbgctl else c.dbgctl &&& ~~~8#64 }

/-- The end of the clause for the gang's remaining lanes: they stand at the fall-through clause (R72). -/
def State.endClause (s : State) (c : Ctx) (gang : Gang) (ls through : List Lane) : State :=
  let s := ls.foldl (fun s l => s.modThread l fun th => { th with pc := c.ft, mid := false, brkDone := false }) s
  let s := if gang.yld || gang.clause.hdr.yld then s.yieldPoint gang.quad through else s
  { s with gangs := s.gangs.erase c.k, cur := .none }

/-- The next word of the clause for the gang's remaining lanes. -/
def State.nextWord (s : State) (c : Ctx) (gang : Gang) (ls : List Lane) : State :=
  let s := ls.foldl (fun s l => s.modThread l fun th =>
    { th with pc := c.w + 8, mid := gang.step, brkDone := false,
              sofar := if gang.step then (gang.ops.filter fun o => o.lane.g == l.g && o.lane.t == l.t).map fun o => o.op else [],
              sofarYld := gang.step && gang.yld }) s
  if ls.isEmpty || gang.step then { s with gangs := s.gangs.erase c.k, cur := .none }
  else s.modGang c.k fun g => { g with ix := g.ix + 1, wip := none }

/-- The lanes a gang still holds. -/
def State.lanesOfGang (s : State) (k : Nat) : List Lane :=
  match s.gang? k with
  | some g => g.lanes
  | none => []

/-- The lanes that no fault took out of the gang at this word (R79). -/
def State.unfaulted (s0 s : State) (ls : List Lane) : List Lane :=
  ls.filter fun l => (s.thread l).live && !((s.thread l).raised.isSome && (s0.thread l).raised.isNone)

/-- A word ran: counts, paths, the step's outcome, and the gang moves on (R237). -/
def State.finishWord (s0 s : State) (c : Ctx) (gang : Gang) (i : Instr) : State :=
  let ls := s.lanesOfGang c.k
  let now := match s.gang? c.k with
    | some g => { gang with ops := g.ops }
    | none => gang
  let s := if c.last then s.endClause c gang ls (s0.unfaulted s gang.lanes) else s.nextWord c now ls
  let gs := groupsOf gang.lanes
  let s := gs.foldl (fun s g => (s0.touchRegs s g i (lanesOf (gang.lanes.filter fun l => !l.sh && guardTrue (headPart i).guard (s0.thread l)) g)).repath g) s
  if gang.step then
    let clu := gang.quad / 4
    match gang.lanes with
    | l :: _ =>
      s.stepReport (coreCluster clu) (stepOutcome (s0.thread l) (s.thread l))
    | [] => s
  else s

/-- The lanes of a gang that a word has just held, to continue at its fall-through clause (R240). -/
def State.nowHeld (s0 s1 : State) (ls : List Lane) : List Lane :=
  ls.filter fun l => !l.sh && (s0.thread l).hold.isNone && (s1.thread l).hold.isSome

/-- The fetches of a clause by several groups, each from its slot or memory: the faults met, and the state after them. -/
def State.fetchEach (s : State) (gs : List Nat) (va : DWord) : List (Nat × FaultInfo) × State :=
  gs.foldl (fun (acc : List (Nat × FaultInfo) × State) g => match acc.2.fetchFor g va with
    | (.ok _, s) => (acc.1, s)
    | (.error f, s) => (acc.1 ++ [(g, f)], s)) ([], s)

/-- A last word's fall-through clause is fetched before the word may fall through to it, or hold a thread that will; where that
fails, the lanes concerned take the fault at the word, which has changed nothing for them (R77). -/
def State.fallThrough (s : State) (c : Ctx) (act : List Lane) (eff : Effect) (s1 : State) : State :=
  let stay := s1.lanesOfGang c.k ++ s.nowHeld s1 (s.lanesOfGang c.k)
  if stay.isEmpty || !c.last then s1
  else match s1.fetchEach (groupsOf stay) c.ft with
    | ([], s2) => s2
    | (bad, _) =>
      let fails := stay.filter fun x => bad.any fun e => e.1 == x.g
      let on := fun (x : Lane) => fails.any fun y => y.g == x.g && y.t == x.t
      let left := s.modGang c.k fun k => { k with lanes := k.lanes.filter fun x => !on x }
      let s2 := (eff c (act.filter fun x => !on x) left).getD left
      let s2 := s2.modGang c.k fun k => { k with lanes := k.lanes ++ (s.lanesOfGang c.k).filter on }
      (fails.filter fun x => !x.sh).foldl (fun s x => match bad.find? fun e => e.1 == x.g with
        | some e => s.takeFault x c.w e.2
        | none => s) s2

/-- Has a gang's word begun its accesses? -/
def State.begun (s : State) (k : Nat) : Bool := (s.gang? k).any fun g => g.wip.isSome

/-- A gang issues a word: watchdogs restart, a skid counts (R247, R363). A word that begins its accesses issues there, before a match of its own stops
the cluster. -/
def State.issued (s : State) (gang : Gang) : State :=
  if gang.wip.isSome then s
  else (groupsOf gang.lanes).foldl (fun s g => s.modGroup g fun x =>
    let stopping := (s.cluster (coreCluster x.core)).stopping
    { x with wd := 0, skid := if stopping && !gang.step then min 65535 (x.skid + 1) else x.skid,
             stepped := x.stepped || gang.step }) s

/-! ### Waiting for a tile's token (R204, R300) -/

/-- The tile a lane's TACQ or TREL names; the value may be above 7. -/
def State.tileNo (s : State) (l : Lane) (va : Src) : Nat :=
  match readSrc (s.grp l.g) l (s.thread l) (va, false) with
  | (.ok v, _) => v.toNat
  | (.error _, _) => 8

def Core.token (c : Core) (k : Nat) : Token := c.tok.get .free k

/-- Does a gang with a thread of a group stand at a TACQ of a tile? -/
def State.atTacq (s : State) (k g : Nat) : Bool :=
  s.gangs.any fun e => match e.2.lanes.find? (fun l => l.g == g), (e.2.clause.words[e.2.ix]?).map decode with
    | some l, some (.ok (.tacq _ y va)) => s.tileNo l va + 8 * b2n y == k
    | _, _ => false

/-- A group asks for a tile: it receives a FREE token when no other group has waited longer, and waits in order else. Who holds the tile,
or waits for it no more, stands in the line no more (R204). -/
def State.askToken (s : State) (g k : Nat) : State :=
  let n := (s.grp g).core
  let c := s.core n
  let line := c.tacq.filter fun e => !(e.1 == k && e.2 == g && c.token k == .group g) && ((e.1 == k && e.2 == g) || s.atTacq e.1 e.2)
  let first : Bool := match line.find? fun e => e.1 == k with
    | some e => e.2 == g
    | none => true
  let put := fun (l : List (Nat × Nat)) (t : Token) => s.modCore n fun c => { c with tok := c.tok.set k t, tacq := l }
  if c.token k == .free && first then put (line.filter fun e => !(e.1 == k && e.2 == g)) (.group g)
  else s.modCore n fun c => { c with tacq := if c.token k = .group g ∨ line.contains (k, g) then line else line ++ [(k, g)] }

/-- What a word does when its gang stalls at it: a TACQ stands in line, a BLD, SMLD or SMST begins its accesses. -/
abbrev Pending := Ctx → List Lane → State → State

/-- The state of a word that stalls, after what it does then: one that begins its accesses has issued, `s2`, any other has not, `s1`. -/
def stalled (s1 s2 : State) (c : Ctx) (act : List Lane) (pend : Pending) : State :=
  if (pend c act s2).begun c.k then pend c act s2 else pend c act s1

/-- One word of a gang, from its encoding faults to the gang's next place. -/
def State.wordStep (s : State) (k : Nat) (gang : Gang) (i : Instr) (alu : Bool) (pend : Pending) (eff : Effect) : State :=
  let c := gang.ctx k
  let prim := gang.lanes.filter fun l => !l.sh
  let finish := fun (s : State) => { s with gangs := s.gangs.erase k, cur := .none }
  match encFault s gang i with
  | some cause =>
    let s1 := s.issued gang
    State.finishWord s (s1.faultAll prim c.w cause) c gang i
  | none =>
    let gd := (headPart i).guard
    let s1 := s.dmrStage c i gd gang.lanes
    let s1 := s1.errorStage c i gd (s1.lanesOfGang k)
    let s1 := s1.regionStage i ((s1.lanesOfGang k).filter fun l => guardTrue gd (s1.thread l))
    match s1.gang? k with
    | none => finish s1
    | some g1 =>
      let act := g1.lanes.filter fun l => guardTrue gd (s1.thread l) && (alu || !l.sh)
      let pact := act.filter fun l => !l.sh
      if (pact.any (s1.laneStalls gang i)) || (pact.any fun l => s1.pipeFull (s1.grp l.g) i) then s1
      else
        let s2 := s1.issued gang
        match eff c act s2 with
        | none =>
          let s3 := stalled s1 s2 c act pend
          if (s3.lanesOfGang k).isEmpty then State.finishWord s s3 c gang i else s3
        | some s3 =>
          let s3 := State.fallThrough s2 c act eff s3
          let yld := (headPart i).sched == .yld || (c.last && isBlocking (opcOf i))
          let g2 := { gang with yld := gang.yld || yld }
          State.finishWord s (s3.modGang k fun g => { g with yld := g.yld || yld }) c g2 i

/-- The meaning of a word of the execute slice, with what it does while it stalls: the gang whose turn it is runs it (R236,
R82; log entry 52). -/
def runWith (i : Instr) (alu : Bool) (pend : Pending) (eff : Effect) (s : State) : Host.Outcome State Fault Refusal :=
  match s.cur with
  | .gang k =>
    match s.gang? k with
    | some gang => .next (s.wordStep k gang i alu pend eff)
    | none => .fault .noAgent
  | .none | .slice _ => .fault .noAgent

/-- The meaning of a word that changes nothing while it stalls. -/
def runWord (i : Instr) (alu : Bool) (eff : Effect) (s : State) : Host.Outcome State Fault Refusal :=
  runWith i alu (fun _ _ s => s) eff s

/-- Does a gang stay at its word? -/
def State.stays (s : State) (k : Nat) (gang : Gang) (f : State → Host.Outcome State Fault Refusal) : Bool :=
  match f { s with cur := .gang k } with
  | .next t => (match t.gang? k with
    | some x => x.ix == gang.ix && x.lanes == gang.lanes
    | none => false)
  | .fault _ | .refused _ => false

/-- A word that does not decode: every lane that reaches it faults, whatever its guard (R89, R90). -/
def State.illegalWord (s : State) (k : Nat) (gang : Gang) (opc : Nat) (cause : Cause) : State :=
  let c := gang.ctx k
  let g := match gang.lanes with
    | l :: _ => l.g
    | [] => 0
  let cause := if cause = .illegalOpc ∨ (opc = 0x382 ∧ !s.debugGroup g) then .illegalOpc
    else if clauseFault gang opc then .illegalClause else cause
  let s1 := s.issued gang
  State.finishWord s (s1.faultAll (gang.lanes.filter fun l => !l.sh) c.w cause) c gang (.nop Head.plain)

/-! ### What effects are made of -/

/-- A fault of one lane at its word (R79). -/
def State.faultAt (s : State) (c : Ctx) (l : Lane) (f : FaultInfo) : State := s.takeFault l c.w f

/-- A fault whose address the spec does not state, at the word (log entry 6). -/
def State.plainFault (s : State) (c : Ctx) (l : Lane) (cause : Cause) : State :=
  (s.takeFault l c.w (s.freeFault cause)).used 1

/-- Runs a per-lane effect on each lane in increasing order of the list. -/
def eachLane (f : Ctx → Lane → State → State) : Effect := fun c act s => some (act.foldl (fun s l => f c l s) s)

/-- A lane is held at its word (R240). -/
def State.holdAt (s : State) (c : Ctx) (l : Lane) (k : HoldKind) : State :=
  (s.modBoth l fun th => { th with hold := some { kind := k, ft := c.ft }, pc := c.w, mid := false }).leaveGang l

/-- A held lane goes on at its fall-through clause (R240), to which the word it was held at passes control (R77). -/
def State.release (s : State) (l : Lane) : State :=
  s.modBoth l fun th => match th.hold with
    | some h => { th with hold := none, pc := h.ft, mid := false, passing := some th.pc }
    | none => th

/-- A lane passes control to a clause (R126). -/
def State.goTo (s : State) (l : Lane) (pc : DWord) : State :=
  let s := s.modThread l fun th => { th with pc, mid := false, passing := none }
  { s with gangs := s.gangs.mapVals fun _ k => { k with lanes := k.lanes.filter (· != l) } }

/-- A lane takes the fault of a popped entry at the word, with the entry's address; a PAGE_FAULT outside a region is recoverable (R190,
R223). A pop of an empty queue has no address. -/
def State.popFaults (s : State) (c : Ctx) (l : Lane) (os : List (Src × Bool)) (f : FaultInfo) : State :=
  if f.cause = .illegalEnc ∧ f.kind = .none then s.plainFault c l .illegalEnc
  else
    let s := if f.cause = .pageFault ∧ (s.thread l).region.isNone then s.modThread l fun th => th.popRaised os else s
    s.deliverFault l c.w f

/-- Has a shadow left the gang with its primary, at this word? -/
def State.shadowLeft (s : State) (c : Ctx) (l : Lane) : Bool := l.sh && !(s.lanesOfGang c.k).contains l

/-- The operand values of a lane at a word, its queues popped, or the state after a popped fault (R26, R190), which is the primary's. -/
def State.popOperands (s : State) (c : Ctx) (i : Instr) (l : Lane) : Except State (List DWord × State) :=
  let g := s.grp l.g
  let th := s.thread l
  match readSrcs g l th (sources i) with
  | (.ok vs, th') => .ok (vs, s.modThread l fun _ => th')
  | (.error f, _) => .error (if l.sh then s else s.popFaults c l (sources i) f)

/-- The shadow of a primary that performs a word pops what the primary popped (R387, R388). -/
def State.popShadow (s : State) (l : Lane) (ops : List (Src × Bool)) : State :=
  match s.thread? l.shadow with
  | none => s
  | some th => match readSrcs (s.grp l.g) l.shadow th ops with
    | (.ok _, th) => s.modThread l.shadow fun _ => th
    | (.error _, _) => s

/-- The operand values of a word a primary performs for its shadow as well. -/
def State.operands (s : State) (c : Ctx) (i : Instr) (l : Lane) : Except State (List DWord × State) :=
  match s.popOperands c i l with
  | .ok (vs, s) => .ok (vs, s.popShadow l (sources i))
  | .error s => .error s

/-- Applies `f` to the operand values of one lane, unless a pop faults. -/
def State.withOps (s : State) (c : Ctx) (i : Instr) (l : Lane) (f : List DWord → State → State) : State :=
  match s.operands c i l with
  | .ok (vs, s) => f vs s
  | .error s => s

/-- A fault taken by every guard-true thread of a group (R200). -/
def State.groupFault (s : State) (c : Ctx) (ls : List Lane) (f : FaultInfo) : State :=
  ls.foldl (fun s l => s.faultAt c l f) s

def State.groupPlain (s : State) (c : Ctx) (ls : List Lane) (cause : Cause) : State :=
  ls.foldl (fun s l => s.plainFault c l cause) s

/-- A counter rises in a thread and its shadow; the operations of the word are remembered for HOLD (R37, R73). -/
def State.countOps (s : State) (c : Ctx) (l : Lane) (k : Counter) (ids : List Nat) : State :=
  (s.modBoth l fun th => th.bump k).modGang c.k fun g => { g with ops := ids.map (fun id => { lane := l, op := id }) ++ g.ops }

/-- The same for a word of one operation. -/
def State.countOp (s : State) (c : Ctx) (l : Lane) (k : Counter) (id : Nat) : State := s.countOps c l k [id]

/-- Does a fetched clause stand at a target, in the slot of the lane's group or in memory (R126, R241)? The probe changes only
translations. -/
def State.probe (s : State) (l : Lane) (va : DWord) : Except FaultInfo Unit × State :=
  match s.fetchFor l.g va with
  | (.ok _, s) => (.ok (), s)
  | (.error f, s) => (.error f, s)

end Sys2Proof.Machine
end

