-- ==== Sys2Proof/Machine/Alu.lean ====
section
/-! DEFINITION. Words that compute in the instant: operand values to a result, flags and predicates per thread, the shape tag
of the write (R28, R29), the symbolic tracking in an open region (R220), and the same words run by an access slice (R187). -/

namespace Sys2Proof.Machine

open Sys2Proof

/-- What one thread's computation gives. -/
structure LaneOut where
  val : DWord
  fl : Word
  preds : List (Nat × Bool)
  deriving DecidableEq, Repr, Inhabited

def LaneOut.ofVal (v : DWord) : LaneOut := { val := v, fl := 0, preds := [] }
def LaneOut.ofFlagged (v : Nat × Word) : LaneOut := { val := BitVec.ofNat 64 v.1, fl := v.2, preds := [] }

/-- A computation of one thread: its group, its lane, its thread, its operand values. -/
abbrev LaneFn := Group → Lane → Thread → List DWord → LaneOut

/-! ### Affine tags (R29) -/

/-- A tag rule: the shape of a 32-bit whole-group result from the sources' shapes, where some source is A. -/
abbrev TagFn := List VVal → Option VVal

def noTag : TagFn := fun _ => none

def addTag : TagFn
  | [.a b s, .u w] => some (.a (b + w) s)
  | [.u w, .a b s] => some (.a (b + w) s)
  | [.a b s, .a b' s'] => some (.a (b + b') (s + s'))
  | _ => none

def subTag : TagFn
  | [.a b s, .u w] => some (.a (b - w) s)
  | [.u w, .a b s] => some (.a (w - b) (-s))
  | [.a b s, .a b' s'] => some (.a (b - b') (s - s'))
  | _ => none

def mulTag : TagFn
  | [.a b s, .u w] => some (.a (b * w) (s * w))
  | [.u w, .a b s] => some (.a (b * w) (s * w))
  | _ => none

def shlTag : TagFn
  | [.a b s, .u k] => if k.toNat < 32 then some (.a (b <<< k.toNat) (s <<< k.toNat)) else none
  | _ => none

/-- LEA counts as an addition of the shifted index (R111). -/
def leaTag (sh : Nat) : TagFn
  | [x, .u k] => addTag [x, .u (k <<< sh)]
  | [x, .a b s] => addTag [x, .a (b <<< sh) (s <<< sh)]
  | _ => none

def negTag : TagFn
  | [.a b s] => some (.a (-b) (-s))
  | _ => none

def movTag : TagFn
  | [.a b s] => some (.a b s)
  | _ => none

/-! ### Symbolic tracking (R220, R221) -/

/-- How a word meets a tagged value. -/
inductive SymRule
  | other
  | copy (wide : Bool)
  | addInt (neg wide : Bool)
  | addConst (v : DWord)
  | addFlt (neg wide : Bool) (ma mb : SrcMod) (f : FPar) (rm : RMode)
  | cmp (c : RCmp) (wide : Bool) (pc : Fin 32) (cond : Thread → List DWord → Bool)

/-- The tag an operand carries at the width it is read in. -/
def Region.tagOf (r : Region) (o : Src × Bool) : Option SymTag :=
  match o.1 with
  | .v n => (r.tags.find? n.val).bind fun t => if t.wide = o.2 then some t else none
  | .q _ | .zero => none

/-- Does an operand touch a tagged value at all? -/
def Region.touches (r : Region) (o : Src × Bool) : Bool :=
  (srcRegs o).any fun n => (r.tags.find? n).isSome || (match r.tags.find? (n - 1) with
    | some t => t.wide && decide (0 < n)
    | none => false)

def constraintLimit : Nat := 8
def addendLimit : Nat := 4

/-- An integer constant joins a chain. -/
def Chain.addC (c : Chain) (v : DWord) : Option Chain :=
  match c with
  | .none => some (.int v)
  | .int k => some (.int (k + v))
  | .flt _ _ => none

/-- What a region holds after a word that reads these operands; nothing where a limit is passed (R221). The new tag of the
destination stands beside it. FSUB with the tagged value as subtrahend, and a source modifier on the tagged operand, leave no addend
that the chain can hold: untrackable (R153; log entry 35). -/
def Region.track (r : Region) (th : Thread) (ops : List (Src × Bool)) (vs : List DWord) (out : Bool)
    (rule : SymRule) : Option (Region × Option SymTag) :=
  if !ops.any r.touches then some (r, none)
  else
    let lost := some ({ r with untrackable := true }, Option.none)
    let a := (ops[0]?).bind r.tagOf
    let b := (ops[1]?).bind r.tagOf
    let one := !((ops[0]?).any r.touches && (ops[1]?).any r.touches)
    let va := vs.getD 0 0
    let vb := vs.getD 1 0
    match rule with
    | .other => lost
    | .copy w => match a with
      | some t => if t.wide = w then some (r, some t) else lost
      | none => lost
    | .addInt neg w =>
      let use := fun (t : SymTag) (v : DWord) =>
        if t.wide = w ∧ one then (match t.chain.addC v with
          | some c => some (r, some { t with chain := c })
          | none => lost)
        else lost
      match a, b with
      | some t, none => use t (if neg then -vb else vb)
      | none, some t => if neg then lost else use t va
      | _, _ => lost
    | .addConst v => match a with
      | some t => if t.wide then lost else (match t.chain.addC v with
          | some c => some (r, some { t with chain := c })
          | none => lost)
      | none => lost
    | .addFlt neg w ma mb f rm =>
      let use := fun (t : SymTag) (m mo : SrcMod) (neg : Bool) (v : DWord) =>
        if t.wide = w ∧ one ∧ m.none then
          let ad : Addend := { neg, val := BitVec.ofNat 64 (applyMod f mo (v.toNat % 2 ^ f.width)), rm := modeOf rm th.fmode }
          (match t.chain with
          | .none => some (r, some { t with chain := .flt w [ad] })
          | .flt w' l => if addendLimit ≤ l.length then none
                         else some (r, some { t with chain := .flt w' (l ++ [ad]) })
          | .int _ => lost)
        else lost
      match a, b with
      | some t, none => use t ma mb neg vb
      | none, some t => if neg then lost else use t mb ma false va
      | _, _ => lost
    | .cmp c w pc cond =>
      let use := fun (t : SymTag) (first : Bool) (v : DWord) =>
        if t.wide = w ∧ one then
          if constraintLimit ≤ r.cons.length then none
          else some ({ r with cons := r.cons ++ [{ cmp := c, tagFirst := first, tag := t, other := v,
                                                   pc := th.pred pc.val, outcome := cond th vs }] }, Option.none)
        else lost
      match a, b with
      | some t, none => if out then lost else use t true vb
      | none, some t => if out then lost else use t false va
      | _, _ => lost

/-! ### One group's share of a word -/

/-- An ALU word: its destination registers, its computation, its tag rule and its symbolic rule. -/
structure AluWord where
  dst : List Nat
  f : LaneFn
  tag : TagFn
  sym : SymRule
  /-- results that are never U (R116, R118) -/
  neverU : Bool

/-- The operands of a word for its shape and its tags: PACKP reads its destination as a further source (R152). -/
def allSources (i : Instr) : List (Src × Bool) :=
  sources i ++ (match i with
    | .packp _ x => [(.v x.d, false)]
    | _ => [])

/-- The operand values of every lane, their queues popped; lanes whose pop faults have left, their shadows with them. -/
def State.gather (s : State) (c : Ctx) (i : Instr) : List Lane → List (Lane × List DWord) × State
  | [] => ([], s)
  | l :: r =>
    if s.shadowLeft c l then s.gather c i r
    else match s.popOperands c i l with
    | .error s => s.gather c i r
    | .ok (vs, s) =>
      let (xs, s) := s.gather c i r
      ((l, vs) :: xs, s)

/-- The region of a lane after the word; a passed limit aborts it at the word (R221). -/
def State.trackLane (s : State) (i : Instr) (a : AluWord) (l : Lane) (vs : List DWord) : State :=
  let th := s.thread l
  match th.region with
  | none => s
  | some r =>
    match r.track th (allSources i) vs (!a.dst.isEmpty) a.sym with
    | none => if l.sh then s else s.regionAbort [l] 3 none
    | some (r', t) =>
      let s := s.modThread l fun th => ({ th with region := some r' }).noteWrite a.dst
      match t, a.dst with
      | some t, d :: _ => s.modThread l fun th =>
          { th with region := th.region.map fun r => { r with tags := r.tags.set d t } }
      | _, _ => s

/-- The shape of a write from one issue: U, A or G (R28, R29; log entry 36). -/
def writeShape (g : Group) (sh : Bool) (i : Instr) (a : AluWord) (whole : Bool) (outs : List DWord) (free : Word) :
    Option (List VVal) :=
  let srcs := allSources i
  let half := fun (sel : DWord → Word) =>
    match outs with
    | [] => VVal.u 0
    | o :: r => if r.all (fun x => sel x == sel o) then .u (sel o) else .u free
  let tagged := match a.dst with
    | [_] => (a.tag (srcs.map fun o => srcShape g sh o.1)).map fun v => [v]
    | _ => none
  if !whole then none
  else if tagged.isSome then tagged
  else if srcs.all (srcIsU g sh) && !a.neverU then
    some (match a.dst with
      | [_] => [half DWord.lo]
      | _ => [half DWord.lo, half DWord.hi])
  else none

/-- Writes one group's results, of primaries or of shadows. -/
def Group.commit (g : Group) (sh : Bool) (shape : Option (List VVal)) (dst : List Nat) (outs : List (Nat × DWord)) :
    Group :=
  match shape with
  | some vs => (List.zip dst vs).foldl (fun g e => g.putV sh e.1 e.2) g
  | none =>
    match dst with
    | [d] => g.putG sh d (outs.map fun e => (e.1, e.2.lo))
    | d :: e :: _ => (g.putG sh d (outs.map fun e => (e.1, e.2.lo))).putG sh e (outs.map fun e => (e.1, e.2.hi))
    | [] => g

/-- Does a region hold a word's result as a tracked float addition? -/
def Region.tracked (r : Region) (a : AluWord) : Bool :=
  match a.sym, a.dst with
  | .addFlt _ _ _ _ _ _, d :: _ => (r.tags.find? d).isSome
  | _, _ => false

/-- A thread raises the flags of a word; an open region remembers those that only its tracked additions have raised (R222). -/
def Thread.flagged (th : Thread) (a : AluWord) (fl : Word) : Thread :=
  match th.region with
  | none => th.raise fl
  | some r =>
    if r.tracked a then { th.raise fl with region := some { r with tflags := r.tflags ||| (fl &&& ~~~th.fst) } } else (th.raise fl).ownFlags fl

/-- One group's primaries or shadows perform the word; a lane whose tracking passes a limit has left it (R221, R223). -/
def State.aluGroup (s : State) (c : Ctx) (i : Instr) (a : AluWord) (gid : Nat) (sh : Bool) (ls : List Lane) : State :=
  if ls.isEmpty then s
  else
    let (ins, s) := s.gather c i ls
    let g := s.grp gid
    let outs := ins.map fun e => (e.1, e.2, a.f g e.1 (s.thread e.1) e.2)
    let s := outs.foldl (fun s o => s.trackLane i a o.1 o.2.1) s
    let outs := outs.filter fun o => (s.lanesOfGang c.k).contains o.1
    let whole := g.live.all fun e => outs.any fun o => o.1.t == e.1
    let shape := writeShape g sh i a whole (outs.map fun o => o.2.2.val) s.freeWord.lo
    let s := s.modGroup gid fun g => g.commit sh shape a.dst (outs.map fun o => (o.1.t, o.2.2.val))
    let s := outs.foldl (fun s o => s.modThread o.1 fun th => (th.flagged a o.2.2.fl).setPreds o.2.2.preds) s
    s.used 1

/-- The effect of an ALU word: each group of the gang, its primaries and its shadows. -/
def aluEffect (i : Instr) (a : AluWord) : Effect := fun c act s =>
  some ((groupsOf act).foldl (fun s g =>
    let ls := lanesOf act g
    (s.aluGroup c i a g false (ls.filter fun l => !l.sh)).aluGroup c i a g true (ls.filter fun l => l.sh)) s)

/-- The meaning of an ALU word of the execute slice. -/
def runAlu (i : Instr) (a : AluWord) (s : State) : Host.Outcome State Fault Refusal := runWord i true (aluEffect i a) s

/-! ### The access slice runs a word (R75, R187) -/

/-- An access slice fails its launch with reason ACCESS and stops (R187). -/
def State.sliceFail (s : State) (g : Nat) : State :=
  (s.failLaunch (s.grp g).launch .access none).modGroup g fun x =>
    { x with slice := { x.slice with running := false, clause := none } }

/-- The slice goes on at its next word or at its clause's fall-through. -/
def State.sliceNext (s : State) (g : Nat) : State :=
  s.modGroup g fun x =>
    let sl := x.slice
    match sl.clause with
    | none => x
    | some cl =>
      if sl.ix = cl.hdr.cnt then { x with slice := { sl with pc := cl.ft, clause := none, ix := 0 } }
      else { x with slice := { sl with ix := sl.ix + 1, pc := sl.pc + 8 } }

/-- The value of a slice operand: registers V0 to V15 or ZERO. -/
def sliceSrc (sl : Slice) : Src → Option VVal
  | .v n => if n.val < 16 then some (sl.v.get (.u 0) n.val) else none
  | .zero => some (.u 0)
  | .q _ => none

/-- A guard in the slice, whose predicates are all 0 but P31 (log entry 20). -/
def sliceGuard (g : Guard) : Bool := guardTrue g (Thread.create 0)

/-- The values of all the operands of a slice word, each half of a pair on its own. -/
def sliceSrcs (sl : Slice) (ops : List (Src × Bool)) : Option (List (List VVal)) :=
  ops.mapM fun o =>
    match o.1, o.2 with
    | .v n, true => do
      let lo ← sliceSrc sl (.v n)
      if h : n.val + 1 < 96 then
        let hi ← sliceSrc sl (.v ⟨n.val + 1, h⟩)
        pure [lo, hi]
      else none
    | x, true => do
      let v ← sliceSrc sl x
      pure [v, v]
    | x, false => do
      let v ← sliceSrc sl x
      pure [v]

/-- The value of an all-U operand. -/
def uValue : List VVal → Option DWord
  | [.u w] => some (w.zeroExtend 64)
  | [.u lo, .u hi] => some (DWord.ofWords lo hi)
  | _ => none

/-- A slice runs an ALU word by its tags; a result that would be G fails the launch (R187). -/
def State.sliceAlu (s : State) (g : Nat) (i : Instr) (a : AluWord) : State :=
  let x := s.grp g
  if !sliceGuard (headPart i).guard then s.sliceNext g
  else
    match (if a.dst.all (fun n => decide (n < 16)) then sliceSrcs x.slice (sources i) else none) with
    | none => s.sliceFail g
    | some ops =>
      let res : Option (List VVal) :=
        match ops.mapM uValue with
        | some vs =>
          let o := (a.f x { g, t := 0, sh := false } (Thread.create 0) vs).val
          some (match a.dst with
            | [_] => [VVal.u o.lo]
            | _ => [VVal.u o.lo, VVal.u o.hi])
        | none => match a.dst with
          | [_] => (a.tag (ops.map fun o => o.headD (.u 0))).map fun v => [v]
          | _ => none
      match res with
      | none => s.sliceFail g
      | some vs =>
        (s.modGroup g fun x => { x with slice := { x.slice with
          v := (List.zip a.dst vs).foldl (fun m e => m.set e.1 e.2) x.slice.v } }).sliceNext g

/-- The meaning of a word both slices may run (R75). -/
def runBoth (i : Instr) (a : AluWord) (s : State) : Host.Outcome State Fault Refusal :=
  match s.cur with
  | .slice g => if (s.group? g).isSome then .next (s.sliceAlu g i a) else .fault .noAgent
  | .gang _ | .none => runAlu i a s

end Sys2Proof.Machine
end

