-- ==== Sys2Proof/Machine/Integer.lean ====
section
/-! DEFINITION. Family 000: integer arithmetic, logic, shifts, bit fields, compares, predicates and moves (R109 to R122), and
the shape words (R123 to R125). -/

namespace Sys2Proof.Machine

open Sys2Proof

/-! ### Values (R110) -/

def wid (w : Bool) : Nat := if w then 64 else 32

/-- Val(x): an operand as an integer. -/
def valOf (w sg : Bool) (x : DWord) : Int :=
  if sg then (BitVec.ofNat (wid w) x.toNat).toInt else ((x.toNat % 2 ^ wid w : Nat) : Int)

/-- The low w bits of an integer. -/
def fit (w : Bool) (v : Int) : DWord := BitVec.ofNat 64 (v % (2 ^ wid w : Int)).toNat

/-- Clip of R110. -/
def clip (w sg : Bool) (v : Int) : DWord := fit w (min (max v (intLo (wid w) sg)) (intHi (wid w) sg))

def nat1 (w : Bool) (vs : List DWord) (i : Nat) : Nat := (vs.getD i 0).toNat % 2 ^ wid w

/-- A pure ALU word on operand values. -/
def pureWord (dst : List Nat) (tag : TagFn) (sym : SymRule) (f : List DWord → DWord) : AluWord :=
  { dst, f := fun _ _ _ vs => .ofVal (f vs), tag, sym, neverU := false }

def op2 (w sg sat : Bool) (f : Int → Int → Int) (vs : List DWord) : DWord :=
  let v := f (valOf w sg (vs.getD 0 0)) (valOf w sg (vs.getD 1 0))
  if sat then clip w sg v else fit w v

/-- A plain tag rule holds only without `.sat` and for 32-bit writes. -/
def tagIf (p : Bool) (t : TagFn) : TagFn := if p then t else noTag

/-! ### Arithmetic (R111) -/

def execIadd (h : Head) (x : Alu2) : State → Host.Outcome State Fault Refusal :=
  runBoth (.iadd h x) (pureWord (regsW x.d x.w) (tagIf (!x.sat) addTag) (if x.sat then .other else .addInt false x.w)
    (op2 x.w x.sg x.sat (· + ·)))

def execIsub (h : Head) (x : Alu2) : State → Host.Outcome State Fault Refusal :=
  runBoth (.isub h x) (pureWord (regsW x.d x.w) (tagIf (!x.sat) subTag) (if x.sat then .other else .addInt true x.w)
    (op2 x.w x.sg x.sat (· - ·)))

def execImul (h : Head) (x : Alu2) : State → Host.Outcome State Fault Refusal :=
  runBoth (.imul h x) (pureWord (regsW x.d x.w) mulTag .other (op2 x.w false false (· * ·)))

def execImulh (h : Head) (x : Alu2) : State → Host.Outcome State Fault Refusal :=
  runAlu (.imulh h x) (pureWord (regsW x.d x.w) noTag .other fun vs =>
    fit x.w (valOf x.w x.sg (vs.getD 0 0) * valOf x.w x.sg (vs.getD 1 0) / (2 ^ wid x.w : Int)))

def execImad (h : Head) (x : Alu3) : State → Host.Outcome State Fault Refusal :=
  runAlu (.imad h x) (pureWord (regsW x.d x.w) noTag .other fun vs =>
    fit x.w ((nat1 x.w vs 0 * nat1 x.w vs 1 + nat1 x.w vs 2 : Nat) : Int))

def execImadw (h : Head) (x : Alu3) : State → Host.Outcome State Fault Refusal :=
  runAlu (.imadw h x) (pureWord (regsW x.d true) noTag .other fun vs =>
    fit true (valOf false x.sg (vs.getD 0 0) * valOf false x.sg (vs.getD 1 0) + (vs.getD 2 0).toNat))

def execIneg (h : Head) (x : Alu1) : State → Host.Outcome State Fault Refusal :=
  runAlu (.ineg h x) (pureWord (regsW x.d x.w) (tagIf (!x.sat) negTag) .other fun vs =>
    let v := -valOf x.w true (vs.getD 0 0)
    if x.sat then clip x.w true v else fit x.w v)

def execIabs (h : Head) (x : Alu1) : State → Host.Outcome State Fault Refusal :=
  runAlu (.iabs h x) (pureWord (regsW x.d x.w) noTag .other fun vs =>
    let v := ((valOf x.w true (vs.getD 0 0)).natAbs : Int)
    if x.sat then clip x.w true v else fit x.w v)

def execImin (h : Head) (x : Alu2) : State → Host.Outcome State Fault Refusal :=
  runAlu (.imin h x) (pureWord (regsW x.d x.w) noTag .other (op2 x.w x.sg false min))

def execImax (h : Head) (x : Alu2) : State → Host.Outcome State Fault Refusal :=
  runAlu (.imax h x) (pureWord (regsW x.d x.w) noTag .other (op2 x.w x.sg false max))

def execLea (h : Head) (x : LeaF) : State → Host.Outcome State Fault Refusal :=
  runBoth (.lea h x) (pureWord (regsW x.d x.w) (leaTag x.sh.val) .other fun vs =>
    fit x.w (nat1 x.w vs 0 + valOf false x.sg (vs.getD 1 0) * 2 ^ x.sh.val))

/-! ### Logic, shifts and bit fields (R112, R113) -/

def logic2 (w : Bool) (f : Nat → Nat → Nat) (vs : List DWord) : DWord :=
  BitVec.ofNat 64 (f (nat1 w vs 0) (nat1 w vs 1) % 2 ^ wid w)

def execAnd (h : Head) (x : Alu2) : State → Host.Outcome State Fault Refusal :=
  runAlu (.and h x) (pureWord (regsW x.d x.w) noTag .other (logic2 x.w (· &&& ·)))

def execOr (h : Head) (x : Alu2) : State → Host.Outcome State Fault Refusal :=
  runAlu (.or h x) (pureWord (regsW x.d x.w) noTag .other (logic2 x.w (· ||| ·)))

def execXor (h : Head) (x : Alu2) : State → Host.Outcome State Fault Refusal :=
  runAlu (.xor h x) (pureWord (regsW x.d x.w) noTag .other (logic2 x.w (· ^^^ ·)))

def execAndn (h : Head) (x : Alu2) : State → Host.Outcome State Fault Refusal :=
  runAlu (.andn h x) (pureWord (regsW x.d x.w) noTag .other (logic2 x.w fun a b => a &&& (2 ^ wid x.w - 1 - b)))

/-- Each result bit is picked by the operand bits (R113). -/
def execBool3 (h : Head) (x : Bool3F) : State → Host.Outcome State Fault Refusal :=
  runAlu (.bool3 h x) (pureWord (regsW x.d x.w) noTag .other fun vs =>
    BitVec.ofNat 64 (((List.range (wid x.w)).map fun i =>
      b2n (x.tt.getLsbD (4 * b2n (natBit (nat1 x.w vs 0) i) + 2 * b2n (natBit (nat1 x.w vs 1) i) +
        b2n (natBit (nat1 x.w vs 2) i))) * 2 ^ i).sum))

def shlBits (w : Bool) (a s : Nat) : DWord := if wid w ≤ s then 0 else BitVec.ofNat 64 (a * 2 ^ s % 2 ^ wid w)

def shrBits (w sg : Bool) (a : DWord) (s : Nat) : DWord :=
  if sg then fit w (valOf w true a / (2 ^ min s (wid w - 1) : Int))
  else if wid w ≤ s then 0 else BitVec.ofNat 64 (a.toNat % 2 ^ wid w / 2 ^ s)

def rotBits (w : Bool) (a s : Nat) : DWord :=
  let k := s % wid w
  BitVec.ofNat 64 ((a * 2 ^ k + a / 2 ^ (wid w - k)) % 2 ^ wid w)

def amount (vs : List DWord) (i : Nat) : Nat := (vs.getD i 0).toNat % 2 ^ 32

def execShl (h : Head) (x : Alu2) : State → Host.Outcome State Fault Refusal :=
  runBoth (.shl h x) (pureWord (regsW x.d x.w) shlTag .other fun vs => shlBits x.w (nat1 x.w vs 0) (amount vs 1))

def execShr (h : Head) (x : Alu2) : State → Host.Outcome State Fault Refusal :=
  runAlu (.shr h x) (pureWord (regsW x.d x.w) noTag .other fun vs => shrBits x.w x.sg (vs.getD 0 0) (amount vs 1))

def execRot (h : Head) (x : Alu2) : State → Host.Outcome State Fault Refusal :=
  runAlu (.rot h x) (pureWord (regsW x.d x.w) noTag .other fun vs => rotBits x.w (nat1 x.w vs 0) (amount vs 1))

def execFshl (h : Head) (x : Alu3) : State → Host.Outcome State Fault Refusal :=
  runAlu (.fshl h x) (pureWord (regsW x.d x.w) noTag .other fun vs =>
    let W := wid x.w
    BitVec.ofNat 64 (((nat1 x.w vs 0 * 2 ^ W + nat1 x.w vs 1) * 2 ^ (amount vs 2 % W)) / 2 ^ W % 2 ^ W))

/-- Position and length of a field: bits [7:0] of each operand, the length cut at the register's end (R112). -/
def fieldPos (vs : List DWord) : Nat := (vs.getD 1 0).toNat % 256
def fieldLen (w : Bool) (vs : List DWord) : Nat := min ((vs.getD 2 0).toNat % 256) (wid w - fieldPos vs)

def bfxBits (w sg : Bool) (vs : List DWord) : DWord :=
  let n := fieldLen w vs
  let f := nat1 w vs 0 / 2 ^ fieldPos vs % 2 ^ n
  if wid w ≤ fieldPos vs ∨ n = 0 then 0
  else if sg && natBit f (n - 1) then fit w ((f : Int) - 2 ^ n) else BitVec.ofNat 64 f

def bfiBits (w : Bool) (vs : List DWord) : DWord :=
  let n := fieldLen w vs
  let p := fieldPos vs
  let e := nat1 w vs 3
  if wid w ≤ p ∨ n = 0 then BitVec.ofNat 64 e
  else BitVec.ofNat 64 (e % 2 ^ p + nat1 w vs 0 % 2 ^ n * 2 ^ p + e / 2 ^ (p + n) * 2 ^ (p + n))

def execBfx (h : Head) (x : Alu3) : State → Host.Outcome State Fault Refusal :=
  runAlu (.bfx h x) (pureWord (regsW x.d x.w) noTag .other (bfxBits x.w x.sg))

def execBfi (h : Head) (x : Alu4) : State → Host.Outcome State Fault Refusal :=
  runAlu (.bfi h x) (pureWord (regsW x.d x.w) noTag .other (bfiBits x.w))

def bitsOf (w : Bool) (a : Nat) : List Bool := (List.range (wid w)).map (natBit a)
def bitsNat (l : List Bool) : Nat := l.foldr (fun b n => b2n b + 2 * n) 0

def execBrev (h : Head) (x : Alu1) : State → Host.Outcome State Fault Refusal :=
  runAlu (.brev h x) (pureWord (regsW x.d x.w) noTag .other fun vs =>
    BitVec.ofNat 64 (bitsNat (bitsOf x.w (nat1 x.w vs 0)).reverse))

def execPopc (h : Head) (x : Alu1) : State → Host.Outcome State Fault Refusal :=
  runAlu (.popc h x) (pureWord [x.d.val] noTag .other fun vs =>
    BitVec.ofNat 64 ((bitsOf x.w (nat1 x.w vs 0)).filter id).length)

def execClz (h : Head) (x : Alu1) : State → Host.Outcome State Fault Refusal :=
  runAlu (.clz h x) (pureWord [x.d.val] noTag .other fun vs => BitVec.ofNat 64 (wid x.w - bitLen (nat1 x.w vs 0)))

def execCtz (h : Head) (x : Alu1) : State → Host.Outcome State Fault Refusal :=
  runAlu (.ctz h x) (pureWord [x.d.val] noTag .other fun vs =>
    BitVec.ofNat 64 ((bitsOf x.w (nat1 x.w vs 0)).takeWhile (!·)).length)

/-! ### Compares and selects (R115, R116) -/

def execIcmp (h : Head) (x : IcmpF) : State → Host.Outcome State Fault Refusal :=
  let cond := fun (vs : List DWord) => icondHolds x.cond (wid x.w) (vs.getD 0 0) (vs.getD 1 0)
  runAlu (.icmp h x)
    { dst := [], tag := noTag, neverU := false,
      f := fun _ _ th vs => { val := 0, fl := 0, preds := comparePreds x.pa x.pb (cond vs) (th.pred x.pc.val) },
      sym := .cmp (.int x.cond x.w) x.w x.pc fun _ vs => cond vs }

def execIsel (h : Head) (x : IselF) : State → Host.Outcome State Fault Refusal :=
  runAlu (.isel h x)
    { dst := regsW x.d x.w, tag := noTag, neverU := true, sym := .other,
      f := fun _ _ th vs => .ofVal (if th.pred x.pc.val then vs.getD 0 0 else vs.getD 1 0) }

/-! ### Immediate forms (R114) -/

def immWord (imm : BitVec 25) : Word := imm.signExtend 32

/-- An immediate counts as a second U source (R29). -/
def immTag (t : TagFn) (w : Word) : TagFn
  | [x] => t [x, .u w]
  | _ => none

def immOp (x : AluImm) (tag : TagFn) (sym : SymRule) (f : DWord → DWord → DWord) : AluWord :=
  pureWord [x.d.val] (immTag tag (immWord x.imm)) sym fun vs => f (vs.getD 0 0) ((immWord x.imm).zeroExtend 64)

def execIaddImm (h : Head) (x : AluImm) : State → Host.Outcome State Fault Refusal :=
  runBoth (.iaddImm h x) (immOp x addTag (.addConst ((immWord x.imm).zeroExtend 64)) fun a b => fit false (a.toNat + b.toNat))

def execIsubImm (h : Head) (x : AluImm) : State → Host.Outcome State Fault Refusal :=
  runBoth (.isubImm h x) (immOp x subTag (.addConst (-((immWord x.imm).zeroExtend 64))) fun a b => fit false (a.toNat - b.toNat))

def execImulImm (h : Head) (x : AluImm) : State → Host.Outcome State Fault Refusal :=
  runBoth (.imulImm h x) (immOp x mulTag .other fun a b => fit false (a.toNat * b.toNat))

def execIminImm (h : Head) (x : AluImm) : State → Host.Outcome State Fault Refusal :=
  runAlu (.iminImm h x) (immOp x noTag .other fun a b => fit false (min (valOf false true a) (valOf false true b)))

def execImaxImm (h : Head) (x : AluImm) : State → Host.Outcome State Fault Refusal :=
  runAlu (.imaxImm h x) (immOp x noTag .other fun a b => fit false (max (valOf false true a) (valOf false true b)))

def execAndImm (h : Head) (x : AluImm) : State → Host.Outcome State Fault Refusal :=
  runAlu (.andImm h x) (immOp x noTag .other (· &&& ·))

def execOrImm (h : Head) (x : AluImm) : State → Host.Outcome State Fault Refusal :=
  runAlu (.orImm h x) (immOp x noTag .other (· ||| ·))

def execXorImm (h : Head) (x : AluImm) : State → Host.Outcome State Fault Refusal :=
  runAlu (.xorImm h x) (immOp x noTag .other (· ^^^ ·))

def shiftOp (x : ShiftImm) (tag : TagFn) (f : DWord → DWord) : AluWord :=
  pureWord [x.d.val] (immTag tag (BitVec.ofNat 32 x.amt.val)) .other fun vs => f (vs.getD 0 0)

def execShlImm (h : Head) (x : ShiftImm) : State → Host.Outcome State Fault Refusal :=
  runBoth (.shlImm h x) (shiftOp x shlTag fun a => shlBits false (a.toNat % 2 ^ 32) x.amt.val)

def execShrImm (h : Head) (x : ShiftImm) : State → Host.Outcome State Fault Refusal :=
  runAlu (.shrImm h x) (shiftOp x noTag fun a => shrBits false x.sg a x.amt.val)

def execRotImm (h : Head) (x : ShiftImm) : State → Host.Outcome State Fault Refusal :=
  runAlu (.rotImm h x) (shiftOp x noTag fun a => rotBits false (a.toNat % 2 ^ 32) x.amt.val)

/-! ### Predicates (R117, R118) -/

def execPlog (h : Head) (x : PlogF) : State → Host.Outcome State Fault Refusal :=
  runAlu (.plog h x)
    { dst := [], tag := noTag, neverU := false, sym := .other,
      f := fun _ _ th _ => { val := 0, fl := 0, preds := [(x.pd.val,
        x.tt.getLsbD (4 * b2n (th.pred x.pa.val) + 2 * b2n (th.pred x.pb.val) + b2n (th.pred x.pc.val)))] } }

def execPmovGet (h : Head) (d : Fin 96) : State → Host.Outcome State Fault Refusal :=
  runAlu (.pmovGet h d)
    { dst := [d.val], tag := noTag, neverU := true, sym := .other,
      f := fun _ _ th _ => .ofVal (BitVec.ofNat 64 (th.preds.toNat + 2 ^ 31)) }

def execPmovSet (h : Head) (a b : Src) : State → Host.Outcome State Fault Refusal :=
  runAlu (.pmovSet h a b)
    { dst := [], tag := noTag, neverU := false, sym := .other,
      f := fun _ _ _ vs => { val := 0, fl := 0, preds :=
        ((List.range 31).filter fun i => (vs.getD 1 0).getLsbD i).map fun i => (i, (vs.getD 0 0).getLsbD i) } }

/-! ### Moves (R119, R120) -/

def execMov (h : Head) (x : MovF) : State → Host.Outcome State Fault Refusal :=
  runBoth (.mov h x) (pureWord (regsW x.d x.w) movTag (.copy x.w) fun vs => vs.getD 0 0)

def execMovi (h : Head) (d : Fin 96) (imm : BitVec 25) : State → Host.Outcome State Fault Refusal :=
  runBoth (.movi h d imm) (pureWord [d.val] noTag .other fun _ => (immWord imm).zeroExtend 64)

def execMovi32 (h : Head) (d : Fin 96) (imm : Word) : State → Host.Outcome State Fault Refusal :=
  runBoth (.movi32 h d imm) (pureWord [d.val] noTag .other fun _ => imm.zeroExtend 64)

/-- `%gstat` (R44). -/
def State.gstat (s : State) (g : Nat) : Nat :=
  let x := s.grp g
  x.live.length * 65536 + b2n x.mirr * 2048 + b2n x.prot * 1024 + b2n x.fair * 512 +
    min 31 (s.groupPcs g).length * 16 + b2n x.ser

/-- A special register as a thread reads it (R43). -/
def State.sreg (s : State) (l : Lane) (r : SReg) : DWord :=
  let g := s.grp l.g
  let th := s.thread l
  let c := (s.crew? g.crew).getD default
  match r with
  | .tid => BitVec.ofNat 64 l.t
  | .gid => BitVec.ofNat 64 g.gid
  | .cid => BitVec.ofNat 64 g.cid
  | .width => BitVec.ofNat 64 g.width
  | .col => BitVec.ofNat 64 (g.colOf l)
  | .core => BitVec.ofNat 64 (coreSite g.core)
  | .clu => BitVec.ofNat 64 (coreSite g.core / 24)
  | .die => BitVec.ofNat 64 (coreDie g.core)
  | .clk => BitVec.ofNat 64 s.clk
  | .dclk => BitVec.ofNat 64 (s.dclk (coreDie g.core))
  | .gstat => BitVec.ofNat 64 (s.gstat l.g)
  | .fst => th.fst.zeroExtend 64
  | .fmode => th.fmode.zeroExtend 64
  | .smf => th.smf.zeroExtend 64
  | .rstat => th.rstat.zeroExtend 64
  | .exc => th.exc
  | .trap => th.trap.zeroExtend 64
  | .faddr => th.faddr
  | .itb => c.itb.zeroExtend 64
  | .ite => c.ite.zeroExtend 64
  | .fix => c.fix.zeroExtend 64

/-- Is a special register read as G (R43)? -/
def sregIsG : SReg → Bool
  | .col | .clk | .dclk | .fst | .fmode | .smf | .rstat | .exc | .trap | .faddr => true
  | _ => false

def execMovs (h : Head) (d : Fin 96) (r : SReg) (s : State) : Host.Outcome State Fault Refusal :=
  runAlu (.movs h d r)
    { dst := regsW d r.wide, neverU := sregIsG r, sym := .other,
      tag := fun _ => if r = .tid then some (.a 0 1) else none,
      f := fun _ l _ _ => .ofVal (s.sreg l r) } s

/-- What MOVSW leaves in a thread; nothing for a value that faults (R120, R44). -/
def Thread.movsw (th : Thread) (r : SReg) (v : DWord) : Option Thread :=
  let w := v.lo
  match r with
  | .fst => some { th with fst := th.fst &&& ~~~w }
  | .fmode => if 4 < natField w.toNat 0 3 then none else some { th with fmode := w &&& 0xFF07 }
  | .smf => some { th with smf := w &&& 0xF0F }
  | .exc => some { th with exc := v }
  | _ => none

/-- MOVSW, in the shadow on its own operands. A value that faults was popped where it came from a queue (log entry 57). -/
def execMovsw (h : Head) (r : SReg) (b : Src) : State → Host.Outcome State Fault Refusal :=
  let i := Instr.movsw h r b
  runWord i true fun c act s =>
    let (ins, s) := s.gather c i act
    some (ins.foldl (fun s e =>
      let l := e.1
      if s.shadowLeft c l then s
      else match (s.thread l).movsw r (e.2.getD 0 0) with
      | none => if l.sh then s else s.plainFault c l .illegalEnc
      | some th =>
        let s := s.modThread l fun _ => th
        s.trackLane i { dst := [], f := fun _ _ _ _ => .ofVal 0, tag := noTag, sym := .other, neverU := false } l e.2) s)

/-! ### ELECT and rejoin masks (R121, R122) -/

/-- One group elects its issuing thread with the lowest `%tid`. -/
def State.electGroup (s : State) (pd : Fin 32) (d : Option (Fin 96)) (p : Lane) (ls : List Lane) : State :=
  let both := ls ++ (if (s.grp p.g).prot then ls.map Lane.shadow else [])
  let s := both.foldl (fun s l => s.modThread l fun th => (th.setPred pd.val (l.t == p.t)).noteWrite (optReg d)) s
  match d with
  | none => s
  | some d =>
    let w : Word := BitVec.ofNat 32 p.t
    let whole := wholeGroup (s.grp p.g) ls
    let put := fun (sh : Bool) (g : Group) =>
      if whole then g.putV sh d.val (.u w) else g.putG sh d.val (ls.map fun l => (l.t, w))
    s.modGroup p.g fun g => if g.prot then put true (put false g) else put false g

def execElect (h : Head) (pd : Fin 32) (d : Option (Fin 96)) : State → Host.Outcome State Fault Refusal :=
  runWord (.elect h pd d) false fun _ act s =>
    some ((performers act).foldl (fun s e => s.electGroup pd d e.1 e.2) s)

/-- The bits of a rejoin mask below the group's width (R32). -/
def Group.maskBits (g : Group) (v : DWord) : DWord := v &&& BitVec.ofNat 64 (2 ^ g.width - 1)

def execMovjToJ (h : Head) (jd : Fin 8) (a : Src) : State → Host.Outcome State Fault Refusal :=
  let i := Instr.movjToJ h jd a
  runWord i false fun c act s =>
    let (ins, s) := s.gather c i act
    let s := ins.foldl (fun s e => s.popShadow e.1 (sources i)) s
    some ((performers (ins.map Prod.fst)).foldl (fun s e =>
      match ins.find? fun x => x.1 == e.1 with
      | some x => s.modGroup e.1.g fun g => { g with j := g.j.set jd.val (g.maskBits (x.2.getD 0 0)) }
      | none => s) s)

def execMovjToV (h : Head) (d : Fin 96) (jm : Fin 8) : State → Host.Outcome State Fault Refusal :=
  runAlu (.movjToV h d jm)
    { dst := regsW d true, tag := noTag, neverU := false, sym := .other,
      f := fun g _ _ _ => .ofVal (g.j.get 0 jm.val) }

/-! ### Shape words (R123 to R125) -/

/-- The tag code of an operand (R123). -/
def shapeCode (g : Group) (sh : Bool) (a : Src) : Nat := (srcShape g sh a).code

/-- SHAPE.Q is U whenever it is whole-group, whatever the tag it reads. -/
def execShapeQ (h : Head) (d : Fin 96) (a : Src) (s : State) : Host.Outcome State Fault Refusal :=
  runAlu (.shapeQ h d a)
    { dst := [d.val], neverU := false, sym := .other,
      tag := fun l => match l with
        | v :: _ => some (.u (BitVec.ofNat 32 v.code))
        | [] => none,
      f := fun g l _ _ => .ofVal (BitVec.ofNat 64 (shapeCode g l.sh a)) } s

/-- A use of a tagged value by SHAPE.G: its register is written untagged and the region is untrackable (R220). -/
def State.shapeUses (s : State) (l : Lane) (d : Nat) : State :=
  if ((s.grp l.g).vreg l.sh d).val.code == 2 then s
  else s.modThread l fun th =>
    { th with region := th.region.map fun r =>
        { r with untrackable := r.untrackable || r.touches (.v (Fin.ofNat 96 d), false), tags := r.tags.filter fun e => !(e.1 == d || (e.2.wide && e.1 + 1 == d)) } }

/-- SHAPE.G: every thread keeps what it read, now as G; a G register stays as it is (R124). -/
def execShapeG (h : Head) (d : Fin 96) : State → Host.Outcome State Fault Refusal :=
  runWord (.shapeG h d) true fun _ act s =>
    let s := act.foldl (fun s l => s.shapeUses l d.val) s
    some ((groupsOf act).foldl (fun s g => s.modGroup g fun x =>
      let x := if (act.any fun l => l.g == g && !l.sh) then x.putG false d.val [] else x
      if (act.any fun l => l.g == g && l.sh) then x.putG true d.val [] else x) s)

def execAff (h : Head) (d : Fin 96) (a b : Src) : State → Host.Outcome State Fault Refusal :=
  runAlu (.aff h d a b)
    { dst := [d.val], neverU := true, sym := .other,
      tag := fun l => match l with
        | [.u x, .u y] => some (.a x y)
        | _ => none,
      f := fun _ l _ vs => .ofVal (fit false ((vs.getD 0 0).toNat + l.t * (vs.getD 1 0).toNat)) }

end Sys2Proof.Machine
end

