-- ==== Sys2Proof/Machine/Order.lean ====
section
/-! DEFINITION. When an access in flight may be performed and when a release or an acquire is through (R278, R281, R282, R283,
R288; log entry 8). -/

namespace Sys2Proof.Machine

open Sys2Proof

/-! ### Accesses of one thread (R277, R278) -/

/-- Do two stretches of one sort of place share a byte? -/
def spaceOverlap (a : Space) (n : Nat) (b : Space) (m : Nat) : Bool :=
  match a, b with
  | .phys p, .phys q => decide (p < q + m) && decide (q < p + n)
  | .aper g p, .aper h q => g == h && decide (p < q + m) && decide (q < p + n)
  | .win c w p, .win d v q => c == d && w == v && decide (p < q + m) && decide (q < p + n)
  | _, _ => false

/-- Do two accesses share a byte? A byte of a window is the byte of memory behind it. -/
def State.overlap (s : State) (a : Space) (n : Nat) (b : Space) (m : Nat) : Bool :=
  spaceOverlap a n b m || spaceOverlap (s.memOf a) n (s.memOf b) m

def MOrd.acquires : MOrd → Bool
  | .acq | .ar => true
  | .rlx | .rel => false

def MOrd.releases : MOrd → Bool
  | .rel | .ar => true
  | .rlx | .acq => false

/-- Does the access take a value? -/
def OpKind.isRead : OpKind → Bool
  | .load _ _ _ | .atom _ _ _ | .acas _ _ | .bld _ | .smld _ => true
  | .store | .signal _ | .smst => false

/-- Is it LD? -/
def OpKind.plainLoad : OpKind → Bool
  | .load _ _ i => i.isNone
  | .store | .atom _ _ _ | .acas _ _ | .signal _ | .bld _ | .smld _ | .smst => false

/-- Does the instance of a scope that holds a core hold the L2 of a die, its own die's at any scope? -/
def l2Inside (scope : Scope) (core die : Nat) : Bool := die == coreDie core || scopeContains scope core (96 * die)

/-- Is every copy a write must have invalidated gone inside the writer's instance of a scope (R270)? -/
def Sector.clearFor (x : Sector) (scope : Scope) (core : Nat) : Bool :=
  !(x.stale.any fun e => scopeContains scope core e.1) && !x.l2stale.any fun d => l2Inside scope core d.1

/-- Accesses of a lane still to be performed, before a number. -/
def State.before (s : State) (l : Lane) (id : Nat) : List MemOp :=
  (s.ops.filter fun e => decide (e.1 < id) && e.2.lane == l && e.2.live).map Prod.snd

/-- Has every access of a lane been performed? -/
def State.drained (s : State) (l : Lane) : Bool := !s.ops.any fun e => e.2.lane == l && e.2.live

/-- Has every access of a lane that takes a value taken it? -/
def State.readsDone (s : State) (l : Lane) : Bool :=
  !s.ops.any fun e => e.2.lane == l && e.2.live && e.2.kind.isRead

/-- Is some invalidation still on its way to a cache inside a core's instance of a scope (R270)? -/
def State.staleIn (s : State) (scope : Scope) (core : Nat) : Bool :=
  s.sectors.any fun e => (e.2.stale.any fun c => scopeContains scope core c.1) ||
    e.2.l2stale.any fun d => l2Inside scope core d.1

/-- Is everything before an early store performed by now? -/
def State.needsDone (s : State) (r : EarlyRel) : Bool := r.needs.all fun n => (s.before n.1 n.2).isEmpty

/-- Is what the stores of others rest on, which a lane has read, performed by now, so that a release of the lane may publish it (R285)? -/
def State.observedDone (s : State) (l : Lane) : Bool :=
  s.rels.all fun r => !(r.readers.any fun e => e.1 == l) || s.needsDone r

/-- Is everything before a release of a lane at a scope performed there, what it has read included (R175, R282, R285)? -/
def State.releasable (s : State) (l : Lane) (scope : Scope) : Bool :=
  s.drained l && !s.staleIn scope (s.grp l.g).core && s.observedDone l

/-- Is what an early store rests on performed by now, where its scope says if it is a release (R282)? -/
def State.relDone (s : State) (r : EarlyRel) : Bool := s.needsDone r && !(r.rel && s.staleIn r.scope r.core)

/-- Does an early release synchronise with an acquire of another lane at a scope, if it reads the release (R282)? -/
def EarlyRel.meets (r : EarlyRel) (l : Lane) (core : Nat) (scope : Scope) : Bool :=
  r.rel && r.lane != l && scopeContains r.scope r.core core && scopeContains scope core r.core

/-- Has an acquire of a core at a scope an early release to wait for: would it read one, or its release sequence (R282)? -/
def State.relWaits (s : State) (l : Lane) (core : Nat) (scope : Scope) (sp : Space) (n : Nat) : Bool :=
  s.rels.any fun r => r.meets l core scope && r.last && s.overlap r.space r.size sp n && !s.relDone r

/-- The narrower of two scopes. -/
def narrower (a b : Scope) : Scope := if scopeCode a ≤ scopeCode b then a else b

/-- An acquire that is no access waits for every early release its thread has read, at the narrower of the read's scope and its own
(R282). -/
def State.relsWait (s : State) (l : Lane) (scope : Scope) : Bool :=
  let core := (s.grp l.g).core
  s.rels.any fun r => (r.readers.any fun e => e.1 == l && r.meets l core (narrower e.2 scope)) && !s.relDone r

/-- The accesses of its thread that an access stands behind: earlier words' (R277). -/
def State.ahead (s : State) (id : Nat) (o : MemOp) : List MemOp := (s.before o.lane id).filter fun x => x.word != o.word

/-- Does the operation write memory? -/
def TileOp.writes (o : TileOp) : Bool :=
  match o.kind with
  | .tsv | .tsum _ | .qcv _ => true
  | .tldZ | .tldY | .ptld => false

/-- Is a tile operation's store to the same bytes, earlier in the order of its performer, still to be performed (R278, R290)? -/
def State.tileAhead (s : State) (l : Lane) (id : Nat) (sp : Space) (n : Nat) : Bool :=
  (s.core (s.grp l.g).core).tops.any fun o =>
    o.writes && decide (o.id < id) && lowest o.lanes == some l && o.places.any fun e => s.overlap e.2.space 64 sp n

/-- Is a read answered by its core's own copy that an invalidation has not reached (R270)? -/
def State.readsOld (s : State) (o : MemOp) : Bool :=
  match o.kind, o.space with
  | .load _ _ _, .phys pa | .bld _, .phys pa | .smld _, .phys pa => ((s.sector (pa / 64)).stale.find? o.core).isSome
  | _, _ => false

/-- May an access be performed as far as its own thread's order goes: same bytes and acquires (R278, R281, R282)? -/
def State.opReady (s : State) (id : Nat) (o : MemOp) : Bool :=
  ((s.ahead id o).all fun x => !s.overlap x.space x.size o.space o.size && !(MOrd.acquires x.ord && x.kind.isRead)) &&
  !s.tileAhead o.lane id o.space o.size &&
  !(MOrd.acquires o.ord && o.kind.isRead && !s.readsOld o && s.relWaits o.lane o.core o.scope o.space o.size)

/-- Does an ACAS find another value than the one it compares with, so that it is a load (R276)? -/
def State.acasFails (s : State) (o : MemOp) : Bool :=
  match o.kind with
  | .acas _ _ => (s.spaceRead o.space o.size).1 != o.data.take o.size
  | .load _ _ _ | .store | .atom _ _ _ | .signal _ | .bld _ | .smld _ | .smst => false

/-- Has an access no release to make, or is what it releases performed (R281, R282)? -/
def State.relReady (s : State) (id : Nat) (o : MemOp) : Bool :=
  !MOrd.releases o.ord || s.acasFails o || ((s.ahead id o).isEmpty && !s.staleIn o.scope o.core && s.observedDone o.lane)

/-- What an access rests on as it is performed: what its thread has not performed before it and, for a release, what the stores rest on
that the thread has read (R285). -/
def State.needsOf (s : State) (id : Nat) (o : MemOp) : List (Lane × Nat) :=
  (if (s.ahead id o).isEmpty then [] else [(o.lane, id)]) ++
  (if MOrd.releases o.ord then ((s.rels.filter fun r => r.readers.any fun e => e.1 == o.lane).map fun r => r.needs).flatten else [])

/-- Early stores as an access to their bytes leaves them: a relaxed read of another thread has read them, and a plain store ends them. -/
def EarlyRel.after (o : MemOp) (old : Bool) (r : EarlyRel) : EarlyRel :=
  { r with readers := if r.last && o.kind.isRead && !old && r.lane != o.lane && !r.readers.contains (o.lane, o.scope)
             then (o.lane, o.scope) :: r.readers else r.readers,
           last := r.last && (o.kind.isRead || o.kind == .signal true) }

/-- An access that is performed reads or ends the early stores to its bytes, and is remembered where it is a store that comes before
what it rests on (R277, R282, R285). -/
def State.noteEarly (s : State) (id : Nat) (o : MemOp) (s' : State) : State :=
  let old := s.readsOld o
  let needs := if o.kind.plainLoad || s.acasFails o then [] else s.needsOf id o
  let early : Bool := !needs.isEmpty || (MOrd.releases o.ord && !s.relReady id o)
  if s.rels.isEmpty && !early then s'
  else
    let rels := s'.rels.map fun r => if s.overlap r.space r.size o.space o.size then r.after o old else r
    { s' with rels := if early then { lane := o.lane, core := o.core, scope := o.scope, op := id, rel := MOrd.releases o.ord, space := o.space,
                                      size := o.size, last := true, readers := [], needs } :: rels else rels }

/-- The bytes of the thread's own store that a load may take before the store is visible to others: the latest access before it to
common bytes is a store of all of them (R278, R286). -/
def State.forwards (s : State) (id : Nat) (o : MemOp) : Option (List Byte) :=
  let e := s.ahead id o
  if !o.kind.plainLoad || e.any (fun x => MOrd.acquires x.ord && x.kind.isRead) then none
  else match (e.filter fun x => s.overlap x.space x.size o.space o.size).getLast? with
    | some x => (match x.kind, x.space, o.space with
      | .store, .phys p, .phys q =>
        if p ≤ q ∧ q + o.size ≤ p + x.size then some ((x.data.drop (q - p)).take o.size) else none
      | _, _, _ => none)
    | none => none

/-- May a word that accesses memory at once do so now: no acquire and no access to the same bytes is still to be performed? -/
def State.nowReady (s : State) (l : Lane) (sp : Space) (n : Nat) : Bool :=
  ((s.before l s.nextId).all fun x => !s.overlap x.space x.size sp n && !(MOrd.acquires x.ord && x.kind.isRead)) &&
  !s.tileAhead l s.nextId sp n

/-! ### Fences (R175, R283) -/

/-- Is a store in flight performed as far as a narrower scope goes: its core owns the sector, and every copy inside is invalidated? -/
def State.ownsFor (s : State) (o : MemOp) (scope : Scope) : Bool :=
  match o.space with
  | .phys pa =>
    let x := s.sector (pa / 64)
    !o.kind.isRead && decide (scopeCode scope < scopeCode o.scope) && (s.paKind pa).coherent && x.win.isNone &&
    (x.l1.find? o.core == some .m || x.l1.find? o.core == some .e) && x.clearFor scope o.core
  | .aper _ _ | .win _ _ _ => false

/-- Stores a fence of a scope does not wait for further. -/
def State.fencePasses (s : State) (l : Lane) (scope : Scope) : List Nat :=
  AMap.keys (s.ops.filter fun e => e.2.lane == l && e.2.live && s.ownsFor e.2 scope)

/-- A fence passes them: until they are performed nobody else reaches their sectors. -/
def State.passFence (s : State) (l : Lane) (scope : Scope) : State :=
  (s.fencePasses l scope).foldl (fun s id => { s with ops := s.ops.modify id fun o => { o with fenced := true } }) s

/-- Is every access before a release fence performed at its scope (R175)? A wider store waits no further there (R283). -/
def State.fenceReleases (s : State) (scope : Scope) (l : Lane) : Bool :=
  (s.ops.all fun e => e.2.lane != l || !e.2.live || s.ownsFor e.2 scope) && !s.staleIn scope (s.grp l.g).core && s.observedDone l

/-- Does a store that a fence of another thread has passed hold a sector (R283)? -/
def State.heldFor (s : State) (sec : Nat) (l : Option Lane) : Bool :=
  s.ops.any fun e => e.2.fenced && e.2.live && some e.2.lane != l && (match e.2.space with
    | .phys pa => pa / 64 == sec
    | .aper _ _ | .win _ _ _ => false)

/-- Does an arrival of a thread count: its accesses are performed at the scope and its sealed copies have ended (R134, R176,
R177, R183)? -/
def State.arrived (s : State) (l : Lane) (scope : Scope) : Bool := s.releasable l scope && s.sealedEnded l

/-! ### What an access can reach -/

/-- The address that an unfilled sector of a window is filled from. -/
def State.unfilled (s : State) (sp : Space) : Option Nat :=
  match sp with
  | .phys _ | .aper _ _ => none
  | .win core w off =>
    if ((s.win? core w).bind fun x => x.sectors.find? (off / 64)).isSome then none
    else match s.memOf sp with
      | .phys pa => some pa
      | .aper _ _ | .win _ _ _ => none

/-- What an access to a place has to reach: a place in memory, or what an unfilled sector of a window is filled from; the rest is
there (R257). -/
def State.spaceKind (s : State) (sp : Space) : PaKind :=
  match sp with
  | .phys pa => s.paKind pa
  | .aper _ _ | .win _ _ _ => match s.unfilled sp with
    | some pa => s.paKind pa
    | none => .hbm

/-- What the address behind a place reaches, whatever window stands over it (R174). -/
def State.memKind (s : State) (sp : Space) : PaKind :=
  match s.memOf sp with
  | .phys pa => s.paKind pa
  | .aper _ _ | .win _ _ _ => .hbm

/-- Do the ports between the part and a place work? -/
def State.portOpen (s : State) (sp : Space) : Bool := s.kindOpen (s.spaceKind sp)

/-- Is a place lost to its ports: none of them works, and the bound of some recovery has passed (R394, R395)? -/
def State.placeLost (s : State) (sp : Space) : Bool := s.kindLost (s.spaceKind sp)

/-- Can an engine of a die, or from level 5 an agent outside the package, reach a place in memory now, to read it or to own it: its
ports work, no fence rebuilds what its request needs, and no fenced store holds it (R283, R402, R413)? -/
def State.reachAt (s : State) (lev die : Nat) (own : Bool) (pa : Nat) : Bool :=
  s.portOpen (.phys pa) && !((s.paKind pa).coherent && (s.sector (pa / 64)).win.isNone &&
    ((if 5 ≤ lev then s.homeLost (pa / 64) || (s.sector (pa / 64)).gone.isSome else s.pathLost lev (96 * die) (pa / 64) own) || s.heldFor (pa / 64) none))

/-- Does a dirty sector of a window wait to be written back: for a port, or for what a fence rebuilds (R192, R358, R396, R402)? -/
def State.backWaits (s : State) (core w : Nat) : Bool :=
  match s.win? core w with
  | none => false
  | some x => x.sectors.any fun e => e.2.dirty && (match (s.winPa core w e.1 .wr).1 with
    | .ok pa => !s.kindLost (s.paKind pa) && !(s.kindOpen (s.paKind pa) && !((s.paKind pa).coherent && s.homeLost (pa / 64)))
    | .error _ => false)

/-- Do windows of a group wait so? -/
def State.winsWait (s : State) (g : Nat) (x : Group) : Bool :=
  (s.core x.core).wins.any fun e => e.2.g == g && s.backWaits x.core e.1

/-- Does a request hold a miss-status entry of a slice (R272)? -/
def MemOp.holdsEntry (die slice : Nat) (o : MemOp) : Bool :=
  match o.space with
  | .phys pa => o.live && o.entry && coreDie o.core == die && sliceOf pa == slice
  | .aper _ _ | .win _ _ _ => false

/-- Has a slice no free entry? -/
def State.sliceFull (s : State) (die slice : Nat) : Bool :=
  decide (512 ≤ (s.ops.filter fun e => e.2.holdsEntry die slice).length)

/-- Does another request of a slice stand on its aged list before this one (R273)? -/
def State.agedBefore (s : State) (die slice id : Nat) (since : Option Nat) : Bool :=
  s.ops.any fun e => match e.2.space, e.2.agedAt with
    | .phys pa, some a => e.2.live && e.2.rejected && e.1 != id && coreDie e.2.core == die && sliceOf pa == slice &&
        (match since with
        | some t => decide (a < t) || (a == t && decide (e.1 < id))
        | none => true)
    | _, _ => false

/-- May a request take an entry of its slice now: one is free, and nobody on the aged list comes before it (R273)? -/
def State.entryFree (s : State) (die slice id : Nat) (since : Option Nat) : Bool :=
  !s.sliceFull die slice && !s.agedBefore die slice id since

/-- The same for an access an engine makes from a die, which takes an entry and gives it back in one step, unless the L2 of the die
answers it (R272). -/
def State.engineEntry (s : State) (die : Nat) (own : Bool) (pa : Nat) : Bool :=
  ((s.paKind pa).coherent && decide (s.answerLevel 1 (96 * die) (pa / 64) own ≤ 1)) || s.entryFree die (sliceOf pa) 0 none

/-- May an engine of a die access a place now: it is reached, and a slice has an entry for it (R272)? An unfilled window sector is
filled first (R257). -/
def State.engineMay (s : State) (die : Nat) (own : Bool) (sp : Space) : Bool :=
  match s.unfilled sp with
  | some pa => s.reachAt 1 die false pa && s.engineEntry die false pa
  | none => (match sp with
    | .phys pa => s.reachAt 1 die own pa && s.engineEntry die own pa
    | .aper _ _ | .win _ _ _ => true)


end Sys2Proof.Machine
end

