-- ==== Sys2Proof/Machine/Control.lean ====
section
/-! DEFINITION. Family 001: branches, calls, returns and throws, rejoin masks, YIELD, EXIT and NOP (R126 to R137). A shadow
goes its own way through the transfers, so that the next PCs can be compared (R388); everything else a primary does for
both. -/

namespace Sys2Proof.Machine

open Sys2Proof

/-- Runs a per-lane effect on each lane the gang still holds when its turn comes. -/
def eachHeld (f : Ctx → Lane → State → State) : Effect := fun c act s =>
  some (act.foldl (fun s l => if (s.lanesOfGang c.k).contains l then f c l s else s) s)

/-- A transfer that faults: the primary takes the fault; a shadow alone stays at the word (R388, R389). -/
def State.transferFault (s : State) (c : Ctx) (l : Lane) (f : FaultInfo) : State :=
  if l.sh then s.goTo l c.w else s.faultAt c l f

/-- A transfer: the target is fetched first; then `act` changes the stack and the PC moves (R126). -/
def State.jump (s : State) (c : Ctx) (l : Lane) (target : DWord) (act : State → State) : State :=
  match s.probe l target with
  | (.ok _, s) => (act s).goTo l target
  | (.error f, s) => s.transferFault c l f

/-- STACK, whose address the spec does not state (log entry 6). -/
def State.stackFault (s : State) (c : Ctx) (l : Lane) : State :=
  (s.transferFault c l (s.freeFault .stack)).used 1

/-- The target of a label: w + 8 × OFF32 (R127). -/
def labelAt (w : DWord) (off : Word) : DWord := w + sext64 off * 8

/-- Frames that count toward F: all but the trap frame (R36, R131). -/
def Thread.callFrames (th : Thread) : Nat := (th.frames.filter fun f => !f.ret.getLsbD 0).length

/-- A frame pushed by one lane; a primary's fifth frame spills (R36). -/
def State.pushOwn (s : State) (l : Lane) (f : Frame) : State :=
  let s := s.modThread l fun th => { th with frames := f :: th.frames }
  if l.sh then s else s.spillFrame l

/-- Call of R128: the depth first, then the fetch, then the push. -/
def State.call (s : State) (c : Ctx) (l : Lane) (target pad : DWord) : State :=
  let depth := match s.recOf l.g with
    | some r => r.stkf
    | none => 0
  if (s.thread l).callFrames = depth then s.stackFault c l
  else s.jump c l target fun s => s.pushOwn l { pad, ret := c.ft }

/-- Does the frame that a call of a lane spills wait for a port (R396)? -/
def State.spillWaits (s : State) (l : Lane) : Bool :=
  (s.spillPlace l).any fun sp => !s.portOpen sp && !s.placeLost sp &&
    (s.recOf l.g).any fun r => (s.thread l).callFrames != r.stkf

/-- The effect of a call word, which stalls while a spilled frame cannot leave. -/
def callEffect (f : Ctx → Lane → State → State) : Effect := fun c act s =>
  if act.any fun l => !l.sh && s.spillWaits l then none else eachHeld f c act s

def execBra (h : Head) (off : Word) : State → Host.Outcome State Fault Refusal :=
  runWord (.bra h off) true (eachHeld fun c l s => s.jump c l (labelAt c.w off) id)

def execBrx (h : Head) (r : Fin 96) : State → Host.Outcome State Fault Refusal :=
  runWord (.brx h r) true (eachHeld fun c l s => s.jump c l ((s.grp l.g).readPair l r.val) id)

def execCall (h : Head) (off : Word) : State → Host.Outcome State Fault Refusal :=
  runWord (.call h off) true (callEffect fun c l s => s.call c l (labelAt c.w off) 0)

def execCallx (h : Head) (r : Fin 96) : State → Host.Outcome State Fault Refusal :=
  runWord (.callx h r) true (callEffect fun c l s => s.call c l ((s.grp l.g).readPair l r.val) 0)

def execCallL (h : Head) (off : Word) (pad : BitVec 7) : State → Host.Outcome State Fault Refusal :=
  runWord (.callL h off pad) true
    (callEffect fun c l s => s.call c l (labelAt c.w off) (c.ft + BitVec.ofNat 64 (8 * pad.toNat)))

def execCallxL (h : Head) (r : Fin 96) (off : Word) : State → Host.Outcome State Fault Refusal :=
  runWord (.callxL h r off) true
    (callEffect fun c l s => s.call c l ((s.grp l.g).readPair l r.val) (labelAt c.w off))

/-- RET of one lane (R129). -/
def State.ret (s : State) (c : Ctx) (l : Lane) : State :=
  match (s.thread l).frames with
  | [] => s.stackFault c l
  | f :: r =>
    if f.ret.getLsbD 0 then (if l.sh then s.goTo l (f.ret &&& ~~~1#64) else s.trapReturn l f.ret)
    else s.jump c l f.ret fun s => s.modThread l fun th => { th with frames := r }

def execRet (h : Head) : State → Host.Outcome State Fault Refusal := runWord (.ret h) true (eachHeld fun c l s => s.ret c l)

/-- The frames at and below the topmost frame with a landing pad. -/
def padFrame : List Frame → Option (DWord × List Frame)
  | [] => none
  | f :: r => if f.pad ≠ 0 then some (f.pad, r) else padFrame r

/-- THROW of one lane (R130). -/
def State.throw (s : State) (c : Ctx) (l : Lane) : State :=
  match padFrame (s.thread l).frames with
  | none => s.stackFault c l
  | some (pad, r) => s.jump c l pad fun s => s.modThread l fun th =>
      { th with frames := r, raised := if r.any (fun f => f.ret.getLsbD 0) then th.raised else none }

def execThrow (h : Head) : State → Host.Outcome State Fault Refusal :=
  runWord (.throw h) true (eachHeld fun c l s => s.throw c l)

/-- JARM (R132). -/
def execJarm (h : Head) (j : Fin 8) : State → Host.Outcome State Fault Refusal :=
  runWord (.jarm h j) false (eachLane fun _ l s =>
    s.modGroup l.g fun g => { g with j := g.j.upd 0 j.val (· ||| (1#64 <<< l.t)) })

/-- WAITJ: a thread passes at once while Jn is 0, else it is held (R133); releases are in `State.settle`. -/
def execWaitj (h : Head) (j : Fin 8) : State → Host.Outcome State Fault Refusal :=
  runWord (.waitj h j) false (eachLane fun c l s =>
    if (s.grp l.g).j.get 0 j.val = 0 then s else s.holdAt c l (.waitj j))

/-- YIELD only marks a yield point (R135); `isBlocking` marks it. -/
def execYield (h : Head) : State → Host.Outcome State Fault Refusal := runWord (.yield h) false fun _ _ s => some s

/-- `%trap.KIND` read back (R44). -/
def kindOfBits : Nat → AccKind
  | 1 => .load
  | 2 => .store
  | 3 => .atomic
  | _ => .none

/-- EXIT of one thread (R136); one that its handler ends after FABRIC_LOST fails the launch (R395). -/
def State.exitWord (s : State) (l : Lane) : State :=
  let th := s.thread l
  let s := if th.handlerActive ∧ natField th.trap.toNat 0 8 = 14 then
      s.failLaunch (s.grp l.g).launch .fabric
        (some (s.report l { cause := .fabricLost, kind := kindOfBits (natField th.trap.toNat 8 2), addr := th.faddr } false))
    else s
  s.exitThread l

/-- A shadow that exits alone is seen at the next header (R388). -/
def execExit (h : Head) : State → Host.Outcome State Fault Refusal :=
  runWord (.exit h) true (eachHeld fun c l s =>
    if l.sh then (s.goTo l c.w).modThread l fun th => { th with live := false } else s.exitWord l)

/-- NOP has no effect (R137). -/
def execNop (h : Head) : State → Host.Outcome State Fault Refusal := runWord (.nop h) false fun _ _ s => some s

end Sys2Proof.Machine
end

