-- ==== Sys2Proof/Machine/MemoryWords.lean ====
section
/-! DEFINITION. Loads, stores and atomics (R165 to R174), and their recording in an open region (R220, R221). A word checks its
access and leaves it in flight; the events of EvMemory perform it. -/

namespace Sys2Proof.Machine

open Sys2Proof

/-! ### Addresses (R40, R165) -/

inductive Addr
  | at (va : DWord) (sp : Space)
  | outside
  | fault (f : FaultInfo)
  deriving DecidableEq, Repr, Inhabited

/-- The place of an address that passed R40: in the aperture, whatever record formed it (R253), through a stash window of the record, whose
sector is filled where that can be done now (R257), or as R335 resolves it. -/
def State.place (s : State) (l : Lane) (bd : Nat) (va : DWord) (size : Nat) (n : Need) : Except XErr Space × State :=
  let g := s.grp l.g
  match (if recStash (g.brec bd) && (aperOff va).isNone then s.winOf l.g bd else none) with
  | some (w, x) =>
    let off := (va - x.va).toNat
    (match s.winPa g.core w (off / 64) n with
    | (.error e, s) => (.error e, s)
    | (.ok _, s) =>
      let sp := Space.win g.core w off
      (.ok sp, if s.engineMay (coreDie g.core) false sp then s.fillPlace sp else s))
  | none => s.resolve l.g va size n

/-- The checks of R165 in their order, after the offset register's own (R40), for the access `extra` bytes on. -/
def State.addressAt (s : State) (l : Lane) (m : MAddr) (extra size align : Nat) (k : AccKind) (n : Need) : Addr × State :=
  let g := s.grp l.g
  let rec' := g.brec m.br.val
  let odd := match m.ofs with
    | some v => decide (v.val % 2 = 1) && decide (recMode rec' ≠ 2)
    | none => false
  if odd then (.fault { s.freeFault .illegalEnc with kind := k }, s.used 1)
  else match recordAddressAt rec' (g.offsetPair l m.ofs) m.imm extra size (k != .load) with
    | .bad a => (.fault { cause := .bounds, kind := k, addr := a }, s)
    | .outside => (.outside, s)
    | .at va =>
      if va.toNat % align ≠ 0 then (.fault { cause := .illegalEnc, kind := k, addr := va }, s)
      else match s.place l m.br.val va size n with
        | (.error e, s) => (.fault { cause := e.cause, kind := k, addr := va }, s)
        | (.ok sp, s) => (.at va sp, s)

/-- The checks of R165 for an access at the address itself. -/
def State.address (s : State) (l : Lane) (m : MAddr) (size align : Nat) (k : AccKind) (n : Need) : Addr × State :=
  s.addressAt l m 0 size align k n

/-- An access whose address lies in another package is performed at `.sys` (R169). -/
def State.scopeAt (s : State) (sp : Space) (scope : Scope) : Scope :=
  match sp with
  | .phys pa => if s.paKind pa = .span then .sys else scope
  | .aper _ _ | .win _ _ _ => scope

/-! ### Poison at issue (R165, R375) -/

/-- Is the place poisoned for an access now, no earlier access of its own thread to the same bytes being still to be performed
(R278)? -/
def State.poisonNow (s : State) (l : Lane) (sp : Space) (n : Nat) : Bool := s.spacePoison sp n && s.nowReady l sp n

/-- Is the place poisoned while an earlier access of the same thread may still clear or read it? The word stalls until that is
performed (R10, R278; log entry 8). -/
def State.poisonOpen (s : State) (l : Lane) (sp : Space) (n : Nat) : Bool := s.spacePoison sp n && !s.nowReady l sp n

/-- The same for an access of a word of format M. -/
def State.poisonWaits (s : State) (l : Lane) (m : MAddr) (size : Nat) (k : AccKind) (n : Need) : Bool :=
  match s.address l m size size k n with
  | (.at _ sp, s) => s.poisonOpen l sp size
  | (.outside, _) | (.fault _, _) => false

/-- An effect that stalls while the poison of some lane's place is open. -/
def poisonFirst (m : MAddr) (size : Nat) (k : AccKind) (n : Need) (f : Ctx → Lane → State → State) : Effect := fun c act s =>
  if act.any fun l => s.poisonWaits l m size k n then none else eachHeld f c act s

/-! ### Issuing an access -/

/-- An access a word issues: its place and bytes, its ordering, its sort, the bytes a store writes, and those a region's load takes from
the region's own stores (R220). -/
structure Access where
  va : DWord
  space : Space
  size : Nat
  scope : Scope
  ord : MOrd
  hint : Nat := 0
  kind : OpKind
  data : List Byte := []
  patch : AMap Byte := []
  deriving DecidableEq, Repr

/-- The single-copy atomic units of an access: 8 bytes each of 16 or of 32, else the whole (R171). -/
def unitOffs (size : Nat) : List Nat := if size = 16 then [0, 8] else if size = 32 then [0, 8, 16, 24] else [0]

def unitSize (size : Nat) : Nat := if size = 16 ∨ size = 32 then 8 else size

/-- A place some bytes on. -/
def Space.plus (sp : Space) (n : Nat) : Space :=
  match sp with
  | .phys pa => .phys (pa + n)
  | .aper g off => .aper g (off + n)
  | .win c w off => .win c w (off + n)

/-- One unit of an access of a lane; the first one names the word's accesses. -/
def State.unit (s : State) (l : Lane) (a : Access) (word off : Nat) : MemOp :=
  let g := s.grp l.g
  { lane := l, kind := a.kind, va := a.va, space := a.space.plus off, size := unitSize a.size, off,
    patch := (a.patch.filter fun e => decide (off ≤ e.1)).map fun e => (e.1 - off, e.2), scope := s.scopeAt a.space a.scope,
    ord := a.ord, hint := a.hint, word, data := if a.kind == .store then (a.data.drop off).take (unitSize a.size) else a.data, level := 0, entry := false, rejects := 0, rejected := false,
    fenced := false, agedAt := none, failed := none, got := none, core := g.core, quad := g.quad, gid := g.gid, part := g.part,
    gen := (s.partn g.part).gen, launch := g.launch }

/-- The units of an access go into flight. -/
def State.putUnits (s : State) (l : Lane) (a : Access) (word : Nat) : State :=
  (unitOffs a.size).foldl (fun s off => { s.fresh with ops := s.ops.set s.nextId (s.unit l a word off) }) s

/-- An access of a lane goes into flight and its counter rises (R37). -/
def State.issueOp (s : State) (c : Ctx) (l : Lane) (k : Counter) (a : Access) : State :=
  (s.putUnits l a s.nextId).countOps c l k (rangeFrom s.nextId (unitOffs a.size).length)

/-- A store or an atomic to host memory or another package marks its launch (R380). -/
def State.outward (s : State) (l : Lane) (sp : Space) : State :=
  if (s.memKind sp).external then s.sideEffect (s.grp l.g).launch else s

/-! ### A region records an access (R220, R221) -/

def inputLimit : Nat := 8
def storeLimit : Nat := 16

/-- Does a region hold a store of exactly these bytes (R220)? -/
def RStore.exactly (sp : Space) (size : Nat) (t : RStore) : Bool := decide (t.space = sp) && decide (t.data.length = size)

def State.modRegion (s : State) (l : Lane) (f : Region → Region) : State :=
  s.modBoth l fun th => { th with region := th.region.map f }

/-- A use of a tagged value that the region cannot track (R220). -/
def State.regionUses (s : State) (l : Lane) (lost : Bool) : State :=
  if lost then s.modRegion l fun r => { r with untrackable := true } else s

/-- Is an address formed from a tagged register? -/
def Region.taggedAddr (r : Region) (m : MAddr) : Bool := (ofsRegs m.ofs).any fun n => r.touches (.v (Fin.ofNat 96 n), false)

/-- A region's coherent window sectors are recorded by their memory address, where every access to them is performed. -/
def State.regionPlace (s : State) (sp : Space) : Space × State :=
  match sp with
  | .win core w off =>
    match s.win? core w with
    | none => (sp, s)
    | some x =>
      if !x.coh then (sp, s)
      else match s.winPa core w (off / 64) .rd with
        | (.ok pa, s) => (.phys (pa + off % 64), s)
        | (.error _, s) => (sp, s)
  | _ => (sp, s)

/-- An input or a store target outside the package's memory and the mailbox windows. -/
def State.regionOutside (s : State) (sp : Space) : Bool :=
  match s.memKind sp with
  | .span | .host _ => true
  | .hbm | .window _ | .none => false

/-- Registers and words a load of a type writes. -/
def ldSize : LdTy → Nat
  | .b8 | .s8 => 1
  | .b16 | .s16 => 2
  | .b32 => 4
  | .b64 => 8
  | .b128 => 16

def ldSigned : LdTy → Bool
  | .s8 | .s16 => true
  | .b8 | .b16 | .b32 | .b64 | .b128 => false

/-- The bytes of a load that the region's own stores give, the latest last (R220, R278). -/
def Region.patch (r : Region) (sp : Space) (size : Nat) : AMap Byte :=
  r.stores.foldl (fun m t => (List.range size).foldl (fun m k =>
    match (List.range t.data.length).find? fun j => t.space.plus j = sp.plus k with
    | some j => m.set k (t.data.getD j 0)
    | none => m) m) []

/-- The place of the next recorded address. -/
def Region.nextNth (r : Region) : Nat :=
  max (r.inputs.foldl (fun n i => max n (i.nth + 1)) 0) (r.stores.foldl (fun n t => max n (t.nth + 1)) 0)

/-- LD in an open region. One that overlaps the region's own stores in part takes their bytes where they overlap and memory's elsewhere
(R197, R220; log entry 35). -/
def State.regionLoad (s : State) (c : Ctx) (l : Lane) (x : LdF) (r : Region) (va : DWord) (sp : Space) : State :=
  let size := ldSize x.ty
  let dst := writes (.ld Head.plain x)
  let (sp, s) := s.regionPlace sp
  let s := s.regionUses l (r.taggedAddr x.m)
  if s.regionOutside sp then s.regionAbort [l] 6 (some { cause := .bounds, kind := .load, addr := va })
  else
    match r.stores.find? (RStore.exactly sp size) with
    | some t =>
      let s := s.putBoth l (loadWords (ldSigned x.ty) dst t.data)
      match t.sym, dst with
      | some tag, d :: _ => s.modRegion l fun r => { r with tags := r.tags.set d tag }
      | _, _ => s
    | none =>
      let lap := (r.inputs.any fun t => s.overlap t.space t.size sp size) ||
        (r.stores.any fun t => s.overlap t.space t.data.length sp size)
      if inputLimit ≤ r.inputs.length then s.regionAbort [l] 3 none
      else
        let i := r.inputs.length
        let word : Bool := x.ty == .b32 || x.ty == .b64
        let inp : RInput := { va, space := sp, size, val := 0, trackable := word, mark := false, nth := r.nextNth }
        let s := s.modBoth l fun th => th.noteWrite dst
        let s := s.modRegion l fun r =>
          { r with inputs := r.inputs ++ [inp], untrackable := r.untrackable || lap,
                   tags := match dst with
                     | d :: _ => if word then r.tags.set d { input := i, wide := decide (size = 8), chain := .none } else r.tags
                     | [] => r.tags }
        s.issueOp c l .ld { va, space := sp, size, scope := r.scope, ord := .rlx, hint := x.hint.val,
                            kind := .load (ldSigned x.ty) dst (some i), patch := r.patch sp size }

/-- Does ST use a tagged value otherwise than as the value of `.b32` or `.b64` (R220)? -/
def Region.stUses (r : Region) (x : StF) : Bool :=
  let src : Src × Bool := (x.data, x.ty == .b64)
  let word : Bool := x.ty == .b32 || x.ty == .b64
  let sym := if word then r.tagOf src else none
  !word || r.taggedAddr x.m ||
    ((r.touches src || (otherReads (.st Head.plain x)).any fun n => r.touches (.v (Fin.ofNat 96 n), false)) && sym.isNone)

/-- ST in an open region: recorded, not performed. A store that replaces one keeps its place in recorded order (log entry 67). -/
def State.regionStore (s : State) (l : Lane) (x : StF) (r : Region) (va : DWord) (sp : Space) (bs : List Byte) : State :=
  let size := stSize x.ty
  let (sp, s) := s.regionPlace sp
  let same := RStore.exactly sp size
  let lap := r.stores.any fun t => s.overlap t.space t.data.length sp size && !same t
  if s.regionOutside sp then s.regionAbort [l] 6 (some { cause := .bounds, kind := .store, addr := va })
  else if !r.stores.any same && decide (storeLimit ≤ r.stores.length) then s.regionAbort [l] 3 none
  else
    let sym := if x.ty == .b32 || x.ty == .b64 then r.tagOf (x.data, x.ty == .b64) else none
    let st : RStore := { va, space := sp, data := bs, sym, nth := r.nextNth }
    (s.regionUses l (lap || r.stUses x)).modRegion l fun r =>
      { r with stores := if r.stores.any same then r.stores.map (fun t => if same t then { st with nth := t.nth } else t)
                         else r.stores ++ [st] }

/-! ### LD and ST (R166, R167) -/

/-- A load outside the extent under ZERO bounds writes 0 and is complete at once (R40, R165). -/
def State.zeroLoad (s : State) (l : Lane) (dst : List Nat) : State := s.give l (dst.map fun d => (d, 0))

/-- A word of an open region whose access falls outside its record records nothing, but its uses of tagged values count (R220). -/
def State.outsideUses (s : State) (l : Lane) (uses : Region → Bool) : State :=
  match (s.thread l).region with
  | some r => s.regionUses l (uses r)
  | none => s

/-- Does the word's region answer its load from a buffered store, so that it reads no memory (R220)? -/
def State.buffered (s : State) (l : Lane) (sp : Space) (size : Nat) : Bool :=
  match (s.thread l).region with
  | some r => r.stores.any (RStore.exactly (s.regionPlace sp).1 size)
  | none => false

/-- One lane of LD. -/
def State.load (s : State) (c : Ctx) (x : LdF) (l : Lane) : State :=
  let size := ldSize x.ty
  let dst := writes (.ld Head.plain x)
  match s.address l x.m size size .load .rd with
  | (.fault f, s) => s.faultAt c l f
  | (.outside, s) => (s.outsideUses l fun r => r.taggedAddr x.m).zeroLoad l dst
  | (.at va sp, s) =>
    if s.spacePoison sp size && !s.buffered l sp size then s.faultAt c l { cause := .poison, kind := .load, addr := va }
    else
      match (s.thread l).region with
      | some r => (s.watch l c.w va 0 size r.scope).regionLoad c l x r va sp
      | none => (s.watch l c.w va 0 size (s.scopeAt sp x.scope)).issueOp c l .ld
          { va, space := sp, size, scope := x.scope, ord := x.ord, hint := x.hint.val, kind := .load (ldSigned x.ty) dst none }

def execLd (h : Head) (x : LdF) : State → Host.Outcome State Fault Refusal :=
  runWord (.ld h x) false (poisonFirst x.m (ldSize x.ty) .load .rd fun c l s => s.load c x l)

/-- The bytes of consecutive registers, the lowest first. -/
def Group.regBytes (g : Group) (l : Lane) (n k : Nat) : List Byte :=
  ((rangeFrom n k).map fun i => bytesOfNat 4 (g.readV l i).toNat).flatten

/-- The bytes ST stores. -/
def stBytes (g : Group) (l : Lane) (x : StF) (v : DWord) : List Byte :=
  match x.ty, x.data with
  | .b128, .v n => g.regBytes l n.val 4
  | t, _ => bytesOfNat (stSize t) v.toNat

/-- One lane of ST. -/
def State.store (s : State) (c : Ctx) (i : Instr) (x : StF) (l : Lane) : State :=
  let size := stSize x.ty
  match s.address l x.m size size .store .wr with
  | (.fault f, s) => s.faultAt c l f
  | (.outside, s) => (s.outsideUses l fun r => r.stUses x).withOps c i l fun _ s => s
  | (.at va sp, s) =>
    s.withOps c i l fun vs s =>
      let bs := stBytes (s.grp l.g) l x (vs.getD 0 0)
      match (s.thread l).region with
      | some r => (s.watch l c.w va 1 size r.scope).regionStore l x r va sp bs
      | none => ((s.watch l c.w va 1 size (s.scopeAt sp x.scope)).outward l sp).issueOp c l .st
          { va, space := sp, size, scope := x.scope, ord := x.ord, hint := x.hint.val, kind := .store, data := bs }

def execSt (h : Head) (x : StF) : State → Host.Outcome State Fault Refusal :=
  runWord (.st h x) false (eachHeld fun c l s => s.store c (.st h x) x l)

/-! ### BLD and BST (R167, R168) -/

/-- The accesses the word of a gang has begun. -/
def State.wip (s : State) (k : Nat) : Option (List Issued) := (s.gang? k).bind fun g => g.wip

/-- Are the begun accesses over: performed, or failed? -/
def State.wipDone (s : State) (l : List Issued) : Bool := l.all fun e => match s.ops.find? e.op with
  | some o => !o.live
  | none => true

/-- The failure of one lane's begun accesses, if any. -/
def State.wipFailed (s : State) (w : List Issued) (l : Lane) : Option FaultInfo :=
  w.findSome? fun e => if e.lane = l then (s.ops.find? e.op).bind fun o => o.failed else none

/-- The begun accesses of one lane leave the machine. -/
def State.wipDrop (s : State) (w : List Issued) (l : Lane) : State :=
  w.foldl (fun s e => if e.lane = l then s.opDone e.op else s) s

/-- The word has begun: the accesses its effect will wait for. -/
def State.setWip (s : State) (k : Nat) (before : Nat) : State :=
  let w : List Issued := (s.ops.filter fun e => decide (before ≤ e.1)).map fun e => { lane := e.2.lane, op := e.1 }
  s.modGang k fun g => { g with wip := some w }

/-- One group's BLD begins: the performer's checks, then its access, counted in every guard-true thread of the group (R168). -/
def State.bldBegin (s : State) (c : Ctx) (x : BldF) (l : Lane) (ls : List Lane) : State :=
  match s.address l x.m 32 32 .load .rd with
  | (.fault f, s) => s.faultAt c l f
  | (.outside, s) => s.modGroup l.g fun g => { g with b := g.b.set x.bd.val nullRec }
  | (.at va sp, s) =>
    if s.poisonNow l sp 32 then s.faultAt c l { cause := .poison, kind := .load, addr := va }
    else
      let s := s.watch l c.w va 0 32 (s.scopeAt sp x.scope)
      let a : Access := { va, space := sp, size := 32, scope := x.scope, ord := x.ord, kind := .bld (ls.map fun k => k.t) }
      ls.foldl (fun s k => s.modBoth k fun th => th.bump .ld) (s.putUnits l a s.nextId)

/-- The record has arrived: it is checked and taken, or the performer faults (R38, R375, R395). A window mapped through the register
stays in the mapping table (log entry 65). -/
def State.bldEnd (s : State) (c : Ctx) (x : BldF) (w : List Issued) (l : Lane) : State :=
  let us := ((w.filter fun e => e.lane == l).filterMap fun e => s.ops.find? e.op)
  let fail := s.wipFailed w l
  let s := s.wipDrop w l
  match fail, us with
  | some f, _ => s.faultAt c l f
  | none, o :: _ =>
    let bs := (us.map fun o => o.got.getD []).flatten
    let r : BRec := BitVec.ofNat 256 (wordOfBytes bs)
    if recOk r then s.modGroup l.g fun g => { g with b := g.b.set x.bd.val (recLoad r) }
    else s.faultAt c l { cause := .illegalEnc, kind := .load, addr := o.va }
  | none, [] => s

/-- A word that begins its accesses, stalls while they are under way, and then takes them; where no thread performs it, it only
passes. -/
def phased (fin : Ctx → List Issued → Lane → State → State) (who : List Lane → List Lane) : Effect := fun c act s =>
  if act.isEmpty then some s
  else match s.wip c.k with
  | none => none
  | some w =>
    if s.wipDone w then
      some ((who act).foldl (fun s l => if (s.lanesOfGang c.k).contains l then fin c w l s else s) s)
    else none

/-- The beginning of such a word, once. -/
def beginning (start : Ctx → Lane → State → State) (who : List Lane → List Lane) : Pending := fun c act s =>
  match s.wip c.k with
  | some _ => s
  | none =>
    let n := s.nextId
    State.setWip ((who act).foldl (fun s l => if (s.lanesOfGang c.k).contains l then start c l s else s) s) c.k n

def execBld (h : Head) (x : BldF) : State → Host.Outcome State Fault Refusal :=
  let who := fun (act : List Lane) => (performers act).map Prod.fst
  let start : Pending := fun c act => beginning (fun c l s => s.bldBegin c x l (lanesOf act l.g)) who c act
  runWith (.bld h x) false start (phased (fun c w l s => s.bldEnd c x w l) who)

/-- One lane of BST. -/
def State.bst (s : State) (c : Ctx) (x : BstF) (l : Lane) : State :=
  match s.address l x.m 64 64 .store .wr with
  | (.fault f, s) => s.faultAt c l f
  | (.outside, s) => s
  | (.at va sp, s) =>
    let bs := match x.data with
      | .v n => (s.grp l.g).regBytes l n.val 16
      | .q _ | .zero => List.replicate 64 0
    let s := s.watch l c.w va 1 64 (s.scopeAt sp x.scope)
    (s.outward l sp).issueOp c l .st
      { va, space := sp, size := 64, scope := x.scope, ord := x.ord, hint := x.hint.val, kind := .store, data := bs }

def execBst (h : Head) (x : BstF) : State → Host.Outcome State Fault Refusal :=
  runWord (.bst h x) false (eachHeld fun c l s => s.bst c x l)

/-! ### Atomics (R172 to R174) -/

/-- One lane of an atomic: its destination registers are empty in the no-return form. -/
def State.atomic (s : State) (c : Ctx) (m : MAddr) (l : Lane) (size : Nat) (scope : Scope) (ord : MOrd) (hint : Fin 7) (k : Counter)
    (kind : OpKind) (data : State → Except State (List Byte × State)) : State :=
  match s.address l m size size .atomic .rw with
  | (.fault f, s) => s.faultAt c l f
  | (.outside, s) =>
    match data s with
    | .error s => s
    | .ok (_, s) => s.zeroLoad l (opDst kind)
  | (.at va sp, s) =>
    let bad := fun (cause : Cause) => s.faultAt c l { cause, kind := .atomic, addr := va }
    match s.memKind sp with
    | .host _ => bad .bounds
    | _ =>
      if s.spacePoison sp size then bad .poison
      else match data s with
        | .error s => s
        | .ok (bs, s) =>
          let s := s.watch l c.w va (s.atomKind l.g sp scope) size (s.scopeAt sp scope)
          (s.outward l sp).issueOp c l k { va, space := sp, size, scope, ord, hint := hint.val, kind, data := bs }

/-- The operand of ATOM in `size` bytes. -/
def State.atomData (c : Ctx) (i : Instr) (l : Lane) (size : Nat) (s : State) : Except State (List Byte × State) :=
  match s.operands c i l with
  | .error s => .error s
  | .ok (vs, s) => .ok (bytesOfNat size (vs.getD 0 0).toNat, s)

def widthBytes (w : Bool) : Nat := if w then 8 else 4

def execAtom (h : Head) (x : AtomF) : State → Host.Outcome State Fault Refusal :=
  let i := Instr.atom h x
  runWord i false (poisonFirst x.m (widthBytes x.w) .atomic .rw fun c l s =>
    s.atomic c x.m l (widthBytes x.w) x.scope x.ord x.hint .ld (.atom x.op x.w (regsW x.d x.w)) (State.atomData c i l (widthBytes x.w)))

def execAtomNr (h : Head) (x : AtomNrF) : State → Host.Outcome State Fault Refusal :=
  let i := Instr.atomNr h x
  runWord i false (poisonFirst x.m (widthBytes x.w) .atomic .rw fun c l s =>
    s.atomic c x.m l (widthBytes x.w) x.scope x.ord x.hint .st (.atom x.op x.w []) (State.atomData c i l (widthBytes x.w)))

/-- Compare value and new value of ACAS stand in adjacent registers (R173). -/
def execAcas (h : Head) (x : AcasF) : State → Host.Outcome State Fault Refusal :=
  runWord (.acas h x) false (poisonFirst x.m (widthBytes x.w) .atomic .rw fun c l s =>
    s.atomic c x.m l (widthBytes x.w) x.scope x.ord x.hint .ld (.acas x.w (regsW x.d x.w)) fun s =>
      .ok ((s.grp l.g).regBytes l x.d.val (if x.w then 4 else 2), s))

end Sys2Proof.Machine
end

