-- ==== Sys2Proof/Machine/Sync.lean ====
section
/-! DEFINITION. Fences, barriers and counter waits (R175 to R178). -/

namespace Sys2Proof.Machine

open Sys2Proof

/-- Has every access that takes a value taken it, and is what it may synchronise with performed (R281, R282)? -/
def State.fenceAcquires (s : State) (scope : Scope) (l : Lane) : Bool := s.readsDone l && !s.relsWait l scope

/-- Is what a fence waits for done for one thread (R175)? -/
def State.fenceDone (s : State) (scope : Scope) (k : MOrd) (l : Lane) : Bool :=
  match k with
  | .rel => s.fenceReleases scope l
  | .acq => s.fenceAcquires scope l
  | .ar => s.fenceReleases scope l && s.fenceAcquires scope l
  | .rlx => true

def execFence (h : Head) (scope : Scope) (kind : MOrd) : State → Host.Outcome State Fault Refusal :=
  runWord (.fence h scope kind) false fun _ act s =>
    if act.all (s.fenceDone scope kind) then
      some (if MOrd.releases kind then act.foldl (fun s l => s.passFence l scope) s else s)
    else none

/-- BAR: a guard-true thread arrives and is held (R176); releases are in `State.settle`. After a restore the word executes again: an arrival
counted before the save counts once, and where its phase has completed since the thread passes (R198). -/
def execBar (h : Head) : State → Host.Outcome State Fault Refusal :=
  runWord (.bar h) false (eachLane fun c l s =>
    let passed := (s.thread l).barAt == some (c.w, true)
    let s := s.modBoth l fun th => { th with barAt := none }
    if passed then s else s.holdAt c l .bar)

/-! ### Crew barriers (R177) -/

/-- The number of a lane in its crew. -/
def State.crewThread (s : State) (l : Lane) : Nat := (s.grp l.g).idx * (s.grp l.g).width + l.t

/-- a[t][n]. -/
def Crew.count (c : Crew) (t n : Nat) : Word := c.counts.get 0 (16 * t + n)

/-- Copies of a lane in batches sealed before batch `b`. -/
def State.sealedBefore (s : State) (l : Lane) (b : Word) : List CopyOp :=
  ((s.copies.filter fun e => e.2.lane == l).map Prod.snd).filter fun c => c.batch != b && batchLe c.batch b

/-- Has everything an arrival waits for been done? -/
def State.arrivalDone (s : State) (p : PendArrival) : Bool :=
  (s.before p.lane p.before).isEmpty && !s.staleIn p.scope p.core && s.observedDone p.lane &&
  (s.sealedBefore p.lane p.batch).all CopyOp.ended

/-- The arrivals of a crew that still wait; those that are done count from now on. -/
def State.pumpArrivals (s : State) (crew : Nat) : State :=
  match s.crew? crew with
  | none => s
  | some c =>
    let wait := c.pending.filter fun p => !s.arrivalDone p
    s.modCrew crew fun c => { c with pending := wait }

/-- The phases a thread's arrivals count for: those before the first arrival that still waits. -/
def Crew.arrived (c : Crew) (t n : Nat) : Word :=
  match c.pending.find? fun p => p.t == t && p.n == n with
  | some p => p.phase
  | none => c.count t n

/-- Is phase `p` of barrier `n` complete? -/
def Crew.phaseDone (c : Crew) (n : Nat) (p : Word) : Bool :=
  (List.range (c.groups.length * c.width)).all fun t =>
    c.exited.contains t || decide (0 ≤ (c.arrived t n - p - 1).toInt)

/-- One lane of BARA. -/
def State.bara (s : State) (x : BaraF) (l : Lane) : State :=
  let g := s.grp l.g
  let t := s.crewThread l
  let c := (s.crew? g.crew).getD default
  let p := c.count t x.n.val
  let s := match x.d with
    | some d => s.putBoth l [(d.val, p)]
    | none => s
  let a : PendArrival := { t, n := x.n.val, phase := p, lane := l, core := (s.grp l.g).core, before := s.nextId, batch := (s.thread l).batch, scope := x.scope }
  let s := s.modCrew g.crew fun c =>
    { c with counts := c.counts.set (16 * t + x.n.val) (p + 1), pending := c.pending ++ [a] }
  s.pumpArrivals g.crew

def execBara (h : Head) (x : BaraF) : State → Host.Outcome State Fault Refusal :=
  runWord (.bara h x) false (eachLane fun _ l s => s.bara x l)

/-- One lane of BARW: a phase the thread has not arrived at itself faults. -/
def State.barw (s : State) (c : Ctx) (i : Instr) (x : BarwF) (l : Lane) : State :=
  s.withOps c i l fun vs s =>
    let p := (vs.getD 0 0).lo
    let a := ((s.crew? (s.grp l.g).crew).getD default).count (s.crewThread l) x.n.val
    if 0 ≤ (p - a).toInt then s.plainFault c l .illegalEnc else s.holdAt c l (.barw x.n p x.scope)

def execBarw (h : Head) (x : BarwF) : State → Host.Outcome State Fault Refusal :=
  runWord (.barw h x) false (eachHeld fun c l s => s.barw c (.barw h x) x l)

/-! ### WAITC (R178) -/

/-- Are a thread's counters at or below the limits? -/
def Thread.below (th : Thread) (x : WaitcF) : Bool :=
  decide (th.ld ≤ x.ld.val) && decide (th.st ≤ x.st.val) && decide (th.cp ≤ x.cp.val) && decide (th.tl ≤ x.tl.val)

def execWaitc (h : Head) (x : WaitcF) : State → Host.Outcome State Fault Refusal :=
  runWord (.waitc h x) false fun _ act s => if act.all fun l => (s.thread l).below x then some s else none

end Sys2Proof.Machine
end

