-- ==== Sys2Proof/Machine/CopyWords.lean ====
section
/-! DEFINITION. Copies, batches and handles (R179 to R186), and time across dies (R398, R399). -/

namespace Sys2Proof.Machine

open Sys2Proof

/-! ### COPY (R179, R184, R304) -/

/-- The copies queued or moving on a die: those of partitions whose contexts do not hold them as descriptors (R297, R306). -/
def State.copiesOf (s : State) (die : Nat) : List CopyOp :=
  (s.copies.filter fun e => e.2.die == die && !e.2.ended &&
    (s.partn e.2.part).state != .swapped && (s.partn e.2.part).state != .restoring).map Prod.snd

/-- Do source and destination of a copy stand on sectors, so that whole sectors move (R65, R179)? -/
def CopyOp.aligned (c : CopyOp) : Bool := decide (c.dst.toNat % 64 = 0) && decide (c.src.toNat % 64 = 0)

/-- The unit of a copy's other accesses: the largest that is naturally aligned on both sides (R171, R276, R280; log entry 11). -/
def CopyOp.unit (c : CopyOp) : Nat :=
  let d := c.dst.toNat
  let e := c.src.toNat
  if d % 8 = e % 8 then 8 else if d % 4 = e % 4 then 4 else if d % 2 = e % 2 then 2 else 1

/-- The bytes of a copy that move at once from an offset: a whole sector, or up to the next boundary of a unit. -/
def CopyOp.step (c : CopyOp) (o : Nat) : Nat :=
  let u := if c.aligned ∧ o / 64 * 64 + 64 ≤ c.len then 64 else c.unit
  min (u - (c.dst.toNat + o) % u) (c.len - o)

/-- The bytes of a copy not yet written. -/
def CopyOp.unwritten (c : CopyOp) : Nat := c.len - c.off - (c.ahead.map c.step).sum

/-- Bytes not yet written by the copies ahead (R304). -/
def State.copyAhead (s : State) (die : Nat) : Nat := ((s.copiesOf die).map CopyOp.unwritten).sum

/-- The promised completion time. -/
def State.promise (s : State) (die len : Nat) : Nat := s.dclk die + 2000 + (s.copyAhead die + len + 127) / 128

/-- Does a range of virtual addresses meet the aperture and fail R254 (R256)? -/
def State.aperBad (s : State) (g : Nat) (va : DWord) (len : Nat) : Bool :=
  match aperOff va with
  | some off => (s.aperture g off len).isNone
  | none => rangesMeet va.toNat len aperBase (2 ^ 32)
where
  rangesMeet (a n b m : Nat) : Bool := decide (a < b + m) && decide (b < a + n)

/-- The fault of a COPY at issue. -/
def State.copyFault (s : State) (g : Nat) (dst src : DWord) (len : Nat) : Option FaultInfo :=
  if !canonical dst then some { cause := .bounds, kind := .store, addr := dst }
  else if !canonical src then some { cause := .bounds, kind := .load, addr := src }
  else if len ≠ 0 ∧ dst.toNat < src.toNat + len ∧ src.toNat < dst.toNat + len then
    some (s.freeFault .illegalEnc)
  else if len ≠ 0 ∧ s.aperBad g dst len then some { cause := .bounds, kind := .store, addr := dst }
  else if len ≠ 0 ∧ s.aperBad g src len then some { cause := .bounds, kind := .load, addr := src }
  else none

/-- Does some byte of a range lie in host memory or in another package, as far as it translates now (R380)? -/
def State.rangeOutward (s : State) (g : Group) (va : DWord) (len : Nat) : Bool :=
  (aperOff va).isNone && (rangeFrom (va.toNat / 4096) ((va.toNat + len - 1) / 4096 - va.toNat / 4096 + 1)).any fun k =>
    match (s.xlate g.core g.part (BitVec.ofNat 64 (4096 * k)) .leaf).1 with
    | .ok pa => (s.paKind pa).external
    | .error _ => false

/-- One lane of COPY. -/
def State.copyIssue (s : State) (c : Ctx) (i : Instr) (x : CopyF) (l : Lane) : State :=
  s.withOps c i l fun vs s =>
    let dst := vs.getD 0 0
    let src := vs.getD 1 0
    let len := (vs.getD 2 0).toNat % 2 ^ 32
    let g := s.grp l.g
    let die := coreDie g.core
    match s.copyFault l.g dst src len with
    | some f => (s.faultAt c l f).used 1
    | none =>
      let promise := s.promise die len
      let (h, s) := s.newHandle die 1 g.part g.launch
      let s := s.modBoth l fun th => th.setHandle x.hd h
      let id := s.nextId
      let op : CopyOp :=
        { die, lane := l, crew := g.crew, core := g.core, gid := g.gid, part := g.part, gen := (s.partn g.part).gen, launch := g.launch, scope := x.scope, dst, src, len,
          rel := x.rel, st := if len = 0 then .complete else .queued, off := 0, ahead := [], promise, marked := false,
          batch := (s.thread l).batch, seq := hSeq h, cancel := false, counted := decide (len ≠ 0), resumable := false }
      let s := { s.fresh with copies := s.copies.set id op }
      if len = 0 then s.setHandleState die 1 (hSeq h) .complete
      else
        let s := s.countOp c l .cp id
        if s.rangeOutward g dst len then s.sideEffect g.launch else s


/-- The copy engine of a die holds 256 copies (R297); a COPY that finds it full stalls. -/
def execCopy (h : Head) (x : CopyF) : State → Host.Outcome State Fault Refusal :=
  let i := Instr.copy h x
  runWord i false fun c act s =>
    let full := act.any fun l =>
      let d := coreDie (s.grp l.g).core
      decide (256 < (s.copiesOf d).length + (act.filter fun m => coreDie (s.grp m.g).core == d).length)
    if full then none
    else eachHeld (fun c l s => s.copyIssue c i x l) c act s

/-! ### Batches (R183) -/

def execSeal (h : Head) (d : Option (Fin 96)) : State → Host.Outcome State Fault Refusal :=
  runWord (.seal h d) false (eachLane fun _ l s =>
    let b := (s.thread l).batch
    let s := match d with
      | some d => s.putBoth l [(d.val, b)]
      | none => s
    s.modBoth l fun th => { th with batch := b + 1 })

/-! ### Waiting on handles (R181, R182, R186, R202, R324) -/

/-- Does a thread re-execute the waiting word after its handler returned from this fault (R181)? -/
def Thread.returnedFrom (th : Thread) (pc : DWord) (f : FaultInfo) : Bool :=
  th.mid && th.pc == pc && th.trap == trapWord f false && th.faddr == f.addr && f.cause == .pageFault

/-- What a thread finds at a handle. -/
inductive WaitSt
  | done
  | waits
  | fails (f : FaultInfo)
  | resumes (copy : Nat)
  deriving DecidableEq, Repr, Inhabited

/-- The state of a handle for a thread at a waiting word; a re-execution after a PAGE_FAULT resumes the copy. -/
def State.waitOn (s : State) (l : Lane) (pc h : DWord) : WaitSt :=
  let p := (s.grp l.g).part
  match s.hState p h with
  | .complete => .done
  | .pending => .waits
  | .failed f =>
    match s.hCopy p h with
    | some (c, x) => if x.resumable && (s.thread l).returnedFrom pc f then .resumes c else .fails f
    | none => .fails f

/-- A failed MMA's fault is delivered by a wait on its handle (R202). -/
def State.delivered (s : State) (l : Lane) (h : DWord) : State :=
  s.modBoth l fun th => { th with tileFaults := th.tileFaults.filter fun f => f.handle != some h }

/-- One lane of HWAIT at its word: it passes, is held, or faults. -/
def State.hwait (s : State) (c : Ctx) (l : Lane) (h : DWord) : State :=
  match s.waitOn l c.w h with
  | .done => s
  | .waits => s.holdAt c l (.hwait h)
  | .fails f => (s.delivered l h).deliverFault l c.w f
  | .resumes k => (s.resumeCopy k).holdAt c l (.hwait h)

def execHwait (h : Head) (hs : Fin 16) : State → Host.Outcome State Fault Refusal :=
  runWord (.hwait h hs) false (eachHeld fun c l s => s.hwait c l ((s.thread l).handle hs))

/-- The copies WAITB waits for: of the sealed batches at or before `q`. -/
def State.waitbCopies (s : State) (l : Lane) (q : Word) : AMap CopyOp :=
  s.copies.filter fun e => e.2.lane == l && e.2.batch != (s.thread l).batch && batchLe e.2.batch (s.thread l).batch &&
    batchLe e.2.batch q

/-- The state of WAITB: a failed copy faults it, or is resumed by its re-execution (R181, R183). The first failed copy in issue order does
so at once, whatever the others still do (log entry 63). -/
def State.waitbOn (s : State) (l : Lane) (pc : DWord) (q : Word) : WaitSt :=
  let cs := s.waitbCopies l q
  match cs.first fun e => match e.2.st with
    | .failed _ => true
    | _ => false with
  | some (k, x) => (match x.st with
    | .failed f => if x.resumable && (s.thread l).returnedFrom pc f then .resumes k else .fails f
    | _ => .waits)
  | none => if cs.all fun e => e.2.ended then .done else .waits

def State.waitb (s : State) (c : Ctx) (i : Instr) (l : Lane) : State :=
  s.withOps c i l fun vs s =>
    let q := (vs.getD 0 0).lo
    match s.waitbOn l c.w q with
    | .done => s
    | .waits => s.holdAt c l (.waitb q)
    | .fails f => s.deliverFault l c.w f
    | .resumes k => (s.resumeCopy k).holdAt c l (.waitb q)

def execWaitb (h : Head) (a : Src) : State → Host.Outcome State Fault Refusal :=
  runWord (.waitb h a) false (eachHeld fun c l s => s.waitb c (.waitb h a) l)

/-! ### Time (R184, R185, R399) -/

/-- The package time of a reading of a die. -/
def State.packageTime (s : State) (d : Nat) (v : Int) : Int :=
  let x := s.die d
  v + x.toff.toInt + v * x.trate.toInt / 2 ^ 40

/-- The reading of die `e` that a reading of die `d` converts to: the smallest that reaches its package time. -/
def State.convert (s : State) (d e : Nat) (v : Int) : Int :=
  if d = e then v
  else
    let x := s.die e
    let t := s.packageTime d v
    firstTick x.trate.toInt (t - x.toff.toInt)

/-- The promise HTIME writes. The spec gives none for a failed copy: 0 (R184; log entry 64). -/
def State.htime (s : State) (part : Nat) (h : DWord) : DWord :=
  match s.hState part h, s.hCopy part h with
  | .pending, some (_, c) => BitVec.ofNat 64 c.promise
  | _, _ => 0

def execHtime (h : Head) (d : Fin 96) (hs : Fin 16) : State → Host.Outcome State Fault Refusal :=
  runWord (.htime h d hs) false (eachLane fun _ l s =>
    let v := s.htime (s.grp l.g).part ((s.thread l).handle hs)
    s.putBoth l [(d.val, v.lo), (d.val + 1, v.hi)])

/-- What happens at a waking: the thread stands held or stands at its word; the answer says how it goes on. -/
inductive Wake
  | goes
  | waits
  | fails (f : FaultInfo)
  | missed (copy : Nat)
  | resumes (copy : Nat)
  deriving DecidableEq, Repr, Inhabited

/-- The outcome of a wake at time `t` with a handle (R185). The promise is converted to the sleeper's die, as in
R305 and the example of R399, and a pending handle that carries no promise is waited for (log entry 22). -/
def State.wakeOn (s : State) (l : Lane) (pc t : DWord) (h : Option DWord) : Wake :=
  match h with
  | none => .goes
  | some h =>
    let g := s.grp l.g
    match s.waitOn l pc h with
    | .done => .goes
    | .fails f => .fails f
    | .resumes k => .resumes k
    | .waits =>
      match s.hCopy g.part h with
      | none => .waits
      | some (k, c) =>
        if (t.toNat : Int) < s.convert c.die (coreDie g.core) c.promise then .goes
        else if c.marked then .waits else .missed k

/-- The promise of a copy is marked missed. -/
def State.markCopy (s : State) (k : Nat) : State :=
  { s with copies := s.copies.modify k fun c => { c with marked := true } }

def missedFault : FaultInfo := { cause := .promiseMissed, kind := .none, addr := 0 }

/-- One lane of SLEEPT: a time already passed wakes it at once. -/
def State.sleept (s : State) (c : Ctx) (i : Instr) (h : Option DWord) (l : Lane) : State :=
  s.withOps c i l fun vs s =>
    let t := vs.getD 0 0
    let doze := fun (woken : Bool) (s : State) => s.holdAt c l (.sleept t h woken)
    if s.dclk (coreDie (s.grp l.g).core) < t.toNat then doze false s
    else match s.wakeOn l c.w t h with
      | .goes => s
      | .waits => doze true s
      | .fails f => (match h with
        | some h => s.delivered l h
        | none => s).deliverFault l c.w f
      | .missed k => (s.markCopy k).faultAt c l missedFault
      | .resumes k => doze true (s.resumeCopy k)

def execSleept (h : Head) (a : Src) (hs : Option (Fin 16)) : State → Host.Outcome State Fault Refusal :=
  runWord (.sleept h a hs) false (eachHeld fun c l s =>
    s.sleept c (.sleept h a hs) (hs.map fun n => (s.thread l).handle n) l)

/-! ### HTEST, HCANCEL, HMOV (R186) -/

def execHtest (h : Head) (pa pb : Fin 32) (hs : Fin 16) : State → Host.Outcome State Fault Refusal :=
  runWord (.htest h pa pb hs) false (eachLane fun _ l s =>
    let st := s.hState (s.grp l.g).part ((s.thread l).handle hs)
    s.modBoth l fun th => th.setPreds [(pa.val, st == .complete), (pb.val, st == .pending)])

def execHcancel (h : Head) (hs : Fin 16) : State → Host.Outcome State Fault Refusal :=
  runWord (.hcancel h hs) false (eachLane fun _ l s =>
    let part := (s.grp l.g).part
    let hv := (s.thread l).handle hs
    match s.hState part hv, s.hCopy part hv with
    | .pending, some (k, _) => { s with copies := s.copies.modify k fun c => { c with cancel := true } }
    | _, _ => s)

def execHmovToH (h : Head) (hd : Fin 16) (a : Src) : State → Host.Outcome State Fault Refusal :=
  let i := Instr.hmovToH h hd a
  runWord i false (eachHeld fun c l s => s.withOps c i l fun vs s =>
    s.modBoth l fun th => th.setHandle hd (vs.getD 0 0))

def execHmovToV (h : Head) (d : Fin 96) (ha : Fin 16) : State → Host.Outcome State Fault Refusal :=
  runWord (.hmovToV h d ha) false (eachLane fun _ l s =>
    let v := (s.thread l).handle ha
    s.putBoth l [(d.val, v.lo), (d.val + 1, v.hi)])

end Sys2Proof.Machine
end

