-- ==== Sys2Proof/Machine/FloatOps.lean ====
section
/-! DEFINITION. Family 010: float arithmetic, special functions and conversions (R139 to R152), over the value functions of
Float, Tapered and Transcend. -/

namespace Sys2Proof.Machine

open Sys2Proof

/-! ### Elements (R139) -/

/-- The elements of an operand. -/
def elems (t : FFmt) (x : DWord) : List Nat :=
  match t with
  | .f16 => [x.toNat % 2 ^ 16]
  | .bf16 => [x.toNat % 2 ^ 16, x.toNat / 2 ^ 16 % 2 ^ 16]
  | .f32 => [x.toNat % 2 ^ 32]
  | .f64 => [x.toNat]

/-- Results of elements in one register, their flags joined. -/
def joinElems : List (Nat × Word) → Nat × Word
  | [] => (0, 0)
  | e :: r =>
    let (v, fl) := joinElems r
    (e.1 + 2 ^ 16 * v, e.2 ||| fl)

/-- A single value in the low bits of an operand (R139, conversions). -/
def single (t : FFmt) (x : DWord) : Nat := x.toNat % 2 ^ (fpar t).width

/-- A float word whose result per element depends on the mode in force. -/
def floatWord (dst : List Nat) (sym : SymRule) (f : Thread → List DWord → Nat × Word) : AluWord :=
  { dst, f := fun _ _ th vs => .ofFlagged (f th vs), tag := noTag, sym, neverU := false }

/-- Elementwise results of one operand. -/
def map1 (t : FFmt) (m : SrcMod) (f : Nat → Nat × Word) (vs : List DWord) : Nat × Word :=
  joinElems ((elems t (vs.getD 0 0)).map fun a => f (applyMod (fpar t) m a))

/-- Elementwise results of two operands. -/
def map2 (t : FFmt) (ma mb : SrcMod) (f : Nat → Nat → Nat × Word) (vs : List DWord) : Nat × Word :=
  joinElems (List.zipWith (fun a b => f (applyMod (fpar t) ma a) (applyMod (fpar t) mb b))
    (elems t (vs.getD 0 0)) (elems t (vs.getD 1 0)))

/-! ### Arithmetic (R142, R143) -/

/-- The chain an addition of a tagged `.f32` or `.f64` value joins (R153, R220). -/
def addSym (x : Fp2) (neg : Bool) : SymRule :=
  match x.t with
  | .f32 | .f64 => .addFlt neg x.t.wide x.ma x.mb (fpar x.t) x.rm
  | .f16 | .bf16 => .other

def execFadd (h : Head) (x : Fp2) : State → Host.Outcome State Fault Refusal :=
  runAlu (.fadd h x) (floatWord (regsW x.d x.t.wide) (addSym x false) fun th =>
    map2 x.t x.ma x.mb (faddBits (fpar x.t) (modeOf x.rm th.fmode)))

def execFsub (h : Head) (x : Fp2) : State → Host.Outcome State Fault Refusal :=
  runAlu (.fsub h x) (floatWord (regsW x.d x.t.wide) (addSym x true) fun th =>
    map2 x.t x.ma x.mb (fsubBits (fpar x.t) (modeOf x.rm th.fmode)))

def execFmul (h : Head) (x : Fp2) : State → Host.Outcome State Fault Refusal :=
  runAlu (.fmul h x) (floatWord (regsW x.d x.t.wide) .other fun th =>
    map2 x.t x.ma x.mb (fmulBits (fpar x.t) (modeOf x.rm th.fmode)))

/-- FFMA on the elements of three operands. -/
def ffmaElems (x : Fp3) (th : Thread) (vs : List DWord) : Nat × Word :=
  let f := fpar x.t
  let ab := List.zip (elems x.t (vs.getD 0 0)) (elems x.t (vs.getD 1 0))
  joinElems (List.zipWith (fun p c => ffmaBits f (modeOf x.rm th.fmode) (applyMod f x.ma p.1) (applyMod f x.mb p.2)
    (applyMod f x.mc c)) ab (elems x.t (vs.getD 2 0)))

def execFfma (h : Head) (x : Fp3) : State → Host.Outcome State Fault Refusal :=
  runAlu (.ffma h x) (floatWord (regsW x.d x.t.wide) .other (ffmaElems x))

def execFmin (h : Head) (x : FpMin) : State → Host.Outcome State Fault Refusal :=
  runAlu (.fmin h x) (floatWord (regsW x.d x.t.wide) .other fun _ =>
    map2 x.t x.ma x.mb (fminmaxBits (fpar x.t) false x.num))

def execFmax (h : Head) (x : FpMin) : State → Host.Outcome State Fault Refusal :=
  runAlu (.fmax h x) (floatWord (regsW x.d x.t.wide) .other fun _ =>
    map2 x.t x.ma x.mb (fminmaxBits (fpar x.t) true x.num))

/-! ### Compares, classes, rounding, scaling (R144 to R147) -/

def execFcmp (h : Head) (x : FcmpF) : State → Host.Outcome State Fault Refusal :=
  let cond := fun (vs : List DWord) => fcmpHolds x.cond x.sig x.absA x.absB x.t (vs.getD 0 0) (vs.getD 1 0)
  runAlu (.fcmp h x)
    { dst := [], tag := noTag, neverU := false,
      f := fun _ _ th vs => { val := 0, fl := (cond vs).2, preds := comparePreds x.pa x.pb (cond vs).1 (th.pred x.pc.val) },
      sym := .cmp (.flt x.cond x.t x.absA x.absB) x.t.wide x.pc fun _ vs => (cond vs).1 }

def execFclass (h : Head) (x : FclassF) : State → Host.Outcome State Fault Refusal :=
  runAlu (.fclass h x) (floatWord [x.d.val] .other fun _ vs =>
    joinElems ((elems x.t (vs.getD 0 0)).map fun a => (fclassBits (fpar x.t) a, 0)))

def execFrnd (h : Head) (x : FrndF) : State → Host.Outcome State Fault Refusal :=
  runAlu (.frnd h x) (floatWord (regsW x.d x.t.wide) .other fun th =>
    map1 x.t x.ma (frndBits (fpar x.t) (modeOf x.rm th.fmode) x.exact))

def execFscale (h : Head) (x : FscaleF) : State → Host.Outcome State Fault Refusal :=
  runAlu (.fscale h x) (floatWord (regsW x.d x.t.wide) .other fun th vs =>
    map1 x.t x.ma (fun a => fscaleBits (fpar x.t) (modeOf x.rm th.fmode) a (vs.getD 1 0).lo.toInt) vs)

/-! ### Special functions (R148) -/

/-- A special function on the one element of its operand. -/
def special (fn : SpecFn) (x : FspecF) : AluWord :=
  floatWord (regsW x.d x.t.wide) .other fun th => map1 x.t x.ma (specBits fn x.t (modeOf x.rm th.fmode))

def execFrcp (h : Head) (x : FspecF) : State → Host.Outcome State Fault Refusal := runAlu (.frcp h x) (special .rcp x)
def execFrsq (h : Head) (x : FspecF) : State → Host.Outcome State Fault Refusal := runAlu (.frsq h x) (special .rsq x)
def execFsqrt (h : Head) (x : FspecF) : State → Host.Outcome State Fault Refusal := runAlu (.fsqrt h x) (special .sqrt x)
def execFexp2 (h : Head) (x : FspecF) : State → Host.Outcome State Fault Refusal := runAlu (.fexp2 h x) (special .exp2 x)
def execFlog2 (h : Head) (x : FspecF) : State → Host.Outcome State Fault Refusal := runAlu (.flog2 h x) (special .log2 x)
def execFsin (h : Head) (x : FspecF) : State → Host.Outcome State Fault Refusal := runAlu (.fsin h x) (special .sin x)
def execFcos (h : Head) (x : FspecF) : State → Host.Outcome State Fault Refusal := runAlu (.fcos h x) (special .cos x)
def execFtanh (h : Head) (x : FspecF) : State → Host.Outcome State Fault Refusal := runAlu (.ftanh h x) (special .tanh x)

/-! ### Conversions (R149 to R152) -/

def execFcvt (h : Head) (x : FcvtF) : State → Host.Outcome State Fault Refusal :=
  runAlu (.fcvt h x) (floatWord (regsW x.d x.dst.wide) .other fun th vs =>
    fcvtBits (fpar x.dst) (fpar x.src) (modeOf x.rm th.fmode) (applyMod (fpar x.src) x.ma (single x.src (vs.getD 0 0))))

/-- The integer a source kind reads. -/
def intKind : NumKind → Option (Nat × Bool)
  | .flt _ => none
  | .s32 => some (32, true)
  | .n32 => some (32, false)
  | .s64 => some (64, true)
  | .n64 => some (64, false)

def icvtBits (x : IcvtF) (rm : RMode) (v : DWord) : Nat × Word :=
  match x.src, intKind x.src, x.dst, intKind x.dst with
  | .flt t, _, _, some (w, sg) => toIntBits w sg x.exact rm (unpackF (fpar t) (applyMod (fpar t) x.ma (single t v)))
  | _, some (w, sg), .flt t, _ =>
    ofIntBits (fpar t) rm (if sg then (BitVec.ofNat w v.toNat).toInt else ((v.toNat % 2 ^ w : Nat) : Int))
  | _, _, _, _ => (0, 0)

def execIcvt (h : Head) (x : IcvtF) : State → Host.Outcome State Fault Refusal :=
  runAlu (.icvt h x) (floatWord (regsW x.d x.dst.wide) .other fun th vs => icvtBits x (modeOf x.rm th.fmode) (vs.getD 0 0))

/-- Width of a tapered field, and the field's number (R151). -/
def tapBits (t6 : Bool) : Nat := if t6 then 6 else 8
def tapIndex (t6 : Bool) (b : DWord) : Nat := b.toNat % (if t6 then 8 else 4)

def execExtp (h : Head) (x : ExtpF) : State → Host.Outcome State Fault Refusal :=
  runAlu (.extp h x) (floatWord (regsW x.d x.dst.wide) .other fun th vs =>
    let k := tapIndex x.t6 (vs.getD 1 0)
    let n := tapBits x.t6
    let v := if x.t6 && decide (4 < k) then FVal.fin false 0 0
      else (decodeTap (natField (vs.getD 0 0).toNat (n * k) n) n).scale (vs.getD 2 0).lo.toInt
    roundVal (fpar x.dst) (modeOf x.rm th.fmode) v)

/-- PACKP writes one field of the old word. -/
def packpBits (x : PackpF) (old : Word) (vs : List DWord) : Nat × Word :=
  let k := tapIndex x.t6 (vs.getD 1 0)
  let n := tapBits x.t6
  if x.t6 && decide (4 < k) then (old.toNat, 0)
  else
    let (p, fl) := encodeTap ((unpackF (fpar x.src) (single x.src (vs.getD 0 0))).scale (-(vs.getD 2 0).lo.toInt)) n
    (old.toNat % 2 ^ (n * k) + p * 2 ^ (n * k) + old.toNat / 2 ^ (n * k + n) * 2 ^ (n * k + n), fl)

def execPackp (h : Head) (x : PackpF) : State → Host.Outcome State Fault Refusal :=
  runAlu (.packp h x)
    { dst := [x.d.val], f := fun g l _ vs => .ofFlagged (packpBits x (g.readV l x.d.val) vs), tag := noTag, sym := .other,
      neverU := false }

end Sys2Proof.Machine
end

