-- ==== Sys2Proof/Machine/CrossLane.lean ====
section
/-! DEFINITION. Family 011: cross-lane rounds (R154 to R161) and the rendezvous of groups (R162 to R164). -/

namespace Sys2Proof.Machine

open Sys2Proof

/-! ### Arriving (R154, R155) -/

def roundMask : Instr → MaskOp
  | .shfl _ x => x.mask
  | .vote _ x => x.mask
  | .redx _ x => x.mask
  | .scanx _ x => x.mask
  | .matchx _ x => x.mask
  | .xsnd _ x => x.mask
  | .xrcv _ x => x.mask
  | _ => .j 0

/-- The place of a pair mask among the operand values. -/
def maskIndex : Instr → Nat
  | .shfl _ _ | .xsnd _ _ => 2
  | .vote _ _ => 0
  | _ => 1

/-- The rounding mode a round takes from its first arrival (R159, R160). -/
def roundMode (i : Instr) (th : Thread) : RMode :=
  match i with
  | .redx _ x => modeOf x.rm th.fmode
  | .scanx _ x => modeOf x.rm th.fmode
  | _ => .rne

/-- The value captured as the second source: the lane number of SHFL, the slot of a rendezvous. -/
def captured (i : Instr) (th : Thread) (vs : List DWord) (ft : DWord) : Captured :=
  let last := vs.getLastD 0
  let z : Captured := { a := vs.getD 0 0, b := vs.getD 1 0, fill := last, p := false, pfill := false, ft }
  match i with
  | .vote _ x => { z with p := th.pred x.pa.val, pfill := match x.dst with
      | .all _ f | .any _ f | .uni _ f => th.pred f.val
      | .ballot _ _ => false }
  | .xsnd _ _ => { z with a := vs.getD 1 0, b := vs.getD 0 0 }
  | .xrcv _ _ => { z with a := 0, b := vs.getD 0 0 }
  | _ => z

/-- A lane joins the round at its word (R155). -/
def State.joinRound (s : State) (c : Ctx) (i : Instr) (l : Lane) (vs : List DWord) : State :=
  let th := s.thread l
  let cap := captured i th vs c.ft
  let s := s.modGroup l.g fun g =>
    let m := g.maskBits (match roundMask i with
      | .j n => g.j.get 0 n.val
      | .pair _ => vs.getD (maskIndex i) 0)
    let fresh : Round := { ins := i, mask := none, rm := .rne, slot := 0, joined := [], declined := [] }
    let r := (g.rounds.find? c.w.toNat).getD fresh
    let r := if r.mask.isSome then r
             else { r with ins := i, mask := some m, rm := roundMode i th, slot := cap.b.toNat }
    { g with rounds := g.rounds.set c.w.toNat
               { r with joined := r.joined.set l.t cap, declined := r.declined.filter (· != l.t) } }
  s.holdAt c l .round

/-- A lane whose guard is false declines (R155). -/
def State.declineRound (s : State) (c : Ctx) (i : Instr) (l : Lane) : State :=
  s.modGroup l.g fun g =>
    let r := (g.rounds.find? c.w.toNat).getD { ins := i, mask := none, rm := .rne, slot := 0, joined := [], declined := [] }
    { g with rounds := g.rounds.set c.w.toNat
               { r with joined := r.joined.erase l.t, declined := l.t :: r.declined.filter (· != l.t) } }

/-- The lanes of a list in increasing `%tid`. -/
def byTid (ls : List Lane) : List Lane := ((List.range 64).map fun t => ls.filter fun l => l.t == t).flatten

/-! ### Combining (R159, R160, R70) -/

def combine (op : RedOp) (rm : RMode) (a b : Nat) : Nat × Word :=
  let s32 := fun (x : Nat) => (BitVec.ofNat 32 x).toInt
  match op with
  | .add32 => ((a + b) % 2 ^ 32, 0)
  | .add64 => ((a + b) % 2 ^ 64, 0)
  | .mins => (if s32 a ≤ s32 b then a else b, 0)
  | .maxs => (if s32 a ≤ s32 b then b else a, 0)
  | .minn => (min a b, 0)
  | .maxn => (max a b, 0)
  | .and => (a &&& b, 0)
  | .or => (a ||| b, 0)
  | .xor => (a ^^^ b, 0)
  | .fadd32 => faddBits parF32 rm a b
  | .fadd64 => faddBits parF64 rm a b
  | .fmin => fminmaxBits parF32 false true a b
  | .fmax => fminmaxBits parF32 true true a b

/-- Combines values one at a time in order, with the flags raised. -/
def runSum (op : RedOp) (rm : RMode) : List Nat → Option (Nat × Word)
  | [] => none
  | v :: r => some (r.foldl (fun (acc : Nat × Word) x =>
      let (y, fl) := combine op rm acc.1 x
      (y, acc.2 ||| fl)) (v, 0))

/-- One level of the tree of R70. -/
def treeLevel (op : RedOp) (rm : RMode) : List (Option Nat) → List (Option Nat) × Word
  | a :: b :: r =>
    let (rest, fl) := treeLevel op rm r
    match a, b with
    | some x, some y =>
      let (v, f) := combine op rm x y
      (some v :: rest, fl ||| f)
    | some x, none => (some x :: rest, fl)
    | none, y => (y :: rest, fl)
  | [a] => ([a], 0)
  | [] => ([], 0)

/-- TreeSum over the 64 leaves: six levels. -/
def treeSum (op : RedOp) (rm : RMode) : Nat → List (Option Nat) → Option Nat × Word
  | 0, l => (l.headD none, 0)
  | n + 1, l =>
    let (l', fl) := treeLevel op rm l
    let (v, fl') := treeSum op rm n l'
    (v, fl ||| fl')

def redIsSum : RedOp → Bool
  | .fadd32 | .fadd64 => true
  | _ => false

/-- The combination of the present members (R159). -/
def reduce (op : RedOp) (rm : RMode) (vs : AMap Nat) : Option Nat × Word :=
  if redIsSum op then treeSum op rm 6 ((List.range 64).map vs.find?)
  else match runSum op rm (vs.map Prod.snd) with
    | some (v, fl) => (some v, fl)
    | none => (none, 0)

/-! ### Results (R157 to R161, R163) -/

/-- What a joined thread receives. -/
structure RoundOut where
  regs : List (Nat × Word)
  preds : List (Nat × Bool)
  fl : Word
  deriving DecidableEq, Repr, Inhabited

def RoundOut.reg (d : Fin 96) (w : Bool) (v : DWord) (fl : Word) : RoundOut :=
  { regs := if w then [(d.val, v.lo), (d.val + 1, v.hi)] else [(d.val, v.lo)], preds := [], fl }

/-- The thread whose value SHFL reads (R157). -/
def shflFrom (m : ShflMode) (t n : Nat) : Option Nat :=
  match m with
  | .idx => some n
  | .up => if n ≤ t then some (t - n) else none
  | .down => some (t + n)
  | .xor => some (t ^^^ n)

/-- The result of a joined thread from the present members' captures. XRCV of another width than its XSND takes the low word, or
zero-extends (R163; log entry 61). -/
def roundOut (i : Instr) (rm : RMode) (present : AMap Captured) (t : Nat) (own : Captured) : RoundOut :=
  match i with
  | .shfl _ x =>
    let v := match (shflFrom x.mode t own.b.lo.toNat).bind present.find? with
      | some c => c.a
      | none => own.fill
    .reg x.d x.w v 0
  | .vote _ x =>
    let ps := present.map fun e => e.2.p
    match x.dst with
    | .all pd _ => { regs := [], fl := 0, preds := [(pd.val, if present.isEmpty then own.pfill else ps.all id)] }
    | .any pd _ => { regs := [], fl := 0, preds := [(pd.val, if present.isEmpty then own.pfill else ps.any id)] }
    | .uni pd _ => { regs := [], fl := 0,
                     preds := [(pd.val, if present.isEmpty then own.pfill else ps.all id || !ps.any id)] }
    | .ballot d _ =>
      .reg d true (if present.isEmpty then own.fill
                   else BitVec.ofNat 64 ((present.map fun e => b2n e.2.p * 2 ^ e.1).sum)) 0
  | .redx _ x =>
    match reduce x.op rm (present.map fun e => (e.1, e.2.a.toNat)) with
    | (some v, fl) => .reg x.d x.op.wide (BitVec.ofNat 64 v) fl
    | (none, _) => .reg x.d x.op.wide own.fill 0
  | .scanx _ x =>
    let upto := present.filter fun e => if x.excl then decide (e.1 < t) else decide (e.1 ≤ t)
    match runSum x.op rm (upto.map fun e => e.2.a.toNat) with
    | some (v, fl) => .reg x.d x.op.wide (BitVec.ofNat 64 v) fl
    | none => .reg x.d x.op.wide own.fill 0
  | .matchx _ x =>
    let bits := fun (p : DWord → Bool) =>
      BitVec.ofNat 64 (((present.filter fun e => p e.2.a).map fun e => 2 ^ e.1).sum)
    if x.all then
      match present with
      | [] => .reg x.d true own.fill 0
      | e :: r => .reg x.d true (if r.all fun f => f.2.a == e.2.a then bits (fun _ => true) else own.fill) 0
    else .reg x.d true (bits (· == own.a)) 0
  | .xrcv _ x => .reg x.d x.w (match present.find? t with
      | some c => c.a
      | none => own.fill) 0
  | _ => { regs := [], preds := [], fl := 0 }

/-- The result is written to the thread and its shadow, and the thread goes on at its fall-through clause (R155). -/
def State.deliver (s : State) (l : Lane) (o : RoundOut) : State :=
  let s := s.give l o.regs
  (s.modBoth l fun th => ((th.raise o.fl).ownFlags o.fl).setPreds o.preds).release l

/-! ### Closing (R155, R163) -/

/-- Does a thread stand joined at a round's word? -/
def Group.standsAt (g : Group) (t : Nat) (pc : DWord) (k : HoldKind) : Bool :=
  match g.thread? t with
  | some th => th.live && th.pc == pc && (match th.hold with
    | some h => h.kind == k
    | none => false)
  | none => false

/-- The joined threads that still stand at the round. -/
def Group.standing (g : Group) (pc : DWord) (k : HoldKind) (r : Round) : AMap Captured :=
  r.joined.filter fun e => g.standsAt e.1 pc k

/-- Has every member of the mask joined, declined or exited? -/
def Group.closes (g : Group) (pc : DWord) (r : Round) : Bool :=
  match r.mask with
  | none => false
  | some m => (List.range g.width).all fun t =>
      !m.getLsbD t || g.standsAt t pc .round || r.declined.contains t || (match g.thread? t with
        | some th => !th.live
        | none => true)

/-- The members present: in the mask and joined. -/
def Round.present (r : Round) (joined : AMap Captured) : AMap Captured :=
  joined.filter fun e => (r.mask.getD 0).getLsbD e.1

def isRendezvous : Instr → Bool
  | .xsnd _ _ | .xrcv _ _ => true
  | _ => false

/-- The slot key of a group: its cluster and the slot number. -/
def State.slotKey (s : State) (g slot : Nat) : Nat := 16 * coreCluster (s.grp g).core + slot % 16

/-- A closed rendezvous round joins its slot; its threads stay held (R163). -/
def State.queueRound (s : State) (g : Nat) (pc : DWord) (r : Round) : State :=
  let ls := ((s.grp g).standing pc .round r).keys
  let s := ls.foldl (fun s t => s.modBoth { g, t, sh := false } fun th =>
    { th with hold := th.hold.map fun h => { h with kind := .rendezvous } }) s
  let x : XRound := { g, pc, round := { r with joined := r.joined.filter fun e => ls.contains e.1 } }
  s.modCrew (s.grp g).crew fun c =>
    { c with slots := c.slots.upd default (s.slotKey g r.slot) fun y =>
        match r.ins with
        | .xsnd _ _ => { y with senders := y.senders ++ [x] }
        | _ => { y with receivers := y.receivers ++ [x] } }

/-- Closes one round of a group if it is complete. -/
def State.closeRound (s : State) (g : Nat) (pc : DWord) : State :=
  let x := s.grp g
  match x.rounds.find? pc.toNat with
  | none => s
  | some r =>
    if !x.closes pc r then s
    else
      let s := s.modGroup g fun x => { x with rounds := x.rounds.erase pc.toNat }
      if isRendezvous r.ins then s.queueRound g pc r
      else
        let joined := x.standing pc .round r
        let present := r.present joined
        joined.foldl (fun s e => s.deliver { g, t := e.1, sh := false } (roundOut r.ins r.rm present e.1 e.2)) s

/-- May the threads of two closed rounds be released as one acquire-release at `.clu` (R164, R183)? -/
def State.pairReady (s : State) (a b : XRound) : Bool :=
  let ready := fun (x : XRound) => ((s.grp x.g).standing x.pc .rendezvous x.round).all fun e =>
    s.arrived { g := x.g, t := e.1, sh := false } .clu
  ready a && ready b

/-- Pairs a sending and a receiving round (R163). -/
def State.pairRounds (s : State) (a b : XRound) : State :=
  let sent := a.round.present a.round.joined
  let s := ((s.grp b.g).standing b.pc .rendezvous b.round).foldl
    (fun s e => s.deliver { g := b.g, t := e.1, sh := false } (roundOut b.round.ins b.round.rm sent e.1 e.2)) s
  ((s.grp a.g).standing a.pc .rendezvous a.round).foldl (fun s e => s.release { g := a.g, t := e.1, sh := false }) s

/-- One slot: a waiting deposit moves in, and a deposit pairs with the first receiving round. -/
def State.pumpSlot (s : State) (crew key : Nat) : State :=
  match (s.crew? crew).bind fun c => c.slots.find? key with
  | none => s
  | some y =>
    let y := match y.deposit, y.senders with
      | none, x :: r => { y with deposit := some x, senders := r }
      | _, _ => y
    let put := fun (y : RSlot) (s : State) => s.modCrew crew fun c => { c with slots := c.slots.set key y }
    match y.deposit, y.receivers with
    | some a, b :: r =>
      if s.pairReady a b then (put { y with deposit := none, receivers := r } s).pairRounds a b else put y s
    | _, _ => put y s

/-! ### The words -/

/-- A cross-lane word: the guard-false lanes decline, the others join, and a complete round closes. A value read with a
symbolic tag makes an open region untrackable (R153). -/
def roundEffect (i : Instr) : Effect := fun c act s =>
  let gs := groupsOf (s.lanesOfGang c.k)
  let out := (s.lanesOfGang c.k).filter fun l => !l.sh && !act.contains l
  let s := out.foldl (fun s l => s.declineRound c i l) s
  let s := (byTid act).foldl (fun s l => s.withOps c i l fun vs s =>
    let s := s.trackLane i { dst := [], f := fun _ _ _ _ => .ofVal 0, tag := noTag, sym := .other, neverU := false } l vs
    s.joinRound c i l vs) s
  some (gs.foldl (fun s g => s.closeRound g c.w) s)

def execShfl (h : Head) (x : ShflF) : State → Host.Outcome State Fault Refusal :=
  runWord (.shfl h x) false (roundEffect (.shfl h x))

def execVote (h : Head) (x : VoteF) : State → Host.Outcome State Fault Refusal :=
  runWord (.vote h x) false (roundEffect (.vote h x))

def execRedx (h : Head) (x : RedxF) : State → Host.Outcome State Fault Refusal :=
  runWord (.redx h x) false (roundEffect (.redx h x))

def execScanx (h : Head) (x : ScanxF) : State → Host.Outcome State Fault Refusal :=
  runWord (.scanx h x) false (roundEffect (.scanx h x))

def execMatchx (h : Head) (x : MatchF) : State → Host.Outcome State Fault Refusal :=
  runWord (.matchx h x) false (roundEffect (.matchx h x))

/-- The slot operand must be U in every group of the gang (R46), and below 16 in each thread (R162). -/
def rendezvousEffect (i : Instr) (slot : Src) : Effect := fun c act s =>
  if act.any fun l => !srcIsU (s.grp l.g) false (slot, false) then some (s.groupPlain c act .shape)
  else
    let bad := match slot with
      | .v n => act.filter fun l => decide (16 ≤ ((s.grp l.g).readV l n.val).toNat)
      | .q _ | .zero => []
    let s := s.groupPlain c bad .illegalEnc
    roundEffect i c (act.filter fun l => !bad.contains l) s

def execXsnd (h : Head) (x : XsndF) : State → Host.Outcome State Fault Refusal :=
  runWord (.xsnd h x) false (rendezvousEffect (.xsnd h x) x.slot)

def execXrcv (h : Head) (x : XrcvF) : State → Host.Outcome State Fault Refusal :=
  runWord (.xrcv h x) false (rendezvousEffect (.xrcv h x) x.slot)

end Sys2Proof.Machine
end

