-- ==== Sys2Proof/Machine/Stash.lean ====
section
/-! DEFINITION. Stash windows (R191 to R193) and cache control (R194 to R196). -/

namespace Sys2Proof.Machine

open Sys2Proof

/-! ### SHAPE for group words (R46) -/

/-- Is some uniform-required operand not U in some group of the issue? -/
def State.shapeBad (s : State) (act : List Lane) (ops : List (Src × Bool)) : Bool :=
  act.any fun l => ops.any fun o => !srcIsU (s.grp l.g) false o

/-- The operand values of a performer whose operands are U. -/
def State.uniformOps (s : State) (l : Lane) (ops : List (Src × Bool)) : List DWord :=
  match readSrcs (s.grp l.g) l (s.thread l) ops with
  | (.ok vs, _) => vs
  | (.error _, _) => []

/-! ### SMAP (R191) -/

def rangesMeet (a n b m : Nat) : Bool := decide (a < b + m) && decide (b < a + n)

/-- The fault of an SMAP, if any; the window already mapped through the record does not count against it. -/
def State.smapFault (s : State) (g bd va off len : Nat) : Option Cause :=
  let x := s.grp g
  let core := s.core x.core
  let others := core.wins.filter fun e => !(e.2.g == g && e.2.bd == bd)
  let stash := match core.carve with
    | some c => c.stash * 65536
    | none => 0
  if va % 4096 ≠ 0 ∨ off % 4096 ≠ 0 ∨ len % 4096 ≠ 0 ∨ len = 0 ∨ bd < 3 ∨ (aperOff (BitVec.ofNat 64 va)).isSome then some .illegalEnc
  else if stash < off + len then some .bounds
  else if others.any fun e => rangesMeet e.2.off e.2.len off len || rangesMeet e.2.va.toNat e.2.len va len then some .bounds
  else if 16 ≤ others.length then some .bounds
  else none

/-- Maps a window through a record. -/
def State.smapDo (s : State) (g bd : Nat) (va : DWord) (off len : Nat) (coh : Bool) : State :=
  let s := match s.winOf g bd with
    | some (w, _) => s.winUnmap (s.grp g).core w
    | none => s
  let core := (s.grp g).core
  let free := ((List.range 16).find? fun n => !(s.core core).wins.keys.contains n).getD 0
  let s := s.modCore core fun c => { c with wins := c.wins.set free { g, bd, va, off, len, coh, sectors := [] } }
  s.modGroup g fun x => { x with b := x.b.set bd (mkRec va len 1 true true) }

/-- Is a place inside a window? -/
def inWin (core w : Nat) : Space → Bool
  | .win c v _ => c == core && v == w
  | .phys _ | .aper _ _ => false

/-- Is an access to a window still in flight? -/
def State.winBusy (s : State) (core w : Nat) : Bool :=
  (s.ops.any fun e => inWin core w e.2.space) ||
  ((s.core core).tops.any fun o => o.places.any fun e => inWin core w e.2.space) ||
  ((s.core core).mma.any fun o => o.places.any fun e => inWin core w e.2.space)

/-- One group's SMAP. -/
def State.smap (s : State) (c : Ctx) (x : SmapF) (p : Lane) (ls : List Lane) : State :=
  let vs := s.uniformOps p [(x.va, true), (x.off, false), (x.len, false)]
  let va := vs.getD 0 0
  let off := (vs.getD 1 0).toNat
  let len := (vs.getD 2 0).toNat
  match s.smapFault p.g x.bd.val va.toNat off len with
  | some cause => s.groupPlain c ls cause
  | none =>
    let same := match s.winOf p.g x.bd.val with
      | some (_, w) => w.va == va && w.off == off && w.len == len && w.coh == x.coh
      | none => false
    if same then s else s.smapDo p.g x.bd.val va off len x.coh

/-- Is some window that the issuing groups map through a record still accessed? The word then stalls. -/
def State.recBusy (s : State) (act : List Lane) (bd : Nat) : Bool :=
  (groupsOf act).any fun g => match s.winOf g bd with
    | some (w, _) => s.winBusy (s.grp g).core w
    | none => false

/-- Does the window of some issuing group's record wait to be written back (R402)? -/
def State.recWaits (s : State) (act : List Lane) (bd : Nat) : Bool :=
  (groupsOf act).any fun g => match s.winOf g bd with
    | some (w, _) => s.backWaits (s.grp g).core w
    | none => false

def execSmap (h : Head) (x : SmapF) : State → Host.Outcome State Fault Refusal :=
  runWord (.smap h x) false fun c act s =>
    if s.shapeBad act [(x.va, true), (x.off, false), (x.len, false)] then some (s.groupPlain c act .shape)
    else if s.recBusy act x.bd.val || s.recWaits act x.bd.val then none
    else some ((performers act).foldl (fun s e => s.smap c x e.1 e.2) s)

/-! ### SUNMAP, SFLUSH, SMODE (R192, R193) -/

/-- Acts on the window of each issuing group's record, once no access to it is in flight and its dirty sectors can be written back; no
effect without a window. -/
def onWindow (bd : Nat) (f : State → Nat → Nat → State) : Effect := fun _ act s =>
  if s.recBusy act bd || s.recWaits act bd then none
  else some ((groupsOf act).foldl (fun s g =>
    match s.winOf g bd with
    | some (w, _) => f s (s.grp g).core w
    | none => s) s)

def execSunmap (h : Head) (bd : Fin 32) : State → Host.Outcome State Fault Refusal :=
  runWord (.sunmap h bd) false (onWindow bd.val fun s core w => s.winUnmap core w)

def execSflush (h : Head) (bd : Fin 32) : State → Host.Outcome State Fault Refusal :=
  runWord (.sflush h bd) false (onWindow bd.val fun s core w => s.winFlush core w)

/-- The pages of a window from the start; the aperture's are no memory (R253). -/
def Window.pages (x : Window) : List Nat :=
  (List.range (x.len / 4096)).filter fun k => (aperOff (x.va + BitVec.ofNat 64 (4096 * k))).isNone

/-- The physical pages of a window, or the first that does not translate, with its error. -/
def State.winPages (s : State) (core w : Nat) (ks : List Nat) : Except (XErr × Nat) (List Nat) × State :=
  ks.foldl (fun (acc : Except (XErr × Nat) (List Nat) × State) k =>
    match acc with
    | (.error e, s) => (.error e, s)
    | (.ok ps, s) =>
      match s.winPa core w (64 * k) .rd with
      | (.ok pa, s) => (.ok (ps ++ [pa]), s)
      | (.error e, s) => (.error (e, k), s)) (.ok [], s)

/-- Is an access in flight to one of these pages, from any core? -/
def State.pagesBusy (s : State) (ps : List Nat) : Bool :=
  let on := fun (sp : Space) => match sp with
    | .phys pa => ps.any fun p => pa / 4096 == p / 4096
    | .aper _ _ | .win _ _ _ => false
  (s.ops.any fun e => on e.2.space) ||
  s.cores.any fun c => (c.2.tops.any fun o => o.places.any fun e => on e.2.space) ||
    c.2.mma.any fun o => o.places.any fun e => on e.2.space

/-- Can every sector of a page be read for a window: its port works, and no fence rebuilds what a request needs (R258, R402)? -/
def State.pageOpen (s : State) (die pa : Nat) : Bool := (List.range 64).all fun k => s.reachAt 1 die true (pa + 64 * k)

/-- Step 3 towards coherent: every sector is filled and registered, and the window holds what memory holds: what it held of its own was
written back at step 2, or was clean (log entry 21). -/
def State.moltCoh (s : State) (core w : Nat) (ks : List Nat) : State :=
  let had := match s.win? core w with
    | some x => x.sectors.keys
    | none => []
  let s := s.modWin core w fun x => { x with coh := true, sectors := [] }
  let s := (ks.map fun k => rangeFrom (64 * k) 64).flatten.foldl (fun s k => (s.winFill core w k .rd).2) s
  s.modCore core fun c => { c with sfill := c.sfill - BitVec.ofNat 64 had.length }

/-- Step 3 towards software-managed: the sectors leave the directory and keep their bytes. -/
def State.moltSw (s : State) (core w : Nat) : State :=
  let ks := match s.win? core w with
    | some x => x.sectors.keys
    | none => []
  let s := ks.foldl (fun s k => match s.winPa core w k .rd with
    | (.ok pa, s) =>
      let (bs, s) := s.peek pa 64
      s.modWin core w fun x => { x with sectors := x.sectors.modify k (fun y => { y with bytes := bs }) }
    | (.error _, s) => s) s
  (s.winUnregister core w).modWin core w fun x => { x with coh := false }

/-- One group's SMODE; nothing while an access to the range is in flight. A page of the range that does not translate faults
the issuing threads (log entry 21). -/
def State.smode (s : State) (c : Ctx) (g bd : Nat) (coh : Bool) (ls : List Lane) : Option State :=
  match s.winOf g bd with
  | none => some s
  | some (w, x) =>
    if x.coh = coh then some s
    else
      let core := (s.grp g).core
      match s.winPages core w x.pages with
      | (.error (e, k), s) =>
        some (s.groupFault c ls { cause := e.cause, kind := .load, addr := x.va + BitVec.ofNat 64 (4096 * k) })
      | (.ok ps, s) =>
        if s.winBusy core w || s.pagesBusy ps || s.backWaits core w || (coh && ps.any fun p => !s.pageOpen (coreDie core) p) then none
        else
          let s := s.winFlush core w
          some (if coh then s.moltCoh core w x.pages else s.moltSw core w)

def execSmode (h : Head) (bd : Fin 32) (coh : Bool) : State → Host.Outcome State Fault Refusal :=
  runWord (.smode h bd coh) false fun c act s =>
    (performers act).foldl (fun acc e => acc.bind fun s => s.smode c e.1.g bd.val coh e.2) (some s)

/-! ### CFLUSH, CINV, ICINV (R194, R195) -/

/-- The lines of a range: its first address and its bytes. -/
def lineRange (va len : Nat) : Nat × Nat :=
  let a := va / 256 * 256
  (a, (va + max len 1 + 255) / 256 * 256 - a)

/-- The physical pages of a range, in increasing address order, or the fault of the first that fails. Pages of the aperture are never
translated (R253). -/
def State.rangePages (s : State) (l : Lane) (va : DWord) (a n : Nat) : Except FaultInfo (List (Option Nat)) × State :=
  let g := s.grp l.g
  (rangeFrom (a / 4096) ((a + n - 1) / 4096 - a / 4096 + 1)).foldl
    (fun (acc : Except FaultInfo (List (Option Nat)) × State) k =>
      match acc with
      | (.error e, s) => (.error e, s)
      | (.ok ps, s) =>
        if (aperOff (BitVec.ofNat 64 (4096 * k))).isSome then (.ok (ps ++ [none]), s)
        else match s.xlate g.core g.part (BitVec.ofNat 64 (4096 * k)) .leaf with
        | (.ok pa, s) => (.ok (ps ++ [some pa]), s)
        | (.error e, s) =>
          (.error { cause := e.cause, kind := .load, addr := BitVec.ofNat 64 (max va.toNat (4096 * k)) }, s))
    (.ok [], s)

/-- The sectors of a range by its pages. -/
def rangeSectors (a n : Nat) (ps : List (Option Nat)) : List Nat :=
  (rangeFrom (a / 64) (n / 64)).filterMap fun k =>
    (ps.getD (k * 64 / 4096 - a / 4096) none).map fun p => (p + k * 64 % 4096) / 64

/-- Writes back one sector from the copies inside the instance of a scope (R194, R267, R293). -/
def State.cleanSector (s : State) (scope : Scope) (core sec : Nat) : State :=
  match s.paKind (64 * sec) with
  | .host _ => if scope = .sys then s.hostFlush sec else s
  | .hbm | .span | .window _ | .none =>
    let x := s.sector sec
    if x.win.isSome then s
    else
      let inside := fun (c : Nat) => scopeContains scope core c
      let dirty := x.l1.any fun e => inside e.1 && (e.2 == .m || e.2 == .o)
      let wide := decide (2 ≤ scopeLevel scope)
      let l2in := wide && x.l2dirty.any fun d => inside (d * 96)
      let l1 := x.l1.mapVals fun c v => if inside c then (match v with
        | .m => .e
        | .o => .s
        | v => v) else v
      let kept := dirty && !wide
      let y := { x with l1, below := if dirty then none else x.below,
                        l2dirty := if kept then some (coreDie core) else if (dirty && wide) || l2in then none else x.l2dirty,
                        l2own := if kept && l1.all (fun e => e.2 == .s) then some (coreDie core) else x.l2own }
      if (dirty && wide) || l2in then (s.setSector sec y).toMsc sec else s.setSector sec y

/-- Invalidates the copies of one sector inside the instance. -/
def State.invSector (s : State) (scope : Scope) (core sec : Nat) : State :=
  match s.paKind (64 * sec) with
  | .host _ => if scope = .sys then { s with hostCache := s.hostCache.erase sec } else s
  | .hbm | .span | .window _ | .none =>
    let x := s.sector sec
    if x.win.isSome then s
    else
      let gone := x.l1.keys.filter fun c => scopeContains scope core c
      let s := gone.foldl (fun s c => s.dropCopy c sec) s
      let s := if 2 ≤ scopeLevel scope then s.modSector sec fun y =>
          let out := fun (d : Nat) => !scopeContains scope core (d * 96)
          let z := { y with l2own := y.l2own.filter out, l2s := y.l2s.filter out, l2stale := y.l2stale.filter fun e => out e.1 }
          { z with dir := z.dirLeft }
        else s
      let arrived := (x.stale.keys.filter fun c => scopeContains scope core c)
      let s := arrived.foldl (fun s c => (s.modSector sec fun y => { y with stale := y.stale.erase c }).markCore sec c) s
      s.modSector sec fun y => y.freshen []

/-- Does a sector wait to be written back from inside an instance: its bytes there are dirty, and the port or the home they go to does not
answer (R293, R396, R402)? -/
def State.cleanWaits (s : State) (scope : Scope) (core sec : Nat) : Bool :=
  let x := s.sector sec
  let inside := fun (c : Nat) => scopeContains scope core c
  match s.paKind (64 * sec) with
  | .host p => scope == .sys && (s.hostCache.find? sec).any (fun h => !h.own.isEmpty) && (s.hostPort p).recovery.isSome
  | k => decide (2 ≤ scopeLevel scope) && x.win.isNone &&
      ((x.l1.any fun e => inside e.1 && (e.2 == .m || e.2 == .o)) || x.l2dirty.any fun d => inside (d * 96)) &&
      (!s.kindOpen k || s.homeLost sec)

/-- Instruction-cache copies inside an instance go (R195, R296). -/
def State.icacheDrop (s : State) (scope : Scope) (core : Nat) (secs : List Nat) : State :=
  { s with cores := s.cores.mapVals fun k c =>
    if scopeContains scope core k then { c with icache := c.icache.filter fun e => !secs.contains e.1 } else c }

/-- ICINV of a range: instruction-cache copies go and fetch slots are marked, inside the instance (R195). -/
def State.icinvRange (s : State) (scope : Scope) (l : Lane) (a n : Nat) (secs : List Nat) : State :=
  let me := s.grp l.g
  let s := s.icacheDrop scope me.core secs
  let mark := fun (f : FetchSlot) =>
    if rangesMeet f.clause.addr.toNat (8 * (f.clause.hdr.cnt + 2)) a n then { f with marked := true } else f
  { s with groups := s.groups.mapVals fun _ g =>
    if g.part == me.part && scopeContains scope me.core g.core then { g with fslot := g.fslot.map mark } else g }

/-- What a range word does to a sector list. -/
abbrev RangeAct := Lane → (a n : Nat) → List Nat → State → State

/-- The address of a range word, checked with a size of Max(length, 1) and no alignment (R194). -/
def State.rangeAddr (s : State) (l : Lane) (m : MAddr) (len : Nat) : RecAddr :=
  let g := s.grp l.g
  recordAddress (g.brec m.br.val) (g.offsetPair l m.ofs) m.imm (max len 1) false

/-- What a range word finds at its addresses. -/
inductive RangePlan
  /-- ILLEGAL_ENC at the word -/
  | odd
  | fault (f : FaultInfo)
  /-- no memory stands there -/
  | nothing
  | lines (a n : Nat) (secs : List Nat)
  deriving DecidableEq, Repr, Inhabited

/-- The lines of a range word, or its fault, and the state after its translations (R194, R253). -/
def State.rangePlan (s : State) (x : RangeF) (l : Lane) (len : Nat) : RangePlan × State :=
  let odd := match x.m.ofs with
    | some v => decide (v.val % 2 = 1) && decide (recMode ((s.grp l.g).brec x.m.br.val) ≠ 2)
    | none => false
  if odd then (.odd, s)
  else match s.rangeAddr l x.m len with
    | .bad a => (.fault { cause := .bounds, kind := .load, addr := a }, s)
    | .outside => (.nothing, s)
    | .at va =>
      match aperOff va with
      | some off => match s.aperture l.g off (max len 1) with
        | some _ => (.nothing, s)
        | none => (.fault { cause := .bounds, kind := .load, addr := va }, s)
      | none =>
        let (a, n) := lineRange va.toNat len
        let last := va + BitVec.ofNat 64 (max len 1 - 1)
        let into := match aperOff last with
          | some off => (s.aperture l.g 0 (off + 1)).isNone
          | none => false
        if into then (.fault { cause := .bounds, kind := .load, addr := BitVec.ofNat 64 aperBase }, s)
        else match s.rangePages l va a n with
        | (.error f, s) => (.fault f, s)
        | (.ok ps, s) => (.lines a n (rangeSectors a n ps), s)

/-- The length of a range word. -/
def rangeLen (vs : List DWord) : Nat := (vs.getD 0 0).toNat % 2 ^ 32

/-- One lane of a range word. -/
def State.rangeWord (s : State) (c : Ctx) (i : Instr) (x : RangeF) (act : RangeAct) (l : Lane) : State :=
  s.withOps c i l fun vs s =>
    match s.rangePlan x l (rangeLen vs) with
    | (.odd, s) => s.plainFault c l .illegalEnc
    | (.fault f, s) => s.faultAt c l f
    | (.nothing, s) => s
    | (.lines a n secs, s) => act l a n secs s

/-- Does some sector of a lane's range wait to be written back? -/
def State.rangeWaits (s : State) (c : Ctx) (i : Instr) (x : RangeF) (l : Lane) : Bool :=
  match s.operands c i l with
  | .error _ => false
  | .ok (vs, s) => match (s.rangePlan x l (rangeLen vs)).1 with
    | .lines _ _ secs => secs.any fun k => s.cleanWaits x.scope (s.grp l.g).core k
    | .odd | .fault _ | .nothing => false

/-- A range word waits for the lane's own accesses, so that it covers the stores before it (R293); one that writes back waits for the ports
and the homes that its dirty sectors need (R396, R402). -/
def rangeEffect (i : Instr) (x : RangeF) (cleans : Bool) (act : RangeAct) : Effect := fun c ls s =>
  if ls.any fun l => !s.drained l || (cleans && s.rangeWaits c i x l) then none
  else eachHeld (fun c l s => s.rangeWord c i x act l) c ls s

def execCflush (h : Head) (x : RangeF) : State → Host.Outcome State Fault Refusal :=
  let i := Instr.cflush h x
  runWord i false (rangeEffect i x true fun l _ _ secs s =>
    secs.foldl (fun s k => s.cleanSector x.scope (s.grp l.g).core k) s)

def execCinv (h : Head) (x : RangeF) : State → Host.Outcome State Fault Refusal :=
  let i := Instr.cinv h x
  runWord i false (rangeEffect i x true fun l _ _ secs s =>
    (secs.foldl (fun s k => (s.cleanSector x.scope (s.grp l.g).core k).invSector x.scope (s.grp l.g).core k) s).icacheDrop x.scope
      (s.grp l.g).core secs)

def execIcinv (h : Head) (x : RangeF) : State → Host.Outcome State Fault Refusal :=
  let i := Instr.icinv h x
  runWord i false (rangeEffect i x false fun l a n secs s => s.icinvRange x.scope l a n secs)

/-! ### MSCFL (R196) -/

/-- Every dirty memory-side cache line homed on a die of the instance is written back. -/
def State.mscFlush (s : State) (scope : Scope) (core : Nat) : State :=
  (AMap.keys (s.sectors.filter fun e => e.2.msc.isSome && scopeContains scope core (s.home (64 * e.1) * 96))).foldl
    (fun s k => s.mscDrain (k / 4)) s

def execMscfl (h : Head) (scope : Scope) : State → Host.Outcome State Fault Refusal :=
  runWord (.mscfl h scope) false (eachLane fun _ l s => s.mscFlush scope (s.grp l.g).core)

end Sys2Proof.Machine
end

