-- ==== Sys2Proof/Machine/EvIssue.lean ====
section
/-! DEFINITION. Events of the picker (R236 to R246): fetching a clause into a group's slot, starting a gang, the ageing of
paths. An event that its rule does not allow now changes nothing (log entry 1). -/

namespace Sys2Proof.Machine

open Sys2Proof

/-- The meaning of an event: what it does where it may happen, else nothing. -/
def runEvent (f : State → Option State) (s : State) : Host.Outcome State Fault Refusal := .next ((f s).getD s)

/-! ### Who may start a clause (R80, R239, R240, R364) -/

def quadOf (g : Group) : Nat := g.core * 4 + g.quad

/-- Has a crew started: no core of it waits for a later start window, no group of it for a tile (R23, R229, R331)? -/
def State.crewStarted (s : State) (crew : Nat) : Bool :=
  match s.crew? crew with
  | none => true
  | some c => c.groups.all fun g => match s.group? g with
    | some x => (s.core x.core).use != .waiting && x.owed.isEmpty
    | none => true

/-- Does a launch run, that is, is it not being replayed (R381)? -/
def State.launchRuns (s : State) (l : Nat) : Bool := match s.launch? l with
  | some x => x.state != .replaying
  | none => true

/-- Does a group run, at least to the end of what it has begun: its partition is resident, or being saved; its die is not fenced, its crew
has started (R312, R331, R344, R401)? -/
def State.runs (s : State) (g : Group) : Bool :=
  ((s.partn g.part).state == .resident || (s.partn g.part).state == .saving) && !(s.die (coreDie g.core)).fenced &&
  s.crewStarted g.crew && !s.halted g

/-- May a group start anything: it runs, and no save has begun (R312, R344)? -/
def State.alive (s : State) (g : Group) : Bool := (s.partn g.part).state == .resident && s.runs g

/-- May a group's threads start clauses: is it alive, its cluster neither stopping nor stopped? -/
def State.mayStart (s : State) (g : Group) : Bool :=
  s.alive g && !(s.cluster (coreCluster g.core)).stopping && !(s.cluster (coreCluster g.core)).stopped

def State.inGang (s : State) (g t : Nat) : Bool := s.gangs.any fun k => k.2.lanes.any fun l => l.g == g && l.t == t

/-- The live threads of a group at a PC that are neither held nor in a gang. -/
def State.idleAt (s : State) (gid : Nat) (g : Group) (pc : DWord) : List Nat :=
  (g.live.filter fun e => e.2.pc == pc && e.2.hold.isNone && !s.inGang gid e.1).map Prod.fst

/-- The place of a word address in a clause: the index of the word, or nothing for the clause's own address. -/
def Clause.indexOf (c : Clause) (pc : DWord) : Option (Option Nat) :=
  if pc = c.addr then some none
  else
    let d := (pc - c.addr).toNat
    if d % 8 = 0 ∧ 8 ≤ d ∧ d / 8 - 1 ≤ c.hdr.cnt then some (some (d / 8 - 1)) else none

/-- Does a thread resume inside a clause (R78)? -/
def Group.midAt (g : Group) (t : Nat) : Bool := ((g.thread? t).map fun th => th.mid).getD false

/-- The clause in a group's slot, if it serves threads at this PC. -/
def Group.slotFor (g : Group) (mid : Bool) (pc : DWord) : Option Clause :=
  g.fslot.bind fun f =>
    if f.marked then none
    else match f.clause.indexOf pc with
      | some none => if mid then none else some f.clause
      | some (some _) => if mid then some f.clause else none
      | none => none

/-- The header waits of a clause for a thread (R73). -/
def Header.waitsFor (h : Header) (th : Thread) : Bool :=
  (decide (h.wld < 15) && decide (h.wld < th.ld)) || (decide (h.wst < 15) && decide (h.wst < th.st)) ||
  (decide (h.wcp < 15) && decide (h.wcp < th.cp)) || (decide (h.wtl < 15) && decide (h.wtl < th.tl))

/-- The header of the clause a thread stands at, as far as a fetch has shown it: in the slot now, or before. -/
def Group.headerAt (g : Group) (th : Thread) : Option Header :=
  match g.slotFor false th.pc with
  | some c => some c.hdr
  | none => th.header.bind fun e => if e.1 = th.pc then some e.2 else none

/-- Do a thread's counters let it start its clause, as far as the header is known (R73)? -/
def Group.counted (g : Group) (t : Nat) : Bool :=
  match g.thread? t with
  | none => false
  | some th =>
    if th.mid then true
    else match g.headerAt th with
      | some h => !Header.waitsFor h th
      | none => true

/-! ### Paths (R242 to R246) -/

/-- Is a path ready apart from the fetch of its clause? -/
def State.pathReady (s : State) (gid : Nat) (pc : DWord) : Bool :=
  match s.group? gid with
  | none => false
  | some g => s.mayStart g && (s.idleAt gid g pc).any g.counted

/-- Does a thread still stand behind a path that is ready (R246)? -/
def State.standsBehind (s : State) (th : Thread) : Bool := th.behind.any fun p => s.pathReady p.1 p.2

/-- The thread a group in serial mode contributes next (R243). -/
def State.serialNext (s : State) (gid : Nat) (g : Group) : Option Nat :=
  let order := (List.range g.width).map fun k => (g.lastSer + 1 + k) % g.width
  order.find? fun t => match g.thread? t with
    | some th => th.live && th.hold.isNone && !s.inGang gid t && g.counted t && !s.standsBehind th
    | none => false

/-- The threads of a group that join a gang at a PC, all together, in serial mode one (R236, R243). -/
def State.joiners (s : State) (gid : Nat) (g : Group) (pc : DWord) : List Nat :=
  if g.ser then
    match s.serialNext gid g with
    | some t => if (s.idleAt gid g pc).contains t then [t] else []
    | none => []
  else (s.idleAt gid g pc).filter fun t => g.counted t && !((g.thread? t).map s.standsBehind).getD true

/-- The slot columns a thread of a group takes (R231). -/
def Group.columns (g : Group) (t : Nat) : List Nat := if g.prot then [g.base + 2 * t, g.base + 2 * t + 1] else [g.base + t]

/-- The path of a group at a PC, where it is tracked. -/
def Group.path? (g : Group) (pc : DWord) : Option Path := g.paths.find? fun p => p.pc == pc

/-- The pipe a thread's clause belongs to, as far as a fetch has shown it. -/
def Group.pipeAt (g : Group) (t : Nat) : Option EngClass := (g.thread? t).bind fun th =>
  if th.mid then (g.slotFor true th.pc).map fun c => c.hdr.eng else (g.headerAt th).map fun h => h.eng

/-- Can a clause be fetched now: is its first sector within reach (R358, R402)? -/
def State.fetchOpen (s : State) (core part : Nat) (pc : DWord) : Bool :=
  match (s.xlate core part pc .ex).1 with
  | .ok pa => s.reachAt 1 (coreDie core) false pa
  | .error _ => true

/-- Aged paths of a quad whose threads could issue in a pipe, the longest aged first; one whose clause no fetch has shown yet may belong to
any pipe, and is fetched first (R245; log entry 55). -/
def State.agedReady (s : State) (quad : Nat) (eng : EngClass) : List (Nat × DWord × Nat) :=
  let mine := fun (g : Group) (pc : DWord) (t : Nat) => match g.pipeAt t with
    | some e => e == eng
    | none => s.fetchOpen g.core g.part pc
  let l := ((s.groups.filter fun e => quadOf e.2 == quad && e.2.fair && s.mayStart e.2).map fun e =>
    (e.2.paths.filterMap fun p => p.aged.bind fun a =>
      if (s.joiners e.1 e.2 p.pc).any (mine e.2 p.pc) then some (e.1, p.pc, a) else none)).flatten
  let before := fun (x y : Nat × DWord × Nat) =>
    decide (x.2.2 < y.2.2) || (x.2.2 == y.2.2 && (decide ((s.grp x.1).gid < (s.grp y.1).gid) ||
      ((s.grp x.1).gid == (s.grp y.1).gid && decide (x.2.1.toNat ≤ y.2.1.toNat))))
  sortBy before l

/-- A group keeps its slot, and its issue, for an aged path whose threads could join a gang now (R245). -/
def State.slotKept (s : State) (gid : Nat) (g : Group) (pc : DWord) : Bool :=
  g.fair && g.paths.any (fun p => p.aged.isSome && p.pc != pc && !(s.joiners gid g p.pc).isEmpty) &&
    !(g.paths.any fun q => q.pc == pc && q.aged.isSome)

/-! ### CLAUSE_FETCH (R77, R78, R241) -/

/-- The address of the clause a thread stands in, as far as it knows it: it has issued of it before. -/
def Thread.clauseAddr (th : Thread) : Option DWord := th.header.bind fun e =>
  let d := (th.pc - e.1).toNat
  if d % 8 = 0 ∧ 8 ≤ d ∧ d / 8 - 1 ≤ e.2.cnt then some e.1 else none

/-- The nearest header before a word; nothing where a byte on the way does not translate (R78). -/
def State.headerBefore (s : State) (core part : Nat) (pc : DWord) : Nat → Nat → Except XErr (Option DWord) × State
  | _, 0 => (.ok none, s)
  | i, n + 1 =>
    let a := pc - BitVec.ofNat 64 (8 * (i + 1))
    match s.xlate core part a .ex with
    | (.error e, s) => (.error e, s)
    | (.ok pa, s) =>
      if isHeader (wordOfBytes (s.rdN pa 8)) then (.ok (some a), s) else s.headerBefore core part pc (i + 1) n

/-- The clause that holds a word: the one the thread has issued of, else the one of the nearest header before it. It is fetched whole, with
the checks of R77 in their order and the clause's address in their faults; where no header can be read that address is not known (R77, R78;
log entry 33). -/
def State.clauseOf (s : State) (core part : Nat) (pc : DWord) (known : Option DWord) : Except FaultInfo Clause × State :=
  let fetch := fun (s : State) (a : DWord) => match s.fetchCheck core part a with
    | (.ok c, s) => if (pc - a).toNat / 8 ≤ c.hdr.cnt + 1 then (.ok c, s)
      else (.error { cause := .illegalTarget, kind := .none, addr := a }, s)
    | (.error f, s) => (.error f, s)
  match known with
  | some a => fetch s a
  | none => match s.headerBefore core part pc 0 16 with
    | (.ok (some a), s) => fetch s a
    | (.ok none, s) => (.error (s.freeFault .illegalTarget), s.used 1)
    | (.error e, s) => (.error (s.freeFault e.cause), s.used 1)

/-- A fetch fault in one thread: at the word that passed control to the clause, else at the clause's own address (R77). -/
def State.fetchFault (s : State) (gid : Nat) (pc : DWord) (f : FaultInfo) (t : Nat) : State :=
  let l : Lane := { g := gid, t, sh := false }
  match (s.thread l).passing with
  | some w => s.takeFault l w f
  | none => if (s.thread l).mid then s.takeFault l pc f else s.headerEntry (s.takeFault l pc f) l

/-- The slot is flushed and the clause at a PC of the group is fetched; a failure is a fault of every thread there (log entry
56). -/
def State.clauseFetch (s : State) (gid : Nat) (pc : DWord) : Option State :=
  match s.group? gid with
  | none => none
  | some g =>
    match s.idleAt gid g pc with
    | [] => none
    | t :: r =>
      let mid := g.midAt t
      if !s.mayStart g || (g.slotFor mid pc).isSome || s.slotKept gid g pc || !s.fetchOpen g.core g.part pc then none
      else
        let again := g.fslot.isSome
        let flushed := fun (s : State) (f : Option FetchSlot) =>
          let s := s.modGroup gid fun g => { g with fslot := f }
          if again then s.modCore g.core fun c => { c with refetch := c.refetch + 1 } else s
        match (if mid then s.clauseOf g.core g.part pc (s.thread { g := gid, t, sh := false }).clauseAddr else s.fetchCheck g.core g.part pc) with
        | (.ok c, s) =>
          let know : Thread → Thread := fun th => { th with passing := none, header := some (pc, c.hdr) }
          let s := if mid then s else (t :: r).foldl (fun s t => s.modGroup gid fun g => g.modThread t know) s
          some (flushed s (some { clause := c, marked := false }))
        | (.error f, s) => some ((t :: r).foldl (fun s t => s.fetchFault gid pc f t) (flushed s none))

def execClauseFetch (g : Nat) (pc : DWord) : State → Host.Outcome State Fault Refusal :=
  runEvent fun s => s.clauseFetch g pc

/-! ### GANG_ISSUE (R236 to R246) -/

/-- What meets a thread at the clause header before its first word: a lost shadow, a kept tile fault under WTL, a lost access
under WST (R202, R388, R395). -/
def State.headerFault (s : State) (l : Lane) (h : Header) : Option (FaultInfo × ErrFrom) :=
  let th := s.thread l
  let prot := (s.grp l.g).prot
  let b := s.thread l.shadow
  if prot && (b.pc != th.pc || !b.live) then some (s.freeFault .dmrMismatch, .dmr)
  else if th.mid then none
  else match (if h.wtl < 15 then th.tileFaults.head? else none) with
    | some f => some (f.info, .tile 0)
    | none => if h.wst < 15 then th.fabric.head?.map fun f => (f, .fabric) else none

/-- A thread takes what meets it at the header. -/
def State.raiseAtHeader (s : State) (l : Lane) (pc : DWord) (f : FaultInfo × ErrFrom) : State :=
  s.headerEntry (s.raiseError l pc f.1 f.2) l

/-- The gang's threads: primaries, then the shadows of protected groups. -/
def State.withShadows (s : State) (ls : List Lane) : List Lane :=
  ls ++ (ls.filter fun l => (s.grp l.g).prot).map Lane.shadow

/-- A path issues: it ages no more, nobody stands behind it, and an aged one is counted. -/
def State.pathIssued (s : State) (gid : Nat) (pc : DWord) : State :=
  let g := s.grp gid
  let aged := match g.path? pc with
    | some p => p.aged.isSome
    | none => false
  let s := if aged && g.fair then s.modCore g.core fun c => { c with aged := c.aged + 1 } else s
  let pass : Thread → Thread := fun th => { th with behind := th.behind.filter (· != (gid, pc)) }
  let all : Group → Group := fun x =>
    if quadOf x == quadOf g then { x with threads := x.threads.mapVals (fun _ th => pass th) } else x
  let s := { s with groups := s.groups.mapVals fun _ x => all x }
  let restart : Path → Path := fun p => if p.pc = pc then { p with cnt := 0, aged := none } else p
  s.modGroup gid fun g => { g with paths := g.paths.map restart }

/-- The gang starts with these threads at a clause; threads that resume inside it have issued words of it before (R73, R74,
R78). -/
def State.startGang (s : State) (quad : Nat) (pc : DWord) (c : Clause) (ix : Nat) (step : Bool) (ls : List Lane) : State :=
  let k := s.nextId
  let lanes := s.withShadows ls
  let w := c.addr + BitVec.ofNat 64 (8 * (ix + 1))
  let before := ls.map fun l => (l, s.thread l)
  let s := lanes.foldl (fun s l => s.modThread l fun th =>
    { th with pc := w, behind := [], sofar := [], sofarYld := false, passing := none, header := some (c.addr, c.hdr) }) s
  let s := (groupsOf ls).foldl (fun s g =>
    (s.pathIssued g pc).modGroup g fun x => if x.ser then
      { x with lastSer := ((lanesOf ls g).head?.map fun l => l.t).getD x.lastSer } else x) s
  let ops := (before.map fun e => e.2.sofar.map fun o => ({ lane := e.1, op := o } : Issued)).flatten
  let gang : Gang := { quad, clause := c, ix, lanes, ops, yld := before.any fun e => e.2.sofarYld, step, wip := none, issueId := k }
  { s with gangs := s.gangs.set k gang, cur := .gang k, nextId := k + 1 }

/-- The clause the groups of a gang would start and the threads of each, if they may start it together (log entry 34). -/
def State.gatherGang (s : State) (quad : Nat) (pc : DWord) (gs : List Nat) : Option (Clause × Nat × List Lane) :=
  let xs := gs.filterMap fun k => (s.group? k).map fun g => (k, g)
  match xs with
  | [] => none
  | (k0, g0) :: _ =>
    let ls := (xs.map fun e => (s.joiners e.1 e.2 pc).map fun t => ({ g := e.1, t, sh := false } : Lane)).flatten
    match ls with
    | [] => none
    | l0 :: _ =>
      let mid := g0.midAt l0.t
      match g0.slotFor mid pc with
      | none => none
      | some c =>
        let cols := (ls.map fun l => (s.grp l.g).columns l.t).flatten
        let ok := decide gs.Nodup && xs.length == gs.length && decide (gs.length ≤ 8) && (!mid || gs == [k0]) &&
          xs.all (fun e => quadOf e.2 == quad && e.2.launch == g0.launch && s.mayStart e.2 && e.2.slotFor mid pc == some c &&
            !(s.joiners e.1 e.2 pc).isEmpty && (s.joiners e.1 e.2 pc).all fun t => e.2.midAt t == mid) &&
          decide cols.Nodup
        let ix := match c.indexOf pc with
          | some (some i) => i
          | _ => 0
        if ok then some (c, ix, ls) else none

/-- Threads that meet an error at the header take it; the others form the gang, unless an aged path comes first. -/
def State.gangIssue (s : State) (quad : Nat) (pc : DWord) (gs : List Nat) : Option State :=
  match s.gatherGang quad pc gs with
  | none => none
  | some (c, ix, ls) =>
    let waits := match s.agedReady quad c.hdr.eng with
      | [] => false
      | (g, p, _) :: _ => !(gs.contains g && p == pc)
    if waits || gs.any (fun k => s.slotKept k (s.grp k) pc) then none
    else
      let bad := ls.filterMap fun l => (s.headerFault l c.hdr).map fun f => (l, f)
      let good := ls.filter fun l => !bad.any fun b => b.1 == l
      let s := bad.foldl (fun s b => s.raiseAtHeader b.1 pc b.2) s
      let good := good.filter fun l => (s.thread l).live && (s.thread l).pc == pc
      some (if good.isEmpty then s else s.startGang quad pc c ix false good)

def execGangIssue (quad : Nat) (pc : DWord) (gs : List Nat) : State → Host.Outcome State Fault Refusal :=
  runEvent fun s => s.gangIssue quad pc gs

/-! ### PATH_AGED (R245) -/

/-- 4,096 clk in units of time. -/
def agedAt : Nat := 4096 * 20

def State.pathAged (s : State) (gid : Nat) (pc : DWord) : Option State :=
  match (s.group? gid).bind fun g => g.path? pc with
  | none => none
  | some p =>
    if p.aged.isSome ∨ p.cnt < agedAt then none
    else
      let age : Path → Path := fun q => if q.pc = pc then { q with aged := some s.time } else q
      some (s.modGroup gid fun g => { g with paths := g.paths.map age })

def execPathAged (g : Nat) (pc : DWord) : State → Host.Outcome State Fault Refusal :=
  runEvent fun s => s.pathAged g pc

end Sys2Proof.Machine
end

