-- ==== Sys2Proof/Machine/RegionWords.lean ====
section
/-! DEFINITION. Atomic regions: RBEGIN, RCOMMIT, RABORT (R219) and the commit (R222, R307, R308). -/

namespace Sys2Proof.Machine

open Sys2Proof

/-- A region opens in one thread; its registers are saved for undo. -/
def openRegion (g : Group) (l : Lane) (scope : Scope) (target : DWord) (issue : Nat) (th : Thread) : Region :=
  { scope, target, opened := issue, v := g.file l.sh, wrote := [], preds := th.preds, fst := th.fst, fmode := th.fmode,
    smf := th.smf, exc := th.exc, pops := th.pops, inputs := [], stores := [], cons := [], tags := [],
    untrackable := false, tflags := 0, popped := [] }

def State.openOne (s : State) (l : Lane) (scope : Scope) (target : DWord) (issue : Nat) : State :=
  let g := s.grp l.g
  s.modThread l fun th =>
    { th with rstat := rstatWord 0 true, region := some (openRegion g l scope target issue th) }

/-- Does a lane still await a value that a register will receive? -/
def State.awaits (s : State) (l : Lane) : Bool :=
  s.ops.any fun e => e.2.lane == l && e.2.live && (!(opDst e.2.kind).isEmpty || (opInput e.2.kind).isSome)

/-- RBEGIN waits for the registers it saves; one met in an open region aborts it (R219). -/
def execRbegin (h : Head) (scope : Scope) (off : Word) : State → Host.Outcome State Fault Refusal :=
  runWord (.rbegin h scope off) false fun c act s =>
    if act.any s.awaits then none
    else
      let nested := act.filter fun l => (s.thread l).region.isSome
      let fresh := act.filter fun l => (s.thread l).region.isNone
      let s := if nested.isEmpty then s else s.regionAbort nested 7 none
      some (fresh.foldl (fun s l =>
        (s.openOne l scope (labelAt c.w off) c.issue).openOne l.shadow scope (labelAt c.w off) c.issue) s)

/-- Lanes by `%col`. -/
def State.byCol (s : State) (ls : List Lane) : List Lane :=
  ((List.range 64).map fun k => ls.filter fun l => (s.grp l.g).colOf l == k).flatten

/-- RCOMMIT enters the commit engines in increasing `%col` (R307). -/
def execRcommit (h : Head) : State → Host.Outcome State Fault Refusal :=
  runWord (.rcommit h) false fun c act s =>
    let ours := s.byCol (act.filter fun l => (s.thread l).region.isSome)
    let none' := act.filter fun l => (s.thread l).region.isNone
    let full := ours.any fun l =>
      let k := (s.grp l.g).core
      decide (65 < (s.core k).commits.length + (ours.filter fun m => (s.grp m.g).core == k).length)
    if full || ours.any s.awaits then none
    else
      let s := s.groupPlain c none' .illegalEnc
      some (ours.foldl (fun s l =>
        (s.holdAt c l .commit).modCore (s.grp l.g).core fun k => { k with commits := k.commits ++ [l] }) s)

def execRabort (h : Head) : State → Host.Outcome State Fault Refusal :=
  runWord (.rabort h) false fun _ act s =>
    let open' := act.filter fun l => (s.thread l).region.isSome
    some (if open'.isEmpty then s else s.regionAbort open' 8 none)

/-! ### The commit (R222) -/

/-- The value of a tag from its input's value, with the flags of its additions (step 3). -/
def tagValue (t : SymTag) (v : DWord) : DWord × Word :=
  match t.chain with
  | .none => (v, 0)
  | .int c => (if t.wide then v + c else (v + c) &&& 0xFFFF_FFFF, 0)
  | .flt w l =>
    let f := if w then parF64 else parF32
    let r := l.foldl (fun (acc : Nat × Word) a =>
      let x := a.val.toNat % 2 ^ f.width
      let (y, fl) := if a.neg then fsubBits f a.rm acc.1 x else faddBits f a.rm acc.1 x
      (y, acc.2 ||| fl)) (v.toNat % 2 ^ f.width, 0)
    (BitVec.ofNat 64 r.1, r.2)

def Region.valueOf (r : Region) (t : SymTag) : DWord × Word :=
  tagValue t ((r.inputs[t.input]?).elim 0 fun i => i.val)

/-- Does a constraint's outcome differ (step 4)? With Pc false both predicates are 0 whatever the condition. -/
def Region.conDiffers (r : Region) (k : RCon) : Bool :=
  let v := (r.valueOf k.tag).1
  let a := if k.tagFirst then v else k.other
  let b := if k.tagFirst then k.other else v
  let cond := match k.cmp with
    | .int c w => icondHolds c (wid w) a b
    | .flt c f absA absB => (fcmpHolds c false absA absB f a b).1
  k.pc && cond != k.outcome

/-- The memory sectors a commit owns: of its inputs and its stores. -/
def Region.sectors (r : Region) : List Nat :=
  ((r.inputs.map fun i => i.space) ++ (r.stores.map fun t => t.space)).filterMap fun sp => match sp with
    | .phys pa => some (pa / 64)
    | .aper _ _ | .win _ _ _ => none

/-- Step 1: the core owns a sector at the region's scope: every other copy inside is gone, copies outside keep their old bytes until their
invalidation arrives (R174, R222). The threads of the core itself see it only if the commit writes (R308). -/
def State.ownNow (s : State) (l : Lane) (scope : Scope) (sec : Nat) : State :=
  if (s.sector sec).win.isSome then s
  else
    let core := (s.grp l.g).core
    let inside := fun (c : Nat) => scopeContains scope core c
    let s := s.grantOwn core sec
    let s := (s.sector sec).stale.foldl (fun s e => if inside e.1 then s.markCore sec e.1 else s) s
    s.modSector sec fun x =>
      ({ x with stale := x.stale.filter (fun e => !inside e.1), l2stale := x.l2stale.filter fun e => !l2Inside scope core e.1 }).freshen []

/-- Step 5 writes a store in the sector its core owns, or wherever else its bytes stand. -/
def State.commitStore (s : State) (l : Lane) (sp : Space) (bs : List Byte) : State :=
  let g := s.grp l.g
  match sp with
  | .phys pa => if (s.sector (pa / 64)).win.isSome then s.spaceWrite (some g.launch) (some l) sp bs false
      else s.ownWrite g.core (some g.launch) (some l) pa bs false
  | .aper _ _ | .win _ _ _ => s.spaceWrite (some g.launch) (some l) sp bs false

/-- Step 2: every marked input is read again, in recorded order, each of them counted (R313), until one meets poison; nothing where the
region may not go on. -/
def State.rereadInputs (s : State) (core : Nat) (r : Region) : Except (Option FaultInfo) Region × State :=
  let bad := r.inputs.any fun i => i.mark && (r.untrackable || !i.trackable)
  if bad then (.error none, s)
  else
    r.inputs.zipIdx.foldl (fun (acc : Except (Option FaultInfo) Region × State) e =>
      match acc with
      | (.error f, s) => (.error f, s)
      | (.ok r, s) =>
        let i := e.1
        if !i.mark then (.ok r, s)
        else
          let s := s.modCore core fun c => { c with reread := c.reread + 1 }
          if s.spacePoison i.space i.size then (.error (some { cause := .poison, kind := .load, addr := i.va }), s)
          else
            let (bs, s) := s.spaceRead i.space i.size
            (.ok { r with inputs := r.inputs.modify e.2 fun i => { i with val := BitVec.ofNat 64 (wordOfBytes bs) } }, s))
      (.ok r, s)

/-- The registers a tag fills. -/
def tagRegs (d : Nat) (t : SymTag) (v : DWord) : List (Nat × Word) :=
  if t.wide then [(d, v.lo), (d + 1, v.hi)] else [(d, v.lo)]

/-- Steps 5 and 6. -/
def State.finishCommit (s : State) (l : Lane) (r : Region) : State :=
  let g := s.grp l.g
  let s := r.stores.foldl (fun s t =>
    let bs := match t.sym with
      | some tag => bytesOfNat t.data.length (r.valueOf tag).1.toNat
      | none => t.data
    (s.outward l t.space).commitStore l t.space bs) s
  let regs := (r.tags.map fun e => tagRegs e.1 e.2 (r.valueOf e.2).1).flatten
  let s := s.give l regs
  let fl := (r.tags.map fun e => (r.valueOf e.2).2).foldl (· ||| ·) 0
  let fl := (r.stores.map fun t => t.sym.elim 0 fun k => (r.valueOf k).2).foldl (· ||| ·) fl
  let fl := (r.cons.map fun k => (r.valueOf k.tag).2).foldl (· ||| ·) fl
  let s := s.modBoth l fun th =>
    { th with fst := (th.fst &&& ~~~r.tflags) ||| fl, region := none, rstat := rstatWord 1 false }
  (s.modCore g.core fun c => { c with commitsN := c.commitsN + 1 }).release l

/-- The commit of one thread, as one step. -/
def State.commit (s : State) (l : Lane) : State :=
  match (s.thread l).region with
  | none => s
  | some r0 =>
    let s := r0.sectors.foldl (fun s k => s.ownNow l r0.scope k) s
    match s.rereadInputs (s.grp l.g).core r0 with
    | (.error none, s) => s.regionAbort [l] 4 none
    | (.error (some f), s) => s.takeFault l (s.thread l).pc f
    | (.ok r, s) =>
      if r.cons.any r.conDiffers then s.regionAbort [l] 2 none else s.finishCommit l r

end Sys2Proof.Machine
end

