-- ==== Sys2Proof/Machine/SliceWords.lean ====
section
/-! DEFINITION. The words only an access slice runs (R188, R189, R302): QLD, QLOOP, QEND. A word that R187 refuses the slice
fails the launch and stops the slice. -/

namespace Sys2Proof.Machine

open Sys2Proof

/-- The meaning of a slice word: the slice whose turn it is runs it, past a false guard (log entry 20). A gang that reaches one
takes ILLEGAL_CLAUSE (R75, R89). -/
def runSlice (i : Instr) (f : Group → Nat → State → State) (s : State) : Host.Outcome State Fault Refusal :=
  match s.cur with
  | .slice g =>
    match s.group? g with
    | some x => .next (if sliceGuard (headPart i).guard then f x g s else s.sliceNext g)
    | none => .fault .noAgent
  | .gang _ | .none => runWord i false (fun _ _ s => some s) s

/-! ### QLD (R188, R190) -/

/-- Places of a queue a thread has taken up: stored or in flight, or held by its open region (R302). -/
def Thread.occupied (th : Thread) (n : Nat) : Nat :=
  (th.q.get [] n).length + (match th.region with
    | some r => (r.popped.filter fun e => e.1 == n).length
    | none => 0)

/-- The offset pair of a slice load as one thread reads it; nothing where the register is not the slice's. -/
def sliceOffset (sl : Slice) (o : Option (Fin 96)) (t : Nat) : Option DWord :=
  match o with
  | none => some 0
  | some n =>
    if n.val % 2 = 0 ∧ n.val ≤ 14 then
      some (DWord.ofWords ((sl.v.get (.u 0) n.val).at t) ((sl.v.get (.u 0) (n.val + 1)).at t))
    else none

/-- The entry one thread's load pushes: in flight, or with its fault (R190). -/
def State.qldEntry (s : State) (g : Group) (m : MAddr) (scope : Scope) (hint gid : Nat) (off : DWord) : QEntry × State :=
  let bad := fun (cause : Cause) (va : DWord) => ({ va, scope, val := none, fault := some { cause, kind := .load, addr := va } } : QEntry)
  match recordAddress (g.bPlaced.get 0 m.br.val) off m.imm 4 false with
  | .bad a => (bad .bounds a, s)
  | .outside => ({ va := 0, scope, val := some 0, fault := none }, s)
  | .at va =>
    if va.toNat % 4 ≠ 0 then (bad .illegalEnc va, s)
    else match s.resolve gid va 4 .rd with
      | (.error e, s) => (bad e.cause va, s)
      | (.ok _, s) => ({ va, scope, hint, val := none, fault := none }, s)

/-- A load reaches a thread's queue, and its shadow's; a restarted slice drops what was popped before the save (R190). -/
def Thread.push (th : Thread) (n : Nat) (e : QEntry) : Thread :=
  if th.drop.get 0 n ≠ 0 then { th with drop := th.drop.upd 0 n (· - 1) } else { th with q := th.q.upd [] n (· ++ [e]) }

/-- The loads of every live thread. -/
def State.qld (s : State) (x : Group) (g : Nat) (q : Fin 8) (m : MAddr) (scope : Scope) (hint : Nat) : State :=
  if (sliceOffset x.slice m.ofs 0).isNone then s.sliceFail g
  else if x.live.any fun e => decide (16 ≤ e.2.occupied q.val) then s
  else
    (x.live.foldl (fun s e =>
      let (en, s) := s.qldEntry x m scope hint g ((sliceOffset x.slice m.ofs e.1).getD 0)
      s.modBoth { g, t := e.1, sh := false } fun th => th.push q.val en) s).sliceNext g

def execQld (h : Head) (q : Fin 8) (m : MAddr) (scope : Scope) (hint : Fin 7) : State → Host.Outcome State Fault Refusal :=
  runSlice (.qld h q m scope hint) fun x g s => s.qld x g q m scope hint.val

/-! ### QLOOP and QEND (R189) -/

/-- Counts down a U register and branches while it is not zero; the target is fetched at the slice's next turn. -/
def State.qloop (s : State) (x : Group) (g : Nat) (r : Fin 96) (off : Word) : State :=
  if 16 ≤ r.val then s.sliceFail g
  else match x.slice.v.get (.u 0) r.val with
    | .a _ _ | .g _ => s.sliceFail g
    | .u w =>
      let s := s.modGroup g fun y => { y with slice := { y.slice with v := y.slice.v.set r.val (.u (w - 1)) } }
      if w = 1 then s.sliceNext g
      else s.modGroup g fun y => { y with slice := { y.slice with pc := labelAt y.slice.pc off, clause := none, ix := 0 } }

def execQloop (h : Head) (r : Fin 96) (off : Word) : State → Host.Outcome State Fault Refusal :=
  runSlice (.qloop h r off) fun x g s => s.qloop x g r off

/-- The engine stops; the entries pushed stay. -/
def State.sliceStop (s : State) (g : Nat) : State :=
  s.modGroup g fun x => { x with slice := { x.slice with running := false, clause := none } }

def execQend (h : Head) : State → Host.Outcome State Fault Refusal :=
  runSlice (.qend h) fun _ g s => s.sliceStop g

end Sys2Proof.Machine
end

