-- ==== Sys2Proof/Machine/TileWords.lean ====
section
/-! DEFINITION. Tile words (R199 to R214): tokens, transfers between tiles and memory, element moves, the matrix engine, check
sums, quantising, permutation tables. A word checks everything at issue and leaves an operation in flight; `State.tileDone`,
`State.tileFail`, `State.mmaColumn` and `State.mmaDone` carry it out for the events of EvEngines. -/

namespace Sys2Proof.Machine

open Sys2Proof

/-! ### Tiles, tables, and what is in flight on them (R41, R67, R203) -/

/-- A tile's key: Z 0 to 7, Y 8 to 15; a table's is 16 to 23. -/
def tileKey (y : Bool) (tn : Nat) : Nat := tn + 8 * b2n y

def Core.ztile (c : Core) (n : Nat) : ZTile := c.z.get { els := [], poison := [] } n
def Core.ytile (c : Core) (n : Nat) : YTile := c.y.get { els := [], poison := [] } n
def Core.table (c : Core) (n : Nat) : PTable := c.tab.get { len := 0, ent := [] } n

/-- The tiles, or the table, a transfer names as its own. -/
def TileOp.objs (o : TileOp) : List Nat :=
  match o.kind with
  | .tldZ | .tsv | .tsum _ | .qcv _ => [o.tn.val]
  | .tldY => if recEfmt o.br = 4 then [8 + o.tn.val, 9 + o.tn.val] else [8 + o.tn.val]
  | .ptld => [16 + o.tn.val]

/-- The table whose entries a transfer uses. -/
def TileOp.uses (o : TileOp) : List Nat := if o.xf = 2 then [16 + o.tab.val] else []

def MmaOp.ys (o : MmaOp) : List Nat := if o.ypair then [8 + o.yt.val, 9 + o.yt.val] else [8 + o.yt.val]
def MmaOp.objs (o : MmaOp) : List Nat := o.zt.val :: o.ys
def MmaOp.uses (o : MmaOp) : List Nat := if o.xf = 2 then [16 + o.tab.val] else []

/-- Is an operation of a group on one of these tiles still to complete? -/
def Core.tileBusy (c : Core) (g : Nat) (keys : List Nat) : Bool :=
  (c.tops.any fun o => o.g == g && o.objs.any keys.contains) || (c.mma.any fun o => o.g == g && o.objs.any keys.contains)

/-- Does an MMA still read one of these Y tiles (R203)? -/
def Core.yRead (c : Core) (keys : List Nat) : Bool := c.mma.any fun o => o.cap.isNone && o.ys.any keys.contains

/-- Is a load of a table that an operation would use still to complete (log entry 27)? -/
def Core.tableBusy (c : Core) (xf : Nat) (tab : Fin 8) : Bool :=
  decide (xf = 2) && c.tops.any fun o => o.objs.contains (16 + tab.val)

/-- May a transfer take effect: no earlier operation on its tile, and for a table no earlier operation that names it (R67,
R203)? -/
def Core.tileReady (c : Core) (o : TileOp) : Bool :=
  let table := match o.kind with
    | .ptld => true
    | .tldZ | .tldY | .tsv | .tsum _ | .qcv _ => false
  (c.tops.all fun x => decide (o.id ≤ x.id) || !((x.objs.any o.objs.contains) || (x.objs.any o.uses.contains) ||
    (table && x.uses.any o.objs.contains))) &&
  (c.mma.all fun x => decide (o.id ≤ x.id) || !((x.objs.any o.objs.contains) || (table && x.uses.any o.objs.contains)))

/-- The earliest MMA, which the engine streams (R299). -/
def Core.stream (c : Core) : Option MmaOp := c.mma.head?

/-- May an MMA read its Y tiles and its accumulator: every earlier transfer on its tiles is done? -/
def Core.mmaReady (c : Core) (o : MmaOp) : Bool :=
  c.tops.all fun x => decide (o.id ≤ x.id) || !((x.objs.any o.objs.contains) || x.objs.any o.uses.contains)

/-! ### Kept faults that name a tile by number (R202) -/

/-- The threads that have kept a fault of one of these tiles take it, the oldest such fault; the others go on. -/
def State.raiseKept (s : State) (c : Ctx) (keys : List Nat) (ls : List Lane) : List Lane × State :=
  ls.foldl (fun (acc : List Lane × State) l =>
    match firstAt (fun (f : TileFault) => f.objs.any keys.contains) (acc.2.thread l).tileFaults with
    | some (n, f) => (acc.1, (acc.2.modBoth l fun th => th.dropFault (.tile n)).deliverFault l c.w f.info)
    | none => (acc.1 ++ [l], acc.2)) ([], s)

/-! ### Tokens (R204) -/

/-- Does a group hold a tile's token? -/
def State.holds (s : State) (g : Nat) (keys : List Nat) : Bool :=
  keys.all fun k => (s.core (s.grp g).core).token k == .group g

/-- One group's TACQ: nothing while it waits. -/
def State.tacq (s : State) (c : Ctx) (y : Bool) (va : Src) (p : Lane) (ls : List Lane) : Option State :=
  let n := s.tileNo p va
  if 7 < n then some (s.groupPlain c ls .illegalEnc)
  else
    let k := tileKey y n
    let s := s.askToken p.g k
    if !s.holds p.g [k] || (s.core (s.grp p.g).core).tileBusy p.g [k] then none else some (s.raiseKept c [k] ls).2

/-- A gang that stalls at a TACQ stands in line for each of its groups. -/
def tacqPending (y : Bool) (va : Src) : Pending := fun _ act s =>
  (performers act).foldl (fun s e => if s.tileNo e.1 va ≤ 7 then s.askToken e.1.g (tileKey y (s.tileNo e.1 va)) else s) s

def execTacq (h : Head) (y : Bool) (va : Src) : State → Host.Outcome State Fault Refusal :=
  runWith (.tacq h y va) false (tacqPending y va) fun c act s =>
    if s.shapeBad act [(va, false)] then some (s.groupPlain c act .shape)
    else (performers act).foldl (fun acc e => acc.bind fun s => s.tacq c y va e.1 e.2) (some s)

/-- One group's TREL: nothing while an operation on the tile is in flight, or while what it releases at `.core` is not performed
(R281, R284). -/
def State.trel (s : State) (c : Ctx) (y : Bool) (va : Src) (p : Lane) (ls : List Lane) : Option State :=
  let n := s.tileNo p va
  if 7 < n then some (s.groupPlain c ls .illegalEnc)
  else
    let k := tileKey y n
    let core := s.core (s.grp p.g).core
    if core.token k = .engine p.g then none
    else if core.token k ≠ .group p.g then some (s.groupPlain c ls .token)
    else if core.tileBusy p.g [k] || !ls.all (s.fenceReleases .core) then none
    else
      match s.raiseKept c [k] ls with
      | ([], s) => some s
      | (ls, s) => some ((ls.foldl (fun s l => s.passFence l .core) s).modCore (s.grp p.g).core fun x => { x with tok := x.tok.set k .free })

def execTrel (h : Head) (y : Bool) (va : Src) : State → Host.Outcome State Fault Refusal :=
  runWord (.trel h y va) false fun c act s =>
    if s.shapeBad act [(va, false)] then some (s.groupPlain c act .shape)
    else (performers act).foldl (fun acc e => acc.bind fun s => s.trel c y va e.1 e.2) (some s)

/-! ### Windows, transforms and addresses (R201, R205, R212 to R214) -/

/-- The rows and columns of V[VB], if they are legal. -/
def tileWindow (v : Word) : Option (Nat × Nat) :=
  let r := natField v.toNat 0 7
  let c := natField v.toNat 8 7
  if v.toNat = r + 256 * c ∧ 1 ≤ r ∧ r ≤ 64 ∧ 1 ≤ c ∧ c ≤ 64 then some (r, c) else none

/-- The bytes of an element of a format: 64 for a block. -/
def elemSize (efmt : Nat) : Nat := if efmt = 1 then 64 else if efmt = 4 then 4 else 2

/-- The value of element bits of a format. -/
def elemVal (efmt : Nat) (bs : List Byte) : FVal :=
  unpackF (if efmt = 2 then parBf16 else if efmt = 3 then parF16 else parF32) (wordOfBytes bs)

/-- TileSource of R205: the offset and the element of a block; nothing for a row the table does not give. -/
def tileSource (br : BRec) (va : DWord) (perm : Bool) (t : PTable) (i j : Nat) : Option (DWord × Nat) :=
  let row : Int := va.lo.toInt + i
  let col : Int := va.hi.toInt + j
  let row' : Option Int := if !perm then some row
    else if row < 0 ∨ row ≥ t.len then none else some ((t.ent.get 0 row.toNat).toNat : Int)
  row'.map fun row =>
    let s1 := (recStride1 br).toInt
    let s2 := (recStride2 br).toInt
    if recEfmt br = 1 then (BitVec.ofInt 64 (row / 48 * 64 + col * s2), (row % 48).toNat)
    else (BitVec.ofInt 64 (row * s1 + col * s2), 0)

/-- The address of a part of a transfer; under PERM whatever lies outside the extent reads 0 (R205). -/
def TileOp.addr (o : TileOp) (off : DWord) (size : Nat) : RecAddr :=
  let write := match o.kind with
    | .tsv | .tsum _ | .qcv _ => true
    | .tldZ | .tldY | .ptld => false
  if o.kind == .tldY && decide (o.xf = 2) && (decide (off.toInt < 0) || decide (off.toInt + size > recExtent o.br)) then .outside
  else recCheckOff o.br off size write

/-- The element positions of a window, row by row. -/
def winCells (v : Word) : List (Nat × Nat) :=
  match tileWindow v with
  | none => []
  | some (r, c) => ((List.range r).map fun i => (List.range c).map fun j => (i, j)).flatten

/-- The row and column counts, and for QCV the first row, row count and first column. -/
def qcvFields (v : Word) : Nat × Nat × Nat := (natField v.toNat 0 6, natField v.toNat 8 7, natField v.toNat 16 6)

/-- Every offset a transfer touches, with its size, in the word's order. -/
def TileOp.offsets (o : TileOp) (t : PTable) : List (DWord × Nat) :=
  match o.kind with
  | .tldZ | .tldY | .tsv =>
    (winCells o.vb).filterMap fun e =>
      (tileSource o.br o.va (decide (o.xf = 2) && o.kind == .tldY) t e.1 e.2).map fun x => (x.1, elemSize (recEfmt o.br))
  | .tsum _ => (List.range 128).map fun k => (o.va + BitVec.ofNat 64 (4 * k), 4)
  | .qcv _ => (List.range (qcvFields o.vb).2.1).map fun (i : Nat) =>
      (o.va + BitVec.ofInt 64 ((i : Int) * (recStride1 o.br).toInt), 64)
  | .ptld => (List.range o.vb.toNat).map fun k => (o.va + BitVec.ofNat 64 (2 * k), 2)

/-- The bytes of a sector as an engine's operation finds it at issue, unless an earlier access of its performer is still to decide what the
operation may see (R203, R278, R281). -/
def State.seenNow (s : State) (p : Lane) (sp : Space) : List Byte :=
  if (s.before p s.nextId).any fun x => x.kind.isRead && (MOrd.acquires x.ord || s.overlap x.space x.size sp 64) then []
  else (s.spaceRead sp 64).1

/-- R165 for one checked address of an engine's access: alignment, then translation, kept by sector. -/
def State.holdPlace (s : State) (p : Lane) (bd size : Nat) (k : AccKind) (n : Need) (va : DWord) (pl : AMap TPlace) :
    Except FaultInfo (AMap TPlace) × State :=
  if va.toNat % size ≠ 0 then (.error { cause := .illegalEnc, kind := k, addr := va }, s)
  else if (pl.find? (va.toNat / 64)).isSome then (.ok pl, s)
  else
    match s.place p bd (BitVec.ofNat 64 (va.toNat / 64 * 64)) 64 n with
    | (.ok space, s) =>
      (.ok (pl.set (va.toNat / 64) { va, space, seen := if k == .load then s.seenNow p space else [] }), s)
    | (.error e, s) => (.error { cause := e.cause, kind := k, addr := va }, s)

/-- Checks and translates a list of addresses in order; the first failure decides. -/
def State.holdPlaces (s : State) (p : Lane) (bd : Nat) (k : AccKind) (n : Need) (l : List (RecAddr × Nat)) :
    Except FaultInfo (AMap TPlace) × State :=
  l.foldl (fun (acc : Except FaultInfo (AMap TPlace) × State) e =>
    match acc with
    | (.error f, s) => (.error f, s)
    | (.ok pl, s) =>
      match e.1 with
      | .bad a => (.error { cause := .bounds, kind := k, addr := a }, s)
      | .outside => (.ok pl, s)
      | .at va => s.holdPlace p bd e.2 k n va pl) (.ok [], s)

/-! ### Issuing a transfer -/

/-- The operand values a word calls invalid (R199, R205, R212 to R214). -/
def TileOp.invalid (o : TileOp) : Bool :=
  let efmt := recEfmt o.br
  match o.kind with
  | .tldZ => (tileWindow o.vb).isNone || decide (efmt ≠ 4)
  | .tldY =>
    (match tileWindow o.vb with
    | none => true
    | some (r, _) => decide (o.xf = 1) && decide (r % 16 ≠ 0)) ||
    !(decide (1 ≤ efmt) && decide (efmt ≤ 4)) || (decide (efmt = 4) && decide (o.tn.val % 2 = 1))
  | .tsv => (tileWindow o.vb).isNone || !(decide (2 ≤ efmt) && decide (efmt ≤ 4))
  | .tsum _ => (tileWindow o.vb).isNone || decide (o.va.toNat % 64 ≠ 0)
  | .qcv _ =>
    let (a, n, c0) := qcvFields o.vb
    decide (o.vb.toNat ≠ a + 256 * n + 65536 * c0) || decide (n < 1) || decide (64 < a + n) || decide (efmt ≠ 1) ||
    (List.range n).any fun i => decide ((o.va + BitVec.ofInt 64 ((i : Int) * (recStride1 o.br).toInt)).toNat % 64 ≠ 0)
  | .ptld => decide (8192 < o.vb.toNat) || decide (o.va.toNat % 2 ≠ 0)

/-- A group's operand values at a word, the performer's; a popped fault reaches every thread of the group (R200). -/
def State.groupOps (s : State) (c : Ctx) (i : Instr) (p : Lane) (ls : List Lane) : Except State (List DWord × State) :=
  match s.operands c i p with
  | .ok r => .ok r
  | .error s' =>
    match readSrcs (s.grp p.g) p (s.thread p) (sources i) with
    | (.error f, _) => .error ((ls.filter (· != p)).foldl (fun s l => s.faultAt c l f) s')
    | (.ok _, _) => .error s'

/-- An operation enters a tile unit: the group's threads count it on TL. -/
def State.tileCount (s : State) (c : Ctx) (ls : List Lane) (id : Nat) : State := ls.foldl (fun s l => s.countOp c l .tl id) s

/-- One group's transfer: checks in the order of R201, then it is in flight. -/
def State.tileIssue (s : State) (c : Ctx) (i : Instr) (bd : Nat) (p : Lane) (ls : List Lane) (mk : Word → TileOp) : State :=
  match s.groupOps c i p ls with
  | .error s => s
  | .ok (vs, s') =>
    let core := (s.grp p.g).core
    let o := { mk (vs.getD 0 0).lo with id := s.nextId, lanes := ls }
    let k : AccKind := if o.writes then .store else .load
    let tiles := o.objs.filter (· < 16)
    if o.invalid then s.groupPlain c ls .illegalEnc
    else if !s.holds p.g tiles then s.groupPlain c ls .token
    else
      match s'.holdPlaces p bd k (if o.writes then .wr else .rd)
          ((o.offsets ((s.core core).table o.tab.val)).map fun e => (o.addr e.1 e.2, e.2)) with
      | (.error f, _) => s.groupFault c ls f
      | (.ok places, s) =>
        let s := if o.writes then places.foldl (fun s e => s.outward p e.2.space) s else s
        let s := { s with nextId := s.nextId + 1 }
        let g := s.grp p.g
        let o := { o with places, gid := g.gid, launch := g.launch, part := g.part }
        (s.modCore core fun x => { x with tops := x.tops ++ [o] }).tileCount c ls o.id

/-- The transfer a word names, from its second operand. -/
def State.tilePlan (s : State) (i : Instr) (p : Lane) : Option (Fin 32 × (Word → TileOp)) :=
  let g := s.grp p.g
  let mk := fun (kind : TileKind) (br : Fin 32) (va : Option (Fin 96)) (tn : Fin 8) (xf : XfSel) (scope : Scope) =>
    let r := g.brec br.val
    let x := resolveXf xf r
    let base : TileOp := { id := 0, kind, g := p.g, gid := 0, launch := 0, part := 0, cap := none, lanes := [], br := r, va := g.offsetPair p va, vb := 0, tn, xf := x.1,
                           tab := x.2, scope, places := [] }
    some (br, fun (vb : Word) => { base with vb })
  match i with
  | .tld _ x => mk (if x.y then .tldY else .tldZ) x.br x.va x.tn x.xf x.scope
  | .tsv _ x => mk .tsv x.br x.va x.tn .none x.scope
  | .tsum _ x => mk (.tsum x.sums) x.br x.va x.tn .none x.scope
  | .qcv _ x => mk (.qcv x.t6) x.br x.va x.tn x.xf x.scope
  | .ptld _ x => mk .ptld x.br x.va x.t .none x.scope
  | _ => none

/-- Must a group's transfer wait: for an MMA that reads its Y tile, or for the table it uses (R67, R203)? -/
def State.tileWaits (s : State) (i : Instr) (p : Lane) : Bool :=
  let core := s.core (s.grp p.g).core
  match s.tilePlan i p with
  | none => false
  | some (_, plan) =>
    let o := plan 0
    core.yRead o.objs || core.tableBusy o.xf o.tab

/-- Has an engine that holds `cap` operations no place for each of these groups (R297)? -/
def State.unitFull (s : State) (act : List Lane) (cap : Nat) (size : Core → Nat) : Bool :=
  (groupsOf act).any fun g =>
    let core := (s.grp g).core
    decide (cap < size (s.core core) + ((groupsOf act).filter fun h => (s.grp h).core == core).length)

/-- The effect of every transfer word. -/
def tileEffect (i : Instr) : Effect := fun c act s =>
  if s.unitFull act 8 (fun x => x.tops.length) || (performers act).any (fun e => s.tileWaits i e.1) then none
  else some ((performers act).foldl (fun s e =>
    match s.tilePlan i e.1 with
    | none => s
    | some (bd, plan) => s.tileIssue c i bd.val e.1 e.2 plan) s)

def execTld (h : Head) (x : TldF) : State → Host.Outcome State Fault Refusal :=
  runWord (.tld h x) false (tileEffect (.tld h x))

def execTsv (h : Head) (x : TsvF) : State → Host.Outcome State Fault Refusal :=
  runWord (.tsv h x) false (tileEffect (.tsv h x))

def execTsum (h : Head) (x : TsumF) : State → Host.Outcome State Fault Refusal :=
  runWord (.tsum h x) false (tileEffect (.tsum h x))

def execQcv (h : Head) (x : QcvF) : State → Host.Outcome State Fault Refusal :=
  runWord (.qcv h x) false (tileEffect (.qcv h x))

def execPtld (h : Head) (x : PtldF) : State → Host.Outcome State Fault Refusal :=
  runWord (.ptld h x) false (tileEffect (.ptld h x))

/-! ### What a transfer does when it completes -/

/-- One destination of a transfer: a Z entry, an I20 element of a Y tile, or bytes. -/
inductive TWrite
  | z (k : Nat) (w : Word)
  | y (t k : Nat) (v : BitVec 20)
  | mem (va : DWord) (bs : List Byte) (whole : Bool)
  deriving DecidableEq, Repr, Inhabited

/-- What the data of a transfer gave: its writes, its flags, its first fault. -/
structure TOut where
  writes : List TWrite
  fl : Word
  fault : Option FaultInfo
  deriving DecidableEq, Repr, Inhabited

/-- What an engine of a core may still read of a sector instead of its newest bytes (R203, R290): what the operation found at issue, or a
copy whose invalidation has not reached the core. -/
def State.olderReads (s : State) (core : Nat) (p : TPlace) : List (List Byte) :=
  (if p.seen.isEmpty then [] else [p.seen]) ++ (match p.space with
    | .phys pa =>
      let x := s.sector (pa / 64)
      (x.stale.find? core).toList ++ (x.l2stale.find? (coreDie core)).toList
    | .aper _ _ | .win _ _ _ => [])

/-- One sector of an operation's reads. Newer bytes than a core's own copy has leave that copy behind (R278). -/
def State.readPlace (s : State) (core : Nat) (p : TPlace) : List Byte × State :=
  let (now, s) := s.spaceRead p.space 64
  let olds := (s.olderReads core p).filter (· != now)
  if olds.isEmpty then (now, s)
  else
    let l := now :: olds
    let bs := l.getD (s.freeWord.toNat % l.length) now
    let s := s.used 1
    match p.space with
    | .phys pa => if bs = now ∧ ((s.sector (pa / 64)).stale.find? core).isSome then
        (bs, (s.modSector (pa / 64) fun x => { x with stale := x.stale.erase core }).markCore (pa / 64) core)
      else (bs, s)
    | .aper _ _ | .win _ _ _ => (bs, s)

/-- The bytes of every sector an operation of a core reads, each old or new for itself, and the first poisoned one (R203). -/
def State.readPlaces (s : State) (core : Nat) (pl : AMap TPlace) : AMap (List Byte) × Option FaultInfo × State :=
  pl.foldl (fun (acc : AMap (List Byte) × Option FaultInfo × State) e =>
    let (m, f, s) := acc
    if s.spacePoison e.2.space 64 then
      (m, f <|> some { cause := .poison, kind := .load, addr := e.2.va }, s)
    else
      let (bs, s) := s.readPlace core e.2
      (m.set e.1 bs, f, s)) ([], none, s)

/-- Bytes at an address from the sectors read; nothing where the sector is poisoned. -/
def bytesAt (m : AMap (List Byte)) (va : DWord) (n : Nat) : Option (List Byte) :=
  (m.find? (va.toNat / 64)).map fun bs => (bs.drop (va.toNat % 64)).take n

/-- The blocks among the sectors read, each checked once (R63). -/
def blockChecks (check xf tab : Nat) (counts : Bool) (m : AMap (List Byte)) : AMap BlkCheck :=
  m.map fun e => (e.1, blkCheck check e.2 xf tab counts)

def checkFlags (m : AMap BlkCheck) : Word := m.foldl (fun f e => match e.2 with
  | .nan x => f ||| x
  | .decode | .fault => f) 0

def checkFault (pl : AMap TPlace) (m : AMap BlkCheck) : Option FaultInfo :=
  (m.first fun e => e.2 == .fault).map fun e =>
    { cause := .bounds, kind := .load, addr := ((pl.find? e.1).map fun p => p.va).getD 0 }

def fZero : FVal := .fin false 0 0

/-- A source element: its value, or nothing where its data failed. -/
def TileOp.value (o : TileOp) (m : AMap (List Byte)) (ck : AMap BlkCheck) (t : PTable) (i j : Nat) : Option FVal :=
  match tileSource o.br o.va (decide (o.xf = 2) && o.kind == .tldY) t i j with
  | none => some fZero
  | some (off, el) =>
    let efmt := recEfmt o.br
    match o.addr off (elemSize efmt) with
    | .outside => some fZero
    | .bad _ => none
    | .at va =>
      if efmt = 1 then
        match ck.find? (va.toNat / 64), bytesAt m va 64 with
        | some .decode, some bs => some (blkElement bs el)
        | some (.nan _), _ => some (.nan false)
        | _, _ => none
      else (bytesAt m va (elemSize efmt)).map (elemVal efmt)

/-- A value under H16: the entry of its group of 16 rows. -/
def h16Value (v : Nat → Nat → Option FVal) (i j : Nat) : Option FVal :=
  ((List.range 16).mapM fun k => v (i / 16 * 16 + k) j).map fun xs => h16Entry xs (i % 16)

/-- The writes of TLD. -/
def TileOp.tld (o : TileOp) (m : AMap (List Byte)) (ck : AMap BlkCheck) (t : PTable) : List TWrite :=
  let raw := o.value m ck t
  let val := if o.xf = 1 ∧ o.kind = .tldY then h16Value raw else raw
  ((winCells o.vb).map fun e =>
    let k := 64 * e.1 + e.2
    match o.kind with
    | .tldY =>
      (match val e.1 e.2 with
      | none => []
      | some v =>
        if recEfmt o.br = 4 then
          let p := splitF32 v
          [.y o.tn.val k p.1, .y (o.tn.val + 1) k p.2]
        else [.y o.tn.val k (toI20 v)])
    | _ =>
      match tileSource o.br o.va false t e.1 e.2 with
      | none => []
      | some (off, _) => match o.addr off 4 with
        | .at va => ((bytesAt m va 4).map fun bs => TWrite.z k (BitVec.ofNat 32 (wordOfBytes bs))).toList
        | .outside => [.z k 0]
        | .bad _ => []).flatten

/-- The writes of TSV: elements rounded RNE to the record's format. -/
def TileOp.tsv (o : TileOp) (z : ZTile) : List TWrite :=
  let efmt := recEfmt o.br
  let par := if efmt = 2 then parBf16 else if efmt = 3 then parF16 else parF32
  (winCells o.vb).filterMap fun e =>
    let k := 64 * e.1 + e.2
    if z.poison.contains k then none
    else (tileSource o.br o.va false { len := 0, ent := [] } e.1 e.2).bind fun x => match o.addr x.1 (elemSize efmt) with
      | .at va =>
        let w := z.els.get 0 k
        let bits := if efmt = 4 then w.toNat else (fcvtBits par parF32 .rne w.toNat).1
        some (.mem va (bytesOfNat (elemSize efmt) bits) false)
      | .outside | .bad _ => none

/-- The Z entries row i and column j of TSUM read, with the checksum entry where there is one. -/
def tsumReads (sums : Bool) (r c k : Nat) : List Nat :=
  if k < 64 then
    (if k < r then (if sums then [] else [4096 + k]) ++ (List.range c).map fun j => 64 * k + j else [])
  else
    (if k - 64 < c then (if sums then [] else [4160 + (k - 64)]) ++ (List.range r).map fun i => 64 * i + (k - 64) else [])

/-- One entry of TSUM (R212). -/
def tsumEntry (sums : Bool) (r c : Nat) (z : ZTile) (k : Nat) : Word :=
  let v := fun n => f32Val (z.els.get 0 n)
  match tsumReads sums r c k with
  | [] => 0
  | n :: ns => if sums then roundF32 (sumExact ((n :: ns).map v)) else roundF32 (sumExact (v n :: ns.map fun m => (v m).neg))

def TileOp.tsum (o : TileOp) (sums : Bool) (z : ZTile) : List TWrite :=
  match tileWindow o.vb with
  | none => []
  | some (r, c) => (List.range 128).filterMap fun k =>
    if (tsumReads sums r c k).any z.poison.contains then none
    else match o.addr (o.va + BitVec.ofNat 64 (4 * k)) 4 with
      | .at va => some (.mem va (bytesOfNat 4 (tsumEntry sums r c z k).toNat) false)
      | .outside | .bad _ => none

/-- The Z column that source value j of a QCV row comes from. -/
def TileOp.qcvCol (o : TileOp) (t : PTable) (j : Nat) : Option Nat :=
  let c := (qcvFields o.vb).2.2 + j
  if o.xf = 2 then
    (if c < t.len ∧ (t.ent.get 0 c).toNat < 64 then some (t.ent.get 0 c).toNat else none)
  else if c < 64 then some c else none

/-- The blocks of QCV with their flags (R213). -/
def TileOp.qcv (o : TileOp) (t6 : Bool) (z : ZTile) (t : PTable) : List (List TWrite × Word) :=
  let (a, n, _) := qcvFields o.vb
  (List.range n).map fun i =>
    let cols := (List.range 48).map (o.qcvCol t)
    if cols.any fun c => c.any fun c => z.poison.contains (64 * (a + i) + c) then ([], 0)
    else
      let xs := cols.map fun c => match c with
        | some c => f32Val (z.els.get 0 (64 * (a + i) + c))
        | none => fZero
      let (bs, fl) := quantise xs t6 o.xf o.tab.val
      match o.addr (o.va + BitVec.ofInt 64 ((i : Int) * (recStride1 o.br).toInt)) 64 with
      | .at va => ([.mem va bs true], fl)
      | .outside | .bad _ => ([], fl)

/-- The Z entries a transfer reads. -/
def TileOp.zReads (o : TileOp) (t : PTable) : List Nat :=
  match o.kind with
  | .tldZ | .tldY | .ptld => []
  | .tsv => (winCells o.vb).map fun e => 64 * e.1 + e.2
  | .tsum sums => (match tileWindow o.vb with
    | none => []
    | some (r, c) => ((List.range 128).map (tsumReads sums r c)).flatten)
  | .qcv _ =>
    let (a, n, _) := qcvFields o.vb
    ((List.range n).map fun i => (List.range 48).filterMap fun j => (o.qcvCol t j).map fun c => 64 * (a + i) + c).flatten

def tilePoison : FaultInfo := { cause := .poison, kind := .load, addr := 0 }

/-- The fault of an operation that reads a permutation table with an uncorrectable entry (R373, R375). -/
def Core.tablePoison (c : Core) (xf : Nat) (tab : Fin 8) : Option FaultInfo :=
  if xf = 2 ∧ (c.table tab.val).bad ≠ [] then some tilePoison else none

/-- What a transfer does on the data as they are (R202; log entry 31). -/
def State.tileOut (s : State) (core : Nat) (o : TileOp) : TOut × State :=
  let c := s.core core
  let z := o.cap.getD (c.ztile o.tn.val)
  let t := c.table o.tab.val
  if o.writes then
    let fault := (if (o.zReads t).any z.poison.contains then some tilePoison else none) <|> c.tablePoison o.xf o.tab
    match o.kind with
    | .tsv => ({ writes := o.tsv z, fl := 0, fault }, s)
    | .tsum sums => ({ writes := o.tsum sums z, fl := 0, fault }, s)
    | .qcv t6 =>
      let q := o.qcv t6 z t
      ({ writes := (q.map Prod.fst).flatten, fl := (q.map Prod.snd).foldl (· ||| ·) 0, fault }, s)
    | .tldZ | .tldY | .ptld => (default, s)
  else
    let (m, f, s) := s.readPlaces core o.places
    let blocks : Bool := o.kind == .tldY && decide (recEfmt o.br = 1)
    let ck := if blocks then blockChecks (recCheck o.br) 0 0 false m else []
    match o.kind with
    | .ptld => ({ writes := [], fl := 0, fault := f }, s)
    | _ => ({ writes := o.tld m ck t, fl := checkFlags ck, fault := f <|> checkFault o.places ck <|> c.tablePoison o.xf o.tab }, s)

def ZTile.put (z : ZTile) (k : Nat) (v : Word) : ZTile := { els := z.els.set k v, poison := z.poison.filter (· != k) }
def YTile.put (y : YTile) (k : Nat) (v : BitVec 20) : YTile := { els := y.els.set k v, poison := y.poison.filter (· != k) }

/-- May an operation write a tile: its group is resident, or nobody holds the tile (R42; log entry 17)? -/
def State.tileOpen (s : State) (core g k : Nat) : Bool := (s.group? g).isSome || (s.core core).token k == .free

/-- A Z entry of a tile, and of what later operations of a retired group captured of it. -/
def Core.putZ (c : Core) (o : TileOp) (here : Bool) (k : Nat) (v : Word) : Core :=
  { c with z := if here then c.z.upd { els := [], poison := [] } o.tn.val fun z => z.put k v else c.z,
           tops := c.tops.map fun x =>
             if x.g = o.g ∧ x.tn = o.tn ∧ o.id < x.id then { x with cap := x.cap.map fun z => z.put k v } else x }

/-- The same for an element of a Y tile. -/
def Core.putY (c : Core) (o : TileOp) (here : Bool) (t k : Nat) (v : BitVec 20) : Core :=
  let cap : MmaOp → (YTile × YTile) → YTile × YTile := fun m y =>
    (if m.yt.val = t then y.1.put k v else y.1, if m.ypair ∧ m.yt.val + 1 = t then y.2.put k v else y.2)
  { c with y := if here then c.y.upd { els := [], poison := [] } t fun y => y.put k v else c.y,
           mma := c.mma.map fun m => if m.g = o.g ∧ o.id < m.id then { m with cap := m.cap.map (cap m) } else m }

/-- Carries one write out. -/
def State.tileWrite (s : State) (core : Nat) (o : TileOp) (w : TWrite) : State :=
  match w with
  | .z k v => s.modCore core fun c => c.putZ o (s.tileOpen core o.g o.tn.val) k v
  | .y t k v => s.modCore core fun c => c.putY o (s.tileOpen core o.g (8 + t)) t k v
  | .mem va bs whole =>
    match o.places.find? (va.toNat / 64) with
    | none => s
    | some p => s.spaceStore core o.scope (some o.launch) (o.lanes.head?) (p.space.plus (va.toNat % 64)) bs whole

/-- A table takes its entries (R214). -/
def State.tableLoad (s : State) (core : Nat) (o : TileOp) : State :=
  let (m, _, s) := s.readPlaces core o.places
  let ent := (List.range o.vb.toNat).map fun k =>
    (k, match o.addr (o.va + BitVec.ofNat 64 (2 * k)) 2 with
      | .at va => BitVec.ofNat 16 (wordOfBytes ((bytesAt m va 2).getD []))
      | .outside | .bad _ => 0)
  s.modCore core fun c => { c with tab := c.tab.set o.tn.val { len := o.vb.toNat, ent } }

/-- TL falls in every thread that counted an operation (R200). -/
def State.tlFall (s : State) (ls : List Lane) : State := ls.foldl (fun s l => s.modBoth l fun th => { th with tl := th.tl - 1 }) s

def State.dropTile (s : State) (core id : Nat) : State := s.modCore core fun c => { c with tops := c.tops.filter fun o => o.id != id }

/-- The performer takes an operation's flags. -/
def State.raiseFlags (s : State) (ls : List Lane) (fl : Word) : State :=
  match lowest ls with
  | some p => s.modBoth p fun th => th.raise fl
  | none => s

/-- The writes of a transfer that are still to be performed. -/
def TileOp.due (o : TileOp) (r : TOut) : List TWrite :=
  if o.early.isEmpty then r.writes else (r.writes.zipIdx.filter fun e => !o.early.contains e.2).map Prod.fst

/-- A transfer completes. -/
def State.tileDone (s : State) (core : Nat) (o : TileOp) (r : TOut) : State :=
  let s := match o.kind with
    | .ptld => s.tableLoad core o
    | _ => (o.due r).foldl (fun s w => s.tileWrite core o w) s
  ((s.raiseFlags o.lanes r.fl).dropTile core o.id).tlFall o.lanes

/-- A failed operation's fault waits in each thread for the word that meets it; after the group has retired the launch reports it
(R202, R384). -/
def State.keepFault (s : State) (g launch gid : Nat) (ls : List Lane) (f : TileFault) : State :=
  if (s.group? g).isNone then
    s.failLaunch launch (if f.info.cause = .fabricLost then .fabric else .fault) (some (f.info, gid, false))
  else ls.foldl (fun s l => s.modBoth l fun th => { th with tileFaults := th.tileFaults ++ [f] }) s

/-- A transfer fails: each destination is old or new, as the free choices fall; a failed PTLD leaves length 0 (log entry 11). The flags of
the blocks it has read stand (R63). A failed QCV raises no flag of the blocks it did form: the spec is silent (log entry 11). -/
def State.tileFail (s : State) (core : Nat) (o : TileOp) (r : TOut) (f : FaultInfo) : State :=
  let s := match o.kind with
    | .ptld => s.modCore core fun c => { c with tab := c.tab.set o.tn.val { len := 0, ent := [] } }
    | _ => (o.due r).foldl (fun s w => if s.freeBit then (s.tileWrite core o w).used 1 else s.used 1) s
  let s := if o.writes then s else s.raiseFlags o.lanes r.fl
  ((s.dropTile core o.id).tlFall o.lanes).keepFault o.g o.launch o.gid o.lanes { info := f, objs := o.objs, handle := none }

/-! ### TZERO and TMOV (R206, R207) -/

/-- One group's TZERO: nothing while an earlier operation on the tile is in flight or an MMA reads it. -/
def State.tzero (s : State) (c : Ctx) (y : Bool) (tn : Fin 8) (p : Lane) (ls : List Lane) : Option State :=
  let k := tileKey y tn.val
  let n := (s.grp p.g).core
  if !s.holds p.g [k] then some (s.groupPlain c ls .token)
  else if (s.core n).tops.any (fun o => o.g == p.g && o.objs.contains k) || (s.core n).yRead [k] then none
  else some (s.modCore n fun x =>
    if y then { x with y := x.y.set tn.val { els := [], poison := [] } } else { x with z := x.z.set tn.val { els := [], poison := [] } })

def execTzero (h : Head) (y : Bool) (tn : Fin 8) : State → Host.Outcome State Fault Refusal :=
  runWord (.tzero h y tn) false fun c act s =>
    (performers act).foldl (fun acc e => acc.bind fun s => s.tzero c y tn e.1 e.2) (some s)

/-- The entry a selector names in a tile, if it is legal. -/
def tmovEntry (y : Bool) (sel : Word) : Option Nat :=
  let n := sel.toNat
  let i := natField n 0 6
  let j := natField n 8 6
  let t := natField n 16 2
  if n ≠ i + 256 * j + 65536 * t ∨ t = 3 ∨ (y ∧ t ≠ 0) then none
  else some (if t = 0 then 64 * i + j else if t = 1 then 4096 + i else 4160 + j)

/-- Must a TMOV wait in this lane (R203)? -/
def State.tmovWaits (s : State) (y : Bool) (tn : Fin 8) (put : Bool) (l : Lane) : Bool :=
  let c := s.core (s.grp l.g).core
  let k := tileKey y tn.val
  s.holds l.g [k] && ((c.tops.any fun o => o.g == l.g && o.objs.contains k) || (put && c.yRead [k]))

/-- One lane of TMOV.get. -/
def State.tmovGet (s : State) (c : Ctx) (i : Instr) (x : TmovGetF) (l : Lane) : State :=
  match s.operands c i l with
  | .error s => s
  | .ok (vs, s') =>
    let core := s.core (s.grp l.g).core
    match tmovEntry x.y (vs.getD 0 0).lo with
    | none => s.plainFault c l .illegalEnc
    | some k =>
      if !s.holds l.g [tileKey x.y x.tn.val] then s.plainFault c l .token
      else if (if x.y then (core.ytile x.tn.val).poison else (core.ztile x.tn.val).poison).contains k then
        s.faultAt c l { cause := .poison, kind := .none, addr := 0 }
      else
        let v : Word := if x.y then ((core.ytile x.tn.val).els.get 0 k).zeroExtend 32 else (core.ztile x.tn.val).els.get 0 k
        s'.putBoth l [(x.d.val, v)]

def execTmovGet (h : Head) (x : TmovGetF) : State → Host.Outcome State Fault Refusal :=
  let i := Instr.tmovGet h x
  runWord i false fun c act s =>
    if act.any (s.tmovWaits x.y x.tn false) then none else eachHeld (fun c l s => s.tmovGet c i x l) c act s

/-- One lane of TMOV.put. -/
def State.tmovPut (s : State) (c : Ctx) (i : Instr) (x : TmovPutF) (l : Lane) : State :=
  match s.operands c i l with
  | .error s => s
  | .ok (vs, s') =>
    match tmovEntry x.y (vs.getD 1 0).lo with
    | none => s.plainFault c l .illegalEnc
    | some k =>
      if !s.holds l.g [tileKey x.y x.tn.val] then s.plainFault c l .token
      else
        let v := (vs.getD 0 0).lo
        s'.modCore (s.grp l.g).core fun n =>
          if x.y then { n with y := n.y.upd { els := [], poison := [] } x.tn.val fun t =>
            { els := t.els.set k (v.truncate 20), poison := t.poison.filter (· != k) } }
          else { n with z := n.z.upd { els := [], poison := [] } x.tn.val fun t =>
            { els := t.els.set k v, poison := t.poison.filter (· != k) } }

def execTmovPut (h : Head) (x : TmovPutF) : State → Host.Outcome State Fault Refusal :=
  let i := Instr.tmovPut h x
  runWord i false fun c act s =>
    if act.any (s.tmovWaits x.y x.tn true) then none else eachHeld (fun c l s => s.tmovPut c i x l) c act s

/-! ### MMA (R208 to R211) -/

/-- The operation a parameter block describes, in the records of its group (R208). -/
def mmaOf (bs : List Byte) (g : Group) : MmaOp :=
  let w := fun lo n => wordOfBytes ((bs.drop lo).take n)
  let arec := g.brec (natField (w 19 1) 0 5)
  let b21 := w 21 1
  let b22 := w 22 1
  let x := resolveXf (match natField b22 0 2 with
    | 0 => .none
    | 1 => .h16
    | 2 => .perm (Fin.ofNat 8 (natField b22 2 3))
    | _ => .record) arec
  { id := 0, g := 0, gid := 0, launch := 0, part := 0, lanes := [], arec, aoff := BitVec.ofNat 64 (w 0 8), astr := BitVec.ofNat 32 (w 8 4), koff := w 12 4,
    m := w 16 1, n := w 17 1, k := w 18 1, ypair := natBit b21 6, yt := Fin.ofNat 8 (natField b21 3 3),
    zt := Fin.ofNat 8 (natField b21 0 3), alay := natBit b22 7, chk := natBit b22 6, ovw := natBit b22 5, xf := x.1,
    tab := x.2, scope := .core, handle := none, places := [], cap := none }

/-- The parameter values R209 calls illegal. -/
def mmaInvalid (bs : List Byte) (o : MmaOp) : Bool :=
  let w := fun lo n => wordOfBytes ((bs.drop lo).take n)
  let dim := fun n => decide (n < 1) || decide (64 < n)
  let efmt := recEfmt o.arec
  dim o.m || dim o.n || dim o.k || decide (natField (w 19 1) 5 3 ≠ 0) || natBit (w 21 1) 7 || decide (w 23 41 ≠ 0) ||
  (decide (w 20 1 ≠ 0) && decide (w 20 1 ≠ efmt)) || decide (efmt = 0) || decide (efmt = 5) || (o.alay && decide (efmt = 1)) ||
  (o.ypair && decide (o.yt.val % 2 = 1)) || (decide (o.xf ≠ 0) && decide (efmt ≠ 1)) ||
  (decide (o.xf = 1) && decide (o.koff % 16 ≠ 0)) ||
  (decide (natField (w 22 1) 2 3 ≠ 0) && decide (natField (w 22 1) 0 2 ≠ 2))

/-- The offset of A element (i, q) and its place in a block. -/
def MmaOp.aAt (o : MmaOp) (i q : Nat) : DWord × Nat :=
  let p := o.koff + q
  let str := o.astr.toInt
  let efmt := recEfmt o.arec
  let s := elemSize efmt
  if efmt = 1 then (o.aoff + BitVec.ofInt 64 ((i : Int) * str + (p / 48 * 64 : Nat)), p % 48)
  else if o.alay then (o.aoff + BitVec.ofInt 64 ((p : Int) * str + (i * s : Nat)), 0)
  else (o.aoff + BitVec.ofInt 64 ((i : Int) * str + (p * s : Nat)), 0)

def MmaOp.cells (o : MmaOp) : List (Nat × Nat) :=
  ((List.range o.m).map fun i => (List.range o.k).map fun q => (i, q)).flatten

/-- Reads the parameter block: its bytes, or the fault of step 2. -/
def State.mmaParam (s : State) (p : Lane) (x : MmaF) : Except FaultInfo (List Byte) × State :=
  let g := s.grp p.g
  match recCheckOff (g.brec x.br.val) (g.offsetPair p x.va) 64 false with
  | .bad a => (.error { cause := .bounds, kind := .load, addr := a }, s)
  | .outside => (.ok (List.replicate 64 0), s)
  | .at va =>
    match s.holdPlace p x.br.val 64 .load .rd va [] with
    | (.error f, s) => (.error f, s)
    | (.ok pl, s) =>
      match pl.find? (va.toNat / 64) with
      | none => (.ok (List.replicate 64 0), s)
      | some t =>
        if !s.engineMay (coreDie g.core) false t.space then (.error { cause := .fabricLost, kind := .load, addr := va }, s)
        else
          let s := s.engineReads (coreDie g.core) 0 t.space
          if s.spacePoison t.space 64 then (.error { cause := .poison, kind := .load, addr := va }, s)
          else
            let (bs, s) := s.spaceRead t.space 64
            (.ok bs, s)

/-- Does the engine wait for the parameter block: for a port, a home or an entry, until the recovery's bound (R209, R272, R394, R395)? -/
def State.mmaParamWaits (s : State) (p : Lane) (x : MmaF) : Bool :=
  let g := s.grp p.g
  match recCheckOff (g.brec x.br.val) (g.offsetPair p x.va) 64 false with
  | .bad _ | .outside => false
  | .at va =>
    match s.holdPlace p x.br.val 64 .load .rd va [] with
    | (.error _, _) => false
    | (.ok pl, s) => pl.any fun e => !s.engineMay (coreDie g.core) false e.2.space && !s.placeLost e.2.space

/-- The record number of A. -/
def mmaRecNo (bs : List Byte) : Nat := natField (wordOfBytes ((bs.drop 19).take 1)) 0 5

/-- An MMA enters the engine. -/
def State.mmaEnter (s : State) (c : Ctx) (x : MmaF) (p : Lane) (ls : List Lane) (o : MmaOp) : State :=
  let g := s.grp p.g
  let id := s.nextId
  let (h, s) := match x.hd with
    | some hd =>
      let (h, s) := State.newHandle { s with nextId := id + 1 } (coreDie g.core) 2 g.part g.launch
      (some h, ls.foldl (fun (s : State) l => s.modBoth l fun th => th.setHandle hd h) s)
    | none => (none, { s with nextId := id + 1 })
  let o := { o with id, handle := h, gid := g.gid, launch := g.launch, part := g.part }
  (s.modCore g.core fun n => { n with mma := n.mma ++ [o], tok := n.tok.set o.zt.val (.engine p.g) }).tileCount c ls id

/-- One group's MMA: the checks of R209 in their order. The offset must be a multiple of 64 before the block is looked at. -/
def State.mmaIssue (s : State) (c : Ctx) (x : MmaF) (p : Lane) (ls : List Lane) : State :=
  match s.mmaParam p x with
  | (.error f, s) => s.groupFault c ls f
  | (.ok bs, s) =>
    let o := { mmaOf bs (s.grp p.g) with g := p.g, lanes := ls, scope := x.scope }
    if (s.grp p.g).offsetPair p x.va &&& 63 ≠ 0 ∨ mmaInvalid bs o then s.groupPlain c ls .illegalEnc
    else if !s.holds p.g o.objs then s.groupPlain c ls .token
    else
      match s.holdPlaces p (mmaRecNo bs) .load .rd (o.cells.map fun e =>
          (recCheckOff o.arec (o.aAt e.1 e.2).1 (elemSize (recEfmt o.arec)) false, elemSize (recEfmt o.arec))) with
      | (.error f, s) => s.groupFault c ls f
      | (.ok places, s) =>
        match s.raiseKept c (o.objs ++ o.uses) ls with
        | ([], s) => s
        | (ls, s) => s.mmaEnter c x p ls { o with places, lanes := ls }

/-- SHAPE of V[VA] (R46). -/
def State.mmaBad (s : State) (act : List Lane) (x : MmaF) : Bool :=
  s.shapeBad act (match x.va with
    | some n => [(.v n, true)]
    | none => [])

/-- The matrix engine of a core holds one MMA streaming and four queued (R211, R297). -/
def mmaPlaces : Nat := 5

/-- The performers of a gang's MMA that have not entered yet, while the gang stalls at the word. -/
def State.mmaLeft (s : State) (c : Ctx) (act : List Lane) : List (Lane × List Lane) :=
  (performers act).filter fun e => !((s.wip c.k).getD []).any fun i => i.lane == e.1

/-- A gang of more groups than the engine has places enters it group by group, as places free (R297; log entry 28). -/
def mmaPending (x : MmaF) : Pending := fun c act s =>
  match act with
  | [] => s
  | l :: _ =>
    let room := mmaPlaces - (s.core (s.grp l.g).core).mma.length
    if (performers act).length ≤ mmaPlaces || s.mmaBad act x then s
    else
      let now := ((s.mmaLeft c act).take room).takeWhile fun e => !s.mmaParamWaits e.1 x
      let s := now.foldl (fun s e => s.mmaIssue c x e.1 e.2) s
      s.modGang c.k fun g => { g with wip := some (g.wip.getD [] ++ now.map fun e => { lane := e.1, op := 0 }) }

def execMma (h : Head) (x : MmaF) : State → Host.Outcome State Fault Refusal :=
  runWith (.mma h x) false (mmaPending x) fun c act s =>
    let left := s.mmaLeft c act
    if s.mmaBad act x then some (s.groupPlain c act .shape)
    else if s.unitFull (left.map Prod.fst) mmaPlaces (fun n => n.mma.length) || left.any (fun e => s.mmaParamWaits e.1 x) then none
    else some (left.foldl (fun s e => s.mmaIssue c x e.1 e.2) s)

/-! ### The matrix engine at work (R69, R210, R301) -/

/-- The engine has read the last column of the Y tiles. -/
def State.mmaColumn (s : State) (core : Nat) (o : MmaOp) : State :=
  let c := s.core core
  let y := (c.ytile o.yt.val, if o.ypair then c.ytile (o.yt.val + 1) else { els := [], poison := [] })
  s.modCore core fun c => { c with mma := c.mma.map fun m => if m.id = o.id then { m with cap := some y } else m }

/-- The Y tiles the engine works on. -/
def MmaOp.yTiles (o : MmaOp) (c : Core) : YTile × YTile :=
  match o.cap with
  | some y => y
  | none => (c.ytile o.yt.val, if o.ypair then c.ytile (o.yt.val + 1) else { els := [], poison := [] })

/-- A group retires: what its operations still read of its tiles is theirs (log entry 17). -/
def Core.captureTiles (c : Core) (g : Nat) : Core :=
  { c with tops := c.tops.map (fun o => if o.g = g ∧ o.writes then { o with cap := o.cap <|> some (c.ztile o.tn.val) } else o),
           mma := c.mma.map fun o => if o.g = g then { o with cap := some (o.yTiles c) } else o }

/-- The parts of Y[q][j]. -/
def MmaOp.yParts (o : MmaOp) (y : YTile × YTile) (q j : Nat) : List FVal :=
  let hi := ofI20 (y.1.els.get 0 (64 * q + j))
  if o.ypair then [hi, ofI20 (y.2.els.get 0 (64 * q + j))] else [hi]

/-- The parts of A[i][q] in I20 (R58). -/
def MmaOp.aParts (o : MmaOp) (m : AMap (List Byte)) (ck : AMap BlkCheck) (i q : Nat) : List FVal :=
  let efmt := recEfmt o.arec
  let (off, el) := o.aAt i q
  let v : FVal := match recCheckOff o.arec off (elemSize efmt) false with
    | .outside | .bad _ => fZero
    | .at va =>
      let bs := (bytesAt m va (elemSize efmt)).getD []
      if efmt = 1 then (match ck.find? (va.toNat / 64) with
        | some .decode => blkElement bs el
        | _ => .nan false)
      else elemVal efmt bs
  if efmt = 4 then
    let p := splitF32 v
    [ofI20 p.1, ofI20 p.2]
  else [ofI20 (toI20 v)]

/-- The products of all parts. -/
def partProducts (a y : List FVal) : List FVal := (a.map fun x => y.map fun z => (mulVal x z).1).flatten

/-- The Z entries an MMA writes and what it writes there. -/
def MmaOp.results (o : MmaOp) (a y : Nat → Nat → List FVal) (z : ZTile) : List (Nat × Word) :=
  let start := fun k => if o.ovw then (0 : Word) else z.els.get 0 k
  let prod := ((List.range o.m).map fun i => (List.range o.n).map fun j =>
    (64 * i + j, mmaElement (start (64 * i + j)) ((List.range o.k).map fun q => partProducts (a i q) (y q j)))).flatten
  if !o.chk then prod
  else
    let ye := fun q => f32Val (roundF32 (sumExact ((List.range o.n).map fun j => sumExact (y q j))))
    let ae := fun q => f32Val (roundF32 (sumExact ((List.range o.m).map fun i => sumExact (a i q))))
    let rows := (List.range o.m).map fun i =>
      (4096 + i, mmaElement (start (4096 + i)) ((List.range o.k).map fun q => [(mulVal (sumExact (a i q)) (ye q)).1]))
    let cols := (List.range o.n).map fun j =>
      (4160 + j, mmaElement (start (4160 + j)) ((List.range o.k).map fun q => [(mulVal (ae q) (sumExact (y q j))).1]))
    prod ++ rows ++ cols

/-- The tile elements an MMA reads that are poisoned. -/
def MmaOp.poisoned (o : MmaOp) (y : YTile × YTile) (z : ZTile) : Bool :=
  let rd := (List.range o.k).any fun q => (List.range o.n).any fun j =>
    y.1.poison.contains (64 * q + j) || (o.ypair && y.2.poison.contains (64 * q + j))
  let acc := ((List.range o.m).map fun i => (List.range o.n).map fun j => 64 * i + j).flatten ++
    (if o.chk then (List.range o.m).map (4096 + ·) ++ (List.range o.n).map (4160 + ·) else [])
  rd || (!o.ovw && acc.any z.poison.contains)

/-- The physical address of a place, for the predictor. -/
def State.placePa (s : State) (sp : Space) : Option Nat :=
  match sp with
  | .phys pa => some pa
  | .aper _ _ => none
  | .win core w off => match s.winPa core w (off / 64) .rd with
    | (.ok pa, _) => some pa
    | (.error _, _) => none

/-- Does the predictor call the block at a physical address ZERO (R301)? -/
def predZero (zp : AMap Nat) (pa : Nat) : Bool := zp.find? (natField pa 8 8) == some (natField pa 16 36)

/-- The predictor after a block was decoded. -/
def predLearn (zp : AMap Nat) (pa : Nat) (zero : Bool) : AMap Nat :=
  if zero then zp.set (natField pa 8 8) (natField pa 16 36)
  else if predZero zp pa then zp.erase (natField pa 8 8) else zp

/-- K positions skipped and missed, and the predictor afterwards; a sector that gave no block, poisoned, decides nothing.
All positions are predicted before the MMA's own blocks are learned, those in ascending virtual address (log entry 31). -/
def State.mmaPredict (s : State) (core : Nat) (o : MmaOp) (y : YTile × YTile) (m : AMap (List Byte)) (ck : AMap BlkCheck) :
    Nat × Nat × AMap Nat :=
  let zp := (s.core core).zpred
  let isZero := fun n => ck.find? n == some .decode && blkKind ((m.find? n).getD []) == .zero
  let rowNan := fun q => (List.range 64).any fun j => (o.yParts y q j).any FVal.isNan
  let blocks := fun q => (List.range o.m).filterMap fun i =>
    match recCheckOff o.arec (o.aAt i q).1 64 false with
    | .at va => (o.places.find? (va.toNat / 64)).map fun p => (va.toNat / 64, s.placePa p.space)
    | .outside | .bad _ => none
  let pred := (List.range o.k).filter fun q => decide ((blocks q).length = o.m) && !rowNan q &&
    (blocks q).all fun b => b.2.any (predZero zp)
  let other := fun n => (ck.find? n).isSome && !isZero n
  let hit := pred.filter fun q => (blocks q).all fun b => isZero b.1
  let miss := pred.filter fun q => (blocks q).any fun b => other b.1
  let zp := o.places.foldl (fun zp e => match s.placePa e.2.space with
    | some pa => if (ck.find? e.1).isSome then predLearn zp pa (isZero e.1) else zp
    | none => zp) zp
  (hit.length, miss.length, zp)

/-- The Z token of an MMA goes back: to its group while that is resident, else to FREE (R300). -/
def State.mmaToken (s : State) (core : Nat) (o : MmaOp) : State :=
  let back : Token := if (s.group? o.g).isSome then .group o.g else .free
  s.modCore core fun c => { c with tok := c.tok.set o.zt.val back, mma := c.mma.filter (fun m => m.id != o.id), mmas := c.mmas + 1 }

/-- An MMA fails: its tile is unchanged, its handle fails, its threads keep the fault (R202). -/
def State.mmaFail (s : State) (core : Nat) (o : MmaOp) (f : FaultInfo) : State :=
  let s := ((s.mmaToken core o).tlFall o.lanes).keepFault o.g o.launch o.gid o.lanes { info := f, objs := o.objs, handle := o.handle }
  match o.handle with
  | some h => s.setHandleState (hDie h) 2 (hSeq h) (.failed f)
  | none => s

/-- The MMA at the head of the engine ends: it writes Z and its checksums in one step, or it fails. -/
def State.mmaDone (s : State) (core : Nat) (o : MmaOp) : State :=
  let c := s.core core
  let y := o.yTiles c
  let z := c.ztile o.zt.val
  let (m, f, s) := s.readPlaces core o.places
  let blocks := decide (recEfmt o.arec = 1)
  let ck := if blocks then blockChecks (recCheck o.arec) o.xf o.tab.val true m else []
  let (skip, miss, zp) := if blocks then s.mmaPredict core o y m ck else (0, 0, c.zpred)
  let s := s.modCore core fun c =>
    { c with zpred := zp, zskip := c.zskip + BitVec.ofNat 64 skip, zmiss := c.zmiss + BitVec.ofNat 64 miss }
  match f <|> checkFault o.places ck <|> (if o.poisoned y z then some tilePoison else none) <|> c.tablePoison o.xf o.tab with
  | some f => (s.raiseFlags o.lanes (checkFlags ck)).mmaFail core o f
  | none =>
    let r := o.results (o.aParts m ck) (o.yParts y) z
    let z' : ZTile :=
      { els := r.foldl (fun e w => e.set w.1 w.2) z.els, poison := z.poison.filter (fun k => !r.any fun w => w.1 == k) }
    let s := s.modCore core fun c => { c with z := c.z.set o.zt.val z' }
    let s := ((s.raiseFlags o.lanes (checkFlags ck)).mmaToken core o).tlFall o.lanes
    match o.handle with
    | some h => s.setHandleState (hDie h) 2 (hSeq h) .complete
    | none => s

end Sys2Proof.Machine
end

