-- ==== Sys2Proof/Machine/SystemWords.lean ====
section
/-! DEFINITION. System words (R224 to R228, R323): TRAP, BRK, ERRINJ, LAUNCH, SIGNAL, IRQ. -/

namespace Sys2Proof.Machine

open Sys2Proof

/-! ### TRAP and BRK (R225, R371) -/

/-- BREAK with its code; a word re-executed by the handler's return falls through. -/
def State.break' (s : State) (c : Ctx) (l : Lane) (code : BitVec 16) (trap : Bool) : State :=
  let th := s.thread l
  if th.brkDone && th.mid && th.pc == c.w then s
  else s.faultAt c l { cause := .brk, kind := .none, addr := BitVec.ofNat 64 (code.toNat + 65536 * b2n trap) }

def execTrap (h : Head) (code : BitVec 16) : State → Host.Outcome State Fault Refusal :=
  runWord (.trap h code) false (eachHeld fun c l s => s.break' c l code true)

/-- Has the debugger armed break handling where a lane runs? -/
def State.brkStops (s : State) (l : Lane) : Bool :=
  let g := s.grp l.g
  (s.partn g.part).debug && (s.cluster (coreCluster g.core)).dbgctl.getLsbD 5

def execBrk (h : Head) (code : BitVec 16) : State → Host.Outcome State Fault Refusal :=
  runWord (.brk h code) false (eachHeld fun c l s =>
    if s.brkStops l then
      let g := s.grp l.g
      s.trigger (coreCluster g.core) 0 c.w g.gid l.t g.core 0 4 16
    else s.break' c l code false)

/-! ### ERRINJ (R226) -/

/-- One lane of ERRINJ.zflip. -/
def State.zflip (s : State) (c : Ctx) (i : Instr) (n : Fin 8) (bit : Fin 32) (l : Lane) : State :=
  match s.operands c i l with
  | .error s => s
  | .ok (vs, s') =>
    match tmovEntry false (vs.getD 0 0).lo with
    | none => s.plainFault c l .illegalEnc
    | some k =>
      if !s.holds l.g [n.val] then s.plainFault c l .token
      else s'.modCore (s.grp l.g).core fun x =>
        { x with z := x.z.upd { els := [], poison := [] } n.val fun z =>
          { z with els := z.els.set k (z.els.get 0 k ^^^ (1#32 <<< bit.val)) } }

/-- It takes its place among the tile words: an earlier operation on the tile completes first (R203). -/
def execErrinjZflip (h : Head) (va : Src) (n : Fin 8) (bit : Fin 32) : State → Host.Outcome State Fault Refusal :=
  let i := Instr.errinjZflip h va n bit
  runWord i false fun c act s =>
    if act.any (s.tmovWaits false n false) then none else eachHeld (fun c l s => s.zflip c i n bit l) c act s

/-- Inverts bits of the stored word that supplies a thread's value, and of its mirror (R226, R392). -/
def VReg.flip (r : VReg) (t : Nat) (m : Word) : VReg :=
  match r.val with
  | .g _ => { r with errs := r.errs.set t (r.errs.get 0 t ^^^ m), merrs := r.merrs.set t (r.merrs.get 0 t ^^^ m) }
  | .u _ | .a _ _ => { r with err := r.err ^^^ m, merr := r.merr ^^^ m }

def State.vflip (s : State) (l : Lane) (n : Nat) (m : Word) : State :=
  s.modGroup l.g fun g => g.setVreg l.sh n ((g.vreg l.sh n).flip l.t m)

def execErrinjVflip1 (h : Head) (va : Fin 96) (bit : Fin 32) : State → Host.Outcome State Fault Refusal :=
  runWord (.errinjVflip1 h va bit) false (eachLane fun _ l s => s.vflip l va.val (1#32 <<< bit.val))

def execErrinjVflip2 (h : Head) (va : Fin 96) (b1 b2 : Fin 32) : State → Host.Outcome State Fault Refusal :=
  runWord (.errinjVflip2 h va b1 b2) false (eachLane fun _ l s =>
    s.vflip l va.val ((1#32 <<< b1.val) ^^^ (1#32 <<< b2.val)))

/-- A sector of scratchpad is poisoned. -/
def State.poisonScratch (s : State) (g k : Nat) : State :=
  s.modGroup g fun x => { x with scratchPoison := if x.scratchPoison.contains k then x.scratchPoison else k :: x.scratchPoison }

/-- A sector of a stash window is poisoned. -/
def State.poisonWin (s : State) (core w k : Nat) : State :=
  s.modWin core w fun x => { x with sectors := x.sectors.modify k fun y => { y with poison := true } }

/-- The 64-byte sector at a flat address is poisoned, wherever its bytes stand (log entry 33). -/
def State.poisonAt (s : State) (c : Ctx) (l : Lane) (va : DWord) : State :=
  let bad := fun (s : State) (cause : Cause) => s.faultAt c l { cause, kind := .load, addr := va }
  if !canonical va then bad s .bounds
  else match s.resolve l.g va 1 .leaf with
    | (.error e, s) => bad s e.cause
    | (.ok sp, s) =>
      match sp with
      | .phys pa => (match (s.sector (pa / 64)).win with
        | some h => ((s.poisonWin h.core h.w h.k).modSector (pa / 64) fun x => { x with poison := true }).uncorrAt (coreDie h.core) 2 (pa / 64 * 64)
        | none => s.poisonSector (pa / 64) (if s.paKind pa = .hbm then s.home pa else coreDie (s.grp l.g).core) 6)
      | .aper g off => (s.poisonScratch g (off / 64)).uncorrAt (coreDie (s.grp g).core) 2 0
      | .win core w off => (s.poisonWin core w (off / 64)).uncorrAt (coreDie core) 2 0

def execErrinjPoison (h : Head) (va : Src) : State → Host.Outcome State Fault Refusal :=
  let i := Instr.errinjPoison h va
  runWord i false (eachHeld fun c l s => s.withOps c i l fun vs s => s.poisonAt c l (vs.getD 0 0))

/-! ### LAUNCH (R227, R323) -/

/-- Resolves the target of SIGNAL or the record of LAUNCH, which may not lie in the aperture (R256). -/
def State.resolveFar (s : State) (g : Nat) (va : DWord) (size : Nat) (n : Need) : Except XErr Space × State :=
  if (aperOff va).isSome then (.error .bounds, s) else s.resolve g va size n


/-- The physical places of the four sectors of a launch record, or the fault of the read check. -/
def State.recordPlaces (s : State) (g : Nat) (va : DWord) : Except FaultInfo (List Space) × State :=
  (List.range 4).foldl (fun (acc : Except FaultInfo (List Space) × State) k =>
    match acc with
    | (.error f, s) => (.error f, s)
    | (.ok l, s) =>
      match s.resolveFar g (va + BitVec.ofNat 64 (64 * k)) 64 .rd with
      | (.ok sp, s) => (.ok (l ++ [sp]), s)
      | (.error e, s) => (.error { cause := e.cause, kind := .load, addr := va }, s)) (.ok [], s)

/-- The bytes at a list of sectors. -/
def State.readSpaces (s : State) (l : List Space) : List Byte × State :=
  l.foldl (fun (acc : List Byte × State) sp =>
    let (bs, s) := acc.2.spaceRead sp 64
    (acc.1 ++ bs, s)) ([], s)

/-- A launch buffer place takes the record and reserves on the queue's TAIL (R320 step 1, R323). -/
def State.launchReserve (s : State) (part q : Nat) (bytes : List Byte) (handle : Option (Nat × Nat)) : State :=
  let qb := ((s.partn part).queues.get default q).qb
  let n := s.rdNat qb 8
  let s := s.storeNow none none qb (bytesOfNat 8 ((n + 1) % 2 ^ 64)) false
  s.modPart part fun p => { p with lbuf := p.lbuf ++ [{ q, n, bytes := bytes.take 248, handle }] }

/-- One group's LAUNCH; nothing while its place, its earlier stores, or what its record and the queue's TAIL need to be reached are awaited. -/
def State.launchWord (s : State) (c : Ctx) (va : Src) (q : BitVec 8) (hd : Option (Fin 16)) (p : Lane) (ls : List Lane) :
    Option State :=
  let a := (s.uniformOps p [(va, true)]).getD 0 0
  let g := s.grp p.g
  let bad := fun (cause : Cause) => some (s.groupFault c ls { cause, kind := .load, addr := a })
  if !canonical a then bad .bounds
  else if a.toNat % 64 ≠ 0 then bad .illegalEnc
  else match s.recordPlaces p.g a with
    | (.error f, s) => some (s.groupFault c ls f)
    | (.ok sps, s) =>
      let die := coreDie g.core
      let tail := ((s.partn g.part).queues.get default q.toNat).qb
      if sps.any s.placeLost then some (s.groupFault c ls { cause := .fabricLost, kind := .load, addr := a })
      else if 64 ≤ (s.partn g.part).lbuf.length ∨ !s.releasable p .pkg ∨ sps.any (fun sp => !s.engineMay die false sp) ∨
          !s.reachAt 1 die true tail then none
      else
        let (bs, s) := (sps.foldl (fun (s : State) sp => s.engineReads die 0 sp) s).readSpaces sps
        let s := s.sideEffect g.launch
        match hd with
        | none => some (s.launchReserve g.part q.toNat bs none)
        | some hd =>
          let (h, s) := s.newHandle die 3 g.part g.launch
          let s := s.launchReserve g.part q.toNat bs (some (die, hSeq h))
          some (ls.foldl (fun (s : State) l => s.modBoth l fun th => th.setHandle hd h) s)

def execLaunch (h : Head) (va : Src) (q : BitVec 8) (hd : Option (Fin 16)) : State → Host.Outcome State Fault Refusal :=
  runWord (.launch h va q hd) false fun c act s =>
    if s.shapeBad act [(va, true)] then some (s.groupPlain c act .shape)
    else (performers act).foldl (fun acc e => acc.bind fun s => s.launchWord c va q hd e.1 e.2) (some s)

/-! ### SIGNAL and IRQ (R228) -/

/-- One lane of SIGNAL: an 8-byte access at `.sys` with release order. A failed check changes nothing, the queues it would have popped
among it (R165). -/
def State.signal (s0 : State) (c : Ctx) (i : Instr) (add : Bool) (l : Lane) : State :=
  s0.withOps c i l fun vs s =>
    let va := vs.getD 0 0
    let k : AccKind := if add then .atomic else .store
    let bad := fun (cause : Cause) => s0.faultAt c l { cause, kind := k, addr := va }
    if !canonical va then bad .bounds
    else if va.toNat % 8 ≠ 0 then bad .illegalEnc
    else match s.resolveFar l.g va 8 (if add then .rw else .wr) with
      | (.error e, _) => bad e.cause
      | (.ok sp, s) =>
        match s.memKind sp with
        | .host _ => bad .bounds
        | _ =>
          if add && s.spacePoison sp 8 then bad .poison
          else
            let s := s.watch l c.w va (if add then s.atomKind l.g sp .sys else 1) 8 .sys
            (s.sideEffect (s.grp l.g).launch).issueOp c l .st
              { va, space := sp, size := 8, scope := .sys, ord := .rel, kind := .signal add, data := bytesOfNat 8 (vs.getD 1 0).toNat }

def execSignalSt (h : Head) (va vb : Src) : State → Host.Outcome State Fault Refusal :=
  runWord (.signalSt h va vb) false (eachHeld fun c l s => s.signal c (.signalSt h va vb) false l)

/-- Is the poison of SIGNAL.add's place open (log entry 8)? -/
def State.signalWaits (s : State) (c : Ctx) (i : Instr) (l : Lane) : Bool :=
  match s.operands c i l with
  | .error _ => false
  | .ok (vs, s) =>
    let va := vs.getD 0 0
    canonical va && decide (va.toNat % 8 = 0) &&
      match s.resolveFar l.g va 8 .rw with
      | (.error _, _) => false
      | (.ok sp, s) => s.poisonOpen l sp 8

def execSignalAdd (h : Head) (va vb : Src) : State → Host.Outcome State Fault Refusal :=
  let i := Instr.signalAdd h va vb
  runWord i false fun c act s =>
    if act.any (s.signalWaits c i) then none else eachHeld (fun c l s => s.signal c i true l) c act s

/-- A message of a partition's virtual function: pending when its vector is masked, discarded while the port's link is down
(R228, R353, R396; log entry 25). -/
def State.sendVf (s : State) (p vec : Nat) : State :=
  let x := s.partn p
  if (s.hostPort x.port).recovery.isSome then s
  else if x.msixMask.contains vec then
    s.modPart p fun x => { x with msixPend := if x.msixPend.contains vec then x.msixPend else vec :: x.msixPend }
  else { s with msgs := s.msgs ++ [{ port := x.port, vf := some p, vec }] }

def execIrq (h : Head) (vec : BitVec 11) : State → Host.Outcome State Fault Refusal :=
  runWord (.irq h vec) false fun _ act s =>
    if (performers act).any fun e => !s.releasable e.1 .sys then none
    else some ((performers act).foldl (fun s e =>
      let g := s.grp e.1.g
      (s.sideEffect g.launch).sendVf g.part vec.toNat) s)

end Sys2Proof.Machine
end

