-- ==== Sys2Proof/Machine/EvMemory.lean ====
section
/-! DEFINITION. Events of memory: accesses in flight complete (R37, R270), requests climb the directories (R265 to R273),
invalidations arrive, hosts and other packages act (R293, R357, R358), ports recover or fail (R274, R393 to R396). -/

namespace Sys2Proof.Machine

open Sys2Proof

/-! ### What an access can reach -/

/-- Is some directory being rebuilt after a fence, so that requests stall (R402; log entry 18)? -/
def State.rebuilding (s : State) : Bool := s.dies.any fun e => e.2.fenced && e.2.fencedAt.isSome

/-! ### Performing an access (R37, R270, R375) -/

def accKind : OpKind → AccKind
  | .load _ _ _ | .bld _ | .smld _ => .load
  | .store | .smst | .signal false => .store
  | .atom _ _ _ | .acas _ _ | .signal true => .atomic

/-- Does an access count on LD, so that a word waits for what it returns? -/
def OpKind.returns : OpKind → Bool
  | .load _ _ _ | .acas _ _ | .bld _ | .smld _ => true
  | .atom _ _ dst => !dst.isEmpty
  | .store | .smst | .signal _ => false

/-- An access fails. Poison is consumed here, whatever the thread does later (R375, R376). What a BLD or SMLD element met its word
raises; a failed load or atomic is complete, its other units with it, and its fault waits for a word that needs its value, or for one
that waits on ST (R395; log entry 8). A lost write of a thread that has ended is reported by its launch. -/
def State.opFails (s : State) (id : Nat) (o : MemOp) (cause : Cause) : State :=
  let f : FaultInfo := { cause, kind := accKind o.kind, addr := o.va }
  if o.kind.staged then { s with ops := s.ops.modify id fun o => { o with failed := some f } }
  else if (s.ops.find? id).isNone then s
  else
    let s := { s with ops := s.ops.filter fun e => e.1 == id || e.2.word != o.word }
    let s := if cause = .poison then (s.consume (coreDie o.core) o.launch o.gid f).1 else s
    let s := s.opDone id
    if !(s.thread o.lane).live then
      (if cause = .fabricLost && !o.kind.returns then s.failLaunch o.launch .fabric (some (f, o.gid, false)) else s)
    else s.modBoth o.lane fun th =>
      if o.kind.returns then (match opDst o.kind with
        | [] => th
        | dst => { th with loads := th.loads ++ [{ info := f, dst, input := (opInput o.kind).isSome }] })
      else { th with fabric := th.fabric ++ [f] }

/-- Is the access an atomic or any other that reads before it writes? -/
def OpKind.reads : OpKind → Bool
  | .load _ _ _ | .bld _ | .smld _ | .atom _ _ _ | .acas _ _ | .signal true => true
  | .store | .smst | .signal false => false

/-- Does the access need only a copy to read? -/
def OpKind.plainRead : OpKind → Bool
  | .load _ _ _ | .bld _ | .smld _ => true
  | .store | .smst | .signal _ | .atom _ _ _ | .acas _ _ => false

/-- Performs an access where its bytes stand outside the L1s. -/
def State.performAway (s : State) (id : Nat) (o : MemOp) : State :=
  if o.kind.reads && s.spacePoison o.space o.size then s.opFails id o .poison
  else s.performNow id

/-- L1HIT counts a request that met its copy at once (R275). -/
def State.countHit (s : State) (core : Nat) (o : MemOp) : State :=
  if o.level = 0 then s.modCore core fun c => { c with l1hit := c.l1hit + 1 } else s

/-- A read of a sector by its own L1 copy; one whose invalidation has not arrived gives its old bytes (R270). HINT 4 leaves no copy behind
that its request brought (R170). -/
def State.readCopy (s : State) (id : Nat) (o : MemOp) (core pa : Nat) : Option State :=
  let sec := pa / 64
  let x := s.sector sec
  match x.stale.find? core with
  | some old => some ((s.countHit core o).opPerformed id o ((old.drop (pa % 64)).take o.size))
  | none =>
    if (x.l1.find? core).isNone || s.heldFor sec (some o.lane) then none
    else
      let s := s.countHit core o
      let s := if s.poisoned pa o.size then s.opFails id o .poison else s.opPerformed id o (s.rdN pa o.size)
      some (if o.hint = 4 ∧ o.level = 5 then s.dropCopy core sec else s)

/-- A store, or an atomic of `.core`, under ownership in the L1 (R266, R270). -/
def State.writeCopy (s : State) (id : Nat) (o : MemOp) (core pa : Nat) : Option State :=
  let x := s.sector (pa / 64)
  let owns := x.l1.find? core == some .m || x.l1.find? core == some .e
  if !owns || !x.clearFor o.scope core || s.heldFor (pa / 64) (some o.lane) then none
  else if o.kind.reads && s.poisoned pa o.size then some ((s.countHit core o).opFails id o .poison)
  else
    let old := s.rdN pa o.size
    let s := s.countHit core o
    let s := match rmwBytes o.kind old o.data with
      | some bs => s.ownWrite core (some o.launch) (some o.lane) pa bs o.whole
      | none => s
    let s := s.opPerformed id o old
    some (if o.hint = 4 ∧ o.level = 5 then s.dropCopy core (pa / 64) else s)

/-! ### Atomics at a directory (R174, R266, R270) -/

/-- Is an access performed at the directory of its scope? -/
def MemOp.atDirectory (o : MemOp) : Bool :=
  o.scope != .core && (match o.kind with
    | .atom _ _ _ | .acas _ _ | .signal true => true
    | .load _ _ _ | .store | .signal false | .bld _ | .smld _ | .smst => false)

/-- The level of the directory of a scope: 0 the cluster's to 4 the package's. -/
def pocLevel (scope : Scope) : Nat := min (scopeCode scope - 1) 4

/-- Does the L2 of a die hold a sector alone, as its owner? -/
def Sector.ownedBy (x : Sector) (die : Nat) : Bool := x.l1.isEmpty && x.l2own == some die && x.l2s.all (· == die)

/-- Does the point of coherence of an atomic hold its sector under ownership, every copy it must invalidate gone (R270)? The L2 of the
issuer's die holds it for the directory of the scope, which must answer too (R266, R413; log entry 59). -/
def State.pocReady (s : State) (o : MemOp) (pa : Nat) : Bool :=
  let x := s.sector (pa / 64)
  x.ownedBy (coreDie o.core) && x.clearFor o.scope o.core && !s.heldFor (pa / 64) (some o.lane) &&
  !s.entryLost (pocLevel o.scope) o.core (pa / 64)

/-- An atomic at its directory reads and writes in one step. -/
def State.pocPerform (s : State) (id : Nat) (o : MemOp) (pa : Nat) : Option State :=
  let sec := pa / 64
  if !s.pocReady o pa then none
  else if s.poisoned pa o.size then some (s.opFails id o .poison)
  else
    let old := s.rdN pa o.size
    let s := match rmwBytes o.kind old o.data with
      | none => s
      | some bs => ((s.capture (some o.launch) pa).poke pa bs o.whole).modSector sec fun x => { x with l2dirty := some (coreDie o.core) }
    some (s.opPerformed id o old)

/-- An access through a window fills its sector first, once what that takes can be reached (R257, R272). A page that translates no more
fails the access (log entry 58). -/
def State.performWin (s : State) (id : Nat) (o : MemOp) : Option State :=
  match s.unfilled o.space with
  | none => some (s.performAway id o)
  | some _ =>
    if !s.engineMay (coreDie o.core) false o.space then none
    else
      let t := s.fillPlace o.space
      some (if (t.unfilled o.space).isSome then t.opFails id o .pageFault else t.performAway id o)

/-- An access takes place, if its request has come far enough. -/
def State.perform (s : State) (id : Nat) (o : MemOp) : Option State :=
  match o.space with
  | .aper _ _ => some (s.performAway id o)
  | .win _ _ _ => s.performWin id o
  | .phys pa =>
    match s.paKind pa with
    | .hbm | .window _ =>
      if (s.sector (pa / 64)).win.isSome then some (s.performAway id o)
      else if o.kind.plainRead then s.readCopy id o o.core pa
      else if o.atDirectory then s.pocPerform id o pa
      else s.writeCopy id o o.core pa
    | .span | .host _ => if 2 ≤ o.level && s.portOpen o.space then some (s.performAway id o) else none
    | .none => none

/-- An access of one of two sorts completes when its own thread's order allows it, or takes its thread's own store. A release of a scope
below `.sys` may be performed before what it releases: whoever synchronises with it waits (R278, R282, R286). -/
def State.complete (s : State) (id : Nat) (returns : Bool) : Option State :=
  match s.ops.find? id with
  | none => none
  | some o =>
    if !o.live || o.rejected || o.kind.returns != returns then none
    else if s.opReady id o then
      (if s.relReady id o || (o.scope != .sys && !o.kind.isRead) then (s.perform id o).map (s.noteEarly id o) else none)
    else (s.forwards id o).map fun bs => s.opPerformed id o bs

def execLoadComplete (op : Nat) : State → Host.Outcome State Fault Refusal := runEvent fun s => s.complete op true
def execStoreComplete (op : Nat) : State → Host.Outcome State Fault Refusal := runEvent fun s => s.complete op false

/-! ### Requests (R265 to R273) -/

/-- The request leaves its die: it takes an entry, or it is rejected. -/
def State.leaveDie (s : State) (id : Nat) (o : MemOp) (pa level : Nat) : State :=
  let die := coreDie o.core
  if o.entry || s.entryFree die (sliceOf pa) id none then
    { s with ops := s.ops.modify id fun o => { o with level, entry := true } }
  else
    { s with ops := s.ops.modify id fun o => { o with rejected := true, rejects := o.rejects + 1 } }.modDie die
      fun d => { d with memRej := d.memRej + 1 }

/-- The lines an L1 holds: the carve leaves it the rest of 36 granules (R250, R260). -/
def State.l1Room (s : State) (core : Nat) : Nat :=
  match (s.core core).carve with
  | some c => 256 * (36 - c.regs - c.scr - c.stash)
  | none => 256 * 36

/-- A line leaves a core's L1. -/
def State.evictLine (s : State) (core line : Nat) : State :=
  (lineSectors line).foldl (fun (s : State) k => s.dropCopy core k) s

/-- A line is evicted from the core's L1 where it is full, and may be where it is not (R267). -/
def State.evictSome (s : State) (core keep : Nat) : State :=
  let holds := fun (e : Nat × Sector) => (e.2.l1.find? core).isSome
  let other := fun (e : Nat × Sector) => holds e && e.1 / 4 != keep / 4 && !s.homeLost (e.1 / 4 * 4)
  if !s.sectors.any other then s
  else if s.overfull (s.l1Room core) holds || s.freeBit then
    let l := s.linesOf other
    let line := l.getD ((s.used 1).freeWord.toNat % l.length) 0
    (s.used 2).evictLine core line
  else s.used 1

/-- What makes room where a request's data are kept, in the core's L1 and, for a request that left the die, in its L2. -/
def State.makeRoom (s : State) (o : MemOp) (sec : Nat) : State :=
  let s := s.evictSome o.core sec
  if o.entry then s.evictL2 (coreDie o.core) sec else s

/-- The request is answered by the directory it has reached. Ownership waits until every invalidation for an earlier grant has
been acknowledged (R269; log entry 10). -/
def State.grant (s : State) (id : Nat) (o : MemOp) (sec : Nat) (own : Bool) : Option State :=
  let x := s.sector sec
  if (own && !(x.stale.isEmpty && x.l2stale.isEmpty)) || s.heldFor sec (some o.lane) || s.pathLost o.level o.core sec own then none
  else
    let s := s.fromHome sec o.hint
    let s := if own then s.grantOwn o.core sec else s.grantRead o.core sec
    some ({ s with ops := s.ops.modify id fun o => { o with level := 5, entry := o.entry && own } }.makeRoom o sec)

/-- The directory of an atomic's scope takes the sector. -/
def State.grantPoc (s : State) (id : Nat) (o : MemOp) (pa : Nat) : Option State :=
  let x := s.sector (pa / 64)
  if !(x.stale.isEmpty && x.l2stale.isEmpty) || s.heldFor (pa / 64) (some o.lane) || s.pathLost (pocLevel o.scope) o.core (pa / 64) true then none
  else
    let s := (s.fromHome (pa / 64) o.hint).takeInside o.core o.scope (coreDie o.core) (pa / 64)
    some ({ s with ops := s.ops.modify id fun o => { o with level := 5 } }.makeRoom o (pa / 64))

/-- A read finds, at a directory that an invalidation has not reached, a copy below it that still holds its old bytes (R270): one that the
latest bytes have passed, or that knows a copy of them, answers with those (R268, R278). -/
def Sector.oldBelow (x : Sector) (key core : Nat) : Option (List Byte) :=
  if (x.dir.find? key).isSome || x.fresh.contains key || x.l1.any (fun e => onPath key e.1) then none
  else ((x.stale.first fun e => onPath key e.1).map Prod.snd) <|>
    (if 64 ≤ key then (x.l2stale.first fun e => onPath key (96 * e.1) && decide (e.1 = coreDie core ∨ 128 ≤ key)).map Prod.snd else none)

/-- Is an access answered where it stands, so that it asks no directory? -/
def State.answered (s : State) (o : MemOp) (pa : Nat) : Bool :=
  let x := s.sector (pa / 64)
  if o.atDirectory then x.ownedBy (coreDie o.core)
  else match x.l1.find? o.core with
    | some .m | some .e => true
    | some .o | some .s => o.kind.plainRead
    | none => o.kind.plainRead && (x.stale.find? o.core).isSome

/-- The request of a coherent access at the next directory of its path. -/
def State.climb (s : State) (id : Nat) (o : MemOp) (pa : Nat) : Option State :=
  let core := o.core
  let sec := pa / 64
  let x := s.sector sec
  let own := !o.kind.plainRead
  let k := if 5 ≤ o.level then 0 else o.level
  if s.answered o pa || s.entryLost k core sec then none
  else
    let key := dirKey k core
    let d := x.dir.find? key
    let s := if o.level = 0 ∧ (x.l1.find? core).isNone then s.modCore core fun c => { c with l1miss := c.l1miss + 1 } else s
    let old := if own then none else x.oldBelow key core
    if old.isSome && s.freeBit then
      some ({ s.used 1 with ops := s.ops.modify id fun o => { o with level := 5, entry := false } }.modSector sec
        fun x => { x with stale := x.stale.set core (old.getD []) })
    else
      let s := if old.isSome then s.used 1 else s
      let far := o.atDirectory && decide (k < pocLevel o.scope)
      if !far && ((if own then d == some .x else d.isSome) || k == 4) then
        (if o.atDirectory then s.grantPoc id o pa else s.grant id o sec own)
      else if k = 1 then some (s.leaveDie id o pa 2)
      else some { s with ops := s.ops.modify id fun o => { o with level := k + 1 } }

def State.directoryRequest (s : State) (id : Nat) : Option State :=
  match s.ops.find? id with
  | none => none
  | some o =>
    if !o.live || o.rejected || !s.portOpen o.space then none
    else match o.space with
      | .aper _ _ | .win _ _ _ => none
      | .phys pa => match s.paKind pa with
        | .none => none
        | .span | .host _ => if 2 ≤ o.level then none else some (s.leaveDie id o pa 2)
        | .hbm | .window _ => if (s.sector (pa / 64)).win.isSome then none else s.climb id o pa

def execDirectoryRequest (op : Nat) : State → Host.Outcome State Fault Refusal := runEvent fun s => s.directoryRequest op

/-- A rejected request is presented again: it takes an entry, is rejected again, or joins the aged list. -/
def State.representRequest (s : State) (id : Nat) : Option State :=
  match s.ops.find? id with
  | none => none
  | some o => match o.space with
    | .aper _ _ | .win _ _ _ => none
    | .phys pa =>
      let die := coreDie o.core
      let slice := sliceOf pa
      if !o.live || !o.rejected then none
      else if s.entryFree die slice id o.agedAt then
        let s := { s with ops := s.ops.modify id fun o => { o with rejected := false, agedAt := none, level := 2, entry := true } }
        some (if o.agedAt.isSome then s.modDie die fun d => { d with memAged := d.memAged + 1 } else s)
      else if o.agedAt.isSome then none
      else
        let n := o.rejects + 1
        let since := if 64 ≤ n then some s.time else none
        some ({ s with ops := s.ops.modify id fun o => { o with rejects := n, agedAt := since } }.modDie die
          fun d => { d with memRej := d.memRej + 1 })

def execRequestRepresent (op : Nat) : State → Host.Outcome State Fault Refusal := runEvent fun s => s.representRequest op

/-- The invalidation of a stale copy arrives at its core, or at the L2 of its die (R267, R270, R308). -/
def State.forwardedRequest (s : State) (sec core : Nat) : Option State :=
  let x := s.sector sec
  if (x.stale.find? core).isSome then
    some (((s.modSector sec fun x => ({ x with stale := x.stale.erase core }).freshen []).markCore sec core).wakeSector sec)
  else if (x.l2stale.find? (coreDie core)).isSome then
    some (s.modSector sec fun x => ({ x with l2stale := x.l2stale.erase (coreDie core) }).freshen [])
  else none

def execForwardedRequest (sec core : Nat) : State → Host.Outcome State Fault Refusal :=
  runEvent fun s => s.forwardedRequest sec core

def State.mscWriteback (s : State) (line : Nat) : Option State :=
  if (lineSectors line).any fun k => (s.sector k).msc.isSome then some (s.mscDrain line) else none

def execMscWriteback (line : Nat) : State → Host.Outcome State Fault Refusal := runEvent fun s => s.mscWriteback line

/-! ### Hosts and other packages (R293, R357, R358) -/

/-- An outside agent acts on bytes of one coherent sector: its request starts at the package directory. -/
def State.outside (s : State) (pa : Nat) (k : ExtKind) : Option State :=
  match k with
  | .read => some (s.readAt 5 0 0 (pa / 64))
  | .write bs =>
    if bs.isEmpty ∨ 64 < pa % 64 + bs.length then none
    else some (s.storeNow none none pa bs false)
  | .add v =>
    if pa % 8 ≠ 0 then none
    else
      let new := bytesOfNat 8 ((s.rdNat pa 8 + v.toNat) % 2 ^ 64)
      some (s.storeNow none none pa new false)

/-- An outside agent acts on memory of its own that the part does not keep coherent: only the bytes change. -/
def State.farWrite (s : State) (pa : Nat) (k : ExtKind) : Option State :=
  match k with
  | .read => none
  | .write bs => if bs.isEmpty ∨ 64 < pa % 64 + bs.length then none else some (s.wrN pa bs)
  | .add v => if pa % 8 ≠ 0 then none else some (s.wrN pa (bytesOfNat 8 ((s.rdNat pa 8 + v.toNat) % 2 ^ 64)))

/-- A host agent behind a port acts on its memory: in the window as a forwarded request, elsewhere without coherence. -/
def State.hostSnoop (s : State) (x : ExtAccess) : Option State :=
  match s.paKind x.pa with
  | .window p => if p = x.port ∧ s.reachAt 5 0 (x.kind != .read) x.pa then s.outside x.pa x.kind else none
  | .host p => if p = x.port then (s.hostKeeps (x.pa / 64)).farWrite x.pa x.kind else none
  | .hbm | .span | .none => none

def execHostSnoop (x : ExtAccess) : State → Host.Outcome State Fault Refusal := runEvent fun s => s.hostSnoop x

/-- An agent of another package acts: over Span on the part's HBM, or on its own memory. -/
def State.remoteAccess (s : State) (x : ExtAccess) : Option State :=
  let p := s.spanPort x.port
  match s.paKind x.pa with
  | .hbm => if p.enabled && p.recovery.isNone && s.reachAt 5 0 (x.kind != .read) x.pa then s.outside x.pa x.kind else none
  | .span => s.farWrite x.pa x.kind
  | .host _ | .window _ | .none => none

def execRemoteAccess (x : ExtAccess) : State → Host.Outcome State Fault Refusal := runEvent fun s => s.remoteAccess x

/-! ### Span ports and host ports (R274, R393 to R396) -/

/-- The nacked flit stays in its source buffer and is sent again. -/
def State.spanNack (s : State) (n : Nat) : Option State :=
  if n < 48 ∧ (s.spanPort n).enabled then some (s.modSpan n fun p => { p with nacks := p.nacks + 1 }) else none

def execSpanNack (port : Nat) : State → Host.Outcome State Fault Refusal := runEvent fun s => s.spanNack port

/-- Recovery starts, with or without the link. -/
def State.spanRecovery (s : State) (n : Nat) (drop : Bool) : Option State :=
  let p := s.spanPort n
  if n < 48 ∧ p.enabled ∧ (p.recovery.isNone ∨ (drop ∧ !p.linkDown)) then
    some (s.modSpan n fun p => { p with recovery := p.recovery <|> some s.time, linkDown := p.linkDown || drop })
  else none

def execSpanRecoveryStart (port : Nat) : State → Host.Outcome State Fault Refusal :=
  runEvent fun s => s.spanRecovery port false
def execSpanLinkDrop (port : Nat) : State → Host.Outcome State Fault Refusal := runEvent fun s => s.spanRecovery port true

/-- Does an access hold a flit in the source buffer of the ports to a place's package or host: has it left the die, and is it not yet acknowledged
(R274, R393)? -/
def State.flitHeld (s : State) (k : PaKind) (id : Nat) (o : MemOp) : Bool :=
  o.live && !o.rejected && decide (2 ≤ o.level) && s.opReady id o && (match o.space with
    | .phys pa => s.paKind pa == k
    | .aper _ _ | .win _ _ _ => false)

/-- A retrained port sends a held flit again and it is acknowledged: its access is performed (R393, R396). Ports are numbered as in
`State.recoveryOf`. -/
def State.flitAck (s : State) (n id : Nat) : State :=
  let down := if n < 48 then (s.spanPort n).recovery else (s.hostPort (n - 48)).recovery
  match s.ops.find? id with
  | some o => if down.isSome && !pastBound s down && s.flitHeld (if n < 48 then .span else .host (n - 48)) id o then s.performAway id o else s
  | none => s

/-- Recovery ends when no held flit is unacknowledged: another port has taken them, or each has been acknowledged. Copies, tile operations and queue
loads hold none here: their accesses are each one move (log entry 19). -/
def State.spanRecoveryEnd (s : State) (n : Nat) : Option State :=
  if (s.spanPort n).recovery.isSome && (s.spanOpen || !s.ops.any fun e => s.flitHeld .span e.1 e.2) then some (s.modSpan n fun p => { p with recovery := none, linkDown := false })
  else none

def execSpanRecoveryEnd (port : Nat) : State → Host.Outcome State Fault Refusal := runEvent fun s => s.spanRecoveryEnd port

/-- A host port goes down: its link drops, or its CXL.cache agent stops answering (R396). -/
def State.hostDown (s : State) (n : Nat) (link : Bool) : Option State :=
  let p := s.hostPort n
  if n < 2 ∧ (p.recovery.isNone ∨ (link ∧ !p.linkDown)) then
    some (s.modHost n fun p => { p with recovery := p.recovery <|> some s.time, linkDown := p.linkDown || link })
  else none

def execHostLinkDrop (port : Nat) : State → Host.Outcome State Fault Refusal := runEvent fun s => s.hostDown port true
def execHostAgentUnanswered (port : Nat) : State → Host.Outcome State Fault Refusal :=
  runEvent fun s => s.hostDown port false

/-! ### RECOVERY_BOUND (R394, R395) -/

/-- Ports by number: Span 0 to 47, then the host ports. The start of a port's recovery. -/
def State.recoveryOf (s : State) (n : Nat) : Option Nat :=
  if n < 48 then (s.spanPort n).recovery else (s.hostPort (n - 48)).recovery

/-- Does a port in recovery hold the traffic to a place? Flits for another package may have left by another port that works (log entry 19). -/
def State.heldBy (s : State) (n : Nat) (sp : Space) : Bool × State :=
  match s.spaceKind sp with
  | .span => if n < 48 then (if s.spanOpen then (s.freeBit, s.used 1) else (true, s)) else (false, s)
  | .host p | .window p => (48 ≤ n && n - 48 == p, s)
  | .hbm | .none => (false, s)

/-- Is an access on its way, so that a port can hold it: not answered by its core's own copy, or by a window's filled sector? -/
def State.underWay (s : State) (o : MemOp) : Bool :=
  match o.space with
  | .phys pa => !s.answered o pa
  | .aper _ _ => false
  | .win _ _ _ => (s.unfilled o.space).isSome

/-- An access fails at the bound; what it writes may have landed, unless the fill of its window's sector failed. -/
def State.failRemote (s : State) (id : Nat) (o : MemOp) : State :=
  if (s.unfilled o.space).isSome then s.opFails id o .fabricLost else
  let (old, s) := s.spaceRead o.space o.size
  let s := match rmwBytes o.kind old o.data with
    | none => s
    | some new =>
      let (bs, s) := s.mixBytes old new
      s.spaceWrite (some o.launch) (some o.lane) o.space bs false
  s.opFails id o .fabricLost

/-- Accesses held at the bound fail. -/
def State.failOps (s : State) (n : Nat) : State :=
  s.ops.foldl (fun s e =>
    if !e.2.live || !s.underWay e.2 then s
    else
      let (h, s) := s.heldBy n e.2.space
      if h then s.failRemote e.1 e.2 else s) s

/-- Queue entries whose load is held carry FABRIC_LOST (R190). -/
def State.failEntries (s : State) (n : Nat) : State :=
  s.groups.foldl (fun s g => g.2.live.foldl (fun s t =>
    t.2.q.foldl (fun s q => q.2.zipIdx.foldl (fun s e =>
      if e.1.val.isSome || e.1.fault.isSome then s
      else match s.resolve g.1 e.1.va 4 .rd with
        | (.error _, _) => s
        | (.ok sp, s) =>
          let (h, s) := s.heldBy n sp
          if !h then s
          else
            let f : FaultInfo := { cause := .fabricLost, kind := .load, addr := e.1.va }
            s.modBoth { g := g.1, t := t.1, sh := false } fun th =>
              { th with q := th.q.modify q.1 fun es => es.modify e.2 fun en => { en with fault := some f } }) s) s) s) s

/-- The first place of an operation that a port holds. -/
def State.heldPlace (s : State) (n : Nat) (pl : AMap TPlace) : Option DWord × State :=
  pl.foldl (fun (acc : Option DWord × State) e => match acc with
    | (some a, s) => (some a, s)
    | (none, s) =>
      let (h, s) := s.heldBy n e.2.space
      (if h then some e.2.va else none, s)) (none, s)

/-- The sectors of an operation that no port holds. -/
def State.openPlaces (s : State) (n : Nat) (pl : AMap TPlace) : AMap TPlace × State :=
  pl.foldl (fun (acc : AMap TPlace × State) e =>
    let (h, s) := acc.2.heldBy n e.2.space
    (if h then acc.1 else acc.1.set e.1 e.2, s)) ([], s)

/-- A transfer whose data a port holds fails; what it has read through no dead port stands, and a table load ends after the operations that
name its table (R63, R67; log entry 30). -/
def State.failTop (s : State) (n core : Nat) (o : TileOp) : State :=
  match s.heldPlace n o.places with
  | (none, s) => s
  | (some a, s) =>
    if !(s.core core).tileReady o then s
    else
      let f : FaultInfo := { cause := .fabricLost, kind := if o.writes then .store else .load, addr := a }
      let (pl, s) := if o.writes then (o.places, s) else s.openPlaces n o.places
      let (r, s) := s.tileOut core { o with places := pl }
      s.tileFail core o r f

/-- An MMA whose data a port holds fails; the flags of the blocks it has read stand (R63). -/
def State.failMma (s : State) (n core : Nat) (o : MmaOp) : State :=
  match s.heldPlace n o.places with
  | (none, s) => s
  | (some a, s) =>
    let f : FaultInfo := { cause := .fabricLost, kind := .load, addr := a }
    if (s.core core).stream.map (fun m => m.id) != some o.id || recEfmt o.arec ≠ 1 then s.mmaFail core o f
    else
      let (pl, s) := s.openPlaces n o.places
      let (m, _, s) := s.readPlaces core pl
      (s.raiseFlags o.lanes (checkFlags (blockChecks (recCheck o.arec) o.xf o.tab.val true m))).mmaFail core o f

/-- Tile operations whose data a port holds fail (log entry 30). -/
def State.failTiles (s : State) (n : Nat) : State :=
  s.cores.foldl (fun s c =>
    let s := c.2.tops.foldl (fun s o => s.failTop n c.1 o) s
    c.2.mma.foldl (fun s o => s.failMma n c.1 o) s) s

end Sys2Proof.Machine
end

