-- ==== Sys2Proof/Machine/EvEngines.lean ====
section
/-! DEFINITION. Events of the engines in flight: copies (R179 to R186, R304), the matrix engine and tile transfers (R202, R203,
R298 to R301), the access slice's loads (R190, R302), commits (R222, R307), SLEEPT's waking (R185), and the end of a recovery's
bound (R395). -/

namespace Sys2Proof.Machine

open Sys2Proof

/-! ### Moving a copy (R179 to R181, R304) -/

/-- The stretches of the source those bytes come from, each inside one sector. -/
def CopyOp.sources (c : CopyOp) (o n : Nat) : List (DWord × Nat) :=
  let a := c.src + BitVec.ofNat 64 o
  let k := min n (64 - a.toNat % 64)
  if k = n then [(a, n)] else [(a, k), (a + BitVec.ofNat 64 k, n - k)]

/-- An address of a copy: the aperture of its crew, or memory by its partition's table (R181, R256). -/
def State.copyResolve (s : State) (c : CopyOp) (va : DWord) (n : Nat) (need : Need) : Except XErr Space × State :=
  match aperOff va with
  | some off => match s.apertureOf c.crew c.core (match s.launch? c.launch with
      | some x => x.lrec.gscr * 256
      | none => 0) off n with
    | some (h, o) => (.ok (.aper h o), s)
    | none => (.error .bounds, s)
  | none => match s.xlate (c.die * 96) c.part va need with
    | (.ok pa, s) => (.ok (.phys pa), s)
    | (.error e, s) => (.error e, s)

inductive Moved
  | moved
  /-- a port or a home does not answer now -/
  | waits
  | fault (f : FaultInfo)
  deriving DecidableEq, Repr, Inhabited

/-- The bytes of a source stretch: of a sector dirty in some L1, old or new, and of one whose L2 copy here awaits its invalidation, that copy
too (R180, R289; log entry 11). -/
def State.copyRead (s : State) (c : CopyOp) (sp : Space) (n : Nat) : List Byte × State :=
  match sp with
  | .phys pa =>
    let x := s.sector (pa / 64)
    let olds := (if !c.rel && x.dirty then x.below else none).toList ++ (x.l2stale.find? c.die).toList
    if olds.isEmpty || !s.freeBit then (if olds.isEmpty then s else s.used 1).spaceRead sp n
    else ((((olds.getD ((s.used 1).freeWord.toNat % olds.length) []).drop (pa % 64)).take n), s.used 2)
  | .aper _ _ | .win _ _ _ => s.spaceRead sp n

/-- The source bytes of one step, or what stops it. -/
def State.copyGather (s : State) (c : CopyOp) (l : List (DWord × Nat)) : Moved × List Byte × State :=
  l.foldl (fun (acc : Moved × List Byte × State) e =>
    match acc with
    | (.moved, bs, s) =>
      match s.copyResolve c e.1 e.2 .rd with
      | (.error x, s) => (.fault { cause := x.cause, kind := .load, addr := e.1 }, bs, s)
      | (.ok sp, s) =>
        if !s.engineMay c.die false sp then (.waits, bs, s)
        else if s.spacePoison sp e.2 then (.fault { cause := .poison, kind := .load, addr := e.1 }, bs, s)
        else
          let (b, s) := (s.engineReads c.die 0 sp).copyRead c sp e.2
          (.moved, bs ++ b, s)
    | r => r) (.moved, [], s)

/-- Moves the bytes of one step at an offset; a whole aligned sector is written whole. -/
def State.copyStep (s : State) (c : CopyOp) (o : Nat) : Moved × State :=
  let n := c.step o
  match s.copyGather c (c.sources o n) with
  | (.moved, bs, s) =>
    let va := c.dst + BitVec.ofNat 64 o
    (match s.copyResolve c va n .wr with
    | (.error x, s) => (.fault { cause := x.cause, kind := .store, addr := va }, s)
    | (.ok sp, s) =>
      if !s.engineMay c.die true sp then (.waits, s)
      else
        let whole : Bool := c.aligned && decide (n = 64)
        let s := if (s.spaceKind sp).external then s.sideEffect c.launch else s
        (.moved, s.spaceStore c.core c.scope (some c.launch) none sp bs whole))
  | (r, _, s) => (r, s)

/-- The offset reached once the steps from `o` that have moved ahead are passed. -/
def CopyOp.pass (c : CopyOp) (o : Nat) : Nat → Nat
  | 0 => o
  | k + 1 => if c.ahead.contains o then c.pass (o + c.step o) k else o

/-- A copy with its offset past what has moved. -/
def CopyOp.advance (c : CopyOp) : CopyOp :=
  let o := c.pass (c.off + c.step c.off) c.ahead.length
  { c with off := o, ahead := c.ahead.filter fun a => decide (o < a) }

/-- The offsets above the one reached that have not moved. -/
def CopyOp.later (c : CopyOp) (o : Nat) : Nat → List Nat
  | 0 => []
  | k + 1 =>
    let n := o + c.step o
    if c.len ≤ n then [] else if c.ahead.contains n then c.later n k else n :: c.later n k

/-- Is the die's copy engine at work for a partition? -/
def State.copyServed (s : State) (c : CopyOp) : Bool :=
  ((s.partn c.part).state == .resident || (s.partn c.part).state == .saving) && !(s.die c.die).fenced && s.launchRuns c.launch

def CopyOp.isMoving (c : CopyOp) : Bool := c.st == .moving && decide (c.off < c.len)

/-- The move of one sector or unit, in any order (R179): the next one, or one ahead. A fault ahead is left for the engine to reach. -/
def State.copySector (s : State) (k : Nat) : State :=
  match s.copies.find? k with
  | none => s
  | some c =>
    if !c.isMoving || c.cancel || !s.copyServed c then s
    else
      let l := c.later c.off (c.len + 1)
      let early : Bool := !l.isEmpty && s.freeBit
      let s := s.used 1
      if early then
        let o := l.getD (s.freeWord.toNat % l.length) c.off
        match s.copyStep c o with
        | (.moved, s') => { s'.used 1 with copies := s'.copies.set k { c with ahead := o :: c.ahead } }
        | _ => s.used 1
      else match s.copyStep c c.off with
        | (.moved, s') => { s' with copies := s'.copies.set k c.advance }
        | _ => s

/-- Moves everything that is left, in order, up to what stops it. -/
def State.copyRun (s : State) (c : CopyOp) : Nat → Moved × CopyOp × State
  | 0 => (.moved, c, s)
  | n + 1 =>
    if c.len ≤ c.off then (.moved, c, s)
    else match s.copyStep c c.off with
      | (.moved, s) => s.copyRun c.advance n
      | (r, s) => (r, c, s)

/-- A copy ends: its handle follows, and the issuing thread's CP falls once (R37, R181, R186). -/
def State.copyEnd (s : State) (k : Nat) (c : CopyOp) (st : CopySt) : State :=
  let s := if c.counted then s.modBoth c.lane fun th => { th with cp := th.cp - 1 } else s
  let resumable := match st with
    | .failed f => f.cause == .pageFault
    | _ => false
  let s := { s with copies := s.copies.set k { c with st, counted := false, resumable } }
  s.setHandleState c.die 1 c.seq (match st with
    | .failed f => .failed f
    | .complete => .complete
    | .queued | .moving => .pending)

/-! ### COPY_START, COPY_COMPLETE, COPY_STOP, COPY_CANCEL_STOP -/

/-- May a copy read its source: under `.rel`, once every earlier access of its thread is performed at its scope (R180)? -/
def State.copyReady (s : State) (k : Nat) (c : CopyOp) : Bool :=
  !c.rel || ((s.before c.lane k).isEmpty && !s.staleIn c.scope c.core)

/-- The earliest queued copy of a die starts on a free channel (R304). -/
def State.copyStart (s : State) (die : Nat) : Option State :=
  let here : AMap CopyOp := s.copies.filter fun e => e.2.die == die && s.copyServed e.2
  if 8 ≤ (here.filter fun e => e.2.st == .moving).length then none
  else match here.first fun e => e.2.st == .queued with
    | none => none
    | some (k, c) => if s.copyReady k c then some { s with copies := s.copies.set k { c with st := .moving } } else none

def execCopyStart (die : Nat) : State → Host.Outcome State Fault Refusal := runEvent fun s => s.copyStart die

/-- What is left of a copy moves, and it completes. -/
def State.copyComplete (s : State) (k : Nat) : Option State :=
  match s.copies.find? k with
  | none => none
  | some c =>
    if c.st != .moving || !s.copyServed c then none
    else match s.copyRun c (c.len + 2) with
      | (.moved, c, s) => some (s.copyEnd k c .complete)
      | _ => none

def execCopyComplete (c : Nat) : State → Host.Outcome State Fault Refusal := runEvent fun s => s.copyComplete c

/-- A copy that meets a fault stops there; poison takes the error action (R181, R375). -/
def State.copyStop (s : State) (k : Nat) : Option State :=
  match s.copies.find? k with
  | none => none
  | some c =>
    if c.st != .moving || !s.copyServed c then none
    else match s.copyRun c (c.len + 2) with
      | (.fault f, c, s) =>
        let s := s.copyEnd k c (.failed f)
        some (if f.cause = .poison then (s.consume c.die c.launch c.gid f).1 else s)
      | _ => none

def execCopyStop (c : Nat) : State → Host.Outcome State Fault Refusal := runEvent fun s => s.copyStop c

/-- The units of a copy that have not moved, of destination sectors of which others have. -/
def CopyOp.torn (c : CopyOp) : List Nat :=
  let sec := fun (o : Nat) => (c.dst.toNat + o) / 64
  let moved := (if c.off = 0 then [] else [sec (c.off - 1)]) ++ c.ahead.map sec
  (if c.off < c.len then c.off :: c.later c.off (c.len + 1) else []).filter fun o => moved.contains (sec o)

/-- A cancelled copy stops where it is, between two destination sectors (R186). -/
def State.copyCancelStop (s : State) (k : Nat) : Option State :=
  match s.copies.find? k with
  | none => none
  | some c =>
    if !c.cancel || c.ended then none
    else
      match c.torn.foldl (fun (acc : Moved × State) o => match acc with
          | (.moved, s) => s.copyStep c o
          | r => r) (.moved, s) with
      | (.moved, s) => some (s.copyEnd k c .complete)
      | (.fault f, s) =>
        let s := s.copyEnd k c (.failed f)
        some (if f.cause = .poison then (s.consume c.die c.launch c.gid f).1 else s)
      | (.waits, _) => none

def execCopyCancelStop (c : Nat) : State → Host.Outcome State Fault Refusal := runEvent fun s => s.copyCancelStop c

/-! ### Tiles (R202, R203, R298, R299) -/

/-- Can the engine reach every sector an operation touches? -/
def State.placesOpen (s : State) (die : Nat) (own : Bool) (pl : AMap TPlace) : Bool := pl.all fun e => s.engineMay die own e.2.space

/-- Has its performer no earlier access to perform before an operation's own: an acquire, or for a write an access to the same bytes (R278,
R281)? -/
def State.tileOrder (s : State) (lanes : List Lane) (id : Nat) (writes : Bool) (pl : AMap TPlace) : Bool :=
  match lowest lanes with
  | none => true
  | some p => (s.before p id).all fun x => !(MOrd.acquires x.ord && x.kind.isRead) &&
      !(writes && pl.any fun e => s.overlap x.space x.size e.2.space 64)

/-- What answers the reads of an engine's operation is counted (R275). -/
def State.placesRead (s : State) (die : Nat) (pl : AMap TPlace) : State := pl.foldl (fun s e => s.engineReads die 0 e.2.space) s

/-- May a transfer go to memory and its tiles now (R203, R272, R278)? -/
def State.tileMay (s : State) (core : Nat) (o : TileOp) : Bool :=
  (s.core core).tileReady o && s.placesOpen (coreDie core) o.writes o.places && s.tileOrder o.lanes o.id o.writes o.places

/-- What a transfer's reads and fills leave of the state before its data are looked at. -/
def State.tileGo (s : State) (core : Nat) (o : TileOp) : State := s.placesRead (coreDie core) (if o.writes then o.places.filter (fun e => (s.unfilled e.2.space).isSome) else o.places)

/-- A tile operation ends, in the way its data decide. -/
def State.tileEnd (s : State) (core id : Nat) (fails : Bool) : Option State :=
  match (s.core core).tops.find? fun o => o.id == id with
  | none => none
  | some o =>
    if !s.tileMay core o then none
    else
      let (r, s) := (s.tileGo core o).tileOut core o
      match r.fault with
      | none => if fails then none else some (s.tileDone core o r)
      | some f =>
        if !fails then none
        else
          let s := if f.cause = .poison then (s.consume (coreDie core) o.launch o.gid f).1 else s
          some (s.tileFail core o r f)

/-- One store of a transfer is performed before the transfer completes (R203, R290): any of those left. -/
def State.tileStore (s : State) (core id : Nat) : State :=
  match (s.core core).tops.find? fun o => o.id == id with
  | none => s
  | some o =>
    if !o.writes || !s.tileMay core o then s
    else
      let (r, s) := (s.tileGo core o).tileOut core o
      let left := r.writes.zipIdx.filter fun e => !o.early.contains e.2
      match left[s.freeWord.toNat % left.length]? with
      | none => s
      | some (w, k) =>
        let t := (s.used 1).tileWrite core o w
        t.modCore core fun c => { c with tops := c.tops.map fun x => if x.id = id then { x with early := k :: x.early } else x }

def execTileOpComplete (core op : Nat) : State → Host.Outcome State Fault Refusal := runEvent fun s => s.tileEnd core op false
def execTileDataFault (core op : Nat) : State → Host.Outcome State Fault Refusal := runEvent fun s => s.tileEnd core op true

/-- An MMA that is to fail on poison takes the error action first; its own end follows unless the launch replays. -/
def State.mmaConsume (s : State) (core : Nat) (o : MmaOp) : State :=
  let c := s.core core
  let tiles := o.poisoned (o.yTiles c) (c.ztile o.zt.val)
  match (s.readPlaces core o.places).2.1 <|> (if tiles then some tilePoison else none) <|> c.tablePoison o.xf o.tab with
  | none => s.mmaDone core o
  | some f =>
    let (s', gone) := s.consume (coreDie core) o.launch o.gid f
    if gone then s' else s'.mmaDone core o

/-- The MMA the engine streams completes (R299). -/
def State.mmaComplete (s : State) (core : Nat) : Option State :=
  let c := s.core core
  match c.stream with
  | none => none
  | some o => 
    if c.mmaReady o && s.placesOpen (coreDie core) false o.places && s.tileOrder o.lanes o.id false o.places && s.launchRuns o.launch then
      some ((s.placesRead (coreDie core) o.places).mmaConsume core o)
    else none

def execMmaComplete (core : Nat) : State → Host.Outcome State Fault Refusal := runEvent fun s => s.mmaComplete core

/-- The engine reads the last column of the MMA it streams. -/
def State.mmaLastColumn (s : State) (core : Nat) : Option State :=
  let c := s.core core
  match c.stream with
  | none => none
  | some o => if c.mmaReady o && o.cap.isNone && s.placesOpen (coreDie core) false o.places then some (s.mmaColumn core o) else none

def execMmaLastColumn (core : Nat) : State → Host.Outcome State Fault Refusal := runEvent fun s => s.mmaLastColumn core

/-! ### QLD_RETURN (R190, R292, R302) -/

/-- What a slice load finds when it is performed. -/
def State.qldValue (s : State) (g : Nat) (e : QEntry) : Option (QEntry × State) :=
  let bad := fun (cause : Cause) => { e with fault := some { cause, kind := .load, addr := e.va } }
  match s.resolve g e.va 4 .rd with
  | (.error x, s) => some (bad x.cause, s)
  | (.ok sp, s) =>
    if !s.engineMay (coreDie (s.grp g).core) false sp then none
    else if s.spacePoison sp 4 then some (bad .poison, s)
    else
      let (bs, s) := (s.engineReads (coreDie (s.grp g).core) e.hint sp).spaceRead sp 4
      some ({ e with val := some (BitVec.ofNat 32 (wordOfBytes bs)) }, s)

/-- A load in flight of one thread's queue returns, the oldest or a later one, which then waits in its entry for those before it (R302);
`i` is 64 × queue + thread. -/
def State.qldReturn (s : State) (g i : Nat) : Option State :=
  let n := i / 64
  let l : Lane := { g, t := i % 64, sh := false }
  match (s.thread l).q.find? n with
  | none => none
  | some es =>
    let open' := es.zipIdx.filter fun e => e.1.val.isNone && e.1.fault.isNone
    match open'[s.freeWord.toNat % open'.length]? with
    | none => none
    | some (e, k) =>
      match (s.used 1).qldValue g e with
      | none => none
      | some (e, s) =>
        let s := s.modBoth l fun th => { th with q := th.q.modify n fun es => es.modify k fun _ => e }
        match e.fault with
        | some f =>
          let x := s.grp g
          some (if f.cause = .poison then (s.consume (coreDie x.core) x.launch x.gid f).1 else s)
        | none => some s

def execQldReturn (g i : Nat) : State → Host.Outcome State Fault Refusal := runEvent fun s => s.qldReturn g i

/-! ### COMMIT_PERFORM (R222, R307, R310) -/

/-- Can a commit take a sector now: its core owns it, or the request is answered and finds an entry (R222, R272)? -/
def State.commitReach (s : State) (core : Nat) (sp : Space) : Bool :=
  match sp with
  | .phys pa =>
    let own := (s.sector (pa / 64)).l1.find? core
    own == some .m || own == some .e || s.engineMay (coreDie core) true sp
  | .aper _ _ | .win _ _ _ => s.engineMay (coreDie core) false sp

/-- Can a region's sectors be taken now? -/
def State.regionOpen (s : State) (core : Nat) (r : Region) : Bool :=
  (r.inputs.all fun i => s.commitReach core i.space) && r.stores.all fun t => s.commitReach core t.space

/-- Would a commit read an early release that is still to be waited for (R282, R291)? -/
def State.regionWaits (s : State) (l : Lane) (r : Region) : Bool :=
  s.relsWait l r.scope || r.inputs.any fun i => s.relWaits l (s.grp l.g).core r.scope i.space i.size

/-- What a commit makes ready, and the room it makes for the sectors it owns (R257, R260, R261). -/
def State.regionFill (s : State) (r : Region) : State :=
  ((r.inputs.map fun i => i.space) ++ r.stores.map fun t => t.space).foldl (fun s sp => s.fillPlace sp) s

def State.regionRoom (s : State) (core : Nat) (r : Region) : State :=
  r.sectors.foldl (fun s k => if ((s.sector k).l1.find? core).isSome then (s.evictSome core k).evictL2 (coreDie core) k else s) s

/-- The commit engine performs the earliest commit that still stands (log entry 35). -/
def State.commitPerform (s : State) (core : Nat) : Option State :=
  match (s.core core).commits with
  | [] => none
  | l :: r =>
    let drop := fun (s : State) => s.modCore core fun c => { c with commits := r }
    match (s.thread l).region with
    | none => some (drop s)
    | some g =>
      if (s.die (coreDie core)).fenced || !s.releasable l g.scope || s.regionWaits l g || !s.regionOpen core g then none
      else
        some ((((drop s).regionFill g).commit l).regionRoom core g)

def execCommitPerform (core : Nat) : State → Host.Outcome State Fault Refusal := runEvent fun s => s.commitPerform core

/-! ### SLEEPT_WAKE (R185) -/

/-- A sleeping thread whose time has come goes on, waits for its handle, or faults at the word. -/
def State.wakeNow (s : State) (l : Lane) (t : DWord) (h : Option DWord) : State :=
  let th := s.thread l
  let awake := fun (s : State) => s.modBoth l fun th =>
    { th with hold := th.hold.map fun x => { x with kind := .sleept t h true } }
  match s.wakeOn l th.pc t h with
  | .goes => s.release l
  | .waits => awake s
  | .fails f => (match h with
    | some h => s.delivered l h
    | none => s).deliverFault l th.pc f
  | .missed k => (s.markCopy k).takeFault l th.pc missedFault
  | .resumes k => awake (s.resumeCopy k)

def State.sleeptWake (s : State) (l : Lane) : Option State :=
  let th := s.thread l
  match th.hold with
  | some { kind := .sleept t h false, ft := _ } =>
    if s.dclk (coreDie (s.grp l.g).core) < t.toNat || !s.alive (s.grp l.g) || (s.cluster (coreCluster (s.grp l.g).core)).stopped then none
    else some (s.wakeNow l t h)
  | _ => none

def execSleeptWake (l : Lane) : State → Host.Outcome State Fault Refusal := runEvent fun s => s.sleeptWake l

/-! ### RECOVERY_BOUND (R394, R395) -/

/-- Copies whose next sector a port holds fail. -/
def State.failCopies (s : State) (n : Nat) : State :=
  s.copies.foldl (fun s e =>
    let c := e.2
    if !c.isMoving then s
    else
      let fail := fun (s : State) (k : AccKind) (a : DWord) =>
        s.copyEnd e.1 c (.failed { cause := .fabricLost, kind := k, addr := a })
      let a := c.src + BitVec.ofNat 64 c.off
      let b := c.dst + BitVec.ofNat 64 c.off
      match s.copyResolve c a 1 .rd with
      | (.error _, _) => s
      | (.ok sp, s) =>
        let (h, s) := s.heldBy n sp
        if h then fail s .load a
        else match s.copyResolve c b 1 .wr with
          | (.error _, _) => s
          | (.ok sp, s) =>
            let (h, s) := s.heldBy n sp
            if h then fail s .store b else s) s

/-- 50 ms after a recovery's start, everything its port still holds fails; `n` is a Span port, or 48 plus a host port. -/
def State.recoveryBound (s : State) (n : Nat) : Option State :=
  match s.recoveryOf n with
  | none => none
  | some t =>
    if s.time < t + 50000000 * 17 then none
    else some ((((s.failOps n).failEntries n).failTiles n).failCopies n)

def execRecoveryBound (port : Nat) : State → Host.Outcome State Fault Refusal := runEvent fun s => s.recoveryBound port

end Sys2Proof.Machine
end

