-- ==== Sys2Proof/Machine/Place.lean ====
section
/-! DEFINITION. Placing groups (R230 to R235), admitting crews (R331, R332), staged start (R23), dealing (R330), and the sizes of
contexts (R47, R350). -/

namespace Sys2Proof.Machine

open Sys2Proof

/-! ### What a launch's groups take (R30, R35, R36, R231, R250, R252) -/

/-- The carve a launch record asks for. -/
def LaunchRec.carve (r : LaunchRec) : Carve := { regs := r.cregs, scr := r.cscr, stash := r.cstash }

/-- Pool bytes a group reserves: per column 16 G registers, 4 frames and the M registers. -/
def LaunchRec.poolBytes (r : LaunchRec) : Nat := r.width * (128 + r.mcnt * (8 * r.mdim * r.mdim + 4))

/-- The groups of a launch that fit on an empty core. -/
def LaunchRec.perCore (r : LaunchRec) : Nat :=
  let cols := 2048 / r.width
  let pool := r.cregs * 65536 / r.poolBytes
  let scr := if r.gscr = 0 then 64 else r.cscr * 65536 / (r.gscr * 256)
  min (min 64 cols) (min pool scr)

/-- The visible width: half of the declared one in protected mode (R231). -/
def LaunchRec.threads (r : LaunchRec) : Nat := if r.prot then r.width / 2 else r.width

def Group.cols (g : Group) : Nat := g.width * (1 + b2n g.prot)

/-! ### Units and instances (R14, R18, R330, R331) -/

/-- The enabled core sites of a die, package-wide numbers rising; none of a fenced die (R19). -/
def State.dieCores (s : State) (d : Nat) : List Nat :=
  if (s.die d).fenced then [] else ((List.range 96).filter fun k => (s.die d).sites.getLsbD k).map (d * 96 + ·)

/-- CORES of a die (R18). -/
def State.coresOf (s : State) (d : Nat) : Nat := (s.dieCores d).length

/-- The dies of a dealing unit: a die, or a tower under tower scope. -/
def unitDies (p : Partition) (cscope unit : Nat) : List Nat :=
  if cscope = 3 then p.dies.filter fun d => d / 2 == unit else if p.hasDie unit then [unit] else []

/-- The dealing units of a partition with their weights, rising. -/
def State.units (s : State) (p : Partition) (cscope : Nat) : List (Nat × Nat) :=
  (List.range (if cscope = 3 then 8 else 16)).filterMap fun u =>
    let w := ((unitDies p cscope u).map s.coresOf).sum
    if w = 0 then none else some (u, w)

/-- The cores of each instance of a co-location scope inside a unit, instances rising. -/
def State.instances (s : State) (p : Partition) (cscope unit : Nat) : List (List Nat) :=
  let cores := ((unitDies p cscope unit).map s.dieCores).flatten
  if cscope = 0 then cores.map fun c => [c]
  else if cscope = 1 then
    (((unitDies p cscope unit).map fun d => (List.range 4).map fun k => d * 4 + k).flatten).map fun k =>
      cores.filter fun c => coreCluster c == k
  else [cores]

/-! ### Dealing (R330) -/

/-- DealCrews: each unit's share of `n`. -/
def dealShares (n : Nat) (ws : List (Nat × Nat)) : List (Nat × Nat) :=
  let total := (ws.map Prod.snd).sum
  let base := ws.map fun e => (e.1, n * e.2 / total, n * e.2 % total)
  let left := n - (base.map fun e => e.2.1).sum
  let before := fun (x y : Nat × Nat × Nat) => decide (y.2.2 < x.2.2) || (x.2.2 == y.2.2 && decide (x.1 ≤ y.1))
  let more := ((sortBy before base).take left).map fun e => e.1
  base.map fun e => (e.1, e.2.1 + b2n (more.contains e.1))

/-- Crews dealt over units in order. -/
def dealTo (cids : List Nat) : List (Nat × Nat) → List Dealt
  | [] => []
  | (u, k) :: r => (cids.take k).map (fun c => { unit := u, cid := c }) ++ dealTo (cids.drop k) r

/-- Crews of a launch dealt over the units of its partition. -/
def State.dealCrews (s : State) (x : Launch) (cids : List Nat) : List Dealt :=
  dealTo cids (dealShares cids.length (s.units (s.partn x.part) x.lrec.cscope))

/-! ### One group on a core (R231, R232) -/

/-- The groups resident on a core. -/
def State.groupsOn (s : State) (core : Nat) : AMap Group := s.groups.filter fun e => e.2.core == core

/-- Slot columns held on a core, or on a quad of it. -/
def colsHeld (gs : AMap Group) : Nat := (gs.map fun e => e.2.cols).sum

/-- The lowest row and base of a quad with a free aligned run. -/
def freeRun (gs : AMap Group) (quad w : Nat) : Option (Nat × Nat) :=
  let free := fun (row base : Nat) => gs.all fun e =>
    e.2.quad != quad || e.2.row != row || decide (e.2.base + e.2.cols ≤ base) || decide (base + w ≤ e.2.base)
  ((List.range 8).map fun row => (List.range (64 / w)).map fun k => (row, k * w)).flatten.find? fun e => free e.1 e.2

/-- The quad, row and base a group of `w` columns takes: the quad with the fewest resident threads that can. -/
def placeOn (gs : AMap Group) (w : Nat) : Option (Nat × Nat × Nat) :=
  let held := fun (q : Nat) => colsHeld (gs.filter fun e => e.2.quad == q)
  let before := fun (a b : Nat) => decide (held a < held b) || (held a == held b && decide (a ≤ b))
  (sortBy before (List.range 4)).findSome? fun q => (freeRun gs q w).map fun e => (q, e.1, e.2)

/-- Pool and scratchpad bytes the groups of a core have reserved. -/
def State.reserved (s : State) (gs : AMap Group) : Nat × Nat :=
  gs.foldl (fun acc e => match s.launch? e.2.launch with
    | some x => (acc.1 + x.lrec.poolBytes, acc.2 + x.lrec.gscr * 256)
    | none => acc) (0, 0)

/-- Can a core take a group of a launch, and where (R232, R252, R332, R364)? A core with no carve fixed takes any; one that its last group has
left takes none until its L1 is written back (R251; log entry 53). -/
def State.roomOn (s : State) (r : LaunchRec) (core : Nat) : Option (Nat × Nat × Nat) :=
  let c := s.core core
  let gs := s.groupsOn core
  let clu := s.cluster (coreCluster core)
  let (pool, scr) := s.reserved gs
  if (c.carve.isSome && c.carve != some r.carve) || c.mark.isSome || clu.stopping || clu.stopped then none
  else if gs.isEmpty && c.use != .idle then none
  else if 64 ≤ gs.length ∨ r.cregs * 65536 < pool + r.poolBytes ∨ r.cscr * 65536 < scr + r.gscr * 256 then none
  else placeOn gs r.width

/-- A core passes to a partition: everything another partition left is gone (R41, R67, R248, R275, R313). -/
def State.enterCore (s : State) (core part : Nat) : State :=
  let c := s.core core
  let gen := (s.partn part).gen
  if c.lastPart = some part ∧ c.lastGen = gen then s
  else s.setCore core { Core.init with use := c.use, carve := c.carve, mark := c.mark, lastPart := some part, lastGen := gen }

/-- A core about to receive a group starts, or waits for its start (R23). -/
def State.startCore (s : State) (core : Nat) : State :=
  if (s.core core).use = .idle then
    (s.modCore core fun c => { c with use := .waiting }).modDie (coreDie core)
      fun d => { d with stage := (d.stage.filter (decide <| · < core)) ++ [core] ++ d.stage.filter (decide <| core < ·) }
  else s

/-- Moves waiting cores of a die to busy, in ascending site order, while the window of 100 ns admits them. -/
def State.stageDie (s : State) (die : Nat) : Nat → State
  | 0 => s
  | n + 1 =>
    let d := s.die die
    let recent := d.starts.filter fun t => decide (s.time < t + 100 * 17)
    match d.stage with
    | [] => s
    | c :: r =>
      if 8 ≤ recent.length then s
      else State.stageDie ((s.modDie die fun d => { d with stage := r, starts := s.time :: recent }).modCore c
        fun x => { x with use := .busy }) die n

/-! ### Creating a group (R25, R39, R187, R234, R254) -/

/-- B1 and B2 of a group (R254). -/
def LaunchRec.windows (r : LaunchRec) (idx : Nat) : BRec × BRec :=
  let n := r.gscr * 256
  (mkRec (BitVec.ofNat 64 (aperBase + idx * n)) n 1 true false, mkRec (BitVec.ofNat 64 aperBase) (r.gpc * n) 1 true false)

/-- The access slice of a group at placement (R187). -/
def sliceStart (r : LaunchRec) (gid cid : Nat) (itb ite : Word) : Slice :=
  { running := r.access != 0, pc := r.access, clause := Option.none, ix := 0,
    v := [(0, .a 0 1), (1, .u (BitVec.ofNat 32 gid)), (2, .u (BitVec.ofNat 32 cid)), (3, .u itb), (4, .u ite)] }

/-- A new group of a crew at a place. -/
def newGroup (x : Launch) (lid crew : Nat) (c : Crew) (idx core slot : Nat) (at' : Nat × Nat × Nat) (fair : Bool) : Group :=
  let r := x.lrec
  let gid := c.cid * r.gpc + idx
  let w := r.windows idx
  let b : AMap BRec := (0, flatRec) :: (1, w.1) :: (2, w.2) :: x.rtab
  let ts : AMap Thread := (List.range r.threads).map fun t => (t, Thread.create r.entry)
  let sh : AMap Thread := if r.prot then ts.map fun e => (e.1 + 64, e.2) else []
  { Group.nobody with
      gid, cid := c.cid, width := r.threads, idx, crew, launch := lid, part := x.part, core, quad := at'.1, row := at'.2.1,
      base := at'.2.2, slot, b, bPlaced := b, mirr := x.mirr, prot := r.prot, fair, lastSer := r.threads - 1,
      paths := [{ pc := r.entry, cnt := 0, aged := none }], slice := sliceStart r gid c.cid c.itb c.ite,
      threads := ts ++ sh }

/-- The lowest resident slot of a core that is free. -/
def freeSlot (gs : AMap Group) : Nat :=
  ((List.range 64).find? fun k => !gs.any fun e => e.2.slot == k).getD 0

/-- The cores of an instance by most free slot columns, the lowest site on ties; of equal sites of two dies of a tower the lower die's comes
first, and every site of it before the other's (log entry 68). -/
def State.byRoom (s : State) (cores : List Nat) : List Nat :=
  let held := fun (c : Nat) => colsHeld (s.groupsOn c)
  sortBy (fun a b => decide (held a < held b) || (held a == held b && decide (a ≤ b))) cores

/-- Is the launch in the FAIR class (R244)? -/
def State.fairClass (s : State) (x : Launch) : Bool := decide ((s.partn x.part).towers ≤ 1) || x.lrec.fair

/-- Puts one group, new or restored, on the core of an instance with most room; it fixes the core's carve. -/
def State.putGroup (s : State) (x : Launch) (cores : List Nat) (key : Nat) (mk : (core slot : Nat) → Nat × Nat × Nat → Group) :
    Option State :=
  (s.byRoom cores).findSome? fun core => (s.roomOn x.lrec core).map fun at' =>
    let s := ((s.enterCore core x.part).startCore core).modCore core fun c => { c with carve := some x.lrec.carve }
    State.mirrorAll { s with groups := s.groups.set key (mk core (freeSlot (s.groupsOn core)) at') } key

/-! ### Sizes (R47, R343, R350) -/

/-- The register save area of a group in bytes (R47). -/
def areaBytes (r : LaunchRec) (g : Group) : Nat :=
  let words := ((List.range r.vcnt).map fun n => match (g.vreg false n).val with
    | .u _ => 1
    | .a _ _ => 2
    | .g _ => g.width).sum
  let head := (24 + 4 * words + 31) / 32 * 32 + 64 + 928
  let threads := (g.primaries.map fun e =>
    184 + (4 * r.mcnt + 7) / 8 * 8 + r.mdim * r.mdim * 8 * r.mcnt + 8 + 16 * min 4 e.2.frames.length).sum
  head + threads

/-- The bytes of a group in a die context, its tiles included. -/
def State.groupBytes (s : State) (g : Nat) (x : Group) : Nat :=
  let tiles := ((s.core x.core).tok.map fun e => if e.2 = .group g then (if e.1 < 8 then 16904 else 10248) else 0).sum +
    (x.owed.map fun t => if t.y then 10248 else 16904).sum
  match s.launch? x.launch with
  | some l => areaBytes l.lrec x + 80 * x.width + l.lrec.gscr * 256 + tiles
  | none => 0

/-- The groups of a partition on a die. -/
def State.partGroups (s : State) (part die : Nat) : AMap Group :=
  s.groups.filter fun e => e.2.part == part && coreDie e.2.core == die

/-- The crews with a group among these. -/
def crewsOf (gs : AMap Group) : List Nat := AMap.keys (gs.foldl (fun (m : AMap Unit) e => m.set e.2.crew ()) [])

/-- The size of a partition's context of a die (R350). -/
def State.contextBytes (s : State) (part die : Nat) : Nat :=
  let gs := s.partGroups part die
  let crews := ((crewsOf gs).map fun c => match s.crew? c with
    | some y => 32 + 64 * (y.groups.length * y.width)
    | none => 0).sum
  let copies := (s.copies.filter fun e => e.2.part == part && e.2.die == die && !e.2.ended &&
    decide (65536 < e.2.len - e.2.off)).length
  64 + crews + (gs.map fun e => s.groupBytes e.1 e.2).sum + 64 * copies

/-- Do the die contexts of a partition respect CTXMAX (R343)? -/
def State.ctxFits (s : State) (part : Nat) : Bool :=
  let p := s.partn part
  p.ctxmax == 0 || p.dies.all fun d => decide (s.contextBytes part d ≤ p.ctxmax * 2 ^ 20)

/-! ### One crew (R233, R331, R333) -/

/-- The iterations of crew `c` of `n` and its marks (R333). -/
def splitRange (r : LaunchRec) (c n : Nat) : Nat × Nat × Nat :=
  if r.split then
    let itb := c * r.itot / n
    let ite := (c + 1) * r.itot / n
    (itb, ite, b2n (itb % r.itile != 0) + 2 * b2n (ite % r.itile != 0 && decide (ite < r.itot)))
  else (0, 0, 0)

/-- The crew of a number with no group placed yet. -/
def newCrew (x : Launch) (lid cid : Nat) (keys : List Nat) : Crew :=
  let (itb, ite, fix) := splitRange x.lrec cid x.crewsC
  { launch := lid, cid, groups := keys, width := x.lrec.threads, counts := [], pending := [], exited := [], slots := [],
    itb := BitVec.ofNat 32 itb, ite := BitVec.ofNat 32 ite, fix := BitVec.ofNat 32 fix, retired := [] }

/-- Every group of a crew in one instance, in index order, or nothing. -/
def State.crewPlaced (s : State) (lid : Nat) (x : Launch) (cid : Nat) (cores : List Nat) : Option State :=
  let k := s.nextId
  let keys := rangeFrom (k + 1) x.lrec.gpc
  let c := newCrew x lid cid keys
  let s := { s with nextId := k + 1 + x.lrec.gpc, crews := s.crews.set k c }
  let fair := s.fairClass x
  keys.zipIdx.foldl (fun (acc : Option State) e => acc.bind fun s =>
    s.putGroup x cores e.1 (fun core slot at' => newGroup x lid k c e.2 core slot at' fair)) (some s)

/-- The same where the die contexts stay within CTXMAX (R343). -/
def State.crewInto (s : State) (lid : Nat) (x : Launch) (cid : Nat) (cores : List Nat) : Option State :=
  (s.crewPlaced lid x cid cores).bind fun s => if s.ctxFits x.part then some s else none

/-- The instances of a unit by most free slot columns, the lowest on ties. -/
def State.instancesByRoom (s : State) (p : Partition) (cscope unit : Nat) : List (List Nat) :=
  let held := fun (cs : List Nat) => (cs.map fun c => 2048 - colsHeld (s.groupsOn c)).sum
  let l := (s.instances p cscope unit).zipIdx
  (sortBy (fun a b => decide (held b.1 < held a.1) || (held a.1 == held b.1 && decide (a.2 ≤ b.2))) l).map Prod.fst

/-- A crew in the first instance of a unit that can hold it. -/
def State.crewOnUnit (s : State) (lid : Nat) (x : Launch) (unit cid : Nat) : Option State :=
  (s.instancesByRoom (s.partn x.part) x.lrec.cscope unit).findSome? fun cores => s.crewInto lid x cid cores

/-- What the groups of a core take beyond the pool is dropped or spilled, mirrors first, groups in turn (R30, R391). -/
def State.fitPool (s : State) (core : Nat) : State :=
  (AMap.keys (s.groupsOn core)).foldl (fun s g => s.fitGroup g []) (s.fitMirrors core)

/-! ### Rolling re-carve (R332) -/

/-- An idle core takes the carve it is marked for: its L1 was written back after its last group left (R251). -/
def State.takeCarve (s : State) (core : Nat) : State :=
  match (s.core core).mark with
  | none => s
  | some l =>
    if (s.groupsOn core).isEmpty && (s.core core).use == .idle then
      match s.launch? l with
      | some x => s.modCore core fun c => { c with carve := some x.lrec.carve, mark := none }
      | none => s.modCore core fun c => { c with mark := none }
    else s

/-- The cores of a unit. -/
def State.unitCores (s : State) (x : Launch) (unit : Nat) : List Nat :=
  (s.instances (s.partn x.part) x.lrec.cscope unit).flatten

/-- Cores are marked for a launch when no instance of the unit can take its crew on cores of its carve (R332). -/
def State.recarve (s : State) (lid : Nat) (x : Launch) (unit cid : Nat) : State :=
  let cores := s.unitCores x unit
  if (s.instances (s.partn x.part) x.lrec.cscope unit).any fun cs => (s.crewPlaced lid x cid cs).isSome then s
  else
    let left := (x.dealt.filter fun d => d.unit == unit).length * x.lrec.gpc
    let want := (left + x.lrec.perCore - 1) / max 1 x.lrec.perCore
    let marked := (cores.filter fun c => (s.core c).mark == some lid).length
    let held := fun (c : Nat) => colsHeld (s.groupsOn c)
    let idle := fun (c : Nat) => (s.groupsOn c).isEmpty
    let free := cores.filter fun c => (s.core c).mark.isNone && (s.core c).carve != some x.lrec.carve &&
      !(s.cluster (coreCluster c)).stopped && !(s.cluster (coreCluster c)).stopping
    let before := fun (a b : Nat) => (idle a && !idle b) || (idle a == idle b && (decide (held a < held b) ||
      (held a == held b && decide (a ≤ b))))
    let chosen := (sortBy before free).take (want - marked)
    chosen.foldl (fun (s : State) c => (s.modCore c fun k => { k with mark := some lid }).takeCarve c) s

end Sys2Proof.Machine
end

