-- ==== Sys2Proof/Machine/EvLaunch.lean ====
section
/-! DEFINITION. Events of launches: queues and records (R316 to R324), a launch's states (R325 to R327), dealing and admission
(R328 to R333), replay (R381) and completion records (R383, R384). -/

namespace Sys2Proof.Machine

open Sys2Proof

/-! ### The launch record (R316) -/

/-- A little-endian field of a byte list. -/
def byteField (bs : List Byte) (off n : Nat) : Nat := wordOfBytes ((bs.drop off).take n)
def byteWord (bs : List Byte) (off : Nat) : DWord := BitVec.ofNat 64 (byteField bs off 8)

/-- The fields of a record. -/
def parseRec (bs : List Byte) : LaunchRec :=
  let f := byteField bs
  let flags := f 63 1
  { entry := byteWord bs 0, access := byteWord bs 8, rtab := byteWord bs 16, stkbase := byteWord bs 24,
    handler := byteWord bs 32, itot := f 40 4, itile := f 44 4, crews := f 48 4, width := f 52 1, gpc := f 53 1,
    cscope := f 54 1 % 8, mcnt := f 55 1 / 16, mdim := f 55 1 % 8, vcnt := f 56 1, stkf := f 57 1, gscr := f 58 2,
    cregs := f 60 1, cscr := f 61 1, cstash := f 62 1, prio := flags / 64, split := natBit flags 4, idem := natBit flags 3,
    snap := natBit flags 2, prot := natBit flags 1, fair := natBit flags 0,
    preds := (List.range 4).map fun k => byteWord bs (64 + 8 * k), crec := byteWord bs 96 }

/-- The fields outside the carve are in range and nothing reserved is set. -/
def recFormat (bs : List Byte) (r : LaunchRec) : Bool :=
  r.rtab.toNat % 64 == 0 && r.stkbase.toNat % 16 == 0 && (if r.split then decide (1 ≤ r.itile) else r.itile == 0) &&
  (r.split || decide (1 ≤ r.crews)) && [8, 16, 32, 64].contains r.width && decide (1 ≤ r.gpc) && decide (r.gpc ≤ 64) &&
  decide (r.cscope ≤ 3) && decide (r.mcnt ≤ 8) && decide (1 ≤ r.mdim) && decide (r.mdim ≤ 6) && decide (8 ≤ r.vcnt) &&
  decide (r.vcnt ≤ 96) && r.vcnt % 8 == 0 && decide (4 ≤ r.stkf) && decide (r.gscr ≤ 256 * r.cscr) &&
  byteField bs 54 1 / 8 == 0 && !natBit (byteField bs 55 1) 3 && !natBit (byteField bs 63 1) 5 &&
  ((bs.drop 104).take 144).all (· == 0) && decide (r.crews * r.gpc < 2 ^ 32)

/-- The carve keeps its limits (R250). -/
def recCarve (r : LaunchRec) : Bool :=
  decide (4 ≤ r.cregs) && decide (r.cregs ≤ 10) && decide (r.cscr + r.cstash ≤ 24) && decide (r.cregs + r.cscr + r.cstash ≤ 34)

/-! ### Engine accesses of a partition -/

/-- The engines of a partition translate by its table, from its master's die. -/
def State.engineXlate (s : State) (part : Nat) (va : DWord) (n : Need) : Except XErr Nat × State :=
  if (aperOff va).isSome then (.error .bounds, s)
  else if !canonical va then (.error .page, s)
  else s.xlate ((s.partn part).master * 96) part va n

/-- Writes at a physical address by the queue engine or Luna. -/
def State.engineWrite (s : State) (pa : Nat) (bs : List Byte) : State := s.storeRange none none pa bs

/-- Can the engines of a partition reach a physical place now: its port works, and no fence rebuilds what the request needs? -/
def State.engineReach (s : State) (part : Nat) (own : Bool) (pa : Nat) : Bool := s.reachAt 1 (s.partn part).master own pa

/-- Can they reach every sector of a range that translates? A place past a lost port is no longer waited for (R395). -/
def State.engineOpen (s : State) (part : Nat) (own : Bool) (va : DWord) (n : Nat) : Bool :=
  (List.range ((n + 63) / 64)).all fun k =>
    match (s.engineXlate part (va + BitVec.ofNat 64 (64 * k)) (if own then .wr else .rd)).1 with
    | .ok pa => s.kindLost (s.paKind pa) || s.engineReach part own pa
    | .error _ => true

/-- Reads a range of a partition's memory sector by sector; nothing when a byte cannot be read. -/
def State.engineRead (s : State) (part : Nat) (va : DWord) (n : Nat) : Option (List Byte) × State :=
  (List.range ((n + 63) / 64)).foldl (fun (acc : Option (List Byte) × State) k =>
    match acc with
    | (none, s) => (none, s)
    | (some bs, s) =>
      let m := min 64 (n - 64 * k)
      match s.engineXlate part (va + BitVec.ofNat 64 (64 * k)) .rd with
      | (.error _, s) => (none, s)
      | (.ok pa, s) =>
        if s.poisoned pa m || s.kindLost (s.paKind pa) then (none, s)
        else
          let (b, s) := (s.readPhys (s.partn part).master 0 pa).peek pa m
          (some (bs ++ b), s)) (some [], s)

/-! ### Completion records (R324, R327, R383, R384) -/

def reasonCode : Reason → Nat
  | .format => 1
  | .carve => 2
  | .record => 3
  | .progress => 4
  | .fit => 5
  | .pred => 6
  | .access => 7
  | .context => 8
  | .fault => 9
  | .uncorrected => 10
  | .sideeffect => 11
  | .killed => 12
  | .fabric => 13

/-- FADDR and FINFO of a reported fault. -/
def faultFields : Option (FaultInfo × Nat × Bool) → Nat × Nat
  | none => (0, 0)
  | some (f, gid, nest) => (f.addr.toNat, (trapWord f nest).toNat % 65536 + min gid 0xFFFF * 65536)

/-- The 64 bytes of a completion record. -/
def recordBytes (x : Launch) (tend : Nat) : List Byte :=
  let st := if x.reason.isSome then 3 else if x.nreplay = 0 then 1 else 2
  let code := match x.reason with
    | some r => reasonCode r
    | none => 0
  let (fa, fi) := faultFields (if st = 3 then x.fault else if st = 2 then x.replayFault else none)
  bytesOfNat 4 st ++ bytesOfNat 4 code ++ bytesOfNat 8 (x.resv % 2 ^ 56 + x.queue * 2 ^ 56) ++ bytesOfNat 8 x.tstart ++
    bytesOfNat 8 tend ++ bytesOfNat 4 x.nreplay ++ bytesOfNat 4 x.crewsC ++ bytesOfNat 8 fa ++ bytesOfNat 4 fi ++
    List.replicate 12 0

/-- Tracking entries go once their operation has ended and the launch that issued it is DONE (R34). -/
def State.sweepHandles (s : State) : State :=
  let gone := fun (e : HEntry) => e.state != .pending && (match s.launch? e.launch with
    | some x => x.state == .done
    | none => true)
  { s with dies := s.dies.mapVals fun _ d => { d with handles := d.handles.filter fun e => !gone e } }

/-- A launch is DONE: its snapshot's entries are freed, its copies forgotten, the LAUNCH that enqueued it completes. -/
def State.launchDone (s : State) (l : Nat) (x : Launch) : State :=
  let s := s.modPart x.part fun p => { p with snapuse := p.snapuse.filter fun e => !x.caps.any fun c => c.entry == e }
  let s := s.modLaunch l fun x => { x with state := .done, caps := [], snap := if x.snap == .held then .none else x.snap }
  let s := { s with copies := s.copies.filter fun e => e.2.launch != l }
  let s := match x.handle with
    | some (die, seq) => s.setHandleState die 3 seq .complete
    | none => s
  s.sweepHandles

/-- Where the completion record goes: as CREC translates now, else where it stood at taking, for every taken launch receives one (R383;
log entry 23). -/
def State.recordPlace (s : State) (x : Launch) : Nat × State :=
  match s.engineXlate x.part x.lrec.crec .wr with
  | (.ok pa, s) => ((match s.paKind pa with
      | .hbm | .window _ => pa
      | .span | .host _ | .none => x.crecPa), s)
  | (.error _, s) => (x.crecPa, s)

/-- Writes the completion record and ends the launch; past a lost port each byte is old or new (R395). -/
def State.writeRecord (s : State) (l : Nat) : State :=
  match s.launch? l with
  | none => s
  | some x =>
    let (pa, s) := s.recordPlace x
    let bs := recordBytes x (s.dclk (s.partn x.part).master)
    if s.kindLost (s.paKind pa) then
      let (bs, s) := s.mixBytes (s.rdN pa bs.length) bs
      (s.engineWrite pa bs).launchDone l x
    else (s.engineWrite pa bs).launchDone l x

/-- A launch that never runs: DONE with its reason (R325). -/
def State.refuseLaunch (s : State) (l : Nat) (r : Reason) : State := (s.failLaunch l r none).writeRecord l

/-! ### Queues (R318 to R323) -/

def PQueue.slot (q : PQueue) (n : Nat) : Nat := q.qb + 256 * (n % q.slots + 1)

/-- Can the queue engine reach a queue's control line and a slot (R396, R402)? -/
def State.queueOpen (s : State) (p : Nat) (q : PQueue) (n : Nat) : Bool :=
  ((List.range 4).map fun k => q.qb + 64 * k).all (s.engineReach p true) && ((List.range 4).map fun k => q.slot n + 64 * k).all (s.engineReach p true)

/-- HEAD moves on in the engine's state and in the control line. -/
def State.headOn (s : State) (p q : Nat) : State :=
  let x := (s.partn p).queues.get default q
  let h := x.head + 1
  let s := s.modPart p fun y => { y with queues := y.queues.modify q fun z =>
    { z with head := h, waited := 0, handles := z.handles.filter fun e => decide (h ≤ e.1) } }
  s.engineWrite (x.qb + 64) (bytesOfNat 8 h)

/-- A record or a reservation is dropped: DROPS and LASTDROP. -/
def State.dropRecord (s : State) (p q n : Nat) : State :=
  let x := (s.partn p).queues.get default q
  let s := s.modPart p fun y => { y with queues := y.queues.modify q fun z => { z with drops := z.drops + 1, lastDrop := n } }
  s.engineWrite (x.qb + 128) (bytesOfNat 8 (x.drops + 1) ++ bytesOfNat 8 n)

/-- Where a completion record would go, if it can carry a result (R324). -/
def State.crecPlace (s : State) (p : Nat) (va : DWord) : Option Nat × State :=
  if va = 0 ∨ va.toNat % 64 ≠ 0 then (none, s)
  else match s.engineXlate p va .wr with
    | (.ok pa, s) => ((match s.paKind pa with
        | .hbm | .window _ => some pa
        | .span | .host _ | .none => none), s)
    | (.error _, s) => (none, s)

/-- The record table of a launch: entries 3 to 31, or nothing when it cannot be read or fails R38. -/
def State.readTable (s : State) (p : Nat) (rtab : DWord) : Option (AMap BRec) × State :=
  let entries := fun (bs : List Byte) => (rangeFrom 3 29).map fun n => (n, BitVec.ofNat 256 (byteField bs (32 * n) 32))
  if rtab = 0 then (some ((rangeFrom 3 29).map fun n => (n, nullRec)), s)
  else match s.engineRead p rtab 1024 with
    | (none, s) => (none, s)
    | (some bs, s) =>
      let l := entries bs
      ((if l.all fun e => recOk e.2 then some (l.map fun e => (e.1, recLoad e.2)) else none), s)

/-- The pool a SNAP launch finds at taking (R377). -/
def State.snapAtTaking (s : State) (p : Nat) (snap : Bool) : SnapSt × State :=
  if !snap then (.none, s)
  else if s.poolValid p then (.held, s)
  else (.dropped, s.modDie (s.partn p).master fun d => { d with snapDrop := d.snapDrop + 1 })

/-- A taken record: dropped, or a launch that waits or is DONE at once (R324, R325; log entry 23). -/
def State.take (s : State) (p q n : Nat) (bs : List Byte) (handle : Option (Nat × Nat)) : State :=
  let r := parseRec bs
  match s.crecPlace p r.crec with
  | (none, s) =>
    let s := s.dropRecord p q n
    (match handle with
    | some (die, seq) => (s.setHandleState die 3 seq (.failed { cause := .bounds, kind := .store, addr := r.crec })).sweepHandles
    | none => s)
  | (some pa, s) =>
    let l := s.nextId
    let (snap, s) := s.snapAtTaking p r.snap
    let ok : Bool := recFormat bs r
    let x : Launch :=
      { part := p, queue := q, resv := n, lrec := r, rtab := [], state := .taken, reason := none, fault := none,
        replayFault := none, tstart := 0, tend := 0, nreplay := 0, crewsC := r.crews, dealt := [], retired := 0, mirr := false,
        sideEffect := false, snap, caps := [], handle, served := none, affected := false, crecPa := pa }
    let s := { s.fresh with launches := s.launches.set l x }
    if !ok then s.refuseLaunch l .format
    else if !recCarve r then s.refuseLaunch l .carve
    else match s.readTable p r.rtab with
      | (none, s) => s.refuseLaunch l .record
      | (some t, s) => s.modLaunch l fun x => { x with rtab := t, state := .waiting }

/-- Can the engines reach what the taking of a record reads and writes besides its queue (R358, R396)? -/
def State.recordOpen (s : State) (p : Nat) (bs : List Byte) : Bool :=
  let r := parseRec bs
  s.engineOpen p true r.crec 64 && (r.rtab == 0 || s.engineOpen p false r.rtab 1024)

/-- The queue engine takes the slot of HEAD once its stamp is there (R321). -/
def State.queueTake (s : State) (p q : Nat) : Option State :=
  let y := s.partn p
  match y.queues.find? q with
  | none => none
  | some x =>
    let a := x.slot x.head
    if y.state != .resident || !s.queueOpen p x x.head || s.rdNat (a + 248) 8 != (x.head + 1) % 2 ^ 64 || !s.recordOpen p (s.rdN a 256) then none
    else
      let bs := s.rdN a 256
      some ((s.headOn p q).take p q x.head bs (x.handles.find? x.head))

def execQueueTake (p q : Nat) : State → Host.Outcome State Fault Refusal := runEvent fun s => s.queueTake p q

/-- Has TAIL passed the slot of HEAD (R319, R322)? -/
def State.tailPassed (s : State) (x : PQueue) : Bool := decide (x.head < s.rdNat x.qb 8)

/-- A reservation without its stamp is skipped after 10 ms of RESIDENT time; one of a LAUNCH is not. -/
def State.stampTimeout (s : State) (p q : Nat) : Option State :=
  let y := s.partn p
  match y.queues.find? q with
  | none => none
  | some x =>
    let stamped := s.rdNat (x.slot x.head + 248) 8 == (x.head + 1) % 2 ^ 64
    if y.state != .resident || !s.queueOpen p x x.head || stamped || !s.tailPassed x || x.waited < 10000000 * 17 ||
        y.lbuf.any (fun e => e.q == q && e.n == x.head) then none
    else some ((s.dropRecord p q x.head).headOn p q)

def execStampTimeout (p q : Nat) : State → Host.Outcome State Fault Refusal := runEvent fun s => s.stampTimeout p q

/-- The queue engine writes the oldest buffered record of a queue and its stamp once the slot is free (R320, R323). -/
def State.launchBufferWrite (s : State) (p q : Nat) : Option State :=
  let y := s.partn p
  match y.queues.find? q, y.lbuf.find? fun e => e.q == q with
  | some x, some e =>
    if y.state == .free || y.state == .killing || !s.queueOpen p x e.n || decide (x.head + x.slots ≤ e.n) then none
    else
      let a := x.slot e.n
      let s := (s.engineWrite a e.bytes).engineWrite (a + 248) (bytesOfNat 8 ((e.n + 1) % 2 ^ 64))
      some (s.modPart p fun y =>
        { y with lbuf := y.lbuf.erase e,
                 queues := match e.handle with
                   | some h => y.queues.modify q fun z => { z with handles := z.handles.set e.n h }
                   | none => y.queues })
  | _, _ => none

def execLaunchBufferWrite (p q : Nat) : State → Host.Outcome State Fault Refusal :=
  runEvent fun s => s.launchBufferWrite p q

/-! ### LAUNCH_READY (R244, R325, R326, R329 to R331, R333, R390) -/

inductive PredSt | ok | waits | fails
  deriving DecidableEq, Repr, Inhabited

/-- The state of a launch's predecessors. -/
def State.predState (s : State) (p : Nat) (preds : List DWord) : PredSt × State :=
  preds.foldl (fun (acc : PredSt × State) va =>
    if va = 0 ∨ acc.1 = .fails then acc
    else match acc.2.engineXlate p va .rd with
      | (.error _, s) => (.fails, s)
      | (.ok pa, s) =>
        if s.kindLost (s.paKind pa) then (.fails, s)
        else if !s.engineReach p false pa then (.waits, s)
        else if s.poisoned pa 4 then (.fails, s)
        else
          let v := wordOfBytes (s.peek pa 4).1
          let s := s.readPhys (s.partn p).master 0 pa
          if v = 3 then (.fails, s) else if v = 1 ∨ v = 2 then (acc.1, s) else (.waits, s)) (.ok, s)

/-- Is an earlier launch of the same queue still waiting (R326)? -/
def State.queueHeld (s : State) (l : Nat) (x : Launch) : Bool :=
  s.launches.any fun e => decide (e.1 < l) && e.2.part == x.part && e.2.queue == x.queue &&
    (e.2.state == .waiting || e.2.state == .taken)

/-- Groups that fit in each empty instance of the co-location scope, over the partition. -/
def State.instanceRoom (s : State) (x : Launch) : List Nat :=
  let p := s.partn x.part
  ((s.units p x.lrec.cscope).map fun u => (s.instances p x.lrec.cscope u.1).map fun cs =>
    cs.length * x.lrec.perCore).flatten

/-- C in force (R333). -/
def State.crewsInForce (s : State) (x : Launch) : Nat :=
  if x.lrec.crews ≠ 0 then x.lrec.crews else ((s.instanceRoom x).map fun n => n / x.lrec.gpc).sum

/-- Can some crew not be placed on the smallest empty instance (R331)? -/
def State.fitFails (s : State) (x : Launch) : Bool :=
  let l := s.instanceRoom x
  l.isEmpty || l.any fun n => decide (n < x.lrec.gpc)

/-- `%gstat.MIRR` of a launch's groups (R390). -/
def mirrors (r : LaunchRec) : Bool := decide (2 * (r.perCore * r.poolBytes) ≤ r.cregs * 65536)

/-- The launch is READY, its C fixed (R333), and all its crews are dealt; or it fails. -/
def State.makeReady (s : State) (l : Nat) (x : Launch) : State :=
  let p := s.partn x.part
  let n := s.crewsInForce x
  let s := s.modLaunch l fun x => { x with crewsC := n }
  if 1 < p.towers ∧ x.lrec.fair ∧ x.lrec.cscope = 3 then s.refuseLaunch l .progress
  else if n = 0 || s.fitFails x then s.refuseLaunch l .fit
  else
    let k := s.nextId
    let dealt := s.dealCrews x (List.range n)
    (s.fresh.modLaunch l fun x => { x with state := .ready, served := some k, dealt, mirr := mirrors x.lrec }).modPart x.part
      fun p => { p with lastServed := x.queue }

/-- Could a launch become READY and be served now? -/
def State.servable (s : State) (l : Nat) (x : Launch) : Bool :=
  x.state == .waiting && (s.partn x.part).state == .resident && !s.queueHeld l x && (s.predState x.part x.lrec.preds).1 == .ok

/-- The place of a queue in the round that starts after the queue served last (R329). -/
def Partition.turnOf (p : Partition) (q : Nat) : Nat := (q + 15 - p.lastServed % 16) % 16

/-- Does the master serve another launch of the partition before this one: higher PRIO, else the queue whose turn comes first
(R329)? -/
def State.servesFirst (s : State) (l : Nat) (x : Launch) : Bool :=
  let p := s.partn x.part
  s.launches.any fun e => e.1 != l && e.2.part == x.part && s.servable e.1 e.2 &&
    (decide (x.lrec.prio < e.2.lrec.prio) ||
      (x.lrec.prio == e.2.lrec.prio && decide (p.turnOf e.2.queue < p.turnOf x.queue)))

def State.launchReady (s : State) (l : Nat) : Option State :=
  match s.launch? l with
  | none => none
  | some x =>
    if x.state != .waiting || (s.partn x.part).state != .resident || s.queueHeld l x || !s.engineOpen x.part true x.lrec.crec 64 then none
    else match s.predState x.part x.lrec.preds with
      | (.fails, s) => some (s.refuseLaunch l .pred)
      | (.waits, _) => none
      | (.ok, s') => if s.servesFirst l x then none else some (s'.makeReady l x)

def execLaunchReady (l : Nat) : State → Host.Outcome State Fault Refusal := runEvent fun s => s.launchReady l

/-! ### CREW_ADMIT (R233, R329 to R332, R23) -/

/-- May crews of a launch be admitted now? -/
def State.launchAdmits (s : State) (x : Launch) : Bool :=
  (x.state == .ready || x.state == .running) && (s.partn x.part).state == .resident

/-- The next crew a unit admits: its own in increasing number, else the lowest of those left to the others (R330; log entry 69). -/
def Launch.nextCrew (x : Launch) (unit : Nat) : Option Dealt :=
  (x.dealt.find? fun d => d.unit == unit) <|> x.dealt.head?

/-- Is a launch served before another: higher PRIO, then earlier (R329)? -/
def servedBefore (a b : Launch) : Bool :=
  decide (b.lrec.prio < a.lrec.prio) || (a.lrec.prio == b.lrec.prio && decide (a.served.getD 0 < b.served.getD 0))

/-- The first crew to be admitted of each unit of a launch that shares a die with a unit of another: its unit and its number. -/
def State.crewsBeside (s : State) (y x : Launch) (unit : Nat) : List Dealt :=
  let p := s.partn x.part
  let ds := unitDies p x.lrec.cscope unit
  ((s.units p y.lrec.cscope).filter fun u => (unitDies p y.lrec.cscope u.1).any ds.contains).filterMap fun u =>
    y.dealt.find? fun d => d.unit == u.1

/-- Could a launch served before this one admit a crew of its own beside the unit? -/
def State.outranked (s : State) (l : Nat) (x : Launch) (unit : Nat) : Bool :=
  s.launches.any fun e => e.1 != l && e.2.part == x.part && s.launchAdmits e.2 && servedBefore e.2 x &&
    (s.crewsBeside e.2 x unit).any fun d => (s.crewOnUnit e.1 e.2 d.unit d.cid).isSome

/-- Has a launch with another carve, served before this one, cores of the unit still to mark (R332)? -/
def State.marksFirst (s : State) (l : Nat) (x : Launch) (unit : Nat) : Bool :=
  s.launches.any fun e => e.1 != l && e.2.part == x.part && s.launchAdmits e.2 && servedBefore e.2 x &&
    e.2.lrec.carve != x.lrec.carve &&
    (s.crewsBeside e.2 x unit).any fun d =>
      (s.crewOnUnit e.1 e.2 d.unit d.cid).isNone && (s.recarve e.1 e.2 d.unit d.cid).cores != s.cores

/-- After a crew is placed: the launch runs, cores start, pools are made to fit. -/
def State.admitted (s : State) (l : Nat) (x : Launch) (d : Dealt) : State :=
  let t := s.dclk (s.partn x.part).master
  let s := s.modLaunch l fun y => { y with dealt := y.dealt.erase d, state := .running,
                                           tstart := if x.state = .ready then t else y.tstart }
  let cores := (AMap.keys (s.groups.foldl (fun (m : AMap Unit) g => if g.2.launch = l then m.set g.2.core () else m) []))
  let s := cores.foldl (fun (s : State) c => s.fitPool c) s
  (s.partn x.part).dies.foldl (fun (s : State) d => s.stageDie d 8) s

def State.crewAdmit (s : State) (l unit : Nat) : Option State :=
  match s.launch? l with
  | none => none
  | some x =>
    match x.nextCrew unit with
    | none => none
    | some d =>
      if !s.launchAdmits x || s.outranked l x unit || ((s.units (s.partn x.part) x.lrec.cscope).all fun u => u.1 != unit)
      then none
      else match s.crewOnUnit l x unit d.cid with
        | some s => some (s.admitted l x d)
        | none =>
          let s' := if s.marksFirst l x unit then s else s.recarve l x unit d.cid
          match s'.crewOnUnit l x unit d.cid with
          | some s => some (s.admitted l x d)
          | none => if s'.cores = s.cores then none else some s'

def execCrewAdmit (l unit : Nat) : State → Host.Outcome State Fault Refusal := runEvent fun s => s.crewAdmit l unit

/-- Waiting cores of a die go from idle to busy (R23). -/
def State.stagedStart (s : State) (die : Nat) : Option State :=
  let s' := s.stageDie die 8
  if (s'.die die).stage = (s.die die).stage then none else some s'

def execStagedStart (die : Nat) : State → Host.Outcome State Fault Refusal := runEvent fun s => s.stagedStart die

/-! ### LAUNCH_COMPLETE (R327) -/

/-- Is everything a launch did performed, so that the record's release covers it? -/
def State.launchQuiet (s : State) (l : Nat) : Bool :=
  !(s.ops.any fun e => e.2.launch == l && e.2.live) && !(s.sectors.any fun e => !e.2.stale.isEmpty || !e.2.l2stale.isEmpty)

def State.launchComplete (s : State) (l : Nat) : Option State :=
  match s.launch? l with
  | none => none
  | some x => if x.state == .finishing && s.launchQuiet l && s.engineOpen x.part true x.lrec.crec 64 then some (s.writeRecord l) else none

def execLaunchComplete (l : Nat) : State → Host.Outcome State Fault Refusal := runEvent fun s => s.launchComplete l

/-! ### REPLAY_RESTORE (R381) -/

/-- One captured granule takes its captured bytes and marks again. -/
def State.restoreGranule (s : State) (p : Nat) (c : Capture) : State :=
  let secs := rangeFrom (c.granule * 1024) 1024
  let s := secs.foldl (fun (s : State) k => if (s.sector k) = Sector.init then s else s.forget k) s
  let s := { s with mem := Memory.copyRange s.mem (s.poolBase p c.entry) granuleBytes (c.granule * granuleBytes) }
  let s := c.poison.foldl (fun (s : State) k => s.modSector k fun x => { x with poison := true }) s
  (List.range 1024).foldl (fun (s : State) k =>
    if (s.sector (s.poolBase p c.entry / 64 + k)).poison then s.poisonSector (c.granule * 1024 + k) (s.home (c.granule * granuleBytes)) 6
    else s) s

/-- Has everything of a replaying launch that step 2 completes been completed? -/
def State.replayQuiet (s : State) (l : Nat) : Bool :=
  !(s.ops.any fun e => e.2.launch == l && e.2.live) &&
  s.cores.all fun e => (e.2.tops.all fun o => o.launch != l) && e.2.commits.all fun c => (s.grp c.g).launch != l

/-- Open regions of a launch that is discarded abort without writing (R313, R381 step 2). -/
def State.abortsOf (s : State) (l : Nat) : State :=
  (s.groups.filter fun e => e.2.launch == l).foldl (fun (s : State) e =>
    let n := (e.2.live.filter fun t => t.2.region.isSome).length
    if n = 0 then s else s.modCore e.2.core fun c => { c with aborts := c.aborts + BitVec.ofNat 64 n }) s

/-- Steps 2 to 4: what is left of the attempt ends, captured granules are restored, the crews are dealt again; a fence's rebuild stalls them
(R406). -/
def State.replayRestore (s : State) (l : Nat) : Option State :=
  match s.launch? l with
  | none => none
  | some x =>
    if x.state != .replaying || !s.replayQuiet l || s.rebuilding then none
    else
      let s := (s.abortsOf l).discardLaunch l
      let s := (s.copies.filter fun e => e.2.launch == l).foldl (fun (s : State) e => s.setHandleState e.2.die 1 e.2.seq .complete) s
      let s := { s with copies := s.copies.filter fun e => e.2.launch != l }
      match s.launch? l with
      | none => none
      | some x =>
        let s := x.caps.foldl (fun (s : State) c => s.restoreGranule x.part c) s
        let s := s.modPart x.part fun p => { p with snapuse := p.snapuse.filter fun e => !x.caps.any fun c => c.entry == e }
        let dealt := s.dealCrews x (List.range x.crewsC)
        some (s.modLaunch l fun x => { x with state := .running, caps := [], nreplay := x.nreplay + 1, retired := 0, dealt })

def execReplayRestore (l : Nat) : State → Host.Outcome State Fault Refusal := runEvent fun s => s.replayRestore l

end Sys2Proof.Machine
end

