-- ==== Sys2Proof/Machine/Context.lean ====
section
/-! DEFINITION. Contexts (R47, R350, R351): their bytes, reading a group back from them, and the store that holds them. -/

namespace Sys2Proof.Machine

open Sys2Proof

/-! ### The register save area (R47) -/

/-- The bytes of the V registers: the tag vector, the words, the padding. -/
def vregBytes (r : LaunchRec) (g : Group) : List Byte :=
  let tags := (List.range 96).map fun n => if n < r.vcnt then (g.vreg false n).val.code * 4 ^ n else 0
  let words := ((List.range r.vcnt).map fun n => match (g.vreg false n).val with
    | .u w => [w]
    | .a b s => [b, s]
    | .g ws => (List.range g.width).map fun t => ws.get 0 t).flatten
  let body := bytesOfNat 24 tags.sum ++ (words.map fun w => bytesOfNat 4 w.toNat).flatten
  body ++ List.replicate ((32 - body.length % 32) % 32) 0

/-- One thread block. -/
def threadBytes (r : LaunchRec) (th : Thread) : List Byte :=
  let counters := th.ld + th.st * 2 ^ 8 + th.cp * 2 ^ 16 + th.tl * 2 ^ 24
  let descs := ((List.range r.mcnt).map fun m => bytesOfNat 4 (th.m.get MReg.empty m).desc.toNat).flatten
  let els := ((List.range r.mcnt).map fun m => ((List.range (r.mdim * r.mdim)).map fun k =>
    bytesOfNat 8 ((th.m.get MReg.empty m).els.get 0 k).toNat).flatten).flatten
  let frames := th.frames.take 4
  bytesOfNat 8 th.pc.toNat ++ bytesOfNat 4 th.preds.toNat ++ bytesOfNat 4 counters ++ bytesOfNat 4 th.fst.toNat ++
    bytesOfNat 4 th.fmode.toNat ++ bytesOfNat 4 th.smf.toNat ++ bytesOfNat 4 th.rstat.toNat ++ bytesOfNat 8 th.exc.toNat ++
    bytesOfNat 8 th.faddr.toNat ++ bytesOfNat 8 th.trap.toNat ++
    ((List.range 16).map fun n => bytesOfNat 8 (th.h.get 0 n).toNat).flatten ++
    descs ++ List.replicate (descs.length % 8) 0 ++ els ++ bytesOfNat 8 frames.length ++
    (frames.map fun f => bytesOfNat 8 f.ret.toNat ++ bytesOfNat 8 f.pad.toNat).flatten

/-- The register save area of a group. -/
def areaImage (r : LaunchRec) (g : Group) : List Byte :=
  vregBytes r g ++ ((List.range 8).map fun n => bytesOfNat 8 (g.j.get 0 n).toNat).flatten ++
    ((rangeFrom 3 29).map fun n => bytesOfNat 32 (g.brec n).toNat).flatten ++
    (g.primaries.map fun e => threadBytes r e.2).flatten

/-- Thread extensions: item 4 of R350. -/
def extBytes (th : Thread) : List Byte :=
  bytesOfNat 8 th.batch.toNat ++ ((List.range 8).map fun n => bytesOfNat 8 (th.pops.get 0 n).toNat).flatten ++ bytesOfNat 8 0

/-- A held tile with its tag. -/
def tileBytes (t : SavedTile) : List Byte :=
  bytesOfNat 8 (b2n t.y + 2 * t.tn.val) ++
    (if t.y then bytesOfNat 10240 (((List.range 4096).map fun k => (t.yt.els.get 0 k).toNat * 2 ^ (20 * k)).sum)
     else ((List.range 4224).map fun k => bytesOfNat 4 (t.z.els.get 0 k).toNat).flatten)

/-- Items 3 to 6 of a group. -/
def groupImage (r : LaunchRec) (x : SavedGroup) : List Byte :=
  let g := x.group
  areaImage r g ++ (g.primaries.map fun e => extBytes e.2).flatten ++
    ((List.range (r.gscr * 256)).map fun k => g.scratch.get 0 k) ++ (x.tiles.map tileBytes).flatten

/-! ### Reading a group back (R47, R352) -/

/-- The tag of register `n` in a tag vector. -/
def tagAt (tags n : Nat) : Nat := tags / 4 ^ n % 4

/-- A tag vector in which every 0b11 gives way to the tag another vector has there (R367). -/
def keepTags (old new : Nat) : Nat := ((List.range 96).map fun n => (if tagAt new n = 3 then tagAt old n else tagAt new n) * 4 ^ n).sum

/-- The values of the V registers of an area and what follows them; nothing at a tag 0b11, of whichever of the 96 registers (R47). -/
def parseVregs (r : LaunchRec) (g : Group) (bs : List Byte) : Option (Group × List Byte) :=
  let tags := byteField bs 0 24
  let step := fun (e : Group × Nat) (n : Nat) =>
    let (g, off) := e
    let word := fun (k : Nat) => BitVec.ofNat 32 (byteField bs (off + 4 * k) 4)
    match tagAt tags n with
    | 0 => (g.setVreg false n { g.vreg false n with val := .u (word 0) }, off + 4)
    | 1 => (g.setVreg false n { g.vreg false n with val := .a (word 0) (word 1) }, off + 8)
    | _ => (g.setVreg false n { g.vreg false n with val := .g ((List.range g.width).map fun t => (t, word t)) }, off + 4 * g.width)
  if (List.range 96).any fun n => tagAt tags n == 3 then none
  else
    let e := (List.range r.vcnt).foldl step (g, 24)
    some (e.1, bs.drop ((e.2 + 31) / 32 * 32))

/-- `%fmode` as a write through memory leaves it: reserved bits are 0, and a reserved rounding mode changes nothing (R4, R44). -/
def fmodeField (old w : Word) : Word := if 4 < (w &&& 7).toNat then (w &&& 0xFF00) ||| (old &&& 7) else w &&& 0xFF07

/-- A thread whose PC a context or a debugger has changed goes on there: nothing holds it, and it has issued nothing of a clause
(R352, R367). -/
def Thread.movedTo (th : Thread) (pc : DWord) : Thread :=
  if pc = th.pc then th
  else { th with pc, hold := none, mid := false, brkDone := false, passing := none, sofar := [], sofarYld := false, header := none, barAt := none }

/-- One thread block read back, and what follows it; errors of stored words stay with them (R373). -/
def parseThread (r : LaunchRec) (th : Thread) (bs : List Byte) : Thread × List Byte :=
  let f := byteField bs
  let w := fun (off : Nat) => BitVec.ofNat 32 (f off 4)
  let c := f 12 4
  let els := 184 + (4 * r.mcnt + 7) / 8 * 8
  let d2 := r.mdim * r.mdim
  let fr := els + 8 * d2 * r.mcnt
  let n := min 4 (f fr 8)
  let frames := (List.range n).map fun k =>
    ({ ret := byteWord bs (fr + 8 + 16 * k), pad := byteWord bs (fr + 16 + 16 * k), bad := (th.frames[k]?).any fun f => f.bad } : Frame)
  let m : AMap MReg := (List.range r.mcnt).map fun k =>
    (k, { th.m.get MReg.empty k with
            desc := w (184 + 4 * k) &&& 0x0FFB_FFFF, els := (List.range d2).map fun e => (e, byteWord bs (els + 8 * (d2 * k + e))) })
  let h : AMap DWord := (List.range 16).map fun k => (k, byteWord bs (56 + 8 * k))
  ({ th.movedTo (byteWord bs 0) with
       preds := BitVec.ofNat 31 (f 8 4), ld := natField c 0 6, st := natField c 8 6, cp := natField c 16 6, tl := natField c 24 6,
       fst := w 16 &&& 0x7F, fmode := fmodeField th.fmode (w 20), smf := w 24 &&& 0xF0F, rstat := w 28 &&& 0xF1,
       exc := byteWord bs 32, faddr := byteWord bs 40, trap := w 48 &&& 0x7FF, h, m, frames := frames ++ th.frames.drop 4 },
   bs.drop (fr + 8 + 16 * n))

/-- Thread extensions read back. -/
def parseExt (th : Thread) (bs : List Byte) : Thread :=
  { th with batch := BitVec.ofNat 32 (byteField bs 0 4), pops := (List.range 8).map fun n => (n, byteWord bs (8 + 8 * n)) }

/-- The shadows of a protected group take the values of their primaries: the area of R47 holds no others (R387, R389). -/
def Group.asPrimaries (g : Group) : Group :=
  if g.prot then
    { g with vsh := g.v, threads := g.primaries ++ g.primaries.map fun e => (e.1 + 64, e.2) }
  else g

/-- A group as the bytes of its context give it; nothing at a tag 0b11. J holds `%width` bits (R32). What the spec does not say of the reserved bits
of B3 to B31, which R38 lets only BLD refuse, is this model's choice: they stay as the bytes have them (log entry 50). -/
def parseGroup (r : LaunchRec) (g : Group) (bs : List Byte) : Option Group :=
  (parseVregs r g bs).map fun e =>
    let (g, bs) := e
    let g := { g with j := (List.range 8).map fun n => (n, g.maskBits (byteWord bs (8 * n))),
                      b := (rangeFrom 3 29).foldl (fun m n => m.set n (BitVec.ofNat 256 (byteField bs (64 + 32 * (n - 3)) 32))) g.b }
    let (ts, bs) := g.primaries.foldl (fun (acc : AMap Thread × List Byte) e =>
      let (th, bs) := parseThread r e.2 acc.2
      (acc.1 ++ [(e.1, th)], bs)) ([], bs.drop 992)
    let ts := ts.zipIdx.map fun e => (e.1.1, parseExt e.1.2 (bs.drop (80 * e.2)))
    let bs := bs.drop (80 * ts.length)
    { g with threads := ts ++ g.threads.filter (fun e => decide (64 ≤ e.1)),
                               scratch := (List.range (r.gscr * 256)).map fun k => (k, bs.getD k 0) }

/-! ### The debugger's view (R367) -/

/-- Is a group's state presented: is it frozen, in a debug partition (R359)? -/
def State.inView (s : State) (g : Nat) : Bool := (s.cluster (coreCluster (s.grp g).core)).stopped && s.debugGroup g

/-- Where the pool words of one thread block stand: offset, length, word. -/
def threadWords (r : LaunchRec) (t : Nat) (th : Thread) : List (Nat × Nat × PoolWord) :=
  let els := 184 + (4 * r.mcnt + 7) / 8 * 8
  let d2 := r.mdim * r.mdim
  let fr := els + 8 * d2 * r.mcnt + 8
  ((List.range r.mcnt).flatMap fun n => (184 + 4 * n, 4, PoolWord.m false t n descSlot) ::
    (List.range d2).map fun k => (els + 8 * (d2 * n + k), 8, PoolWord.m false t n k)) ++
  (th.frames.take 4).zipIdx.map fun f => (fr + 16 * f.2, 16, PoolWord.f false t (th.frames.length - 1 - f.2))

/-- Where the words of the V registers stand. -/
def vregWords (r : LaunchRec) (g : Group) : List (Nat × Nat × PoolWord) :=
  let words := fun (n : Nat) => match (g.vreg false n).val with
    | .u _ => [PoolWord.v false n 0]
    | .a _ _ => [.v false n 0, .v false n 0]
    | .g _ => (List.range g.width).map fun t => .v false n (t + 1)
  ((List.range r.vcnt).flatMap words).zipIdx.map fun e => (24 + 4 * e.2, 4, e.1)

/-- Where the pool words of a group stand in its register save area. -/
def areaWords (r : LaunchRec) (g : Group) : List (Nat × Nat × PoolWord) :=
  let head := (vregBytes r g).length + 64 + 928
  (vregWords r g ++ (g.primaries.foldl (fun (acc : List (Nat × Nat × PoolWord) × Nat) e =>
    (acc.1 ++ (threadWords r e.1 e.2).map (fun x => (acc.2 + x.1, x.2)), acc.2 + (threadBytes r e.2).length)) ([], head)).1)

/-- The pool words that bytes written at an offset of the area replace: all of the V registers where the tags change, as their places move. -/
def wordsUnder (r : LaunchRec) (before after : Group) (off n : Nat) : List PoolWord :=
  let moved := (List.range r.vcnt).any fun k => (before.vreg false k).val.code != (after.vreg false k).val.code
  ((areaWords r after).filter fun e => decide (off < e.1 + e.2.1 ∧ e.1 < off + n) || (moved && match e.2.2 with
    | .v _ _ _ => true
    | .m _ _ _ _ | .f _ _ _ => false)).map fun e => e.2.2

/-- The lane whose word it is. -/
def PoolWord.lane (g : Nat) : PoolWord → Lane
  | .v sh _ p => { g, t := p - 1, sh }
  | .m sh t _ _ => { g, t, sh }
  | .f sh t _ => { g, t, sh }

/-- The same word of the shadows. -/
def PoolWord.shadow : PoolWord → PoolWord
  | .v _ n p => .v true n p
  | .m _ t n k => .m true t n k
  | .f _ t k => .f true t k

/-- A word is written anew, its mirror with it: neither has an error (R391). -/
def State.freshWord (s : State) (g : Nat) (w : PoolWord) : State :=
  let l := w.lane g
  let s := s.healWord l w
  match w with
  | .v sh n _ => s.modGroup g fun x =>
    let y := x.vreg sh n
    x.setVreg sh n (match y.val with
      | .g _ => { y with merrs := y.merrs.erase l.t }
      | .u _ | .a _ _ => { y with merr := 0 })
  | .m _ _ _ _ | .f _ _ _ => s

/-- What a write through the view leaves of a protected group: a shadow follows its primary where the write changed it (log entry 50). -/
def Group.follow (before after : Group) : Group :=
  if !after.prot then after
  else
    let changed := (after.v.filter fun e => before.v.find? e.1 != some e.2).map Prod.fst
    let vsh := changed.foldl (fun m n => m.set n { after.vreg false n with errs := (before.vreg true n).errs, err := (before.vreg true n).err }) before.vsh
    let ts := after.primaries.filterMap fun e => if before.threads.find? e.1 = some e.2 then none else
      some (e.1 + 64, { e.2 with
        m := e.2.m.map fun x => (x.1, { x.2 with bad := (((before.threads.get (Thread.create 0) (e.1 + 64)).m.get MReg.empty x.1).bad) }),
        frames := e.2.frames.zipIdx.map fun f =>
          { f.1 with bad := ((before.threads.get (Thread.create 0) (e.1 + 64)).frames[f.2]?).any fun x => x.bad } })
    { after with vsh, threads := ts.foldl (fun m e => m.set e.1 e.2) after.threads }

/-! ### Tiles -/

/-- Where a group's tiles begin in its image. -/
def tilesAt (r : LaunchRec) (x : SavedGroup) : Nat := (groupImage r { x with tiles := [] }).length

/-- A tile as the bytes of its context give it. -/
def parseTile (t : SavedTile) (bs : List Byte) : SavedTile :=
  if t.y then { t with yt := { t.yt with els := (List.range 4096).map fun k =>
      (k, BitVec.ofNat 20 (byteField (bs.drop (8 + 20 * k / 8)) 0 4 / 2 ^ (20 * k % 8))) } }
  else { t with z := { t.z with els := (List.range 4224).map fun k => (k, BitVec.ofNat 32 (byteField bs (8 + 4 * k) 4)) } }

def parseTiles : List SavedTile → List Byte → List SavedTile
  | [], _ => []
  | t :: r, bs => parseTile t bs :: parseTiles r (bs.drop (if t.y then 10248 else 16904))

/-- A saved group as memory holds it now: unchanged bytes give the group as it was saved. -/
def reread (r : LaunchRec) (x : SavedGroup) (bs : List Byte) : Option SavedGroup :=
  if bs = groupImage r x then some x
  else (parseGroup r x.group bs).map fun g => { x with group := g.asPrimaries, tiles := parseTiles x.tiles (bs.drop (tilesAt r x)) }

/-! ### A die context (R350) -/

/-- Item 2: a crew. -/
def crewBytes (c : Crew) : List Byte :=
  bytesOfNat 4 c.cid ++ bytesOfNat 4 c.groups.length ++ bytesOfNat 4 c.itb.toNat ++ bytesOfNat 4 c.ite.toNat ++
    bytesOfNat 4 c.fix.toNat ++ List.replicate 12 0 ++
    ((List.range 16).map fun n => ((List.range (c.groups.length * c.width)).map fun t =>
      bytesOfNat 4 (c.counts.get 0 (16 * t + n)).toNat).flatten).flatten

/-- Item 7: a copy's descriptor. -/
def descBytes (gid : Nat) (c : CopyOp) : List Byte :=
  bytesOfNat 8 c.src.toNat ++ bytesOfNat 8 c.dst.toNat ++ bytesOfNat 4 c.len ++ bytesOfNat 1 (scopeCode c.scope) ++
    bytesOfNat 3 0 ++ bytesOfNat 4 c.off ++ bytesOfNat 8 (2 ^ 60 + c.die * 2 ^ 56 + c.gen.toNat % 256 * 2 ^ 48 + c.seq) ++
    bytesOfNat 4 c.batch.toNat ++ bytesOfNat 4 0 ++ bytesOfNat 8 c.promise ++ bytesOfNat 4 gid ++ bytesOfNat 4 c.lane.t ++
    bytesOfNat 4 0

/-- The record of a saved group's launch. -/
def State.savedRec (s : State) (x : SavedGroup) : LaunchRec := match s.launch? x.group.launch with
  | some l => l.lrec
  | none => parseRec []

/-- The copies of a context, with the `%gid` of each. -/
def State.ctxCopies (s : State) (c : Context) : List (Nat × CopyOp) :=
  c.copies.filterMap fun k => (s.copies.find? k).map fun y => (y.gid, y)

/-- The bytes of a die context before its groups. -/
def State.ctxHead (s : State) (p : Nat) (c : Context) : List Byte :=
  bytesOfNat 8 c.size ++ bytesOfNat 4 c.groups.length ++ bytesOfNat 4 c.crews.length ++ bytesOfNat 4 c.copies.length ++
    bytesOfNat 4 (s.partn p).gen.toNat ++ List.replicate 40 0 ++
    (c.crews.map fun k => match s.crew? k with
      | some y => crewBytes y
      | none => []).flatten

/-- The bytes of a die context. -/
def State.ctxImage (s : State) (p : Nat) (c : Context) : List Byte :=
  s.ctxHead p c ++ (c.groups.map fun x => groupImage (s.savedRec x) x).flatten ++
    ((s.ctxCopies c).map fun e => descBytes e.1 e.2).flatten

/-! ### Where contexts lie (R343, R351) -/

def cocoonBytes : Nat := 256 * 2 ^ 20

/-- Bytes of contexts in a die's Cocoon, of the partitions a test picks. -/
def State.cocoonHeld (s : State) (die : Nat) (pick : Nat → Bool) : Nat :=
  (s.parts.map fun e => if pick e.1 then
    ((e.2.ctxs.filter fun c => c.die == die && c.cocoon).map fun c => c.size).sum else 0).sum

/-- Space reserved on a die for LATENCY partitions a test picks. -/
def State.cocoonKept (s : State) (die : Nat) (pick : Nat → Bool) : Nat :=
  (s.parts.map fun e => if pick e.1 && e.2.qos == 0 && e.2.state != .free && e.2.hasDie die then e.2.ctxmax * 2 ^ 20 else 0).sum

/-- Does a die context of a partition fit in the Cocoon? -/
def State.inCocoon (s : State) (p die size : Nat) : Bool :=
  s.pkg.virt &&
    decide (s.cocoonHeld die (fun q => (s.partn q).qos != 0) + s.cocoonKept die (fun q => q != p) + size ≤ cocoonBytes)

/-- The place of a die's share of the context area. -/
def Partition.share (p : Partition) (die : Nat) : Nat × Nat :=
  let n := p.ctxlen / max 1 p.dies.length
  (p.ctxbase + n * (p.dies.takeWhile (· != die)).length, n)

end Sys2Proof.Machine
end

