-- ==== Sys2Proof/Machine/EvPartition.lean ====
section
/-! DEFINITION. Events of partitions: creation and killing (R342, R343, R347, R354, R355), residency (R344, R345, R348), saving and
restoring contexts (R349 to R353), invalidating translations (R341), the mailbox window (R357), the error record (R386). -/

namespace Sys2Proof.Machine

open Sys2Proof

/-! ### Work and sharing (R344, R345) -/

/-- Holds some queue a stamped slot not yet taken? -/
def State.stampedSlot (s : State) (y : Partition) : Bool :=
  y.queues.any fun q => s.rdNat (q.2.slot q.2.head + 248) 8 == (q.2.head + 1) % 2 ^ 64

/-- Has a partition work? -/
def State.hasWork (s : State) (p : Nat) : Bool :=
  let y := s.partn p
  y.wakepend || s.stampedSlot y || s.launches.any fun e => e.2.part == p && e.2.state != .done

/-- Do two partitions share a die? -/
def Partition.meets (x y : Partition) : Bool := x.dies.any y.hasDie

/-- The other partitions that share dies with one. -/
def State.sharers (s : State) (p : Nat) : AMap Partition :=
  s.parts.filter fun e => e.1 != p && e.2.state != .free && e.2.meets (s.partn p)

/-- The groups of a partition, wherever they are. -/
def State.ofPart (s : State) (p : Nat) : AMap Group := s.groups.filter fun e => e.2.part == p

/-! ### The time table (R400) -/

/-- Entry `d` of a time table. -/
def Die.ttEntry (d : Die) : List Byte :=
  bytesOfNat 8 d.toff.toNat ++ bytesOfNat 4 (d.trate.signExtend 32).toNat ++ bytesOfNat 4 (b2n d.fenced)

/-- Can Luna write the table at an address now (R396, R402)? -/
def State.ttabOpen (s : State) (a : Nat) : Bool := (List.range 5).all fun k => s.reachAt 5 0 true (a + 64 * k)

/-- Luna brings the table of a partition up to date: SEQ ends even and higher; one it cannot reach waits (log entry 46). -/
def State.ttabWrite (s : State) (p : Nat) : State :=
  let t := (s.partn p).ttab.toNat
  let a := t / 512 * 512
  match natBit t 0 && s.ttabOpen a, s.paKind a with
  | true, .hbm | true, .window _ =>
    let seq := s.rdNat a 8
    let entries := ((List.range 16).map fun d => (s.die d).ttEntry).flatten
    let odd := seq / 2 * 2 + 1
    ((s.engineWrite a (bytesOfNat 8 odd)).engineWrite (a + 16) entries).engineWrite a (bytesOfNat 8 (odd + 1))
  | _, _ => s

/-- Every table in use is brought up to date. -/
def State.ttabAll (s : State) : State := (AMap.keys s.parts).foldl (fun (s : State) p => s.ttabWrite p) s

/-- The tables that a write could not reach are brought up to date. -/
def State.ttabFresh (s : State) : State :=
  (AMap.keys s.parts).foldl (fun (s : State) p =>
    if s.rdN ((s.partn p).ttab.toNat / 512 * 512 + 16) 256 = ((List.range 16).map fun d => (s.die d).ttEntry).flatten then s
    else s.ttabWrite p) s

/-- A host port's recovery ends (R396). -/
def State.hostUp (s : State) (n : Nat) : Option State :=
  if (s.hostPort n).recovery.isSome && !(s.ops.any fun e => s.flitHeld (.host n) e.1 e.2) then some (s.modHost n fun p => { p with recovery := none, linkDown := false }).ttabFresh
  else none

def execHostLinkRecoveryEnd (port : Nat) : State → Host.Outcome State Fault Refusal := runEvent fun s => s.hostUp port

/-! ### PCTL_CREATE (R319, R342, R343, R348) -/

/-- Is a configuration record in range, with nothing reserved set (log entry 38)? -/
def Partition.inRange (y : Partition) : Bool :=
  y.ptroot % 4096 == 0 && y.ctxbase % 4096 == 0 && y.ctxlen % 4096 == 0 && decide (y.ctxbase + y.ctxlen ≤ hbmSize) &&
  decide (1 ≤ y.qcnt) && decide (y.qcnt ≤ 16) && y.qos != 3 && y.byte 35 % 16 == 0 && decide (1 ≤ y.vecs) &&
  decide (y.vecs ≤ 2048) && decide (1 ≤ y.whbm) && decide (1 ≤ y.wspan) &&
  (y.wdlog == 0 || (decide (20 ≤ y.wdlog) && decide (y.wdlog ≤ 40))) &&
  ((rangeFrom 41 3) ++ rangeFrom 52 76).all fun k => y.byte k == 0

/-- Does a range lie in one enabled mailbox window whose port works (log entry 38)? -/
def State.oneWindow (s : State) (a n : Nat) : Bool :=
  match s.paKind a, s.paKind (a + n - 1) with
  | .window p, .window q => p == q && (s.hostPort p).recovery.isNone
  | _, _ => false

/-- An entry of the queue table, if it is legal. -/
def State.queueEntry (s : State) (y : Partition) (k : Nat) : Option PQueue :=
  let a := y.qtab + 16 * k
  let qb := s.rdNat a 8
  let lg := s.rdNat (a + 8) 1
  if 1 ≤ lg ∧ lg ≤ 16 ∧ s.rdNat (a + 9) 7 = 0 ∧ qb % 256 = 0 ∧ s.oneWindow qb (256 * (2 ^ lg + 1)) = true then
    some { qb, slots := 2 ^ lg, head := 0, drops := 0, lastDrop := 0, waited := 0, handles := [] }
  else none

/-- The CTXMAX sums of the dies of a new partition stay within the Cocoon. -/
def State.cocoonFits (s : State) (p : Nat) : Bool :=
  let y := s.partn p
  y.dies.all fun d =>
    let l := (s.sharers p).filter fun e => e.2.hasDie d
    let all : AMap Partition := (p, y) :: l
    let lat : Nat := ((all.filter fun e => e.2.qos == 0).map fun e => e.2.ctxmax).sum
    let most : Nat := ((all.filter fun e => e.2.qos != 0).map fun e => e.2.ctxmax).foldl max 0
    decide (lat + most ≤ 256)

/-- The queues a CREATE finds, or nothing when it is refused. -/
def State.createQueues (s : State) (p : Nat) : Option (List PQueue) :=
  let y := s.partn p
  let qs := (List.range y.qcnt).map fun k => s.queueEntry y k
  if !y.inRange || y.diemask == 0 || y.dies.any (fun d => (s.die d).fenced) || !s.oneWindow y.qtab (16 * y.qcnt) ||
      qs.any Option.isNone || (y.qos == 0 && y.ctxmax == 0) || !s.cocoonFits p || (!s.pkg.virt && !(s.sharers p).isEmpty) then none
  else some (qs.filterMap id)

/-- A queue's control line and stamps are written as 0. -/
def State.initQueue (s : State) (q : PQueue) : State :=
  (List.range q.slots).foldl (fun (s : State) n => s.engineWrite (q.qb + 256 * (n + 1) + 248) (bytesOfNat 8 0))
    (s.engineWrite q.qb (List.replicate 256 0))

/-- The master of a partition: its lowest die that is not fenced (R328). -/
def State.masterOf (s : State) (y : Partition) : Nat := (y.dies.find? fun d => !(s.die d).fenced).getD 0

/-- CREATE: a configuration that passes is taken, its queues are written, and queue 0 has the first turn (R319, R329, R348; log entry 3). -/
def State.pctlCreate (s : State) (p : Nat) : Option State :=
  let y := s.partn p
  if 16 ≤ p || y.state != .free || s.boot.step != 6 || s.boot.recovery then none
  else match s.createQueues p with
    | none => some (s.modPart p fun y => { y with badcfg := true })
    | some qs =>
      let s := qs.foldl (fun (s : State) q => s.initQueue q) s
      let queues : AMap PQueue := qs.zipIdx.map fun e => (e.2, e.1)
      some (s.modPart p fun y =>
        { y with state := .swapped, badcfg := false, queues, lbuf := [], ctxs := [], swapReq := false, resetting := false, since := 0,
                 lastServed := y.qcnt - 1, snapuse := [], master := s.masterOf y,
                 wakeAt := if y.wakepend then some s.time else none })

def execPctlCreate (p : Nat) : State → Host.Outcome State Fault Refusal := runEvent fun s => s.pctlCreate p

/-! ### PCTL_KILL, FUNCTION_LEVEL_RESET, KILL_COMPLETE (R354, R355, R360, R364) -/

/-- The writes in flight that two tests pick land or are dropped, as the free choice falls (R355 step 4, R401, R405). -/
def State.landSome (s : State) (mine : MemOp → Bool) (tile : Nat → TileOp → Bool) : State :=
  let s := (s.ops.filter fun e => mine e.2).foldl (fun (s : State) e =>
    let land : Bool := s.freeBit
    if land then (s.used 1).performNow e.1 else { s.used 1 with ops := s.ops.erase e.1 }) s
  s.cores.foldl (fun (s : State) c => (c.2.tops.filter fun o => tile c.1 o).foldl (fun (s : State) o =>
    let land : Bool := s.freeBit
    if land then ((s.used 1).tileEnd c.1 o.id false).getD (s.used 1) else s.used 1) s) s

/-- The debugger's state of the clusters stopped for a killed partition, and the units that name it (R360, R364). -/
def State.debugKill (s : State) (p : Nat) : State :=
  let disarm : WatchUnit → WatchUnit := fun w => if natField w.ctl.toNat 12 4 = p then { w with ctl := w.ctl &&& ~~~1#64 } else w
  { s with clusters := s.clusters.mapVals fun _ c =>
      let c := { c with wu := c.wu.mapVals fun _ w => disarm w }
      if c.stopParts.contains p then
        { c with stopping := false, stopped := false, stepst := .none, stepping := false, stepLane := none, stopParts := [], stoprec := 0 }
      else c }

/-- A core without the operations of a partition. -/
def Core.dropPart (c : Core) (p : Nat) : Core :=
  let zs := (c.mma.filter fun m => m.part == p).map fun m => m.zt.val
  { c with mma := c.mma.filter (fun m => m.part != p), tops := c.tops.filter (fun t => t.part != p),
           tok := zs.foldl (fun m z => m.set z .free) c.tok }

/-- Steps 1 to 3: groups, copies, contexts and the launch buffer go, GEN rises (log entry 43). Of a FREE partition a reset discards what its
virtual function holds pending (R354). -/
def State.killStart (s : State) (p : Nat) (reset : Bool) : Option State :=
  match (s.partn p).state with
  | .free => if reset then some ((s.debugKill p).modPart p fun y => { y with wakepend := false, wakeAt := none, msixPend := [] }) else none
  | .killing => some ((s.debugKill p).modPart p fun y => { y with resetting := y.resetting || reset })
  | .resident | .saving | .swapped | .restoring =>
    let s := s.debugKill p
    let s := s.landSome (fun o => o.part == p) (fun _ o => o.part == p)
    let s := (AMap.keys (s.ofPart p)).foldl (fun (s : State) g => s.discardGroup g) s
    let mine := fun (l : Nat) => match s.launch? l with
      | some x => x.part == p
      | none => false
    let s := { s with crews := s.crews.filter (fun e => !mine e.2.launch), copies := s.copies.filter (fun e => e.2.part != p),
                      ops := s.ops.filter (fun e => e.2.part != p),
                      cores := s.cores.mapVals (fun _ c => c.dropPart p),
                      dies := s.dies.mapVals fun _ d => { d with handles := d.handles.filter fun e => e.part != p } }
    some (s.modPart p fun y =>
      { y with state := .killing, gen := y.gen + 1, lbuf := [], ctxs := [], swapReq := false, resetting := reset })

def execPctlKill (p : Nat) : State → Host.Outcome State Fault Refusal := runEvent fun s => s.killStart p false
def execFunctionLevelReset (p : Nat) : State → Host.Outcome State Fault Refusal := runEvent fun s => s.killStart p true

/-- A killed launch that is not DONE: its record says KILLED, or after a reset it ends without one. -/
def State.killLaunch (s : State) (reset : Bool) (l : Nat) : State :=
  let s := s.modLaunch l fun x => { x with reason := some .killed, fault := none, dealt := [] }
  if reset then
    match s.launch? l with
    | some x => s.launchDone l x
    | none => s
  else s.writeRecord l

/-- Cached translations of a partition that a test picks are dropped everywhere. -/
def State.dropTlb (s : State) (gone : TlbEntry → Bool) : State :=
  { s with cores := s.cores.mapVals fun _ c => { c with tlb := c.tlb.filter fun e => !gone e },
           clusters := s.clusters.mapVals fun _ c => { c with tlb := c.tlb.filter fun e => !gone e },
           dies := s.dies.mapVals fun _ d => { d with tlb := d.tlb.filter fun e => !gone e } }

/-- The same for what walk caches hold. -/
def State.dropWalks (s : State) (gone : WalkEntry → Bool) : State :=
  { s with dies := s.dies.mapVals fun _ d => { d with walks := d.walks.filter fun e => !gone e } }

/-- Steps 5 and 6. -/
def State.killComplete (s : State) (p : Nat) : Option State :=
  let y := s.partn p
  if y.state != .killing then none
  else
    let ls := AMap.keys (s.launches.filter fun e => e.2.part == p && e.2.state != .done)
    let s := ls.foldl (fun (s : State) l => s.killLaunch y.resetting l) s
    let s := (s.dropTlb fun e => e.part == p).dropWalks fun e => e.part == p
    let s := s.modPart p fun y =>
      { y with state := .free, killdone := true, queues := [], snapuse := [], resetting := false,
               wakepend := y.wakepend && !y.resetting, wakeAt := none, msixPend := if y.resetting then [] else y.msixPend }
    some (if y.resetting then { s with msgs := s.msgs ++ [{ port := y.port, vf := none, vec := 1 + p }] } else s)

def execKillComplete (p : Nat) : State → Host.Outcome State Fault Refusal := runEvent fun s => s.killComplete p

/-! ### Swapping out (R311, R312, R345, R349, R364, R382) -/

/-- A swap-out waits for a stopped cluster and for a replay. -/
def State.swapBlocked (s : State) (p : Nat) : Bool :=
  s.clusters.any (fun e => e.2.stopParts.contains p) ||
  s.launches.any fun e => e.2.part == p && e.2.state == .replaying

def State.startSave (s : State) (p : Nat) : State := s.modPart p fun y => { y with state := .saving, swapReq := false }

/-- Nothing wakes before bring-up is complete (R409). -/
def State.pctlWake (s : State) (p : Nat) : Option State := if s.boot.step != 6 || s.boot.recovery then none else some (s.wake p)
def execPctlWake (p : Nat) : State → Host.Outcome State Fault Refusal := runEvent fun s => s.pctlWake p

/-- PCTL.SWAPOUT ends the partition's slice (R345); while the swap-out is deferred, the request stands. -/
def State.pctlSwapout (s : State) (p : Nat) : Option State :=
  if (s.partn p).state != .resident then none
  else some (if s.swapBlocked p then s.modPart p fun y => { y with swapReq := true } else s.startSave p)

def execPctlSwapout (p : Nat) : State → Host.Outcome State Fault Refusal := runEvent fun s => s.pctlSwapout p

/-- Does a sharer of a class have work? -/
def State.rival (s : State) (p : Nat) (qos : Nat → Bool) : Bool :=
  (s.sharers p).any fun e => qos e.2.qos && s.hasWork e.1

/-- The end of a slice: by the class of the partition, and at once for one that goes first (R345; log entry 37). -/
def State.sliceOver (s : State) (p : Nat) : Bool :=
  let y := s.partn p
  y.swapReq ||
  (match y.qos with
  | 0 => false
  | 1 => (decide (y.since + y.tslice * 1000 * 17 ≤ s.time) && s.rival p (· == 1)) || s.rival p (· == 0) ||
      (!s.hasWork p && s.rival p (· == 2))
  | _ => s.rival p fun _ => true)

def State.tsliceExpiry (s : State) (p : Nat) : Option State :=
  if (s.partn p).state != .resident || s.swapBlocked p || !s.sliceOver p then none else some (s.startSave p)

def execTsliceExpiry (p : Nat) : State → Host.Outcome State Fault Refusal := runEvent fun s => s.tsliceExpiry p

/-- A LATENCY partition has had no work for 100 µs, and another has. -/
def State.latencyIdleExpiry (s : State) (p : Nat) : Option State :=
  let y := s.partn p
  if y.state != .resident || y.qos != 0 || s.swapBlocked p || s.hasWork p || decide (s.time < y.since + 100000 * 17) ||
      !s.rival p (fun _ => true) then none
  else some (s.startSave p)

def execLatencyIdleExpiry (p : Nat) : State → Host.Outcome State Fault Refusal :=
  runEvent fun s => s.latencyIdleExpiry p

/-! ### Saving (R198, R229, R249, R306, R312, R349 to R351) -/

/-- Does a gang stall at a word that a save cuts short: TACQ, TREL, or a LAUNCH that waits for a buffer place (R229)? -/
def State.cutAt (s : State) (k : Nat) (gang : Gang) : Bool :=
  match (gang.clause.words[gang.ix]?).map decode with
  | some (.ok (.tacq h y va)) => s.stays k gang (execTacq h y va)
  | some (.ok (.trel h y va)) => s.stays k gang (execTrel h y va)
  | some (.ok (.launch h va q hd)) => s.stays k gang (execLaunch h va q hd)
  | _ => false

/-- Does a gang hold a thread of these groups? -/
def Gang.holdsAny (g : Gang) (gs : List Nat) : Bool := g.lanes.any fun l => gs.contains l.g

/-- Has a copy come to where a save may take it: ended, or stopped with more than 64 KiB to write (R306)? -/
def CopyOp.settled (c : CopyOp) : Bool := c.ended || (!c.cancel && c.ahead.isEmpty && decide (65536 < c.len - c.off))

/-- Does a fence rebuild no home of the context area of some dies of a partition (R402)? -/
def State.areasOpen (s : State) (p : Nat) (dies : List Nat) : Bool :=
  dies.all fun d =>
    let a := (s.partn p).share d
    (rangeFrom (a.1 / granuleBytes) ((a.1 + a.2) / granuleBytes - a.1 / granuleBytes + 1)).all fun k => !s.lostHomes.contains (k % 256)

/-- Is everything in flight that must complete before the save complete? -/
def State.saveReady (s : State) (p : Nat) : Bool :=
  let gs := AMap.keys (s.ofPart p)
  let inside := fun (g : Nat) => gs.contains g
  (s.gangs.all fun e => !e.2.holdsAny gs || s.cutAt e.1 e.2) && (s.ops.all fun e => !(e.2.part == p && e.2.live)) &&
  (s.cores.all fun e => (e.2.mma.all fun o => o.part != p) && (e.2.tops.all fun o => o.part != p) &&
    e.2.commits.all fun l => !inside l.g) &&
  (s.sectors.all fun e => e.2.stale.isEmpty && e.2.l2stale.isEmpty) && (s.copies.all fun e => e.2.part != p || e.2.settled) && !s.swapBlocked p &&
  (s.ofPart p).all (fun e => !s.winsWait e.1 e.2) && s.areasOpen p (s.partn p).dies

/-- The windows of a group: record, mode, offset. -/
def State.windowsOf (s : State) (g : Nat) (x : Group) : List (Nat × Bool × Nat) :=
  ((s.core x.core).wins.filter fun e => e.2.g == g).map fun e => (e.2.bd, e.2.coh, e.2.off)

/-- What the save leaves of a thread: a held one, or one of a gang that is cut short, executes its word again, and a cut one keeps what it has
issued of its clause (R73, R74, R249). An arrival at BAR stays counted (R198). -/
def Thread.preempted (cut : Option (List Nat × Bool)) (th : Thread) : Thread :=
  let atBar := (th.hold.map fun h => h.kind) == some .bar
  { th with q := [], mid := th.mid || th.hold.isSome || cut.isSome, hold := none, behind := [],
            barAt := if atBar then some (th.pc, false) else th.barAt,
            sofar := cut.elim th.sofar Prod.fst, sofarYld := cut.elim th.sofarYld Prod.snd }

/-- A group is pre-empted where it stands (R312). -/
def State.preempt (s : State) (g : Nat) : State :=
  match s.group? g with
  | none => s
  | some x =>
    let cut := ((s.gangs.map fun e => e.2.lanes).flatten.filter fun l => l.g == g).map fun l => (l.key, s.clauseSoFar l)
    let open' := (x.live.filter fun e => e.2.region.isSome).map fun e => ({ g, t := e.1, sh := false } : Lane)
    let s := if open'.isEmpty then s else s.regionAbort open' 5 none
    let ws := (s.core x.core).wins.filter fun e => e.2.g == g
    let s := ws.foldl (fun (s : State) e => (s.winFlush x.core e.1).winDrop x.core e.1) s
    let s := { s with gangs := s.gangs.filter fun e => !e.2.holdsAny [g] }
    s.modGroup g fun x =>
      { x with fslot := none, paths := [], wd := 0, ser := false, rounds := [], slice := { x.slice with running := false, clause := none },
               threads := x.threads.mapVals fun k th => th.preempted ((cut.find? fun e => e.1 == k).map Prod.snd) }

/-- The tiles a group holds (R229). -/
def State.heldTiles (s : State) (g : Nat) (x : Group) : List SavedTile :=
  let c := s.core x.core
  ((List.range 16).filter fun k => c.token k == .group g).map fun k =>
    { y := decide (8 ≤ k), tn := ⟨k % 8, Nat.mod_lt _ (by decide)⟩, z := c.ztile (k % 8), yt := c.ytile (k % 8) }

/-- Places each group's image behind the one before. -/
def State.imagesFrom (s : State) : Nat → List SavedGroup → List SavedGroup
  | _, [] => []
  | o, x :: r => { x with off := o } :: s.imagesFrom (o + (groupImage (s.savedRec x) x).length) r

/-- The context of one die. -/
def State.ctxOf (s : State) (p die : Nat) (ws : AMap (List (Nat × Bool × Nat))) : Context :=
  let gs := sortBy (fun a b => decide (a.2.gid ≤ b.2.gid)) (s.partGroups p die)
  let groups := gs.map fun e =>
    ({ group := e.2.asPrimaries, off := 0, tiles := s.heldTiles e.1 e.2 ++ e.2.owed, windows := ws.get [] e.1 } : SavedGroup)
  let cidOf : Nat → Nat := fun k => ((s.crew? k).map fun c => c.cid).getD 0
  let crews := sortBy (fun a b => decide (cidOf a ≤ cidOf b)) (crewsOf gs)
  let copies := AMap.keys (s.copies.filter fun e => e.2.part == p && e.2.die == die && !e.2.ended)
  let size := s.contextBytes p die
  let c : Context := { die, base := ((s.partn p).share die).1, size, cocoon := s.inCocoon p die size, crews, groups, copies }
  { c with groups := s.imagesFrom (s.ctxHead p c).length groups }

/-- A window is mapped again at its offset and in its mode (R192). -/
def State.remap (s : State) (g : Nat) (w : Nat × Bool × Nat) : State :=
  let x := s.grp g
  let r := x.brec w.1
  if !recStash r then s
  else
    let free := ((List.range 1024).find? fun n => !(s.core x.core).wins.keys.contains n).getD 0
    let win : Window := { g, bd := w.1, va := recBase r, off := w.2.2, len := recExtent r, coh := w.2.1, sectors := [] }
    s.modCore x.core fun c => { c with wins := c.wins.set free win }

/-- A restored group begins again: B1 and B2, windows, the slice from its start (R190, R254, R352). -/
def State.resume (s : State) (g : Nat) (ws : List (Nat × Bool × Nat)) : State :=
  match s.group? g, s.recOf g with
  | some x, some r =>
    let (itb, ite) := match s.crew? x.crew with
      | some c => (c.itb, c.ite)
      | none => (0, 0)
    let b := r.windows x.idx
    let cps := fun (k : Nat) => (s.copies.filter fun e => e.2.counted && e.2.lane.g == g && e.2.lane.key == k % 64).length
    let s := s.modGroup g fun x =>
      { x with b := (x.b.set 1 b.1).set 2 b.2, slice := sliceStart r x.gid x.cid itb ite,
               threads := x.threads.mapVals fun k th => { th with drop := th.pops, cp := min th.cp (cps k) } }
    (ws.foldl (fun (s : State) w => s.remap g w) s).fitPool x.core
  | _, _ => s

/-- Open rounds and unpaired deposits of a partition's crews are discarded (R164). -/
def State.dropSlots (s : State) (p : Nat) : State :=
  { s with crews := s.crews.mapVals fun _ c => match s.launch? c.launch with
      | some x => if x.part = p then { c with slots := [] } else c
      | none => c }

/-- The contexts stand in their places: the groups leave the cores. -/
def State.storeContexts (s : State) (p : Nat) (cs : List Context) : State :=
  let s := cs.foldl (fun (s : State) c => if c.cocoon then s
    else s.engineWrite c.base (s.ctxImage p c)) s
  let s := (s.ofPart p).foldl (fun (s : State) e => s.modCore e.2.core fun c => c.freeTokens e.1) s
  let s := { s with groups := s.groups.filter (fun e => e.2.part != p),
                    copies := s.copies.mapVals fun _ c => if c.part = p ∧ !c.ended then { c with st := .queued } else c }
  s.modPart p fun y => { y with state := .swapped, ctxs := cs, since := s.time }

/-- The die contexts are stored, or one is refused and the partition stays RESIDENT (R351; log entry 26). -/
def State.saveComplete (s : State) (p : Nat) : Option State :=
  let y := s.partn p
  if y.state != .saving || !s.saveReady p then none
  else
    let gs := AMap.keys (s.ofPart p)
    let ws : AMap (List (Nat × Bool × Nat)) := (s.ofPart p).map fun e => (e.1, s.windowsOf e.1 e.2)
    let s := (gs.foldl (fun (s : State) g => s.preempt g) s).dropSlots p
    let cs := y.dies.map fun d => s.ctxOf p d ws
    let refused := cs.any fun c => !c.cocoon && decide ((y.share c.die).2 < c.size)
    some (if refused then
      (gs.foldl (fun (s : State) g => s.resume g (ws.get [] g)) s).modPart p fun y =>
        { y with state := .resident, ctxfull := true, wakepend := false, wakeAt := none }
    else s.storeContexts p cs)

def execSaveComplete (p : Nat) : State → Host.Outcome State Fault Refusal := runEvent fun s => s.saveComplete p

/-! ### SWAP_IN and RESTORE_COMPLETE (R345, R348, R352, R353) -/

/-- Is another partition on the dies, or leaving or entering them? -/
def State.diesTaken (s : State) (p : Nat) : Bool :=
  (s.sharers p).any fun e => e.2.state == .resident || e.2.state == .saving || e.2.state == .restoring

/-- May a partition come in now, by its class (R345; log entry 37)? -/
def State.mayEnter (s : State) (p : Nat) : Bool :=
  let y := s.partn p
  match y.qos with
  | 0 => s.hasWork p
  | 1 => s.hasWork p && !s.rival p (· == 0) && (s.sharers p).all fun e => e.2.qos != 1 || !s.hasWork e.1 ||
      decide (y.since < e.2.since) || (y.since == e.2.since && decide (p < e.1)) || e.2.state != .swapped
  | _ => !s.rival p fun _ => true

def State.swapIn (s : State) (p : Nat) : Option State :=
  if (s.partn p).state != .swapped || s.diesTaken p || !s.mayEnter p then none
  else some (s.modPart p fun y => { y with state := .restoring })

def execSwapIn (p : Nat) : State → Host.Outcome State Fault Refusal := runEvent fun s => s.swapIn p

/-- The key of a saved group. -/
def State.savedKey (s : State) (x : SavedGroup) : Option Nat :=
  (s.crew? x.group.crew).bind fun c => c.groups[x.group.idx]?

/-- A saved group at a place. -/
def SavedGroup.onto (x : SavedGroup) (core slot : Nat) (at' : Nat × Nat × Nat) : Group :=
  { x.group with core, slot, quad := at'.1, row := at'.2.1, base := at'.2.2, owed := x.tiles }

/-- One saved group on a core of an instance; an empty core that holds another carve takes its launch's. -/
def State.restoreGroup (s : State) (cores : List Nat) (x : SavedGroup) : Option State :=
  match s.launch? x.group.launch, s.savedKey x with
  | some l, some key =>
    (s.putGroup l cores key fun core slot at' => x.onto core slot at') <|>
      ((s.byRoom cores).find? fun c => (s.groupsOn c).isEmpty && (s.core c).carve != some l.lrec.carve).bind fun c =>
        (s.modCore c fun k => { k with carve := some l.lrec.carve, mark := none }).putGroup l [c] key fun core slot at' => x.onto core slot at'
  | _, _ => none

/-- The groups of one crew on one die, in one instance of its scope. -/
def State.restoreCrew (s : State) (p die : Nat) (xs : List SavedGroup) : Option State :=
  match xs.head?.bind fun x => s.launch? x.group.launch with
  | none => some s
  | some l => (s.instancesByRoom (s.partn p) (min l.lrec.cscope 2) die).findSome? fun cores =>
      xs.foldl (fun (acc : Option State) x => acc.bind fun s => s.restoreGroup cores x) (some s)

/-- A saved group where it stood before. -/
def State.restoreThere (s : State) (x : SavedGroup) : State :=
  match s.launch? x.group.launch, s.savedKey x with
  | some l, some key =>
    let g := x.group
    let s := (s.enterCore g.core g.part).startCore g.core
    let s := s.modCore g.core fun c => { c with carve := some l.lrec.carve, mark := none }
    { s with groups := s.groups.set key (x.onto g.core g.slot (g.quad, g.row, g.base)) }
  | _, _ => s

/-- The groups of a partition on its dies, crews in increasing `%cid` (log entry 39). -/
def State.replace (s : State) (p : Nat) (cs : List Context) : State :=
  let crew := fun (c : Context) (k : Nat) => c.groups.filter fun x => x.group.crew == k
  let r := cs.foldl (fun (acc : Option State) c => c.crews.foldl (fun (acc : Option State) k =>
    acc.bind fun s => s.restoreCrew p c.die (crew c k)) acc) (some s)
  r.getD (cs.foldl (fun (s : State) c => c.groups.foldl (fun (s : State) x => s.restoreThere x) s) s)

/-- Threads that stand elsewhere than before stand inside a clause where no clause begins (R78). -/
def State.standAt (s : State) (old new : Group) : Group :=
  let inside := fun (pc : DWord) => (match (s.fetchCheck new.core new.part pc).1 with
    | .ok _ => false
    | .error _ => (match (s.clauseOf new.core new.part pc none).1 with
      | .ok _ => true
      | .error _ => false))
  { new with threads := new.threads.mapVals fun k th =>
      if (old.thread? k).any fun o => o.pc == th.pc then th else { th with mid := inside th.pc } }

/-- A context in HBM is read back: poison in it is consumed, and a group with a tag 0b11 is lost with its launch's reason
(R47, R375; log entry 39). -/
def State.readContext (s : State) (c : Context) : Context × List Nat × State :=
  if c.cocoon then (c, [], s)
  else
    let base := c.base
    let s := c.groups.foldl (fun (s : State) x =>
      if s.poisoned (base + x.off) (groupImage (s.savedRec x) x).length then
        ((s.consume c.die x.group.launch x.group.gid { (s.freeFault .poison) with kind := .load }).1).used 1
      else s) s
    let kept := c.groups.filter fun x => ((s.launch? x.group.launch).map fun l => l.state != .replaying).getD false
    let r := kept.map fun x =>
      let rec' := s.savedRec x
      (x, reread rec' x (s.rdN (base + x.off) (groupImage rec' x).length))
    ({ c with groups := r.map fun e => match e.2 with
        | some x => { x with group := s.standAt e.1.group x.group }
        | none => e.1 }, (r.filter fun e => e.2.isNone).filterMap fun e => s.savedKey e.1, s)

/-- A group whose context cannot be read ends, and its launch reports CONTEXT. -/
def State.contextLost (s : State) (g : Nat) : State :=
  let s := s.failLaunch (s.grp g).launch .context none
  (s.grp g).live.foldl (fun (s : State) e => s.exitThread { g, t := e.1, sh := false }) s

/-- The partition is RESIDENT again; a LATENCY partition late after its wake is counted (R353). -/
def State.arrive (s : State) (p : Nat) : State :=
  s.modPart p fun y =>
    let late := y.qos == 0 && (y.wakeAt.any fun t => decide (t + 20000 * 17 < s.time))
    { y with state := .resident, ctxs := [], wakepend := false, wakeAt := none, since := s.time,
             latmiss := if late then min 255 (y.latmiss + 1) else y.latmiss }

def State.restoreComplete (s : State) (p : Nat) : Option State :=
  let y := s.partn p
  let frozen := s.clusters.any fun e => (e.2.stopping || e.2.stopped) && y.dies.contains (e.1 / 4)
  if y.state != .restoring || frozen || !s.areasOpen p (y.ctxs.filterMap fun c => if c.cocoon then none else some c.die) then none
  else
    let (cs, lost, s) := y.ctxs.foldl (fun (acc : List Context × List Nat × State) c =>
      let (c, l, s) := acc.2.2.readContext c
      (acc.1 ++ [c], acc.2.1 ++ l, s)) ([], [], s)
    let s := s.replace p cs
    let s := cs.foldl (fun (s : State) c => c.groups.foldl (fun (s : State) x => match s.savedKey x with
      | some g => s.resume g x.windows
      | none => s) s) s
    let s := lost.foldl (fun (s : State) g => s.contextLost g) s
    some ((y.dies.foldl (fun (s : State) d => s.stageDie d 8) s).arrive p)

def execRestoreComplete (p : Nat) : State → Host.Outcome State Fault Refusal := runEvent fun s => s.restoreComplete p

/-! ### TLBINV (R341) -/

/-- A page number as TLBINVA numbers pages, bits 63 to 57 being copies of bit 56 (R335, R341). -/
def pageNo (vpn : Nat) : Nat := if natBit vpn 44 then vpn + (2 ^ 52 - 2 ^ 45) else vpn

/-- Does the range of an invalidation meet a run of pages? -/
def Partition.tlbMeets (y : Partition) (vpn n : Nat) : Bool :=
  let lo := y.tlbinva.toNat / 4096
  y.tlbAll || (decide (pageNo vpn < lo + y.tlbN) && decide (lo < pageNo vpn + n) && decide (0 < y.tlbN))

/-- Is a page of the partition hit? -/
def Partition.hits (y : Partition) (vpn : Nat) : Bool := y.tlbMeets vpn 1

/-- Does a page of the range lie in a cached translation? -/
def Partition.covers (y : Partition) (e : TlbEntry) : Bool := y.tlbMeets (e.vpn / e.span * e.span) e.span

/-- Does a page of the range lie below a cached upper entry? -/
def Partition.coversWalk (y : Partition) (w : WalkEntry) : Bool := y.tlbMeets (w.top % 512 ^ (5 - w.lev) * 512 ^ w.lev) (512 ^ w.lev)

def vaPage (va : DWord) : Nat := natField va.toNat 12 45

/-- A write of TLBINVC: its fields, and with BUSY the start of an invalidation; ignored while one runs. -/
def State.tlbinvWrite (s : State) (p : Nat) (val : DWord) : State :=
  if (s.partn p).tlbBusy then s
  else s.modPart p fun y => { y with tlbBusy := val.getLsbD 63, tlbAll := val.getLsbD 62, tlbN := natField val.toNat 0 45 }

def State.tlbinvStart (s : State) (p : Nat) (val : DWord) : Option State :=
  if !val.getLsbD 63 || (s.partn p).tlbBusy || s.boot.step != 6 || s.boot.recovery then none else some (s.tlbinvWrite p val)

def execTlbinvStart (p : Nat) (val : DWord) : State → Host.Outcome State Fault Refusal :=
  runEvent fun s => s.tlbinvStart p val

/-- The first recorded address of a region in the range, in recording order, with its direction. -/
def Region.inRange (r : Region) (y : Partition) : Option (DWord × AccKind) :=
  let far := fun (va : DWord) => (aperOff va).isNone && y.hits (vaPage va)
  match r.inputs.find? (fun x => far x.va), r.stores.find? fun x => far x.va with
  | some i, some t => some (if t.nth < i.nth then (t.va, .store) else (i.va, .load))
  | some i, none => some (i.va, .load)
  | none, some t => some (t.va, .store)
  | none, none => none

/-- The open regions of a partition that hold a translation of the range. -/
def State.regionsIn (s : State) (p : Nat) : List (Lane × Thread × DWord × AccKind) :=
  let y := s.partn p
  ((s.ofPart p).map fun e => e.2.live.filterMap fun t => (t.2.region.bind fun r => r.inRange y).map fun a =>
    (({ g := e.1, t := t.1, sh := false } : Lane), t.2, a)).flatten

def Thread.committing (th : Thread) : Bool := match th.hold with
  | some h => h.kind == .commit
  | none => false

/-- Is a translation of the range still held by an access, a tile operation, an MMA or an issued commit (log entry 44)? -/
def State.heldIn (s : State) (p : Nat) : Bool :=
  let y := s.partn p
  let known := ((s.cores.map fun c => c.2.tlb) ++ (s.clusters.map fun c => c.2.tlb) ++ s.dies.map fun d => d.2.tlb).flatten
  let large := known.filter fun e => e.part == p && decide (1 < e.span) && y.covers e
  let hit := fun (va : DWord) => (aperOff va).isNone &&
    (y.hits (vaPage va) || large.any fun e => e.vpn / e.span == vaPage va / e.span)
  (s.ops.any fun e => e.2.part == p && e.2.live && hit e.2.va) ||
  (s.cores.any fun e => (e.2.tops.any fun o => o.part == p && o.places.any fun t => hit t.2.va) ||
    (e.2.mma.any fun o => o.part == p && o.places.any fun t => hit t.2.va)) ||
  (s.regionsIn p).any fun e => e.2.1.committing

/-- The launches of a partition that are not DONE and whose CREC lies in the range: the engine holds its translation (R324, R383). -/
def State.recordsIn (s : State) (p : Nat) : List Nat :=
  AMap.keys (s.launches.filter fun e => e.2.part == p && e.2.state != .done && (s.partn p).hits (vaPage e.2.lrec.crec))

/-- Does such a translation have nothing to take its place? The record is written to the old page first (log entry 23). -/
def State.recordHeld (s : State) (p : Nat) : Bool :=
  (s.recordsIn p).any fun l => match s.launch? l with
    | some x => (s.crecPlace p x.lrec.crec).1.isNone
    | none => false

/-- The engine takes the translations anew. -/
def State.recordsMove (s : State) (p : Nat) : State :=
  (s.recordsIn p).foldl (fun (s : State) l => match s.launch? l with
    | some x => match s.crecPlace p x.lrec.crec with
      | (some pa, s) => s.modLaunch l fun x => { x with crecPa := pa }
      | (none, s) => s
    | none => s) s

def State.tlbinvDone (s : State) (p : Nat) : Option State :=
  let y := s.partn p
  let dropped := fun (s : State) => (s.dropTlb fun e => e.part == p && y.covers e).dropWalks fun e => e.part == p && y.coversWalk e
  if !y.tlbBusy || s.heldIn p || (dropped s).recordHeld p then none
  else
    let s := (s.regionsIn p).foldl (fun (s : State) e =>
      s.regionAbort [e.1] 6 (some { cause := .pageFault, kind := e.2.2.2, addr := e.2.2.1 })) s
    some (((dropped s).recordsMove p).modPart p fun y => { y with tlbBusy := false })

def execTlbinvDone (p : Nat) : State → Host.Outcome State Fault Refusal := runEvent fun s => s.tlbinvDone p

/-! ### MBXBASE_WRITE (R357) and ERRREC_READ (R386) -/

/-- The cached sectors of a port's window are written back and invalidated. -/
def State.windowFlush (s : State) (port : Nat) : State :=
  let secs := AMap.keys (s.sectors.filter fun e => s.paKind (64 * e.1) == .window port)
  secs.foldl (fun (s : State) k => (s.cleanSector .sys 0 k).invSector .sys 0 k) s

/-- A write that would move an enabled window is ignored whole (R357; log entry 45). -/
def State.mbxbaseWrite (s : State) (port : Nat) (val : DWord) : Option State :=
  if 2 ≤ port || s.boot.step != 6 || s.boot.recovery then none
  else
    let old := (s.hostPort port).mbxbase
    let new := val &&& 0x0003_FFFF_F000_0001#64
    if old.getLsbD 0 && (old ||| 1) != (new ||| 1) then none
    else
      let s := if old.getLsbD 0 && !new.getLsbD 0 then s.windowFlush port else s
      some (s.modHost port fun h => { h with mbxbase := new })

def execMbxbaseWrite (port : Nat) (val : DWord) : State → Host.Outcome State Fault Refusal :=
  runEvent fun s => s.mbxbaseWrite port val

/-- A read of the error record clears VALID and OVF; a fenced die's block reads as zero and keeps them (R397). -/
def State.errrecRead (s : State) (die : Nat) : Option State :=
  if (s.die die).fenced then none else some (s.modDie die fun d => { d with errrec := d.errrec &&& ~~~3#128 })

def execErrrecRead (die : Nat) : State → Host.Outcome State Fault Refusal := runEvent fun s => s.errrecRead die

end Sys2Proof.Machine
end

