-- ==== Sys2Proof/Machine/EvDebug.lean ====
section
/-! DEFINITION. Events of the debugger (R359 to R371): stopping, freezing, stepping and resuming a cluster. -/

namespace Sys2Proof.Machine

open Sys2Proof

/-! ### DBG_STOP and CLUSTER_FROZEN (R359, R362, R363) -/

/-- Is a debug partition on the die of a cluster (R359)? -/
def State.debugOn (s : State) (clu : Nat) : Bool := !(s.debugParts clu).isEmpty

/-- A stop by DBGCTL.STOP: what its record says of a thread and an access is not stated (log entry 40). -/
def State.dbgStop (s : State) (clu : Nat) : Option State :=
  let c := s.cluster clu
  if 64 ≤ clu || c.stopping || c.stopped || !s.debugOn clu then none
  else
    let w := Config.freeValue (s.free + 1)
    let s1 := s.trigger clu 0 s.freeWord (natField w.toNat 0 32) (natField w.toNat 32 6)
      (natField w.toNat 38 7) (natField w.toNat 45 3) 5 17
    some (s1.used 2)

def execDbgStop (c : Nat) : State → Host.Outcome State Fault Refusal := runEvent fun s => s.dbgStop c

/-- Does a gang run on a cluster? -/
def Gang.onCluster (g : Gang) (clu : Nat) : Bool := coreCluster (g.quad / 4) == clu

/-- Every gang of the cluster has finished its clause. -/
def State.clusterFrozen (s : State) (clu : Nat) : Option State :=
  let c := s.cluster clu
  if !c.stopping || c.stopped || s.gangs.any (fun e => e.2.onCluster clu) then none
  else some (s.modCluster clu fun c => { c with stopped := true, dbgctl := c.dbgctl &&& ~~~2#64 })

def execClusterFrozen (c : Nat) : State → Host.Outcome State Fault Refusal := runEvent fun s => s.clusterFrozen c

/-! ### DBG_STEP (R368, R369) -/

/-- The thread DBGCTL names. -/
def State.stepTarget (s : State) (clu : Nat) : Option Lane :=
  let d := (s.cluster clu).dbgctl.toNat
  let core := clu / 4 * 96 + natField d 16 7
  let col := natField d 32 6
  if coreCluster core != clu then none
  else (s.groups.first fun e => e.2.core == core && e.2.quad == natField d 24 2 && e.2.row == natField d 26 3 &&
    decide (e.2.base ≤ col) && decide (col < e.2.base + e.2.cols)).map fun e =>
      { g := e.1, t := if e.2.prot then (col - e.2.base) / 2 else col - e.2.base, sh := false }

/-- The step begins: it issues nothing for a held thread, waits for the header or the thread's commit, takes the fault of its
fetch, or starts a gang of one. -/
def State.stepBegin (s : State) (clu : Nat) (l : Lane) : State :=
  let th := s.thread l
  let g := s.grp l.g
  if !th.live then s.stepReport clu .notLive
  else if th.committing then s.stepReport clu .waitStall
  else if th.hold.isSome then s.stepReport clu (stepOutcome th th)
  else match (if th.mid then s.clauseOf g.core g.part th.pc th.clauseAddr else s.fetchFor l.g th.pc) with
    | (.error f, s) =>
      let s := (s.fetchFault l.g th.pc f l.t).modGroup l.g fun g => { g with stepped := true }
      s.stepReport clu (stepOutcome th (s.thread l))
    | (.ok c, s) =>
      match s.headerFault l c.hdr with
      | some f =>
        let s := (s.raiseAtHeader l th.pc f).modGroup l.g fun g => { g with stepped := true }
        s.stepReport clu (stepOutcome th (s.thread l))
      | none =>
        if !th.mid && Header.waitsFor c.hdr th then s.stepReport clu .waitStall
        else
          let ix := match c.indexOf th.pc with
            | some (some i) => i
            | _ => 0
          (s.startGang (quadOf g) th.pc c ix true [l]).stepReport clu .waitStall

/-- Ignored while the cluster is not stopped or a step waits. -/
def State.dbgStep (s : State) (clu : Nat) : Option State :=
  let c := s.cluster clu
  if !c.stopped || c.stepping then none
  else
    let l := s.stepTarget clu
    let s := s.modCluster clu fun c => { c with stepLane := l }
    some (match l with
    | none => s.stepReport clu .notLive
    | some l => s.stepBegin clu l)

def execDbgStep (c : Nat) : State → Host.Outcome State Fault Refusal := runEvent fun s => s.dbgStep c

/-- The gang of a cluster's step, if it stands at its word. -/
def State.stepGang (s : State) (clu : Nat) : Option (Nat × Gang) := s.gangs.first fun e => e.2.step && e.2.onCluster clu

/-- A step that waited at its header begins once the header lets it. -/
def State.pumpStep (s : State) (clu : Nat) : State :=
  let c := s.cluster clu
  if !c.stopped || !c.stepping || (s.stepGang clu).isSome then s
  else match c.stepLane with
    | some l => s.stepBegin clu l
    | none => s

/-- A stepped thread that another releases while the cluster is stopped is DONE. -/
def State.stepReleased (s : State) (clu : Nat) : State :=
  let c := s.cluster clu
  match c.stepLane with
  | some l =>
    if c.stopped && (c.stepst == .waitBar || c.stepst == .waitOther) && (s.thread l).hold.isNone then s.stepReport clu .done else s
  | none => s

/-! ### DBG_CANCEL and DBG_RESUME (R365, R369, R370) -/

/-- A step that has not issued is withdrawn: its thread stands where it stood. A BLD, SMLD or SMST that has begun its accesses has
issued, and no CANCEL withdraws it (log entry 40). -/
def State.dbgCancel (s : State) (clu : Nat) : Option State :=
  let c := s.cluster clu
  if !c.stopped || !c.stepping || (s.stepGang clu).any (fun e => e.2.wip.isSome) then none
  else
    let s := match s.stepGang clu with
      | some (k, g) =>
        let back : Lane → Thread → Thread := fun l th =>
          if th.mid then { th with sofar := (g.ops.filter fun (o : Issued) => o.lane.g == l.g && o.lane.t == l.t).map (fun (o : Issued) => o.op), sofarYld := g.yld }
          else { th with pc := g.clause.addr }
        let s := g.lanes.foldl (fun (s : State) l => s.modThread l (back l)) s
        { s with gangs := s.gangs.erase k, cur := .none }
      | none => s
    some (s.stepReport clu .none)

def execDbgCancel (c : Nat) : State → Host.Outcome State Fault Refusal := runEvent fun s => s.dbgCancel c

/-- VALID and the group stop entries are cleared, and the groups issue again. -/
def State.dbgResume (s : State) (clu : Nat) : Option State :=
  let c := s.cluster clu
  if !c.stopped || c.stepping then none
  else
    let clear : Group → Group := fun g => if coreCluster g.core = clu then { g with skid := 0, stepped := false } else g
    let s := { s with groups := s.groups.mapVals fun _ g => clear g }
    some (s.modCluster clu fun c =>
      { c with stopped := false, stopping := false, stepLane := none, stopParts := [],
               stoprec := c.stoprec &&& ~~~1#256 })

def execDbgResume (c : Nat) : State → Host.Outcome State Fault Refusal := runEvent fun s => s.dbgResume c

end Sys2Proof.Machine
end

