-- ==== Sys2Proof/Machine/EvDie.lean ====
section
/-! DEFINITION. Events of dies (R401 to R406), heat and power (R407, R408), time (R398 to R400), bring-up and attestation (R409 to
R412), and writes to registers (R342, R347, R357, R359, R377, R397, R407, R408, R412). -/

namespace Sys2Proof.Machine

open Sys2Proof

/-! ### The home map (R403) -/

/-- Gives entries, rising, to the next die of the cycle that has count left. -/
def fillEntries : List Nat → List (Nat × Nat) → AMap Nat → AMap Nat
  | [], _, m => m
  | i :: r, q, m =>
    match q.dropWhile fun e => e.2 == 0 with
    | [] => m
    | (d, n) :: q' =>
      let skipped := q.takeWhile fun e => e.2 == 0
      fillEntries r (q' ++ skipped ++ [(d, n - 1)]) (m.set i d)

/-- The unfenced dies with their CORES. -/
def State.dieWeights (s : State) : List (Nat × Nat) :=
  ((List.range 16).filter fun d => !(s.die d).fenced && decide (0 < s.coresOf d)).map fun d => (d, s.coresOf d)

/-- These entries are dealt over the unfenced dies. -/
def State.dealHomes (s : State) (is : List Nat) : State :=
  { s with homemap := fillEntries is (dealShares is.length s.dieWeights) s.homemap }

/-! ### A fence (R401, R402, R404) -/

/-- The core is on the die. -/
def onDie (die core : Nat) : Bool := coreDie core == die

/-- Packets of a group on a lost die that a destination has accepted are performed, the others are dropped. -/
def State.fencePackets (s : State) (die : Nat) : State :=
  let s := s.landSome (fun o => onDie die o.core) (fun core _ => onDie die core)
  { s with ops := s.ops.filter fun e => !onDie die e.2.core,
           gangs := s.gangs.filter fun e => !onDie die (e.2.quad / 4),
           cur := .none }

/-- What the loss makes of one sector: its ownership or its dirty line was only on the die, in an L1, its L2 or its
memory-side cache, or a window there held it dirty. -/
def State.lostOn (s : State) (die sec : Nat) (x : Sector) : Bool :=
  let owner := x.owner
  let alive := (owner.any fun c => !onDie die c) || x.l2own.any fun d => d != die
  let here := (owner.any fun c => onDie die c) || x.l2own == some die || x.l2dirty == some die || (x.msc.isSome && s.home (64 * sec) == die)
  let win := match x.win with
    | some h => onDie die h.core && ((s.win? h.core h.w).bind fun y => y.sectors.find? h.k).any fun y => y.dirty
    | none => false
  (!alive && here) || win

/-- One sector after the loss: what the die held of it is gone, and where the ownership or the newest bytes were there it waits for the end of
the rebuild (R402; log entry 47). -/
def State.loseSector (s : State) (die sec : Nat) : State :=
  let x := s.sector sec
  let lost := s.lostOn die sec x
  let homed := s.home (64 * sec) == die
  let owned := (x.owner.any fun c => onDie die c) || x.l2own == some die || x.l2dirty == some die
  let s := (x.l1.keys.filter (onDie die)).foldl (fun (s : State) c => s.dropCopy c sec) s
  s.modSector sec fun y =>
    let z := { y with stale := y.stale.filter (fun e => !onDie die e.1),
                      below := if y.dirty then y.below else none,
                      l2dirty := if y.l2dirty = some die then none else y.l2dirty,
                      l2own := if y.l2own = some die then none else y.l2own,
                      l2s := y.l2s.filter (· != die), l2stale := y.l2stale.erase die,
                      mscHas := y.mscHas && !homed, msc := if homed then none else y.msc,
                      win := y.win.filter fun h => !onDie die h.core,
                      gone := if lost || owned then some (lost || y.gone.getD false) else y.gone }
    { z with dir := z.dirLeft }

/-- Copies on the die's engine stop: their handles fail with POISON at the lowest offset not delivered. -/
def State.loseCopies (s : State) (die : Nat) : State :=
  (s.copies.filter fun e => e.2.die == die && !e.2.ended).foldl (fun (s : State) e =>
    let f : FaultInfo := { cause := .poison, kind := .store, addr := e.2.dst + BitVec.ofNat 64 e.2.off }
    s.copyEnd e.1 e.2 (.failed f)) s

/-- The launches with a group on the die, in its core or in a context of it, or with a copy on its engine. -/
def State.markAffected (s : State) (die : Nat) : State :=
  let here := (s.groups.filter fun e => onDie die e.2.core).map fun e => e.2.launch
  let saved := (s.parts.map fun e => (e.2.ctxs.filter fun c => c.die == die).map fun c =>
    c.groups.map fun x => x.group.launch).flatten.flatten
  let copies := (s.copies.filter fun e => e.2.die == die && !e.2.ended).map fun e => e.2.launch
  let ls := here ++ saved ++ copies
  { s with launches := s.launches.mapVals fun k x => if ls.contains k then { x with affected := true } else x }

/-- A partition without the die: its DIEMASK bit, its master, its contexts there. -/
def State.partLoses (s : State) (die : Nat) (y : Partition) : Partition :=
  let y := { y with cfg := y.cfg.set 4 (y.word64 32 &&& ~~~(1#64 <<< die)),
                    ctxs := y.ctxs.filter fun c => c.die != die }
  { y with master := s.masterOf y }

/-- Dealt crews in increasing `%cid`, the order in which each unit admits its own (R330). -/
def byCid (l : List Dealt) : List Dealt := sortBy (fun a b => decide (a.cid ≤ b.cid)) l

/-- Crews dealt to a unit with no die left are dealt again (R330). -/
def State.redeal (s : State) : State :=
  (AMap.keys s.launches).foldl (fun (s : State) l => match s.launch? l with
    | none => s
    | some x =>
      let us := (s.units (s.partn x.part) x.lrec.cscope).map Prod.fst
      let lost := x.dealt.filter fun d => !us.contains d.unit
      if lost.isEmpty then s
      else
        let again := s.dealCrews x (lost.map fun d => d.cid)
        s.modLaunch l fun x => { x with dealt := byCid ((x.dealt.filter fun d => us.contains d.unit) ++ again) }) s

def sitesOf (m : BitVec 96) : Nat := ((List.range 96).filter m.getLsbD).length

/-- The fence of a die, and what Luna does within 20 µs of it (R402); fewer than 1,440 sites left are reported (R20). -/
def State.fence (s : State) (die : Nat) : State :=
  if (s.die die).fenced then s
  else
    let s := (s.markAffected die).fencePackets die
    let s := (AMap.keys s.sectors).foldl (fun (s : State) k => s.loseSector die k) s
    let s := s.loseCopies die
    let s := s.modDie die fun d =>
      { d with fenced := true, fencedAt := some s.time, sites := 0, stage := [], starts := [], tlb := [] }
    let s := { s with cores := s.cores.filter (fun e => !onDie die e.1),
                      clusters := s.clusters.filter (fun e => e.1 / 4 != die),
                      parts := s.parts.mapVals fun _ y => s.partLoses die y }
    let left := (List.range 256).filter fun i => s.homemap.get 0 i == die
    let sites := ((List.range 16).map fun d => sitesOf (s.die d).sites).sum
    let s := { s.dealHomes left with lostHomes := left ++ s.lostHomes,
                                     boot := { s.boot with degraded := s.boot.degraded || decide (sites < 1440) } }
    (s.redeal).ttabAll

/-- Luna's heartbeat to a die stays unanswered for 100 µs. -/
def State.heartbeatTimeout (s : State) (die : Nat) : Option State :=
  if 16 ≤ die || (s.die die).fenced || s.boot.step != 6 then none else some (s.fence die)

def execHeartbeatTimeout (die : Nat) : State → Host.Outcome State Fault Refusal := runEvent fun s => s.heartbeatTimeout die

/-! ### REBUILD_COMPLETE (R402, R405) -/

/-- Has a crew lost a group: one on a fenced die, or one whose context is gone? -/
def State.crewHurt (s : State) (c : Crew) : Bool :=
  let saved := fun (k : Nat) => s.parts.any fun e => e.2.ctxs.any fun x => x.groups.any fun g => s.savedKey g == some k
  c.groups.zipIdx.any fun e => !c.retired.contains e.2 && (match s.group? e.1 with
    | some g => (s.die (coreDie g.core)).fenced
    | none => !saved e.1)

/-- A crew of an idempotent launch is discarded whole, wherever its groups are. -/
def State.dropCrew (s : State) (k : Nat) : State :=
  match s.crew? k with
  | none => s
  | some c =>
    let s := s.landSome (fun o => c.groups.contains o.lane.g) (fun _ o => c.groups.contains o.g)
    let s := c.groups.foldl (fun (s : State) g => s.discardGroup g) s
    let drop : Context → Context := fun x => { x with crews := x.crews.filter (· != k), groups := x.groups.filter fun g => g.group.crew != k }
    { s with crews := s.crews.erase k,
             parts := s.parts.mapVals fun _ y => { y with ctxs := y.ctxs.map drop } }

/-- The crews of an idempotent launch are admitted again; where no instance left can hold one, it is marked FIT and admits no more (R405). -/
def State.reissue (s : State) (l : Nat) (hurt : List (Nat × Crew)) : State :=
  let s := hurt.foldl (fun (s : State) e => s.dropCrew e.1) s
  match s.launch? l with
  | none => s
  | some x =>
    if (s.instanceRoom x).all fun n => decide (n < x.lrec.gpc) then (s.failLaunch l .fit none).modLaunch l fun x => { x with dealt := [] }
    else
      let cids := sortBy (fun a b => decide (a ≤ b)) (hurt.map fun e => e.2.cid)
      let dealt := s.dealCrews x cids
      s.modLaunch l fun x => { x with dealt := byCid (x.dealt ++ dealt) }

/-- The lost groups of any other launch are over: their threads count as exited (log entry 41). -/
def State.endHurt (s : State) (k : Nat) : State :=
  match s.crew? k with
  | none => s
  | some c =>
    let gone := c.groups.zipIdx.filter fun e => !c.retired.contains e.2 && (match s.group? e.1 with
      | some g => (s.die (coreDie g.core)).fenced
      | none => !(s.parts.any fun y => y.2.ctxs.any fun x => x.groups.any fun g => s.savedKey g == some e.1))
    let ts := (gone.map fun e => rangeFrom (e.2 * c.width) c.width).flatten
    let s := gone.foldl (fun (s : State) e => s.discardGroup e.1) s
    s.modCrew k fun c => { c with exited := ts ++ c.exited, retired := gone.map Prod.snd ++ c.retired }

/-- Was a copy of the launch lost with its engine? -/
def State.copyLost (s : State) (l : Nat) : Bool := s.copies.any fun e => e.2.launch == l && (s.die e.2.die).fenced && (match e.2.st with
  | .failed f => f.cause == .poison && f.kind == .store
  | .queued | .moving | .complete => false)

/-- An affected launch is resolved. -/
def State.resolveLoss (s : State) (l : Nat) (x : Launch) : State :=
  let hurt : List (Nat × Crew) := s.crews.filter fun e => e.2.launch == l && s.crewHurt e.2
  let s := s.modLaunch l fun x => { x with affected := false }
  if x.state == .done || x.state == .replaying then s
  else if x.lrec.idem && !s.copyLost l then s.reissue l hurt
  else if x.replayable then s.replayStart l none
  else hurt.foldl (fun (s : State) e => s.endHurt e.1) (s.failLaunch l .uncorrected none)

/-- A partition with no die left: its launches are written with REASON 10, and it is FREE (log entry 47). -/
def State.orphan (s : State) (p : Nat) : State :=
  let ls := AMap.keys (s.launches.filter fun e => e.2.part == p && e.2.state != .done)
  let s := ls.foldl (fun (s : State) l =>
    let s := s.discardLaunch l
    (s.modLaunch l fun x => { x with reason := some .uncorrected, fault := none, dealt := [] }).writeRecord l) s
  s.modPart p fun y => { y with state := .free, queues := [], lbuf := [], ctxs := [], snapuse := [] }

/-- The rebuild is over: sectors whose newest bytes are lost are poisoned, the others go on (R404). -/
def State.settleGone (s : State) : State :=
  (AMap.keys (s.sectors.filter fun e => e.2.gone.isSome)).foldl (fun (s : State) k => s.modSector k fun x =>
    { x with poison := x.poison || x.gone == some true, gone := none }) s

def State.rebuildComplete (s : State) : Option State :=
  if !s.rebuilding then none
  else
    let s := { s.settleGone with lostHomes := [], dies := s.dies.mapVals fun _ d => { d with fencedAt := none } }
    let s := (s.launches.filter fun e => e.2.affected).foldl (fun (s : State) e => s.resolveLoss e.1 e.2) s
    let left := AMap.keys (s.parts.filter fun e => e.2.state != .free && e.2.state != .killing && e.2.dies.isEmpty)
    some (left.foldl (fun (s : State) p => s.orphan p) s).ttabFresh

def execRebuildComplete : State → Host.Outcome State Fault Refusal := runEvent fun s => s.rebuildComplete

/-! ### ZONE_UPDATE and POWER_MEASURE (R407, R408) -/

def zoneTtgt (z : DWord) : Nat := natField z.toNat 32 8
def zoneValve (z : DWord) : Nat := natField z.toNat 24 8

/-- The valve after one adjustment, by a step the spec does not give (log entry 48). -/
def nextValve (z : DWord) (temp : Nat) (w : DWord) : Nat :=
  let v := zoneValve z
  if zoneTtgt z * 16 < temp then (if v < 255 then v + 1 + w.toNat % (255 - v) else v)
  else if temp + 80 < zoneTtgt z * 16 then (if 32 < v then v - 1 - w.toNat % (v - 32) else v)
  else v

/-- One zone takes its temperature. -/
def nextZone (z : DWord) (temp : Nat) (w : DWord) : DWord :=
  let hot := natBit z.toNat 40 || decide (1600 ≤ temp)
  BitVec.ofNat 64 (b2n hot * 2 ^ 40 + zoneTtgt z * 2 ^ 32 + nextValve z temp w * 2 ^ 24 + temp)

/-- A zone register of a die. -/
def Die.zone (d : Die) (k : Nat) : DWord := d.zones.get zoneReset k

/-- Every zone is adjusted; a zone at 110 °C fences the die. -/
def State.zoneUpdate (s : State) (die : Nat) (temps : List (BitVec 16)) : Option State :=
  if 16 ≤ die || s.boot.step != 6 then none
  else
    let ts := (List.range 16).filterMap fun k => (temps[k]?).map fun t => (k, t.toNat)
    let s := ts.foldl (fun (s : State) e =>
      let w := s.freeWord
      (s.modDie die fun d => { d with zones := d.zones.set e.1 (nextZone (d.zone e.1) e.2 w) }).used 1) s
    some (if ts.any fun e => decide (1760 ≤ e.2) then s.fence die else s)

def execZoneUpdate (die : Nat) (temps : List (BitVec 16)) : State → Host.Outcome State Fault Refusal :=
  runEvent fun s => s.zoneUpdate die temps

/-- The package power of an interval; one above LIMIT is spent throttled (log entry 48). -/
def State.powerMeasure (s : State) (watts : BitVec 16) : Option State :=
  if s.boot.step != 6 then none
  else
    let above := decide (s.pwr.limit < watts.toNat)
    some { s with pwr := { s.pwr with meas := watts.toNat, throt := if above then min 65535 (s.pwr.throt + 1) else s.pwr.throt } }

def execPowerMeasure (watts : BitVec 16) : State → Host.Outcome State Fault Refusal := runEvent fun s => s.powerMeasure watts

/-! ### TIME_RECALIBRATE (R398, R399) -/

/-- Is the conversion of a die's reading within 8 ticks of another die's reading at this instant (R399)? -/
def State.timesAgree (s : State) (d e : Nat) : Bool := decide ((s.convert d e (s.dclk d) - (s.dclk e : Int)).natAbs ≤ 8)

/-- New parameters: in range, moving the package time by at most 4 ticks and never backwards, and within 8 ticks of every other
die. -/
def State.timeRecalibrate (s : State) (die : Nat) (toff : DWord) (trate : BitVec 31) : Option State :=
  if 16 ≤ die || s.boot.step != 6 || (s.die die).fenced || decide (2 ^ 30 < trate.toInt.natAbs) then none
  else
    let v : Int := s.dclk die
    let s' := s.modDie die fun d => { d with toff, trate }
    let moved := s'.packageTime die v - s.packageTime die v
    let agree := (List.range 16).all fun e => (s.die e).fenced || (s'.timesAgree die e && s'.timesAgree e die)
    if moved < 0 ∨ 4 < moved ∨ agree = false then none else some s'.ttabAll

def execTimeRecalibrate (die : Nat) (toff : DWord) (trate : BitVec 31) : State → Host.Outcome State Fault Refusal :=
  runEvent fun s => s.timeRecalibrate die toff trate

/-! ### POWER_UP (R20, R403, R409 to R411) -/

/-- Is an image valid? -/
def imageOk (kind : Nat) (bs : List Byte) : Bool :=
  let len := byteField bs 12 4
  let payload := (bs.drop 256).take len
  byteField bs 0 4 == 0x4F41_4D31 && byteField bs 4 2 == kind && byteField bs 6 2 == 0 && len % 64 == 0 &&
  decide (256 + len ≤ bs.length) && ((bs.drop 160).take 96).all (· == 0) &&
  Config.sha384 payload == (bs.drop 16).take 48 &&
  Config.vendorVerify (Config.sha384 (bs.take 64)) ((bs.drop 64).take 48) ((bs.drop 112).take 48)

def slotOk (x : FlashSlot) : Bool := imageOk 1 x.fw && imageOk 2 x.cfg
def slotVersion (x : FlashSlot) : Nat := byteField x.fw 8 4

/-- The slot in use, and whether it is B (log entry 49). -/
def bootSlot (x : BootInput) : Option (FlashSlot × Bool) :=
  match slotOk x.slotA, slotOk x.slotB with
  | true, true => some (if slotVersion x.slotA < slotVersion x.slotB then (x.slotB, true) else (x.slotA, false))
  | true, false => some (x.slotA, false)
  | false, true => some (x.slotB, true)
  | false, false => none

/-- The package time of a reading of a die with TOFF and TRATE of bring-up, at the least. -/
def bootTime (t : DWord × BitVec 31) (v : Int) : Int := v + t.1.toInt + v * t.2.toInt / 2 ^ 40

/-- By how much package time is ahead of the model's when bring-up ends: as little as lets every die's counter go on from what it has counted
since power-up, and the counter of the die that was powered up last not jump (log entry 15). -/
def State.bootAhead (s : State) (x : BootInput) : Int :=
  ((List.range 16).map fun d =>
    let t := x.calib.getD d (0, 0)
    bootTime t s.ticks + (if t.2.toInt < 0 then 1 else 0) - s.ticks).foldl max 0

/-- The self-test of one die, and its time parameters, which Luna measures on the die's own counter (R410 step 5; log entry 15). -/
def bootDie (x : BootInput) (ahead : Int) (d : Nat) : Die :=
  let m := x.sites.getD d 0
  let bad := decide (sitesOf m < 88)
  let t := x.calib.getD d (0, 0)
  { Die.init with fenced := bad, sites := if bad then 0 else m, toff := t.1, trate := t.2, skew := ahead - t.1.toInt, drift := t.2.toInt }

/-- PWR.LIMIT after power-up. -/
def pkgWatts (c : PkgConfig) : Nat := match c.limit with
  | some n => if 1000 ≤ n ∧ n ≤ 5400 then n else 5400
  | none => 5400

/-- Bring-up, from mask ROM to ready; without a valid pair of images only the recovery state is reached (log entry 14). -/
def State.powerUp (s : State) (x : BootInput) : Option State :=
  if s.boot.step != 1 then none
  else match bootSlot x with
    | none => some { s with boot := { s.boot with recovery := true } }
    | some (f, b) =>
      let pkg := Config.parseImage ((f.cfg.drop 256).take (byteField f.cfg 12 4))
      let dies : AMap Die := (List.range 16).map fun d => (d, bootDie x (s.bootAhead x) d)
      let ports : AMap SpanPort := (List.range 48).map fun n => (n, { SpanPort.init with enabled := pkg.spanPorts.getLsbD n })
      let total := (dies.map fun e => sitesOf e.2.sites).sum
      let boot : Boot := { step := 6, slotB := b, degraded := decide (total < 1440), recovery := false, fwDigest := (f.fw.drop 16).take 48, cfgDigest := (f.cfg.drop 16).take 48 }
      let s := { s with dies, span := ports, pkg, boot, pwr := { s.pwr with limit := pkgWatts pkg } }
      some (s.dealHomes (List.range 256))

def execPowerUp (x : BootInput) : State → Host.Outcome State Fault Refusal := runEvent fun s => s.powerUp x

/-! ### ATTEST_REQUEST and ATTEST_DONE (R412) -/

/-- DIECAP of a die (R18, R19). -/
def State.dieCap (s : State) (d : Nat) : Nat :=
  let m := if (s.die d).fenced then 0#96 else (s.die d).sites
  let clu := fun (n : Nat) => ((List.range 24).filter fun k => m.getLsbD (24 * n + k)).length
  b2n (s.die d).fenced * 2 ^ 63 + d * 2 ^ 52 + d / 8 * 2 ^ 51 + d % 8 / 2 * 2 ^ 49 + d % 2 * 2 ^ 48 +
    clu 3 * 2 ^ 23 + clu 2 * 2 ^ 18 + clu 1 * 2 ^ 13 + clu 0 * 2 ^ 8 + sitesOf m

def State.attestRequest (s : State) (port : Nat) : Option State :=
  if 2 ≤ port || s.boot.step != 6 || (s.hostPort port).attBusy then none
  else some (s.modHost port fun h => { h with attBusy := true })

def execAttestRequest (port : Nat) : State → Host.Outcome State Fault Refusal := runEvent fun s => s.attestRequest port

/-- The bytes an attestation signs. -/
def State.attested (s : State) (nonce : List Byte) : List Byte :=
  s.boot.fwDigest ++ s.boot.cfgDigest ++ ((List.range 16).map fun d => bytesOfNat 8 (s.dieCap d)).flatten ++ nonce

/-- The report of the first port that waits for one is ready (log entry 49). -/
def State.attestDone (s : State) : Option State :=
  ([0, 1].find? fun p => (s.hostPort p).attBusy).map fun p =>
    let nonce := (s.hostPort p).nonce ++ List.replicate (48 - (s.hostPort p).nonce.length) 0
    let sig := Config.identitySign Config.identityKey (Config.sha384 (s.attested nonce))
    s.modHost p fun h => { h with attBusy := false, report := s.boot.fwDigest ++ s.boot.cfgDigest ++ sig }

def execAttestDone : State → Host.Outcome State Fault Refusal := runEvent fun s => s.attestDone

/-! ### REGISTER_WRITE -/

/-- PCTL: KILL, CREATE, SWAPOUT, WAKE in this order; CREATE from a virtual function is ignored (R347). -/
def State.pctlWrite (s : State) (p : Nat) (val : DWord) (pf : Bool) : State :=
  let on := fun (b : Bool) (f : State → Option State) (s : State) => if b then (f s).getD s else s
  on (val.getLsbD 1) (fun s => s.pctlWake p) (on (val.getLsbD 0) (fun s => s.pctlSwapout p)
    (on (val.getLsbD 3 && pf) (fun s => s.pctlCreate p) (on (val.getLsbD 2) (fun s => s.killStart p false) s)))

/-- A SNAP launch of the partition is not DONE: the pool's registers do not change (R377). -/
def State.snapBusy (s : State) (p : Nat) : Bool :=
  s.launches.any fun e => e.2.part == p && e.2.lrec.snap && e.2.state != .done

/-- The registers of a partition (R341, R347, R377, R400). -/
def State.blockWrite (s : State) (p off : Nat) (val : DWord) (pf : Bool) : State :=
  if off = 0x00 then (if val.getLsbD 12 then s.modPart p fun y => { y with killdone := false } else s)
  else if off = 0x08 then s.pctlWrite p val pf
  else if off = 0x10 then
    (if (s.partn p).tlbBusy then s else s.modPart p fun y => { y with tlbinva := val &&& ~~~0xFFF#64 })
  else if off = 0x18 then s.tlbinvWrite p val
  else if off = 0x20 then
    (if s.snapBusy p then s else s.modPart p fun y => { y with snapbase := val &&& 0x000F_FFFF_FFFF_0000#64 })
  else if off = 0x28 then (if s.snapBusy p then s else s.modPart p fun y => { y with snaplen := natField val.toNat 0 20 })
  else if off = 0x38 then (s.modPart p fun y => { y with ttab := val &&& ~~~0x1FE#64 }).ttabWrite p
  else s

/-- A watch unit's register (R360). -/
def State.unitWrite (s : State) (clu u reg : Nat) (val : DWord) : State :=
  let noDebug := !(s.partn (natField val.toNat 12 4)).debug
  let put := fun (w : WatchUnit) =>
    if reg = 0 then { w with lo := val }
    else if reg = 1 then { w with hi := val }
    else if reg = 2 then
      let en := if noDebug then val &&& 0xFFFE#64 else val &&& 0xFFFF#64
      { w with ctl := en ||| (w.ctl &&& ~~~val &&& 0x1_0000#64) }
    else { w with thr := val &&& 0x1FF_FFFF_FFFF#64 }
  s.modCluster clu fun c => { c with wu := c.wu.upd { lo := 0, hi := 0, ctl := 0, thr := 0 } u put }

/-- The debug block of a cluster (R359, R360, R365; log entry 42). -/
def State.debugWrite (s : State) (clu off : Nat) (val : DWord) : State :=
  if off < 0x200 then s.unitWrite clu (off / 32) (off % 32 / 8) val
  else if off = 0x200 then
    let s := s.modCluster clu fun c => { c with dbgctl := (val &&& 0x3F_1F7F_0020#64) ||| (c.dbgctl &&& 0x1E#64) }
    let raise := fun (n : Nat) (s : State) => s.modCluster clu fun c => { c with dbgctl := c.dbgctl ||| (1#64 <<< n) }
    let on := fun (n : Nat) (f : State → Option State) (s : State) => if val.getLsbD n then (f (raise n s)).getD s else s
    let once := fun (n : Nat) (s : State) => s.modCluster clu fun c => { c with dbgctl := c.dbgctl &&& ~~~(1#64 <<< n) }
    once 4 (on 4 (fun s => s.dbgCancel clu) (on 3 (fun s => s.dbgStep clu)
      (once 2 (on 2 (fun s => s.dbgResume clu) (on 1 (fun s => s.dbgStop clu) s)))))
  else if off = 0x210 then s.modCluster clu fun c => { c with gsel := val &&& 0x1F#64 }
  else s

/-- A physical function's BAR0. -/
def State.pfWrite (s : State) (port off : Nat) (val : DWord) : State :=
  if off = 0 then (s.mbxbaseWrite port val).getD s
  else if 0x400 ≤ off ∧ off < 0x430 then
    s.modHost port fun h =>
      { h with nonce := splice (h.nonce ++ List.replicate (48 - h.nonce.length) 0) (off - 0x400) (bytesOfNat 8 val.toNat) }
  else if off = 0x430 then (if val.getLsbD 0 then (s.attestRequest port).getD s else s)
  else if 0x1000 ≤ off ∧ off < 0x1800 then
    let p := (off - 0x1000) / 0x80
    if (s.partn p).state = .free then s.modPart p fun y => { y with cfg := y.cfg.set (off % 0x80 / 8) val } else s
  else if 0x2000 ≤ off ∧ off < 0x3000 then s.blockWrite ((off - 0x2000) / 0x100) (off % 0x100) val true
  else if 0x8000 ≤ off ∧ off < 0x2_8000 then s.debugWrite ((off - 0x8000) / 0x800) (off % 0x800) val
  else s

/-- Register space through BAR2: a zone's target and its HOT bit, and PWR.LIMIT. -/
def State.bar2Write (s : State) (off : Nat) (val : DWord) : State :=
  let die := off / 0x100_0000
  let o := off % 0x100_0000
  if off = 0x1000_0100 then
    let n := natField val.toNat 0 13
    if 1000 ≤ n ∧ n ≤ 5400 then { s with pwr := { s.pwr with limit := n } } else s
  else if die < 16 ∧ 0x3_0000 ≤ o ∧ o < 0x3_0080 then
    let k := (o - 0x3_0000) / 8
    let t := natField val.toNat 32 8
    s.modDie die fun d =>
      let z := d.zone k
      let z := if 60 ≤ t ∧ t ≤ 95 then (z &&& ~~~0xFF_0000_0000#64) ||| BitVec.ofNat 64 (t * 2 ^ 32) else z
      let z := if val.getLsbD 40 then z &&& ~~~(1#64 <<< 40) else z
      { d with zones := d.zones.set k z }
  else s

/-- A write through the debugger's view of a frozen group: the area of R47 and the thread extensions, as their bytes then read; a tag
0b11 leaves the tag as it was (R367; log entry 50). The pool words written, and their mirrors, are free of errors; the others are as they were. -/
def State.viewWrite (s : State) (g off : Nat) (bs : List Byte) : State :=
  match s.group? g, s.recOf g with
  | some x, some r =>
    let whole := groupImage r { group := x, off := 0, tiles := [], windows := [] }
    let n := whole.length - r.gscr * 256
    if !s.inView g || decide (n < off) then s
    else
      let view := splice (whole.take n) off bs
      let view := bytesOfNat 24 (keepTags (byteField whole 0 24) (byteField view 0 24)) ++ view.drop 24
      match parseGroup r x view with
      | some y =>
        let ws := wordsUnder r x y off bs.length
        let ws := if x.prot then ws ++ ws.map PoolWord.shadow else ws
        let s := s.modGroup g fun _ => x.follow (s.standAt x { y with scratch := x.scratch })
        ((ws.foldl (fun (s : State) w => s.freshWord g w) s).mirrorPut g ws).fitMirrors x.core
      | none => s
  | _, _ => s

/-- A register write; nothing answers before bring-up is complete (R409, R410; log entry 14). -/
def State.registerWrite (s : State) (x : RegWrite) : Option State :=
  if s.boot.step != 6 || x.off % 8 != 0 then none
  else match x.space with
    | .pf port => some (s.pfWrite port.val x.off x.val)
    | .vf p => if x.off < 0x100 then some (s.blockWrite p.val x.off x.val false) else none
    | .bar2 _ => some (s.bar2Write x.off x.val)
    | .view g bs => some (s.viewWrite g x.off bs)

def execRegisterWrite (x : RegWrite) : State → Host.Outcome State Fault Refusal := runEvent fun s => s.registerWrite x

end Sys2Proof.Machine
end

