-- ==== Sys2Proof/Machine/Settle.lean ====
section
/-! DEFINITION. What follows from a step at once: releases of held threads (R133, R155, R163, R176, R177, R181 to R185), tiles that a
restored group takes again (R229), retirement (R235, R325), empty cores (R251), paths (R242, R246), a step that waited (R369). -/

namespace Sys2Proof.Machine

open Sys2Proof

/-! ### Held threads -/

/-- The groups whose held threads may go on: those on a die that is not fenced. -/
def State.moving (s : State) : List Nat := AMap.keys (s.groups.filter fun e => !(s.die (coreDie e.2.core)).fenced)

/-- The live threads of a group held in a way a test picks. -/
def State.heldBy' (s : State) (g : Nat) (pick : HoldKind → Bool) : List Lane :=
  ((s.grp g).live.filter fun e => match e.2.hold with
    | some h => pick h.kind
    | none => false).map fun e => { g, t := e.1, sh := false }

/-- Rejoin mask `j` of a group: every member has arrived or exited, and all that is released has arrived (R133, R134; log
entry 70). -/
def State.settleJ (s : State) (g : Nat) (j : Fin 8) : State :=
  let ls := s.heldBy' g fun k => k == .waitj j
  let mask := (s.grp g).j.get 0 j.val
  let here := ls.map fun l => l.t
  let missing := (s.grp g).live.any fun e => mask.getLsbD e.1 && !here.contains e.1
  if ls.isEmpty || missing || ls.any (fun l => !s.arrived l .core) then s
  else (ls.foldl (fun (s : State) l => s.release l) s).modGroup g fun x => { x with j := x.j.set j.val 0 }

/-- The threads of a group that a save found at a BAR: their arrivals count before they execute it again (R198). -/
def Group.barred (g : Group) : List (Nat × Thread) := g.live.filter fun e => e.2.hold.isNone && e.2.barAt == some (e.2.pc, false)

/-- The group barrier: every live thread is held at a BAR, or counts there since before a save, and has arrived (R176, R198). -/
def State.settleBar (s : State) (g : Nat) : State :=
  let ls := s.heldBy' g fun k => k == .bar
  let back := (s.grp g).barred
  if (ls.isEmpty && back.isEmpty) || ls.length + back.length != (s.grp g).live.length || ls.any (fun l => !s.arrived l .core) then s
  else
    let s := ls.foldl (fun (s : State) l => s.release l) s
    back.foldl (fun (s : State) e => s.modBoth { g, t := e.1, sh := false } fun th => { th with barAt := some (th.pc, true) }) s

/-- A thread held at a BARW goes on once its phase is complete (R177). -/
def State.settleBarw (s : State) (l : Lane) : State :=
  match (s.thread l).hold with
  | some { kind := .barw n p _, ft := _ } =>
    (match s.crew? (s.grp l.g).crew with
    | some c => if c.phaseDone n.val p then s.release l else s
    | none => s)
  | _ => s

/-- A fault has reached the held thread that a cluster's step stands at: TRAPPED (R369). -/
def State.stepTrapped (s : State) (l : Lane) : State :=
  let clu := coreCluster (s.grp l.g).core
  let c := s.cluster clu
  if c.stopped && c.stepLane == some l && (c.stepst == .waitBar || c.stepst == .waitOther) then s.stepReport clu .trapped else s

/-- A thread held on handles or batches goes on, or takes the fault of what it waits for at its word (R181 to R185, R202). -/
def State.settleWait (s : State) (l : Lane) : State :=
  let pc := (s.thread l).pc
  let on := fun (h : DWord) => match s.waitOn l pc h with
    | .done => s.release l
    | .fails f => ((s.delivered l h).deliverFault l pc f).stepTrapped l
    | .waits | .resumes _ => s
  match (s.thread l).hold with
  | some { kind := .hwait h, ft := _ } => on h
  | some { kind := .sleept _ (some h) true, ft := _ } => on h
  | some { kind := .waitb q, ft := _ } =>
    (match s.waitbOn l pc q with
    | .done => s.release l
    | .fails f => (s.deliverFault l pc f).stepTrapped l
    | .waits | .resumes _ => s)
  | _ => s

/-- All held threads of one group. -/
def State.settleGroup (s : State) (g : Nat) : State :=
  let s := (s.grp g).rounds.keys.foldl (fun (s : State) pc => s.closeRound g (BitVec.ofNat 64 pc)) s
  let s := [0, 1, 2, 3, 4, 5, 6, 7].foldl (fun (s : State) (j : Fin 8) => s.settleJ g j) s
  let s := s.settleBar g
  (s.heldBy' g fun _ => true).foldl (fun (s : State) l => (s.settleBarw l).settleWait l) s

/-- The slots and the pending arrivals of a crew. -/
def State.settleCrew (s : State) (k : Nat) : State :=
  let s := s.pumpArrivals k
  match s.crew? k with
  | some c => c.slots.keys.foldl (fun (s : State) x => s.pumpSlot k x) s
  | none => s

/-! ### Tiles of a restored group (R229) -/

/-- A group takes a tile of its context once the token is free. -/
def State.takeTile (s : State) (g : Nat) (t : SavedTile) : State :=
  let k := tileKey t.y t.tn.val
  let n := (s.grp g).core
  if (s.core n).token k != .free then s
  else
    let s := s.modCore n fun c => { c with tok := c.tok.set k (.group g), z := if t.y then c.z else c.z.set t.tn.val t.z,
                                           y := if t.y then c.y.set t.tn.val t.yt else c.y }
    s.modGroup g fun x => { x with owed := x.owed.erase t }

def State.takeTiles (s : State) (g : Nat) : State := (s.grp g).owed.foldl (fun (s : State) t => s.takeTile g t) s

/-! ### Retirement (R235, R251, R325) -/

/-- Has the last live thread of a group exited (R136, R235)? Its windows can be written back. What else the group set in motion goes on
without it (log entry 17). -/
def State.mayRetire (s : State) (g : Nat) (x : Group) : Bool := x.live.isEmpty && !s.halted x && !s.winsWait g x

/-- A fault no thread waited for is reported by the launch (R202, R384). -/
def State.reportKept (s : State) (g : Nat) (x : Group) : State :=
  match (x.primaries.map fun e => e.2.tileFaults).flatten with
  | [] => s
  | f :: _ => s.failLaunch x.launch (if f.info.cause = Cause.fabricLost then Reason.fabric else Reason.fault)
      (some (s.report { g, t := 0, sh := false } f.info false))

/-- What is in flight to the scratchpad of a group that goes is performed as it goes (log entry 17). -/
def State.landScratch (s : State) (g : Nat) : State :=
  let into : MemOp → Bool := fun o => o.live && (match o.space with
    | .aper h _ => h == g
    | .phys _ | .win _ _ _ => false)
  (s.ops.filter fun e => into e.2).foldl (fun (s : State) e => s.performAway e.1 e.2) s

/-- A group retires: windows, scratchpad, tokens and slice go, and its crew knows. Its accesses, copies, tile operations and MMAs
go on (R136, R300). -/
def State.retire (s : State) (g : Nat) (x : Group) : State :=
  let s := (s.reportKept g x).landScratch g
  let ws := (s.core x.core).wins.filter fun e => e.2.g == g
  let s := ws.foldl (fun (s : State) e => s.winUnmap x.core e.1) s
  let s := s.modCore x.core fun c => (c.captureTiles g).releaseTokens g
  let s := { s with groups := s.groups.erase g }
  s.modCrew x.crew fun c => { c with retired := x.idx :: c.retired }

/-- A crew retires with its last group. -/
def State.retireCrew (s : State) (k : Nat) (c : Crew) : State :=
  if (List.range c.groups.length).all c.retired.contains then
    { s with crews := s.crews.erase k }.modLaunch c.launch fun x => { x with retired := x.retired + 1 }
  else s

/-- A launch with nothing left to run or to move is FINISHING. -/
def State.finishing (s : State) (l : Nat) (x : Launch) : State :=
  if x.state == .running && x.dealt.isEmpty && !(s.crews.any fun e => e.2.launch == l) &&
      (s.cores.all fun e => (e.2.tops.all fun o => o.launch != l) && e.2.mma.all fun o => o.launch != l) &&
      (s.copies.all fun e => e.2.launch != l || e.2.ended) && !x.affected then
    s.modLaunch l fun x => { x with state := .finishing }
  else s

/-- Is something in flight on a core? -/
def State.coreBusy (s : State) (core : Nat) : Bool :=
  !(s.core core).tops.isEmpty || !(s.core core).mma.isEmpty || s.ops.any fun e => e.2.core == core && e.2.live

/-- A core whose last group has left, with nothing in flight: its L1 is written back, it is idle and without a carve, or takes the one it is
marked for (R251, R332). -/
def State.emptyCore (s : State) (core : Nat) : State :=
  if (s.core core).use == .idle || !(s.groupsOn core).isEmpty || s.coreBusy core then s
  else
    let held := AMap.keys (s.sectors.filter fun e => (e.2.l1.find? core).isSome || (e.2.stale.find? core).isSome)
    let s := held.foldl (fun (s : State) k => (s.cleanSector .core core k).invSector .core core k) s
    let s := s.modCore core fun c => { c with use := .idle, carve := none, tacq := [] }
    (s.modDie (coreDie core) fun d => { d with stage := d.stage.filter (· != core) }).takeCarve core

/-- Everything that retires now. -/
def State.settleEnds (s : State) : State :=
  let s := (s.groups.filter fun e => s.mayRetire e.1 e.2).foldl (fun (s : State) e => s.retire e.1 e.2) s
  let s := s.crews.foldl (fun (s : State) e => s.retireCrew e.1 e.2) s
  let s := s.launches.foldl (fun (s : State) e => s.finishing e.1 e.2) s
  s.cores.keys.foldl (fun (s : State) c => s.emptyCore c) s

/-! ### Paths (R242, R246) -/

/-- A thread stands behind a path only while it is ready. -/
def State.settleBehind (s : State) : State :=
  if s.groups.all fun e => e.2.threads.all fun t => t.2.behind.isEmpty then s
  else
    let keep : Thread → Thread := fun th => { th with behind := th.behind.filter fun p => s.pathReady p.1 p.2 }
    { s with groups := s.groups.mapVals fun _ g => { g with threads := g.threads.mapVals fun _ th => keep th } }

/-! ### The whole -/

/-- The step is over: later aborts are of another step (R223). -/
def State.stepOver (s : State) : State :=
  if s.groups.all fun e => e.2.undone.isEmpty then s
  else
    let clear : Group → Group := fun g => { g with undone := [] }
    { s with groups := s.groups.mapVals fun _ g => clear g }

/-- What BLD and SMLD read of which no gang stands at its word any more goes (R168), and so does an early release that has caught up (R282). -/
def State.dropDone (s : State) : State :=
  let waited : Nat → MemOp → Bool := fun id o => s.gangs.any fun k => (k.2.wip.getD []).any (fun i => i.op == id) && k.2.lanes.contains o.lane
  let gone := s.ops.filter fun e => e.2.kind.staged && !e.2.live && !waited e.1 e.2
  let s := gone.foldl (fun (s : State) e => s.opDone e.1) s
  if s.rels.isEmpty then s else { s with rels := s.rels.filter fun r => !s.relDone r }

/-- What a step makes ready at once. -/
def State.settle (s : State) : State :=
  let s := s.crews.keys.foldl (fun (s : State) k => s.settleCrew k) s
  let s := s.moving.foldl (fun (s : State) g => (s.settleGroup g).takeTiles g) s
  let s := s.settleEnds
  let s := s.groups.keys.foldl (fun (s : State) g => s.repath g) s
  let s := s.settleBehind.dropDone
  (s.clusters.keys.foldl (fun (s : State) c => ((s.watchEnd c).pumpStep c).stepReleased c) s).stepOver

end Sys2Proof.Machine
end

