-- ==== Sys2Proof/Machine/SmallMatrix.lean ====
section
/-! DEFINITION. Small-matrix words (R35, R215 to R218): per thread, on its own M registers, a shadow on its own (R387); SMLD and SMST are compared and
performed once (R388). -/

namespace Sys2Proof.Machine

open Sys2Proof

/-! ### M registers as matrices (R35) -/

/-- A matrix: its descriptor's fields, and its element bits at 8 i + j. -/
structure SMat where
  f32 : Bool
  rows : Nat
  cols : Nat
  fact : Nat
  perm : Nat
  e : AMap Nat
  deriving DecidableEq, Repr, Inhabited

def SMat.at (m : SMat) (i j : Nat) : Nat := m.e.get 0 (8 * i + j)
def SMat.par (m : SMat) : FPar := if m.f32 then parF32 else parF64
def SMat.empty (m : SMat) : Bool := decide (m.rows = 0)

/-- The positions of a shape, row by row. -/
def smCells (r c : Nat) : List (Nat × Nat) := ((List.range r).map fun i => (List.range c).map fun j => (i, j)).flatten

/-- A matrix from its elements: a result, FACT 00 and PERM 0 (R215). -/
def smResult (f32 : Bool) (r c : Nat) (f : Nat → Nat → Nat) : SMat :=
  { f32, rows := r, cols := c, fact := 0, perm := 0, e := (smCells r c).map fun x => (8 * x.1 + x.2, f x.1 x.2) }

/-- The matrix an M register holds, its rows `d` slots apart. -/
def MReg.mat (d : Nat) (r : MReg) : SMat :=
  let n := r.desc.toNat
  let f32 := natBit n 25
  let rows := natField n 22 3
  let cols := natField n 19 3
  { f32, rows, cols, fact := natField n 26 2, perm := natField n 0 18,
    e := (smCells rows cols).map fun x =>
      (8 * x.1 + x.2, (r.els.get 0 (x.1 * d + x.2)).toNat % 2 ^ (if f32 then 32 else 64)) }

/-- The register that holds a matrix. -/
def SMat.reg (d : Nat) (m : SMat) : MReg :=
  { desc := BitVec.ofNat 32 (m.fact * 2 ^ 26 + b2n m.f32 * 2 ^ 25 + m.rows * 2 ^ 22 + m.cols * 2 ^ 19 + m.perm),
    els := (smCells m.rows m.cols).map fun x => (x.1 * d + x.2, BitVec.ofNat 64 (m.at x.1 x.2)) }

def State.mat (s : State) (l : Lane) (n : Fin 8) : SMat := ((s.thread l).m.get MReg.empty n.val).mat (s.smDim l)

def State.putMat (s : State) (l : Lane) (n : Fin 8) (m : SMat) : State :=
  let d := s.smDim l
  s.modThread l fun th => { th with m := th.m.set n.val (m.reg d) }

/-- A matrix that memory returned, for a primary and its shadow. -/
def State.putMatBoth (s : State) (l : Lane) (n : Fin 8) (m : SMat) : State :=
  let d := s.smDim l
  s.modBoth l fun th => { th with m := th.m.set n.val (m.reg d) }

/-! ### `%smf` (R44) -/

/-- What ends a factorisation. -/
inductive SmStop | npd | sing | tiny | nan
  deriving DecidableEq, Repr, Inhabited

def smfWord (f : SmStop) (idx : Nat) : Word :=
  (match f with
  | .npd => 1
  | .sing => 2
  | .tiny => 4
  | .nan => 8) ||| BitVec.ofNat 32 (2048 + 256 * idx)

/-! ### Arithmetic (R215 to R218) -/

/-- The bits with the sign inverted. -/
def negBits (f : FPar) (x : Nat) : Nat := applyMod f { abs := false, neg := true } x

/-- acc := Round(a × b + acc) over a list, flags gathered. -/
def smDot (f : FPar) (rm : RMode) (l : List (Nat × Nat)) (acc : Nat × Word) : Nat × Word :=
  l.foldl (fun a x =>
    let (v, fl) := ffmaBits f rm x.1 x.2 a.1
    (v, a.2 ||| fl)) acc

/-- A matrix of results with their flags. -/
def smMap (f32 : Bool) (r c : Nat) (g : Nat → Nat → Nat × Word) : SMat × Word :=
  (smResult f32 r c fun i j => (g i j).1, ((smCells r c).map fun x => (g x.1 x.2).2).foldl (· ||| ·) 0)

def smAdd (rm : RMode) (a b : SMat) : SMat × Word :=
  smMap a.f32 a.rows a.cols fun i j => faddBits a.par rm (a.at i j) (b.at i j)

def smScale (rm : RMode) (a : SMat) (v : Nat) : SMat × Word := smMap a.f32 a.rows a.cols fun i j => fmulBits a.par rm (a.at i j) v

/-- SMMAD: fused steps in increasing k (R216). -/
def smMad (rm : RMode) (a b : SMat) (c : Nat → Nat → Nat) : SMat × Word :=
  smMap a.f32 a.rows b.cols fun i j =>
    smDot a.par rm ((List.range a.cols).map fun k => (a.at i k, b.at k j)) (c i j, 0)

/-- A factorisation on its way: entries at 8 i + j, the row permutation, flags, and what stopped it. -/
structure SmFac where
  w : AMap Nat
  perm : List Nat
  fl : Word
  stop : Option (SmStop × Nat)
  deriving DecidableEq, Repr, Inhabited

def SmFac.at (s : SmFac) (i j : Nat) : Nat := s.w.get 0 (8 * i + j)
def SmFac.put (s : SmFac) (i j : Nat) (v : Nat × Word) : SmFac := { s with w := s.w.set (8 * i + j) v.1, fl := s.fl ||| v.2 }

/-- maxabs and tiny of R217 over the input elements read. -/
def smTiny (f : FPar) (texp : Nat) (xs : List Nat) : FVal :=
  (xs.foldl (fun (a : FVal) x =>
    let v := (unpackF f x).abs
    if v.isNan then a else if cmpVal v a == .gt then v else a) (.fin false 0 0)).scale (-(texp : Int))

/-- The pivot test of R217: NaN, then non-positive or zero, then tiny. -/
def pivotStop (chol : Bool) (tiny v : FVal) : Option SmStop :=
  if v.isNan then some .nan
  else if chol && cmpVal v (.fin false 0 0) != .gt then some .npd
  else if !chol && v.isZero then some .sing
  else if cmpVal v.abs tiny == .lt then some .tiny
  else none

/-- Column j of SMCHOL. -/
def cholCol (f : FPar) (rm : RMode) (n : Nat) (tiny : FVal) (a : SMat) (s : SmFac) (j : Nat) : SmFac :=
  if s.stop.isSome then s
  else
    let dot := fun (s : SmFac) (i : Nat) =>
      smDot f rm ((List.range j).map fun k => (negBits f (s.at i k), s.at j k)) (a.at i j, 0)
    let p := dot s j
    let s := { s with fl := s.fl ||| p.2 }
    match pivotStop true tiny (unpackF f p.1) with
    | some e => { s with stop := some (e, j) }
    | none =>
      let s := s.put j j (fsqrtBits f rm p.1)
      (rangeFrom (j + 1) (n - j - 1)).foldl (fun s i =>
        if s.stop.isSome then s
        else
          let t := dot s i
          let q := fdivBits f rm t.1 (s.at j j)
          let s := s.put i j (q.1, t.2 ||| q.2)
          if (unpackF f q.1).isNan then { s with stop := some (.nan, j) } else s) s

/-- The row at or below j with the largest magnitude in column j, the lowest on ties; a NaN is never largest (log entry 32). -/
def pivotRow (f : FPar) (n : Nat) (s : SmFac) (j : Nat) : Nat :=
  (rangeFrom (j + 1) (n - j - 1)).foldl (fun p i =>
    let v := (unpackF f (s.at i j)).abs
    let b := (unpackF f (s.at p j)).abs
    if v.isNan then p else if b.isNan || cmpVal v b == .gt then i else p) j

/-- Exchanges two rows and their entries of the permutation. -/
def SmFac.swap (s : SmFac) (n p j : Nat) : SmFac :=
  let at' := fun i k => if i = j then s.at p k else if i = p then s.at j k else s.at i k
  { s with w := (smCells n n).map fun x => (8 * x.1 + x.2, at' x.1 x.2),
           perm := (s.perm.set j (s.perm.getD p 0)).set p (s.perm.getD j 0) }

/-- Step j of SMLU. -/
def luCol (f : FPar) (rm : RMode) (n : Nat) (tiny : FVal) (s : SmFac) (j : Nat) : SmFac :=
  if s.stop.isSome then s
  else
    let s := s.swap n (pivotRow f n s j) j
    let v := s.at j j
    match pivotStop false tiny (unpackF f v) with
    | some e => { s with stop := some (e, j) }
    | none =>
      (rangeFrom (j + 1) (n - j - 1)).foldl (fun s i =>
        let q := fdivBits f rm (s.at i j) v
        let s := s.put i j q
        (rangeFrom (j + 1) (n - j - 1)).foldl (fun s k =>
          s.put i k (ffmaBits f rm (negBits f q.1) (s.at j k) (s.at i k))) s) s

/-- After a stop at j every entry whose row and column are both at or beyond j is +0 (R217). -/
def SmFac.matrix (s : SmFac) (f32 : Bool) (n : Nat) (lower : Bool) (fact : Nat) : SMat :=
  let keep := fun i k => match s.stop with
    | some (_, j) => decide (i < j) || decide (k < j)
    | none => true
  let perm := (s.perm.zipIdx.map fun e => e.1 * 8 ^ e.2).sum
  { smResult f32 n n (fun i k => if keep i k && !(lower && decide (i < k)) then s.at i k else 0) with
    fact, perm := if lower then 0 else perm }

def SmFac.smf (s : SmFac) : Word :=
  match s.stop with
  | some (e, j) => smfWord e j
  | none => 0

def smChol (rm : RMode) (texp : Nat) (a : SMat) : SMat × Word × Word :=
  let f := a.par
  let n := a.rows
  let read := ((smCells n n).filter fun x => decide (x.2 ≤ x.1)).map fun x => a.at x.1 x.2
  let s := (List.range n).foldl (cholCol f rm n (smTiny f texp read) a) { w := [], perm := [], fl := 0, stop := none }
  (s.matrix a.f32 n true 1, s.fl, s.smf)

def smLu (rm : RMode) (texp : Nat) (a : SMat) : SMat × Word × Word :=
  let f := a.par
  let n := a.rows
  let read := (smCells n n).map fun x => a.at x.1 x.2
  let s := (List.range n).foldl (luCol f rm n (smTiny f texp read)) { w := a.e, perm := List.range n, fl := 0, stop := none }
  (s.matrix a.f32 n false 2, s.fl, s.smf)

/-- One column of SMSOLVE: the solution, its entries by row, and flags (R218). -/
def solveCol (f : FPar) (rm : RMode) (m b : SMat) (c : Nat) : AMap Nat × Word :=
  let n := m.rows
  let chol := decide (m.fact = 1)
  let start := fun i => b.at (if chol then i else natField m.perm (3 * i) 3) c
  let up := fun i k => if chol then m.at k i else m.at i k
  let y := (List.range n).foldl (fun (y : AMap Nat × Word) i =>
    let t := smDot f rm ((List.range i).map fun k => (negBits f (m.at i k), y.1.get 0 k)) (start i, y.2)
    let t := if chol then
        (let q := fdivBits f rm t.1 (m.at i i)
         (q.1, t.2 ||| q.2))
      else t
    (y.1.set i t.1, t.2)) ([], 0)
  (List.range n).reverse.foldl (fun (x : AMap Nat × Word) i =>
    let t := smDot f rm ((rangeFrom (i + 1) (n - i - 1)).map fun k => (negBits f (up i k), x.1.get 0 k)) (y.1.get 0 i, x.2)
    let q := fdivBits f rm t.1 (up i i)
    (x.1.set i q.1, t.2 ||| q.2)) ([], y.2)

/-- SMSOLVE: the result, its flags and `%smf`. -/
def smSolve (rm : RMode) (m b : SMat) : SMat × Word × Word :=
  let f := m.par
  let n := m.rows
  let bad := (List.range n).find? fun i =>
    let v := unpackF f (m.at i i)
    v.isNan || v.isZero
  match bad with
  | some i => (smResult b.f32 n b.cols (fun _ _ => f.nan), 0, smfWord (if m.fact = 1 then .npd else .sing) i)
  | none =>
    let cols := (List.range b.cols).map (solveCol f rm m b)
    let r := smResult b.f32 n b.cols fun i c => ((cols.getD c ([], 0)).1).get 0 i
    let nan := fun (x : SMat) => x.e.any fun e => (unpackF f e.2).isNan
    (r, (cols.map Prod.snd).foldl (· ||| ·) 0, if nan m || nan b || nan r then 8 else 0)

/-! ### Words -/

/-- A lane's rounding mode. -/
def State.smMode (s : State) (l : Lane) (rm : RMode) : RMode := modeOf rm (s.thread l).fmode

/-- A result and its flags. -/
def State.smPut (s : State) (l : Lane) (md : Fin 8) (r : SMat × Word) : State :=
  (s.putMat l md r.1).modThread l fun th => th.raise r.2

/-- A result of a word that rewrites `%smf`. -/
def State.smPutF (s : State) (l : Lane) (md : Fin 8) (r : SMat × Word × Word) : State :=
  (s.putMat l md r.1).modThread l fun th => { th.raise r.2.1 with smf := r.2.2 }

/-- Have the small-matrix registers that a word reads, or whose shape it takes, shapes within the launch's dimension (R35)? -/
def State.smFits (s : State) (l : Lane) (i : Instr) : Bool :=
  (mreads i ++ (match i with
  | .smld _ x => [x.md.val]
  | .smmovPut _ x => [x.md.val]
  | _ => [])).all fun n =>
    let m := ((s.thread l).m.get MReg.empty n).mat (s.smDim l)
    decide (m.rows ≤ s.smDim l ∧ m.cols ≤ s.smDim l) && (decide (m.rows = 0) == decide (m.cols = 0))

/-- ILLEGAL_ENC in a primary; a shadow takes no fault of its own (R388). -/
def State.smIllegal (s : State) (c : Ctx) (l : Lane) : State := if l.sh then s else s.plainFault c l .illegalEnc

/-- A word whose operands a lane must find legal (R35, R215): ILLEGAL_ENC else. -/
def smWord (i : Instr) (ok : State → Lane → Bool) (f : State → Lane → State) : State → Host.Outcome State Fault Refusal :=
  runWord i true (eachHeld fun c l s => if s.smFits l i && ok s l then f s l else s.smIllegal c l)

def execSmset (h : Head) (x : SmsetF) : State → Host.Outcome State Fault Refusal :=
  runWord (.smset h x) true (eachLane fun _ l s =>
    s.putMat l x.md (smResult x.f32 x.rows.val x.cols.val fun _ _ => 0))

/-- A register copied whole, its descriptor included (R215). -/
def execSmmov (h : Head) (md ma : Fin 8) : State → Host.Outcome State Fault Refusal :=
  smWord (.smmov h md ma) (fun s l => !(s.mat l ma).empty) fun s l =>
    s.modThread l fun th => { th with m := th.m.set md.val (th.m.get MReg.empty ma.val) }

/-- A register pair is legal for FP64 data. -/
def State.smPairOk (s : State) (l : Lane) (n : Nat) : Bool :=
  decide (n % 2 = 0) && (match s.recOf l.g with
    | some r => decide (n + 1 < r.vcnt)
    | none => true)

/-- Is a value of a register still on its way, one that only the type of an M register makes an operand? -/
def State.smBusy (s : State) (l : Lane) (ns : List Nat) : Bool :=
  s.ops.any fun e => e.2.lane == l && (opDst e.2.kind).any ns.contains

def execSmmovGet (h : Head) (x : SmGetF) : State → Host.Outcome State Fault Refusal :=
  let i := Instr.smmovGet h x
  runWord i true fun c act s =>
    if act.any fun l => !(s.mat l x.ma).f32 && s.smBusy l [x.d.val + 1] then none
    else eachHeld (fun c l s =>
      let m := s.mat l x.ma
      match s.popOperands c i l with
      | .error s => s
      | .ok (vs, s') =>
        let a := (vs.getD 0 0).toNat
        let b := (vs.getD 1 0).toNat
        if m.rows ≤ a ∨ m.cols ≤ b ∨ !s.smFits l i ∨ (!m.f32 ∧ !s.smPairOk l x.d.val) then s.smIllegal c l
        else
          let v : DWord := BitVec.ofNat 64 (m.at a b)
          s'.putRegs l (if m.f32 then [(x.d.val, v.lo)] else [(x.d.val, v.lo), (x.d.val + 1, v.hi)])) c act s

/-- The sources of a word whose scalar has the width of an M register, in pop order. -/
def smSources (f32 : Bool) (a : Src) (rest : List (Src × Bool)) : List (Src × Bool) := (a, !f32) :: rest

/-- Is a scalar operand legal for the width, and is all of it there? -/
def State.smScalarOk (s : State) (l : Lane) (f32 : Bool) (a : Src) : Bool :=
  match a with
  | .v n => f32 || s.smPairOk l n.val
  | .q _ | .zero => true

/-- Does a lane wait for the second half of an FP64 scalar? -/
def State.smScalarWaits (s : State) (l : Lane) (f32 : Bool) (a : Src) (rest : List (Src × Bool)) : Bool :=
  let pops := fun (n : Fin 8) => (((a, !f32) :: rest).map fun o => match o.1 with
    | .q k => if k = n then (if o.2 then 2 else 1) else 0
    | .v _ | .zero => 0).sum
  !f32 && (match a with
    | .v n => s.smBusy l [n.val + 1]
    | .q n => popWaits (s.grp l.g).slice.running (pops n) ((s.thread l).q.get [] n.val)
    | .zero => false)

/-- Reads the operands of such a word: their values, or the state after the fault of a pop. -/
def State.smOperands (s : State) (c : Ctx) (l : Lane) (ops : List (Src × Bool)) : Except State (List DWord × State) :=
  match readSrcs (s.grp l.g) l (s.thread l) ops with
  | (.ok vs, th) => .ok (vs, s.modThread l fun _ => th)
  | (.error f, _) => .error (if l.sh then s else s.popFaults c l ops f)

def execSmmovPut (h : Head) (x : SmPutF) : State → Host.Outcome State Fault Refusal :=
  let i := Instr.smmovPut h x
  let rest : List (Src × Bool) := [(x.i, false), (x.j, false)]
  runWord i true fun c act s =>
    if act.any fun l => s.smScalarWaits l (s.mat l x.md).f32 x.a rest then none
    else eachHeld (fun c l s =>
      let m := s.mat l x.md
      match s.smOperands c l (smSources m.f32 x.a rest) with
      | .error s => s
      | .ok (vs, s') =>
        let a := (vs.getD 1 0).toNat
        let b := (vs.getD 2 0).toNat
        if m.rows ≤ a ∨ m.cols ≤ b ∨ !s.smFits l i ∨ !s.smScalarOk l m.f32 x.a then s.smIllegal c l
        else
          let bad := ((s.thread l).m.get MReg.empty x.md.val).bad.filter (· != a * s.smDim l + b)
          (s'.putMat l x.md { m with fact := 0, perm := 0, e := m.e.set (8 * a + b) (vs.getD 0 0).toNat }).modThread l fun th =>
            { th with m := th.m.modify x.md.val fun r => { r with bad } }) c act s

def execSmadd (h : Head) (x : Sm2F) : State → Host.Outcome State Fault Refusal :=
  smWord (.smadd h x) (fun s l =>
    let a := s.mat l x.ma
    let b := s.mat l x.mb
    !a.empty && !b.empty && a.f32 == b.f32 && decide (a.rows = b.rows) && decide (a.cols = b.cols))
    fun s l => s.smPut l x.md (smAdd (s.smMode l x.rm) (s.mat l x.ma) (s.mat l x.mb))

def execSmscl (h : Head) (x : SmsclF) : State → Host.Outcome State Fault Refusal :=
  let i := Instr.smscl h x
  runWord i true fun c act s =>
    if act.any fun l => s.smScalarWaits l (s.mat l x.ma).f32 x.e [] then none
    else eachHeld (fun c l s =>
      let a := s.mat l x.ma
      if a.empty ∨ !s.smFits l i ∨ !s.smScalarOk l a.f32 x.e then s.smIllegal c l
      else match s.smOperands c l (smSources a.f32 x.e []) with
        | .error s => s
        | .ok (vs, s) => s.smPut l x.md (smScale (s.smMode l x.rm) a (vs.getD 0 0).toNat)) c act s

def execSmtr (h : Head) (md ma : Fin 8) : State → Host.Outcome State Fault Refusal :=
  smWord (.smtr h md ma) (fun s l => !(s.mat l ma).empty) fun s l =>
    let a := s.mat l ma
    s.putMat l md (smResult a.f32 a.cols a.rows fun i j => a.at j i)

/-- Do two factors conform? -/
def smConform (a b : SMat) : Bool := !a.empty && !b.empty && a.f32 == b.f32 && decide (a.cols = b.rows)

def execSmmul (h : Head) (x : Sm2F) : State → Host.Outcome State Fault Refusal :=
  smWord (.smmul h x) (fun s l => smConform (s.mat l x.ma) (s.mat l x.mb)) fun s l =>
    s.smPut l x.md (smMad (s.smMode l x.rm) (s.mat l x.ma) (s.mat l x.mb) fun _ _ => 0)

def execSmmad (h : Head) (x : Sm3F) : State → Host.Outcome State Fault Refusal :=
  smWord (.smmad h x) (fun s l =>
    let a := s.mat l x.ma
    let b := s.mat l x.mb
    let c := s.mat l x.mc
    smConform a b && !c.empty && c.f32 == a.f32 && decide (c.rows = a.rows) && decide (c.cols = b.cols))
    fun s l =>
      let c := s.mat l x.mc
      s.smPut l x.md (smMad (s.smMode l x.rm) (s.mat l x.ma) (s.mat l x.mb) c.at)

/-- A source of a factorisation is square. -/
def State.smSquare (s : State) (l : Lane) (n : Fin 8) : Bool :=
  let a := s.mat l n
  !a.empty && decide (a.rows = a.cols)

/-- TEXP of a lane (R44). -/
def State.texp (s : State) (l : Lane) : Nat := natField (s.thread l).fmode.toNat 8 8

def execSmchol (h : Head) (x : Sm1F) : State → Host.Outcome State Fault Refusal :=
  smWord (.smchol h x) (fun s l => s.smSquare l x.ma) fun s l =>
    s.smPutF l x.md (smChol (s.smMode l x.rm) (s.texp l) (s.mat l x.ma))

def execSmlu (h : Head) (x : Sm1F) : State → Host.Outcome State Fault Refusal :=
  smWord (.smlu h x) (fun s l => s.smSquare l x.ma) fun s l =>
    s.smPutF l x.md (smLu (s.smMode l x.rm) (s.texp l) (s.mat l x.ma))

def execSmsolve (h : Head) (x : Sm2F) : State → Host.Outcome State Fault Refusal :=
  smWord (.smsolve h x) (fun s l =>
    let f := s.mat l x.ma
    s.smSquare l x.ma && (f.fact == 1 || f.fact == 2) && smConform f (s.mat l x.mb))
    fun s l => s.smPutF l x.md (smSolve (s.smMode l x.rm) (s.mat l x.ma) (s.mat l x.mb))

/-! ### SMLD and SMST (R215) -/

/-- The bytes of one element. -/
def smElem (f32 : Bool) : Nat := if f32 then 4 else 8

/-- The addresses of a matrix's elements, row by row and packed, each checked under R165; the first failure decides. -/
def State.smPlaces (s : State) (l : Lane) (m : MAddr) (a : SMat) (k : AccKind) (n : Need) :
    Except FaultInfo (List (Nat × Option (DWord × Space))) × State :=
  (List.range (a.rows * a.cols)).foldl
    (fun (acc : Except FaultInfo (List (Nat × Option (DWord × Space))) × State) e =>
      match acc with
      | (.error f, s) => (.error f, s)
      | (.ok r, s) =>
        match s.addressAt l m (e * smElem a.f32) (smElem a.f32) (smElem a.f32) k n with
        | (.fault f, s) => (.error f, s)
        | (.outside, s) => (.ok (r ++ [(e, none)]), s)
        | (.at va sp, s) =>
          if k == .load && s.poisonNow l sp (smElem a.f32) then (.error { cause := .poison, kind := k, addr := va }, s)
          else (.ok (r ++ [(e, some (va, sp))]), s)) (.ok [], s)

/-- An access of a word that moves no counter; `word` names the first of the word's. -/
def State.smAccess (s : State) (c : Ctx) (l : Lane) (x : SmMemF) (word : Nat) (va : DWord) (sp : Space) (size : Nat) (kind : OpKind)
    (data : List Byte) : State :=
  (s.watch l c.w va (if kind == .smst then 1 else 0) size (s.scopeAt sp x.scope)).putUnits l
    { va, space := sp, size, scope := x.scope, ord := x.ord, hint := x.hint.val, kind, data } word

def State.smldBegin (s : State) (c : Ctx) (h : Head) (x : SmMemF) (l : Lane) : State :=
  let a := s.mat l x.md
  let word := s.nextId
  if !s.smFits l (.smld h x) then s.plainFault c l .illegalEnc
  else match s.smPlaces l x.m a .load .rd with
  | (.error f, s) => s.faultAt c l f
  | (.ok ps, s) => ps.foldl (fun s e => match e.2 with
    | none => s
    | some (va, sp) => s.smAccess c l x word va sp (smElem a.f32) (.smld e.1) []) s

/-- What a begun element load read. -/
def State.smGot (s : State) (w : List Issued) (l : Lane) (e : Nat) : Nat :=
  (w.findSome? fun i => if i.lane = l then (s.ops.find? i.op).bind fun o =>
    if o.kind = .smld e then o.got.map wordOfBytes else none else none).getD 0

/-- Every element is there: the register takes them, FACT 00; a failed access faults the word instead. -/
def State.smldEnd (s : State) (c : Ctx) (x : SmMemF) (w : List Issued) (l : Lane) : State :=
  match s.wipFailed w l with
  | some f => (s.wipDrop w l).faultAt c l f
  | none =>
    let a := s.mat l x.md
    (s.putMatBoth l x.md (smResult a.f32 a.rows a.cols fun i j => s.smGot w l (i * a.cols + j))).wipDrop w l

def execSmld (h : Head) (x : SmMemF) : State → Host.Outcome State Fault Refusal :=
  runWith (.smld h x) false (beginning (fun c l s => s.smldBegin c h x l) id) (phased (fun c w l s => s.smldEnd c x w l) id)

def State.smstBegin (s : State) (c : Ctx) (h : Head) (x : SmMemF) (l : Lane) : State :=
  let a := s.mat l x.md
  let word := s.nextId
  if a.empty || !s.smFits l (.smst h x) then s.plainFault c l .illegalEnc
  else match s.smPlaces l x.m a .store .wr with
    | (.error f, s) => s.faultAt c l f
    | (.ok ps, s) => ps.foldl (fun s e => match e.2 with
      | none => s
      | some (va, sp) =>
        (s.outward l sp).smAccess c l x word va sp (smElem a.f32) .smst (bytesOfNat (smElem a.f32) (a.at (e.1 / a.cols) (e.1 % a.cols)))) s

/-- The gang goes on once the stores are performed. -/
def execSmst (h : Head) (x : SmMemF) : State → Host.Outcome State Fault Refusal :=
  runWith (.smst h x) false (beginning (fun c l s => s.smstBegin c h x l) id) (phased (fun _ _ _ s => s) id)

end Sys2Proof.Machine
end

