-- ==== Sys2Proof/Machine/EvWatch.lean ====
section
/-! DEFINITION. WATCHDOG (R247), and the waits that a port in recovery exempts from it (R394). -/

namespace Sys2Proof.Machine

open Sys2Proof

/-! ### Exempt waits (R247, R394)

A wait is exempt while it lasts only because of what a port in recovery holds: it lasts now, and would be over if everything such ports hold
failed now, as it does when their bound passes. -/

/-- The ports in recovery whose bound has not passed: Span 0 to 47, then the host ports (R393, R396). -/
def State.recovering (s : State) : List Nat :=
  (s.span.keys ++ [48, 49]).filter fun n => (s.recoveryOf n).isSome && !pastBound s (s.recoveryOf n)

/-- What the machine would be if everything these ports hold had failed (R395). -/
def State.without (s : State) (ports : List Nat) : State :=
  ports.foldl (fun s n => (((s.failOps n).failEntries n).failTiles n).failCopies n) s

/-- The meaning of a word that may stall for a reason of its own; any other word stalls only for the reasons all words share (R76). -/
def waitsIn : Instr → State → Host.Outcome State Fault Refusal
  | .call h o => execCall h o
  | .callx h r => execCallx h r
  | .callL h o p => execCallL h o p
  | .callxL h r o => execCallxL h r o
  | .ld h x => execLd h x
  | .st h x => execSt h x
  | .bld h x => execBld h x
  | .bst h x => execBst h x
  | .atom h x => execAtom h x
  | .atomNr h x => execAtomNr h x
  | .acas h x => execAcas h x
  | .smld h x => execSmld h x
  | .smst h x => execSmst h x
  | .signalAdd h a b => execSignalAdd h a b
  | .launch h a q hd => execLaunch h a q hd
  | .irq h v => execIrq h v
  | .copy h x => execCopy h x
  | .fence h sc k => execFence h sc k
  | .waitc h x => execWaitc h x
  | .rbegin h sc o => execRbegin h sc o
  | .rcommit h => execRcommit h
  | .smap h x => execSmap h x
  | .sunmap h b => execSunmap h b
  | .sflush h b => execSflush h b
  | .smode h b c => execSmode h b c
  | .cflush h x => execCflush h x
  | .cinv h x => execCinv h x
  | .icinv h x => execIcinv h x
  | .tacq h y a => execTacq h y a
  | .trel h y a => execTrel h y a
  | .tld h x => execTld h x
  | .tsv h x => execTsv h x
  | .tsum h x => execTsum h x
  | .qcv h x => execQcv h x
  | .ptld h x => execPtld h x
  | .tzero h y t => execTzero h y t
  | .tmovGet h x => execTmovGet h x
  | .tmovPut h x => execTmovPut h x
  | .mma h x => execMma h x
  | .smmovGet h x => execSmmovGet h x
  | .smmovPut h x => execSmmovPut h x
  | .smscl h x => execSmscl h x
  | .errinjZflip h a t b => execErrinjZflip h a t b
  | i => runWord i false fun _ _ s => some s

/-- Does a gang stall at its word? -/
def State.gangStays (s : State) (k : Nat) (gang : Gang) : Bool :=
  match (gang.clause.words[gang.ix]?).map decode with
  | some (.ok i) => s.stays k gang (waitsIn i)
  | some .illegalOpc | some .illegalEnc | none => false

/-- Does a held thread stay held, once the commits before and its crew and group have gone as far as they can? -/
def State.heldStays (s : State) (l : Lane) : Bool :=
  let g := s.grp l.g
  let s := (s.core g.core).commits.foldl (fun (s : State) _ => (s.commitPerform g.core).getD s) s
  (((s.settleCrew g.crew).settleGroup l.g).thread l).hold.isSome

/-- Does a thread wait: held, stalled at a word, or at the header of a clause for its counters (R394)? -/
def State.waiting (s : State) (l : Lane) : Bool :=
  let th := s.thread l
  if th.hold.isSome then s.heldStays l
  else match s.gangs.first fun k => k.2.lanes.any fun x => x == l with
    | some (k, gang) => s.gangStays k gang
    | none => !th.mid && ((s.grp l.g).headerAt th).any fun h => Header.waitsFor h th

/-- Is a thread in an exempt wait: asleep, or waiting only because of what ports in recovery hold (R247, R394)? -/
def State.exempt (s : State) (l : Lane) : Bool :=
  match (s.thread l).hold with
  | some { kind := .sleept _ _ false, ft := _ } => true
  | _ => !s.recovering.isEmpty && s.waiting l && !(s.without s.recovering).waiting l

/-! ### WATCHDOG -/

/-- A thread leaves the rendezvous rounds it had joined; it joins again when it re-executes the word. -/
def XRound.without (x : XRound) (g t : Nat) : XRound :=
  if x.g = g then { x with round := { x.round with joined := x.round.joined.erase t } } else x

def RSlot.without (r : RSlot) (g t : Nat) : RSlot :=
  let keep := fun (x : XRound) => !x.round.joined.isEmpty
  { deposit := (r.deposit.map fun x => x.without g t).filter keep,
    senders := (r.senders.map fun x => x.without g t).filter keep,
    receivers := (r.receivers.map fun x => x.without g t).filter keep }

/-- WATCHDOG in one thread, at the word it stands at. -/
def State.watchdogHit (s : State) (l : Lane) : State :=
  let th := s.thread l
  let s0 := s
  let s := match th.hold with
    | some _ => s.modCrew (s.grp l.g).crew fun c => { c with slots := c.slots.mapVals fun _ r => r.without l.g l.t }
    | none => s
  let between := th.hold.isNone && !th.mid && !s.inGang l.g l.t
  let s := (s.takeFault l th.pc (s.freeFault .watchdog)).used 1
  if between then s0.headerEntry s l else s

/-- The watchdog limit of a group in units of time. -/
def State.wdLimit (s : State) (g : Group) : Nat := (s.partn g.part).wdLimit * 20

def State.watchdog (s : State) (gid : Nat) : Option State :=
  match s.group? gid with
  | none => none
  | some g =>
    if g.wd < s.wdLimit g then none
    else
      let ls := (g.live.map fun e => ({ g := gid, t := e.1, sh := false } : Lane)).filter fun l => !s.exempt l
      let s := s.modGroup gid fun g => { g with wd := 0 }
      some (ls.foldl (fun s l => s.watchdogHit l) s)

def execWatchdog (g : Nat) : State → Host.Outcome State Fault Refusal := runEvent fun s => s.watchdog g

end Sys2Proof.Machine
end

