-- ==== Sys2Proof/Machine/Dispatch.lean ====
section
/-! DEFINITION. The meaning of each instruction word and each event: one arm per constructor, one direct call each. -/

namespace Sys2Proof.Machine

open Sys2Proof

def exec (i : Instr) (s : State) : Host.Outcome State Fault Refusal :=
  match i with
  | .iadd h x => Sys2Proof.Machine.execIadd h x s
  | .isub h x => Sys2Proof.Machine.execIsub h x s
  | .imul h x => Sys2Proof.Machine.execImul h x s
  | .imulh h x => Sys2Proof.Machine.execImulh h x s
  | .imad h x => Sys2Proof.Machine.execImad h x s
  | .imadw h x => Sys2Proof.Machine.execImadw h x s
  | .ineg h x => Sys2Proof.Machine.execIneg h x s
  | .iabs h x => Sys2Proof.Machine.execIabs h x s
  | .imin h x => Sys2Proof.Machine.execImin h x s
  | .imax h x => Sys2Proof.Machine.execImax h x s
  | .lea h x => Sys2Proof.Machine.execLea h x s
  | .and h x => Sys2Proof.Machine.execAnd h x s
  | .or h x => Sys2Proof.Machine.execOr h x s
  | .xor h x => Sys2Proof.Machine.execXor h x s
  | .andn h x => Sys2Proof.Machine.execAndn h x s
  | .bool3 h x => Sys2Proof.Machine.execBool3 h x s
  | .shl h x => Sys2Proof.Machine.execShl h x s
  | .shr h x => Sys2Proof.Machine.execShr h x s
  | .rot h x => Sys2Proof.Machine.execRot h x s
  | .fshl h x => Sys2Proof.Machine.execFshl h x s
  | .bfx h x => Sys2Proof.Machine.execBfx h x s
  | .bfi h x => Sys2Proof.Machine.execBfi h x s
  | .brev h x => Sys2Proof.Machine.execBrev h x s
  | .popc h x => Sys2Proof.Machine.execPopc h x s
  | .clz h x => Sys2Proof.Machine.execClz h x s
  | .ctz h x => Sys2Proof.Machine.execCtz h x s
  | .icmp h x => Sys2Proof.Machine.execIcmp h x s
  | .isel h x => Sys2Proof.Machine.execIsel h x s
  | .iaddImm h x => Sys2Proof.Machine.execIaddImm h x s
  | .isubImm h x => Sys2Proof.Machine.execIsubImm h x s
  | .imulImm h x => Sys2Proof.Machine.execImulImm h x s
  | .iminImm h x => Sys2Proof.Machine.execIminImm h x s
  | .imaxImm h x => Sys2Proof.Machine.execImaxImm h x s
  | .andImm h x => Sys2Proof.Machine.execAndImm h x s
  | .orImm h x => Sys2Proof.Machine.execOrImm h x s
  | .xorImm h x => Sys2Proof.Machine.execXorImm h x s
  | .shlImm h x => Sys2Proof.Machine.execShlImm h x s
  | .shrImm h x => Sys2Proof.Machine.execShrImm h x s
  | .rotImm h x => Sys2Proof.Machine.execRotImm h x s
  | .plog h x => Sys2Proof.Machine.execPlog h x s
  | .pmovGet h d => Sys2Proof.Machine.execPmovGet h d s
  | .pmovSet h a b => Sys2Proof.Machine.execPmovSet h a b s
  | .mov h x => Sys2Proof.Machine.execMov h x s
  | .movi h d imm => Sys2Proof.Machine.execMovi h d imm s
  | .movi32 h d imm => Sys2Proof.Machine.execMovi32 h d imm s
  | .movs h d r => Sys2Proof.Machine.execMovs h d r s
  | .movsw h r b => Sys2Proof.Machine.execMovsw h r b s
  | .elect h pd d => Sys2Proof.Machine.execElect h pd d s
  | .movjToJ h j a => Sys2Proof.Machine.execMovjToJ h j a s
  | .movjToV h d j => Sys2Proof.Machine.execMovjToV h d j s
  | .bra h off => Sys2Proof.Machine.execBra h off s
  | .brx h r => Sys2Proof.Machine.execBrx h r s
  | .call h off => Sys2Proof.Machine.execCall h off s
  | .callx h r => Sys2Proof.Machine.execCallx h r s
  | .callL h off pad => Sys2Proof.Machine.execCallL h off pad s
  | .callxL h r off => Sys2Proof.Machine.execCallxL h r off s
  | .ret h => Sys2Proof.Machine.execRet h s
  | .throw h => Sys2Proof.Machine.execThrow h s
  | .jarm h j => Sys2Proof.Machine.execJarm h j s
  | .waitj h j => Sys2Proof.Machine.execWaitj h j s
  | .yield h => Sys2Proof.Machine.execYield h s
  | .exit h => Sys2Proof.Machine.execExit h s
  | .nop h => Sys2Proof.Machine.execNop h s
  | .fadd h x => Sys2Proof.Machine.execFadd h x s
  | .fsub h x => Sys2Proof.Machine.execFsub h x s
  | .fmul h x => Sys2Proof.Machine.execFmul h x s
  | .ffma h x => Sys2Proof.Machine.execFfma h x s
  | .fmin h x => Sys2Proof.Machine.execFmin h x s
  | .fmax h x => Sys2Proof.Machine.execFmax h x s
  | .fcmp h x => Sys2Proof.Machine.execFcmp h x s
  | .fclass h x => Sys2Proof.Machine.execFclass h x s
  | .frnd h x => Sys2Proof.Machine.execFrnd h x s
  | .fscale h x => Sys2Proof.Machine.execFscale h x s
  | .frcp h x => Sys2Proof.Machine.execFrcp h x s
  | .frsq h x => Sys2Proof.Machine.execFrsq h x s
  | .fsqrt h x => Sys2Proof.Machine.execFsqrt h x s
  | .fexp2 h x => Sys2Proof.Machine.execFexp2 h x s
  | .flog2 h x => Sys2Proof.Machine.execFlog2 h x s
  | .fsin h x => Sys2Proof.Machine.execFsin h x s
  | .fcos h x => Sys2Proof.Machine.execFcos h x s
  | .ftanh h x => Sys2Proof.Machine.execFtanh h x s
  | .fcvt h x => Sys2Proof.Machine.execFcvt h x s
  | .icvt h x => Sys2Proof.Machine.execIcvt h x s
  | .extp h x => Sys2Proof.Machine.execExtp h x s
  | .packp h x => Sys2Proof.Machine.execPackp h x s
  | .shfl h x => Sys2Proof.Machine.execShfl h x s
  | .vote h x => Sys2Proof.Machine.execVote h x s
  | .redx h x => Sys2Proof.Machine.execRedx h x s
  | .scanx h x => Sys2Proof.Machine.execScanx h x s
  | .matchx h x => Sys2Proof.Machine.execMatchx h x s
  | .xsnd h x => Sys2Proof.Machine.execXsnd h x s
  | .xrcv h x => Sys2Proof.Machine.execXrcv h x s
  | .shapeQ h d a => Sys2Proof.Machine.execShapeQ h d a s
  | .shapeG h d => Sys2Proof.Machine.execShapeG h d s
  | .aff h d a b => Sys2Proof.Machine.execAff h d a b s
  | .ld h x => Sys2Proof.Machine.execLd h x s
  | .st h x => Sys2Proof.Machine.execSt h x s
  | .bld h x => Sys2Proof.Machine.execBld h x s
  | .bst h x => Sys2Proof.Machine.execBst h x s
  | .atom h x => Sys2Proof.Machine.execAtom h x s
  | .atomNr h x => Sys2Proof.Machine.execAtomNr h x s
  | .acas h x => Sys2Proof.Machine.execAcas h x s
  | .smap h x => Sys2Proof.Machine.execSmap h x s
  | .sunmap h bd => Sys2Proof.Machine.execSunmap h bd s
  | .sflush h bd => Sys2Proof.Machine.execSflush h bd s
  | .smode h bd coh => Sys2Proof.Machine.execSmode h bd coh s
  | .cflush h x => Sys2Proof.Machine.execCflush h x s
  | .cinv h x => Sys2Proof.Machine.execCinv h x s
  | .icinv h x => Sys2Proof.Machine.execIcinv h x s
  | .mscfl h scope => Sys2Proof.Machine.execMscfl h scope s
  | .fence h scope kind => Sys2Proof.Machine.execFence h scope kind s
  | .bar h => Sys2Proof.Machine.execBar h s
  | .bara h x => Sys2Proof.Machine.execBara h x s
  | .barw h x => Sys2Proof.Machine.execBarw h x s
  | .waitc h x => Sys2Proof.Machine.execWaitc h x s
  | .copy h x => Sys2Proof.Machine.execCopy h x s
  | .seal h d => Sys2Proof.Machine.execSeal h d s
  | .waitb h a => Sys2Proof.Machine.execWaitb h a s
  | .htime h d hs => Sys2Proof.Machine.execHtime h d hs s
  | .sleept h a hs => Sys2Proof.Machine.execSleept h a hs s
  | .hwait h hs => Sys2Proof.Machine.execHwait h hs s
  | .htest h pa pb hs => Sys2Proof.Machine.execHtest h pa pb hs s
  | .hcancel h hs => Sys2Proof.Machine.execHcancel h hs s
  | .hmovToH h hd a => Sys2Proof.Machine.execHmovToH h hd a s
  | .hmovToV h d ha => Sys2Proof.Machine.execHmovToV h d ha s
  | .rbegin h scope off => Sys2Proof.Machine.execRbegin h scope off s
  | .rcommit h => Sys2Proof.Machine.execRcommit h s
  | .rabort h => Sys2Proof.Machine.execRabort h s
  | .tacq h y va => Sys2Proof.Machine.execTacq h y va s
  | .trel h y va => Sys2Proof.Machine.execTrel h y va s
  | .tld h x => Sys2Proof.Machine.execTld h x s
  | .tsv h x => Sys2Proof.Machine.execTsv h x s
  | .tzero h y tn => Sys2Proof.Machine.execTzero h y tn s
  | .tmovGet h x => Sys2Proof.Machine.execTmovGet h x s
  | .tmovPut h x => Sys2Proof.Machine.execTmovPut h x s
  | .mma h x => Sys2Proof.Machine.execMma h x s
  | .tsum h x => Sys2Proof.Machine.execTsum h x s
  | .qcv h x => Sys2Proof.Machine.execQcv h x s
  | .ptld h x => Sys2Proof.Machine.execPtld h x s
  | .smset h x => Sys2Proof.Machine.execSmset h x s
  | .smld h x => Sys2Proof.Machine.execSmld h x s
  | .smst h x => Sys2Proof.Machine.execSmst h x s
  | .smmov h md ma => Sys2Proof.Machine.execSmmov h md ma s
  | .smmovGet h x => Sys2Proof.Machine.execSmmovGet h x s
  | .smmovPut h x => Sys2Proof.Machine.execSmmovPut h x s
  | .smadd h x => Sys2Proof.Machine.execSmadd h x s
  | .smscl h x => Sys2Proof.Machine.execSmscl h x s
  | .smtr h md ma => Sys2Proof.Machine.execSmtr h md ma s
  | .smmul h x => Sys2Proof.Machine.execSmmul h x s
  | .smmad h x => Sys2Proof.Machine.execSmmad h x s
  | .smchol h x => Sys2Proof.Machine.execSmchol h x s
  | .smlu h x => Sys2Proof.Machine.execSmlu h x s
  | .smsolve h x => Sys2Proof.Machine.execSmsolve h x s
  | .trap h code => Sys2Proof.Machine.execTrap h code s
  | .brk h code => Sys2Proof.Machine.execBrk h code s
  | .errinjZflip h va n bit => Sys2Proof.Machine.execErrinjZflip h va n bit s
  | .errinjVflip1 h va bit => Sys2Proof.Machine.execErrinjVflip1 h va bit s
  | .errinjVflip2 h va b1 b2 => Sys2Proof.Machine.execErrinjVflip2 h va b1 b2 s
  | .errinjPoison h va => Sys2Proof.Machine.execErrinjPoison h va s
  | .launch h va q hd => Sys2Proof.Machine.execLaunch h va q hd s
  | .signalSt h va vb => Sys2Proof.Machine.execSignalSt h va vb s
  | .signalAdd h va vb => Sys2Proof.Machine.execSignalAdd h va vb s
  | .irq h vec => Sys2Proof.Machine.execIrq h vec s
  | .qld h q m scope hint => Sys2Proof.Machine.execQld h q m scope hint s
  | .qloop h r off => Sys2Proof.Machine.execQloop h r off s
  | .qend h => Sys2Proof.Machine.execQend h s
  | .gangIssue quad pc gs => Sys2Proof.Machine.execGangIssue quad pc gs s
  | .clauseFetch g pc => Sys2Proof.Machine.execClauseFetch g pc s
  | .watchdog g => Sys2Proof.Machine.execWatchdog g s
  | .pathAged g pc => Sys2Proof.Machine.execPathAged g pc s
  | .loadComplete op => Sys2Proof.Machine.execLoadComplete op s
  | .storeComplete op => Sys2Proof.Machine.execStoreComplete op s
  | .requestRepresent op => Sys2Proof.Machine.execRequestRepresent op s
  | .directoryRequest op => Sys2Proof.Machine.execDirectoryRequest op s
  | .forwardedRequest sector core => Sys2Proof.Machine.execForwardedRequest sector core s
  | .mscWriteback line => Sys2Proof.Machine.execMscWriteback line s
  | .hostSnoop x => Sys2Proof.Machine.execHostSnoop x s
  | .remoteAccess x => Sys2Proof.Machine.execRemoteAccess x s
  | .spanNack port => Sys2Proof.Machine.execSpanNack port s
  | .spanRecoveryStart port => Sys2Proof.Machine.execSpanRecoveryStart port s
  | .spanLinkDrop port => Sys2Proof.Machine.execSpanLinkDrop port s
  | .spanRecoveryEnd port => Sys2Proof.Machine.execSpanRecoveryEnd port s
  | .recoveryBound port => Sys2Proof.Machine.execRecoveryBound port s
  | .hostLinkDrop port => Sys2Proof.Machine.execHostLinkDrop port s
  | .copyStart die => Sys2Proof.Machine.execCopyStart die s
  | .copyComplete c => Sys2Proof.Machine.execCopyComplete c s
  | .copyStop c => Sys2Proof.Machine.execCopyStop c s
  | .copyCancelStop c => Sys2Proof.Machine.execCopyCancelStop c s
  | .mmaComplete core => Sys2Proof.Machine.execMmaComplete core s
  | .tileOpComplete core op => Sys2Proof.Machine.execTileOpComplete core op s
  | .tileDataFault core op => Sys2Proof.Machine.execTileDataFault core op s
  | .qldReturn g n => Sys2Proof.Machine.execQldReturn g n s
  | .commitPerform core => Sys2Proof.Machine.execCommitPerform core s
  | .sleeptWake l => Sys2Proof.Machine.execSleeptWake l s
  | .stagedStart die => Sys2Proof.Machine.execStagedStart die s
  | .queueTake p q => Sys2Proof.Machine.execQueueTake p q s
  | .stampTimeout p q => Sys2Proof.Machine.execStampTimeout p q s
  | .launchBufferWrite p q => Sys2Proof.Machine.execLaunchBufferWrite p q s
  | .launchReady l => Sys2Proof.Machine.execLaunchReady l s
  | .crewAdmit l unit => Sys2Proof.Machine.execCrewAdmit l unit s
  | .launchComplete l => Sys2Proof.Machine.execLaunchComplete l s
  | .replayRestore l => Sys2Proof.Machine.execReplayRestore l s
  | .pctlCreate p => Sys2Proof.Machine.execPctlCreate p s
  | .pctlKill p => Sys2Proof.Machine.execPctlKill p s
  | .pctlWake p => Sys2Proof.Machine.execPctlWake p s
  | .pctlSwapout p => Sys2Proof.Machine.execPctlSwapout p s
  | .functionLevelReset p => Sys2Proof.Machine.execFunctionLevelReset p s
  | .killComplete p => Sys2Proof.Machine.execKillComplete p s
  | .tsliceExpiry p => Sys2Proof.Machine.execTsliceExpiry p s
  | .latencyIdleExpiry p => Sys2Proof.Machine.execLatencyIdleExpiry p s
  | .saveComplete p => Sys2Proof.Machine.execSaveComplete p s
  | .swapIn p => Sys2Proof.Machine.execSwapIn p s
  | .restoreComplete p => Sys2Proof.Machine.execRestoreComplete p s
  | .tlbinvStart p val => Sys2Proof.Machine.execTlbinvStart p val s
  | .tlbinvDone p => Sys2Proof.Machine.execTlbinvDone p s
  | .mbxbaseWrite port val => Sys2Proof.Machine.execMbxbaseWrite port val s
  | .errrecRead die => Sys2Proof.Machine.execErrrecRead die s
  | .registerWrite x => Sys2Proof.Machine.execRegisterWrite x s
  | .dbgStop c => Sys2Proof.Machine.execDbgStop c s
  | .dbgResume c => Sys2Proof.Machine.execDbgResume c s
  | .dbgStep c => Sys2Proof.Machine.execDbgStep c s
  | .dbgCancel c => Sys2Proof.Machine.execDbgCancel c s
  | .clusterFrozen c => Sys2Proof.Machine.execClusterFrozen c s
  | .heartbeatTimeout die => Sys2Proof.Machine.execHeartbeatTimeout die s
  | .rebuildComplete => Sys2Proof.Machine.execRebuildComplete s
  | .zoneUpdate die temps => Sys2Proof.Machine.execZoneUpdate die temps s
  | .powerMeasure watts => Sys2Proof.Machine.execPowerMeasure watts s
  | .timeRecalibrate die toff trate => Sys2Proof.Machine.execTimeRecalibrate die toff trate s
  | .powerUp x => Sys2Proof.Machine.execPowerUp x s
  | .attestRequest port => Sys2Proof.Machine.execAttestRequest port s
  | .attestDone => Sys2Proof.Machine.execAttestDone s
  | .mmaLastColumn core => Sys2Proof.Machine.execMmaLastColumn core s
  | .hostAgentUnanswered port => Sys2Proof.Machine.execHostAgentUnanswered port s
  | .hostLinkRecoveryEnd port => Sys2Proof.Machine.execHostLinkRecoveryEnd port s

end Sys2Proof.Machine
end

