-- ==== Sys2Proof/Machine/Registers.lean ====
section
/-! DEFINITION. What a read of register space returns: the words of every register block (R18, R248, R275, R313, R341, R342, R347, R357,
R359 to R366, R377, R385, R386, R397, R398, R400, R403, R407, R408, R410, R412). -/

namespace Sys2Proof.Machine

open Sys2Proof

/-- Eight bytes of a list, from an offset. -/
def wordAt (bs : List Byte) (off : Nat) : DWord := byteWord bs off

/-- Word `k` of a list of 64-bit words; 0 beyond it. -/
def wordOf (ws : List DWord) (k : Nat) : DWord := ws.getD k 0

/-! ### The partition block (R341, R347, R377, R400) -/

def PState.code : PState → Nat
  | .free => 0
  | .resident => 1
  | .saving => 2
  | .swapped => 3
  | .restoring => 4
  | .killing => 5

/-- PSTAT. -/
def Partition.pstat (y : Partition) : DWord :=
  BitVec.ofNat 64 (y.gen.toNat * 2 ^ 32 + y.latmiss * 2 ^ 24 + b2n y.badcfg * 2 ^ 15 + b2n y.ctxfull * 2 ^ 14 + b2n y.wakepend * 2 ^ 13 +
    b2n y.killdone * 2 ^ 12 + y.state.code)

/-- TLBINVC. -/
def Partition.tlbinvc (y : Partition) : DWord := BitVec.ofNat 64 (b2n y.tlbBusy * 2 ^ 63 + b2n y.tlbAll * 2 ^ 62 + y.tlbN)

/-- A partition's register block: PSTAT, PCTL (which reads 0), TLBINVA, TLBINVC, SNAPBASE, SNAPLEN, SNAPUSE, TTAB. -/
def Partition.block (y : Partition) : List DWord :=
  [y.pstat, 0, y.tlbinva, y.tlbinvc, y.snapbase, BitVec.ofNat 64 y.snaplen, BitVec.ofNat 64 y.snapuse.length, y.ttab]

/-! ### The debug block of a cluster (R359 to R366) -/

def StepSt.code : StepSt → Nat
  | .none => 0
  | .done => 1
  | .waitBar => 2
  | .waitOther => 3
  | .waitStall => 4
  | .trapped => 5
  | .exited => 6
  | .notLive => 7

def WatchUnit.words (u : WatchUnit) : List DWord := [u.lo, u.hi, u.ctl, u.thr]

/-- DBGSTAT. -/
def Cluster.dbgstat (c : Cluster) : DWord := BitVec.ofNat 64 (c.stepst.code * 16 + b2n c.stepping * 2 + b2n c.stopped)

/-- The two words of a group stop entry (R366). -/
def Group.stopEntry (g : Group) : List DWord :=
  let pc := match lowest (g.live.map fun e => ({ g := 0, t := e.1, sh := false } : Lane)) with
    | some l => ((g.thread? l.t).map fun th => th.pc).getD 0
    | none => 0
  let held := g.live.any fun e => e.2.hold.any fun h => h.kind != .commit
  [BitVec.ofNat 64 (g.gid * 2 ^ 32 + g.skid * 2 ^ 16 + g.base * 2 ^ 8 + g.quad * 2 ^ 6 + g.row * 2 ^ 3 + b2n held * 4 + b2n g.stepped * 2 + 1), pc]

/-- Entry `k` of GSTOP for the core GSEL names. RESUME clears the entries, which a trigger fills again (R363, R370). -/
def State.gstop (s : State) (clu k : Nat) : List DWord :=
  let c := s.cluster clu
  let core := clu / 4 * 96 + clu % 4 * 24 + c.gsel.toNat
  if (c.stopping || c.stopped) && decide (c.gsel.toNat < 24) then
    match s.groups.first fun e => e.2.core == core && e.2.slot == k with
    | some e => e.2.stopEntry
    | none => [0, 0]
  else [0, 0]

/-- A word of a cluster's debug block. -/
def State.debugWord (s : State) (clu off : Nat) : DWord :=
  let c := s.cluster clu
  if off < 0x200 then wordOf (c.wu.get { lo := 0, hi := 0, ctl := 0, thr := 0 } (off / 32)).words (off % 32 / 8)
  else if off = 0x200 then c.dbgctl
  else if off = 0x208 then c.dbgstat
  else if off = 0x210 then c.gsel
  else if 0x220 ≤ off ∧ off < 0x240 then c.stoprec.extractLsb' (64 * ((off - 0x220) / 8)) 64
  else if 0x400 ≤ off then wordOf (s.gstop clu ((off - 0x400) / 16)) (off % 16 / 8)
  else 0

/-! ### The BAR0 of a physical function (R342, R347, R357, R359, R412) -/

def State.pfWord (s : State) (port off : Nat) : DWord :=
  let h := s.hostPort port
  if off = 0 then h.mbxbase
  else if 0x400 ≤ off ∧ off < 0x430 then wordAt h.nonce (off - 0x400)
  else if off = 0x430 then BitVec.ofNat 64 (b2n h.attBusy)
  else if 0x440 ≤ off ∧ off < 0x500 then wordAt h.report (off - 0x440)
  else if 0x1000 ≤ off ∧ off < 0x1800 then (s.partn ((off - 0x1000) / 0x80)).cfg.get 0 (off % 0x80 / 8)
  else if 0x2000 ≤ off ∧ off < 0x3000 then wordOf (s.partn ((off - 0x2000) / 0x100)).block (off % 0x100 / 8)
  else if 0x8000 ≤ off ∧ off < 0x2_8000 then s.debugWord ((off - 0x8000) / 0x800) (off % 0x800)
  else 0

/-! ### Register space (R397) -/

/-- The counter block of a core site: SCHEDCNT at 0x40, CACHECNT at 0x60, ENGCNT at 0x80 (R248, R275, R313). -/
def Core.counters (c : Core) : List DWord :=
  [c.serent, c.serclk, c.refetch, c.aged, c.l1hit, c.l1miss, c.sfill, c.spill, c.mmas, c.zskip, c.zmiss, c.commitsN, c.reread, c.aborts]

/-- The counter block of a die: MEMCNT at 0x100, ERRCNT at 0x140, ERRREC at 0x180 (R275, R385, R386). -/
def Die.counters (d : Die) : List DWord :=
  [d.mscHit, d.mscMiss, d.mscWb, d.memRej, d.memAged, 0, 0, 0,
   d.corr, d.uncorr, d.consume, d.mirror, d.dmr, d.replay, d.snapDrop, d.fabLost,
   d.errrec.extractLsb' 0 64, d.errrec.extractLsb' 64 64]

/-- A word of a die block. A fenced die's block reads as zero but for DIECAP and its zone registers. -/
def State.dieWord (s : State) (die o : Nat) : DWord :=
  let d := s.die die
  if o = 0 then BitVec.ofNat 64 (s.dieCap die)
  else if 0x3_0000 ≤ o ∧ o < 0x3_0080 then d.zone ((o - 0x3_0000) / 8)
  else if d.fenced then 0
  else if o = 0x8 then d.sites.extractLsb' 0 64
  else if o = 0x10 then (d.sites.extractLsb' 64 32).zeroExtend 64
  else if 0x1_0100 ≤ o ∧ o < 0x1_0190 then wordOf d.counters ((o - 0x1_0100) / 8)
  else if o = 0x2_0000 then BitVec.ofNat 64 (s.dclk die)
  else if o = 0x2_0008 then d.toff
  else if o = 0x2_0010 then d.trate.zeroExtend 64
  else if 0x10_0000 ≤ o ∧ o < 0x16_0000 ∧ 0x40 ≤ o % 0x1000 ∧ o % 0x1000 < 0xB0 then
    wordOf (s.core (die * 96 + (o - 0x10_0000) / 0x1000)).counters ((o % 0x1000 - 0x40) / 8)
  else 0

/-- PWR (R408). -/
def Pwr.word (p : Pwr) : DWord := BitVec.ofNat 64 (p.throt * 2 ^ 48 + p.meas * 2 ^ 32 + p.limit)

/-- BOOTSTAT (R410). -/
def Boot.word (b : Boot) : DWord :=
  BitVec.ofNat 64 (b2n b.recovery * 2 ^ 6 + b2n b.degraded * 2 ^ 5 + b2n b.slotB * 2 ^ 4 + b.step)

/-- A word of the package block: HOMEMAP, PWR, BOOTSTAT (R397, R403). -/
def State.packageWord (s : State) (o : Nat) : DWord :=
  if o < 0x100 then BitVec.ofNat 64 ((List.range 8).map fun k => s.homemap.get 0 (o / 8 * 8 + k) * 2 ^ (8 * k)).sum
  else if o = 0x100 then s.pwr.word
  else if o = 0x200 then s.boot.word
  else 0

/-- A word of register space, by its distance from PA 0x3_0000_0000_0000. -/
def State.regWord (s : State) (off : Nat) : DWord :=
  if off < 0x1000_0000 then s.dieWord (off / 0x100_0000) (off % 0x100_0000)
  else if off < 0x1000_1000 then s.packageWord (off - 0x1000_0000)
  else 0

/-- THE 64-BIT WORD A HOST READS at an offset of a register space that is a multiple of 8; in recovery only BOOTSTAT answers (R409; log
entry 14). A read of ERRREC also clears its VALID and OVF (ERRREC_READ). The view of a frozen group of a debug partition is `areaImage` with its thread
extensions; of any other group it reads 0 (R359, R367). -/
def State.registerRead (s : State) (sp : RegSpace) (off : Nat) : DWord :=
  let silent := s.boot.recovery
  match sp with
  | .pf port => if silent then 0 else s.pfWord port.val off
  | .vf p => if silent then 0 else if off < 0x100 then wordOf (s.partn p.val).block (off / 8) else 0
  | .bar2 _ => if silent && off != 0x1000_0200 then 0 else s.regWord off
  | .view g _ => match s.group? g, s.recOf g with
    | some x, some r => if silent || !s.inView g then 0 else wordAt (areaImage r x ++ (x.primaries.map fun e => extBytes e.2).flatten) off
    | _, _ => 0

end Sys2Proof.Machine
end

