-- ==== Sys2Proof/Machine/Clock.lean ====
section
/-! DEFINITION. What the passing of time moves (R245, R247, R248, R262, R322). -/

namespace Sys2Proof.Machine

open Sys2Proof

/-- Do the clocks of a group run: is it resident and not frozen? -/
def State.ticking (s : State) (g : Group) : Bool := s.runs g && !(s.cluster (coreCluster g.core)).stopped

/-- A group after some time: watchdog and ageing counters (R245, R247). -/
def State.tickGroup (s : State) (dt gid : Nat) (g : Group) : Group :=
  if !s.ticking g then g
  else
    let awake := g.live.any fun e => !s.exempt { g := gid, t := e.1, sh := false }
    let free := fun (pc : DWord) => g.live.any fun e => e.2.hold.isNone && s.pathPc gid e.1 e.2 == pc
    let age : Path → Path := fun p =>
      if !free p.pc then p
      else
        let cnt := p.cnt + dt
        { p with cnt, aged := if p.aged.isNone && decide (agedAt ≤ cnt) then some (s.time + dt - (cnt - agedAt)) else p.aged }
    { g with wd := if awake then g.wd + dt else g.wd, paths := g.paths.map age }

/-- SERCLK of a core. -/
def State.tickCore (s : State) (clks core : Nat) (c : Core) : Core :=
  let n := (s.groups.filter fun e => e.2.core == core && e.2.ser && s.ticking e.2).length
  { c with serclk := c.serclk + BitVec.ofNat 64 (n * clks) }

/-- The waits of a RESIDENT partition's queues (R322), and since when a LATENCY partition has no work (R345). -/
def State.tickPart (s : State) (dt p : Nat) (y : Partition) : Partition :=
  if y.state != .resident then y
  else
    let wait : PQueue → PQueue := fun q =>
      let stamped := s.rdNat (q.slot q.head + 248) 8 == (q.head + 1) % 2 ^ 64
      if s.tailPassed q && !stamped then { q with waited := q.waited + dt } else q
    { y with queues := y.queues.mapVals fun _ q => wait q,
             since := if y.qos == 0 && s.hasWork p then s.time + dt else y.since }

/-- Lines the memory-side cache has held dirty for 100 µs are written back (R262). -/
def State.tickMsc (s : State) : State :=
  let late := AMap.keys (s.sectors.filter fun e => e.2.msc.any fun t => decide (t + 100000 * 17 ≤ s.time))
  late.foldl (fun (s : State) k => s.mscDrain (k / 4)) s

/-- Time passes, as much as the turn says (log entry 9). -/
def State.tick (s : State) (dt : Nat) : State :=
  if dt = 0 then s
  else
    let clks := (s.time + dt) / 20 - s.time / 20
    let s1 := { s with groups := s.groups.mapVals (fun k g => s.tickGroup dt k g), cores := s.cores.mapVals (fun k c => s.tickCore clks k c),
                       parts := s.parts.mapVals (fun k y => s.tickPart dt k y), time := s.time + dt }
    s1.tickMsc

end Sys2Proof.Machine
end

