-- ==== Sys2Proof/Machine/Turns.lean ====
section
/-! DEFINITION. What the agent whose turn it is issues next, and how a word is placed where the next step finds it (log
entries 1 and 7). -/

namespace Sys2Proof.Machine

open Sys2Proof

/-- What the agent at its turn does. -/
inductive Upcoming
  | idle
  | run (i : Instr) (s : State)
  | change (s : State)
  deriving DecidableEq, Repr

/-- A frozen group issues nothing, unless the debugger steps it (R364, R368); nor does a group on a fenced die (R401). -/
def State.mayIssue (s : State) (gang : Gang) : Bool :=
  (!(s.cluster (coreCluster (gang.quad / 4))).stopped || gang.step) && !(s.die (coreDie (gang.quad / 4))).fenced

/-- A gang's next word, decoded; a word that decodes to nothing takes its fault here (R89, R90). -/
def State.gangTurn (s : State) (k : Nat) : Upcoming :=
  match s.gang? k with
  | none => .idle
  | some gang =>
    if !s.mayIssue gang then .idle
    else match gang.clause.words[gang.ix]? with
      | none => .change { s with gangs := s.gangs.erase k, cur := .none }
      | some w => match decode w with
        | .ok i => .run i s
        | .illegalOpc => .change (s.illegalWord k gang (natField w.toNat 54 10) .illegalOpc)
        | .illegalEnc => .change (s.illegalWord k gang (natField w.toNat 54 10) .illegalEnc)

/-- The fetch of an access slice's clause fails: the launch reports ACCESS, and poison met on the way is consumed (R187, R375). -/
def State.sliceFetchFails (s : State) (g : Nat) (x : Group) (f : FaultInfo) : State :=
  if f.cause = .poison then
    let (s, gone) := s.consume (coreDie x.core) x.launch x.gid f
    if gone then s else s.sliceFail g
  else s.sliceFail g

/-- An access slice's next word: its clause is fetched first and must be of class ACC; whatever an access slice may not run
fails the launch (R187). A slice goes on while its cluster is stopping, and is frozen once it has stopped (log entry 42). -/
def State.sliceTurn (s : State) (g : Nat) : Upcoming :=
  match s.group? g with
  | none => .idle
  | some x =>
    if !x.slice.running || !s.runs x || (s.cluster (coreCluster x.core)).stopped then .idle
    else match x.slice.clause with
      | none =>
        if !s.fetchOpen x.core x.part x.slice.pc then .idle
        else match s.fetchCheck x.core x.part x.slice.pc with
        | (.error f, s) => .change (s.sliceFetchFails g x f)
        | (.ok c, s) =>
          if c.hdr.eng == EngClass.acc then .change (s.modGroup g fun x =>
            { x with slice := { x.slice with clause := some c, ix := 0, pc := c.addr + 8 } })
          else .change (s.sliceFail g)
      | some c => match c.words[x.slice.ix]? with
        | none => .change (s.sliceFail g)
        | some w => match decode w with
          | .ok i =>
            if admits .acc (classOfOpc (opcOf i)) && !(endsClause (opcOf i) && decide (x.slice.ix ≠ c.hdr.cnt)) then
              .run i s
            else .change (s.sliceFail g)
          | .illegalOpc | .illegalEnc => .change (s.sliceFail g)

/-- What the agent at its turn issues next. -/
def State.upcoming (s : State) : Upcoming :=
  match s.cur with
  | .none => .idle
  | .gang k => s.gangTurn k
  | .slice g => s.sliceTurn g

/-! ### Placing one word (log entry 7) -/

/-- A launch record that admits every operand a word can name. -/
def probeRec : LaunchRec :=
  { entry := 0x4_0000_0000, access := 8, rtab := 0, stkbase := 0x5_0000_0000, handler := 0, itot := 1, itile := 1,
    crews := 1, width := 1, gpc := 1, cscope := 0, mcnt := 8, mdim := 6, vcnt := 96, stkf := 4, gscr := 0, cregs := 1,
    cscr := 0, cstash := 0, prio := 0, split := false, idem := false, snap := false, prot := false, fair := false,
    preds := [], crec := 0 }

/-- The engine class of a clause that may hold a word. -/
def classFor (opc : Nat) : EngClass :=
  match classOfOpc opc with
  | .only c => c
  | .anyButAcc | .alsoAcc => .vec

/-- The clause at 0x4_0000_0000 that holds a word, followed by EXIT unless the word ends its clause. -/
def probeClause (w : Nat) : Clause :=
  let opc := natField w 54 10
  let one := endsClause opc
  { addr := 0x4_0000_0000,
    hdr := { cnt := if one then 0 else 1, eng := classFor opc, yld := false, wld := 15, wst := 15, wcp := 15, wtl := 15, hold := 0 },
    words := BitVec.ofNat 64 w :: (if one then [] else [encode (.exit Head.plain)]) }

/-- The launch, the partition, the crew and the group of one thread at a clause. -/
def State.placeProbe (s : State) (k : Nat) (c : Clause) : State :=
  let th := Thread.create (c.addr + 8)
  let slice : Slice := { running := c.hdr.eng == .acc, pc := c.addr + 8, clause := some c, ix := 0, v := [] }
  let grp : Group := { Group.nobody with width := 1, crew := k, launch := k, b := [(0, flatRec)], bPlaced := [(0, flatRec)],
                                         slice := slice, threads := [(0, th)] }
  let p0 := s.partn 0
  let part := { p0 with state := .resident, cfg := p0.cfg.set 4 0x0800_10FF_0001 }
  let lau : Launch := { part := 0, queue := 0, resv := 0, lrec := probeRec, rtab := [], state := .running, reason := none,
                        fault := none, replayFault := none, tstart := 0, tend := 0, nreplay := 0, crewsC := 1, dealt := [],
                        retired := 0, mirr := false, sideEffect := false, snap := .none, caps := [], handle := none,
                        served := none, affected := false, crecPa := 0 }
  let crew : Crew := { launch := k, cid := 0, groups := [k], width := 1, counts := [], pending := [], exited := [],
                       slots := [], itb := 0, ite := 1, fix := 0, retired := [] }
  let core0 := s.core 0
  { s with parts := s.parts.set 0 part, launches := s.launches.set k lau, crews := s.crews.set k crew,
           groups := s.groups.set k grp, nextId := k + 1,
           cores := s.cores.set 0 { core0 with use := .busy, carve := some { regs := 4, scr := 0, stash := 0 } } }

/-- A gang of the one thread, or its access slice, at the word. -/
def State.atProbe (s : State) (k : Nat) (c : Clause) : State :=
  if c.hdr.eng = .acc then { s with cur := .slice k }
  else
    let gang : Gang := { quad := 0, clause := c, ix := 0, lanes := [{ g := k, t := 0, sh := false }], ops := [], yld := false, wip := none,
                         step := false, issueId := k }
    { s with gangs := s.gangs.set k gang, cur := .gang k }

end Sys2Proof.Machine
end

