-- ==== Sys2Proof/Machine/Upset.lean ====
section
/-! DEFINITION. Errors found in stored bits (R373, R391, R392): what the environment of a part may do to it at any time, a move of the
agenda (log entry 33). -/

namespace Sys2Proof.Machine

open Sys2Proof

/-- A corrected error is counted on a die (R385). -/
def State.corrAt (s : State) (die : Nat) : State := s.modDie die fun d => { d with corr := d.corr + 1 }

/-- An error in the stored word that supplies a thread's general register, met at its next read. -/
def VReg.upset (r : VReg) (t : Nat) (fatal : Bool) : VReg :=
  let m : Word := if fatal then 3 else 1
  match r.val with
  | .g _ => { r with errs := r.errs.set t m }
  | .u _ | .a _ _ => { r with err := m }

/-- An error in a word of the register pool: a single one is corrected at the read that finds it, an uncorrectable one stays for the
reading word (R373, R392). -/
def State.upsetPool (s : State) (l : Lane) (fatal : Bool) (mark : State → State) : State :=
  if (s.thread? l).isNone then s
  else if fatal then mark s else s.corrAt (coreDie (s.grp l.g).core)

/-- An uncorrectable error in a sector that has no other copy poisons it, in a clean copy it is as good as corrected (R373). -/
def State.upsetCopy (s : State) (sec die src : Nat) (here dirty fatal : Bool) (drop : State → State) : State :=
  if !here then s
  else if !fatal then s.corrAt die
  else if dirty then s.poisonSector sec die src
  else (drop s).corrAt die

/-- The error in a cached or stored copy of a sector of memory. -/
def State.upsetSector (s : State) (a : ErrAt) (fatal : Bool) : State :=
  match a with
  | .l1 core sec =>
    let x := s.sector sec
    let own := x.l1.find? core
    s.upsetCopy sec (coreDie core) 3 own.isSome (own == some L1St.m || own == some L1St.o) fatal fun s => s.dropCopy core sec
  | .l2 die sec =>
    let x := s.sector sec
    s.upsetCopy sec die 4 (x.l2own == some die || x.l2dirty == some die || x.l2s.contains die) (x.l2dirty == some die) fatal id
  | .msc sec =>
    let x := s.sector sec
    s.upsetCopy sec (s.home (64 * sec)) 5 x.mscHas x.msc.isSome fatal fun s => s.modSector sec fun x => { x with mscHas := false }
  | .hbm sec =>
    let x := s.sector sec
    let only := s.paKind (64 * sec) == PaKind.hbm && x.win.isNone && x.l1.isEmpty && x.l2own.isNone && x.l2dirty.isNone && x.l2s.isEmpty &&
      !x.mscHas
    s.upsetCopy sec (s.home (64 * sec)) 6 only true fatal id
  | .icache core sec =>
    s.upsetCopy sec (coreDie core) 3 ((s.core core).icache.find? sec).isSome false fatal fun s =>
      s.modCore core fun c => { c with icache := c.icache.erase sec }
  | .vreg _ _ | .mreg _ _ _ | .frame _ _ | .scratch _ _ | .stash _ _ _ | .tileZ _ _ _ | .tileY _ _ _ | .table _ _ _ | .control _ => s

/-- A window sector is poisoned, and what memory knows of it where the window holds it as H (R258, R374). -/
def State.poisonHeld (s : State) (core w k : Nat) (pa : Option Nat) : State :=
  let s := s.poisonWin core w k
  match (s.win? core w).filter (fun x => x.coh), pa with
  | some _, some a => s.modSector (a / 64) fun x => { x with poison := true }
  | _, _ => s

/-- The error in a core's own stores: scratchpad, stash windows, tiles, permutation tables. -/
def State.upsetCore (s : State) (a : ErrAt) (fatal : Bool) : State :=
  let at' := fun (die src pa : Nat) (here : Bool) (mark : State → State) =>
    if !here then s else if fatal then (mark s).uncorrAt die src pa else s.corrAt die
  let hit := fun (die src : Nat) => at' die src 0
  match a with
  | .scratch g k => hit (coreDie (s.grp g).core) 2 (decide (64 * k < s.gscr g)) fun s => s.poisonScratch g k
  | .stash core w k =>
    let pa := match s.memOf (.win core w (64 * k)) with
      | .phys pa => some (pa / 64 * 64)
      | .aper _ _ | .win _ _ _ => none
    at' (coreDie core) 2 (pa.getD 0) (((s.win? core w).bind fun x => x.sectors.find? k).isSome) fun s => s.poisonHeld core w k pa
  | .tileZ core t k => hit (coreDie core) 7 (decide (t < 8 ∧ k < 4224)) fun s =>
    s.modCore core fun c => { c with z := c.z.upd { els := [], poison := [] } t fun z => { z with poison := k :: z.poison } }
  | .tileY core t k => hit (coreDie core) 7 (decide (t < 8 ∧ k < 4096)) fun s =>
    s.modCore core fun c => { c with y := c.y.upd { els := [], poison := [] } t fun y => { y with poison := k :: y.poison } }
  | .table core t k => hit (coreDie core) 7 (decide (k < ((s.core core).tab.get { len := 0, ent := [] } t).len)) fun s =>
    s.modCore core fun c => { c with tab := c.tab.modify t fun p => { p with bad := k :: p.bad } }
  | .vreg _ _ | .mreg _ _ _ | .frame _ _ | .l1 _ _ | .l2 _ _ | .msc _ | .hbm _ | .icache _ _ | .control _ => s

/-- AN ERROR IN STORED BITS: corrected, or with the effect R373 gives an uncorrectable one at that place. -/
def State.upset (s : State) (a : ErrAt) (fatal : Bool) : State :=
  match a with
  | .vreg l n => s.upsetPool l true fun s => s.modGroup l.g fun x =>
    if x.spilled.contains n then x else x.setVreg l.sh n ((x.vreg l.sh n).upset l.t fatal)
  | .mreg l m el => s.upsetPool l fatal fun s =>
    s.modThread l fun th => { th with m := th.m.modify m fun x => { x with bad := el :: x.bad } }
  | .frame l i => s.upsetPool l fatal fun s =>
    s.modThread l fun th => { th with frames := if i < 4 then th.frames.modify i fun f => { f with bad := true } else th.frames }
  | .control die => if fatal then s.fence die else s.corrAt die
  | .scratch _ _ | .stash _ _ _ | .tileZ _ _ _ | .tileY _ _ _ | .table _ _ _ => s.upsetCore a fatal
  | .l1 _ _ | .l2 _ _ | .msc _ | .hbm _ | .icache _ _ => s.upsetSector a fatal

end Sys2Proof.Machine
end

