-- ==== Sys2Proof/Machine/Step.lean ====
section
/-! DEFINITION. One step: the next move of the agenda, or the next word of the agent at its turn, and then whatever the step
made ready at once (log entry 1). -/

namespace Sys2Proof.Machine

open Sys2Proof

/-- The waits a step has ended are released in the same step (R133, R155, R177). -/
def settled : Host.Outcome State Fault Refusal → Host.Outcome State Fault Refusal
  | .next s => .next s.settle
  | .fault f => .fault f
  | .refused r => .refused r

/-- The agent at its turn issues its next word. -/
def issueNext (s : State) : Host.Outcome State Fault Refusal :=
  match s.upcoming with
  | .idle => .next s
  | .change s' => settled (.next s')
  | .run i s' => settled (exec i s')

/-- One move of the agenda. An event is a row of the table that no word encodes. -/
def moveStep (m : Move) (s : State) : Host.Outcome State Fault Refusal :=
  match m with
  | .gang k => issueNext { s with cur := .gang k }
  | .slice g => issueNext { s with cur := .slice g }
  | .event e => if isWord e then .next s else settled (exec e s)
  | .copySector c => settled (.next (s.copySector c))
  | .tileStore c o => settled (.next (s.tileStore c o))
  | .flitAck n o => settled (.next (s.flitAck n o))
  | .upset a f => settled (.next (s.upset a f))

def step (s : State) : Host.Outcome State Fault Refusal :=
  match s.agenda with
  | [] => issueNext s
  | t :: r => moveStep t.move (State.tick { s with agenda := r } t.dt)

/-- `s` with one word where the next step issues it: a gang of one thread of a launch stands at the word (log entry 7). -/
def State.withFetchWord (s : State) (_nbits w : Nat) : State :=
  let c := probeClause w
  let k := s.nextId
  State.atProbe (State.placeProbe { s with agenda := [] } k c) k c

end Sys2Proof.Machine
end

