-- ==== Sys2Proof/Safety.lean ====
section
/-! DEFINITION. The terms claims are made in: what every run keeps, where a word stands, and what a word leaves alone.

A run is safe when every state it reaches keeps the memory's canonical form. The rest of the file names the settings the
per-word claims speak of: one thread at a word that neither faults, stalls nor meets an error of its own. -/

namespace Sys2Proof.Machine

open Sys2Proof

/-! ### What every run keeps -/

/-- The invariant of every step: memory is in its one canonical form. -/
def State.sound (s : State) : Bool := Memory.wf s.mem

/-- One byte of memory by physical address, as every claim about memory reads it. -/
def State.byteAt (s : State) (a : Nat) : Byte := Memory.get s.mem a

/-! ### A word and the one thread at it -/

/-- The gang at its turn holds one live primary thread of an unprotected group, which nobody holds and nobody steps, at a word without
an encoding fault. -/
def State.standsAt (s : State) (k : Nat) (gang : Gang) (l : Lane) (i : Instr) : Bool :=
  s.cur == .gang k && s.gang? k == some gang && gang.lanes == [l] && !l.sh && !gang.step && (s.thread? l).isSome &&
  (s.thread l).live && (s.thread l).hold.isNone && !(s.grp l.g).prot && (encFault s gang i).isNone

/-- No stored word that a lane reads at a word has an inverted bit (R373). -/
def State.eccClean (s : State) (l : Lane) (i : Instr) : Bool :=
  (s.eccReads l i).isEmpty

/-- The thread's guard is true, no region is open, no error has reached its operands, and the word does not stall. -/
def State.plainAt (s : State) (k : Nat) (gang : Gang) (l : Lane) (i : Instr) : Bool :=
  s.standsAt k gang l i && guardTrue (headPart i).guard (s.thread l) && (s.thread l).region.isNone &&
  (s.laneError i (headPart i).guard l).isNone && s.eccClean l i && !s.laneStalls gang i l && !s.pipeFull (s.grp l.g) i

/-- The word is not the last of its clause (R71). -/
def Gang.inside (gang : Gang) : Bool := decide (gang.ix ≠ gang.clause.hdr.cnt)

/-- V[n] as a lane reads it. -/
def State.v (s : State) (l : Lane) (n : Nat) : Word := (s.grp l.g).readV l n

/-- P[n] of a lane. -/
def State.p (s : State) (l : Lane) (n : Nat) : Bool := (s.thread l).pred n

/-- The operand values a word reads for a lane, with the thread after its queue pops; nothing where a pop faults. -/
def State.operandsOf (s : State) (l : Lane) (i : Instr) : Option (List DWord × Thread) :=
  match readSrcs (s.grp l.g) l (s.thread l) (sources i) with
  | (.ok vs, th) => some (vs, th)
  | (.error _, _) => none

/-- The thread `th` once its gang has gone past the word: it stands at the next word. -/
def Thread.past (th : Thread) (c : Ctx) : Thread :=
  { th with pc := c.w + 8, mid := false, brkDone := false, sofar := [], sofarYld := false }

/-- The lane's gang has gone on to the next word of its clause. -/
def State.wentOn (s t : State) (k : Nat) (gang : Gang) (i : Instr) : Prop :=
  t.cur = s.cur ∧
  t.gang? k = some { gang with ix := gang.ix + 1, wip := none, yld := gang.yld || (headPart i).sched == .yld }

/-! ### What a word leaves alone -/

/-- The parts of a core a word of the execute slice may change without naming them: what it counts (R30, R248). -/
def Core.uncounted (c : Core) : Core := { c with spill := 0, serent := 0, mirs := [] }

/-- Everything outside the lane's own group: memory byte by byte, the other groups, what is in flight, and the rest of the
package. -/
def State.restKept (s t : State) (l : Lane) : Prop :=
  (∀ a, t.byteAt a = s.byteAt a) ∧
  (∀ g, g ≠ l.g → t.group? g = s.group? g) ∧
  (∀ c, (t.core c).uncounted = (s.core c).uncounted) ∧
  t.ops = s.ops ∧ t.copies = s.copies ∧ t.crews = s.crews ∧ t.launches = s.launches ∧ t.parts = s.parts ∧
  t.dies = s.dies ∧ t.clusters = s.clusters ∧ t.sectors = s.sectors ∧ t.hosts = s.hosts ∧ t.span = s.span ∧
  t.msgs = s.msgs ∧ t.time = s.time ∧ t.agenda = s.agenda ∧ t.pwr = s.pwr ∧ t.boot = s.boot

/-- The lane's group beside its general registers: rejoin masks, records, scratchpad, rounds, and every other thread. -/
def State.groupKept (s t : State) (l : Lane) : Prop :=
  (t.grp l.g).j = (s.grp l.g).j ∧ (t.grp l.g).b = (s.grp l.g).b ∧ (t.grp l.g).scratch = (s.grp l.g).scratch ∧
  (t.grp l.g).scratchPoison = (s.grp l.g).scratchPoison ∧ (t.grp l.g).rounds = (s.grp l.g).rounds ∧
  (t.grp l.g).slice = (s.grp l.g).slice ∧
  ∀ m : Lane, m.g = l.g → m.key ≠ l.key → t.thread? m = s.thread? m

/-- Every general register the list does not name is as it was, in every thread of the group. -/
def State.regsKept (s t : State) (l : Lane) (ns : List Nat) : Prop :=
  ∀ n, n ∉ ns → ∀ m : Lane, m.g = l.g → t.v m n = s.v m n

/-- A named register keeps its word in every other live thread of the group. -/
def State.othersKept (s t : State) (l : Lane) (ns : List Nat) : Prop :=
  ∀ n ∈ ns, ∀ m : Lane, m.g = l.g → m.sh = false → m.t ≠ l.t → m.t < 64 → m.t < (s.grp l.g).width →
    (s.thread m).live = true → t.v m n = s.v m n

/-- The destination registers hold a value: one register its low word, a pair both words (R27). -/
def State.destHolds (t : State) (l : Lane) (dst : List Nat) (val : DWord) : Prop :=
  match dst with
  | [] => True
  | [d] => t.v l d = val.lo
  | d :: e :: _ => t.v l d = val.lo ∧ t.v l e = val.hi

/-- The whole outcome of a computing word: the value stands in the destination registers, the thread is `th` at the next word,
and nothing else has changed. -/
def State.computed (s t : State) (k : Nat) (gang : Gang) (l : Lane) (i : Instr) (dst : List Nat) (val : DWord) (th : Thread) :
    Prop :=
  t.destHolds l dst val ∧ t.thread? l = some (th.past (gang.ctx k)) ∧ s.wentOn t k gang i ∧ s.regsKept t l dst ∧
  s.othersKept t l dst ∧ s.groupKept t l ∧ s.restKept t l

/-! ### What a word leaves behind, up to bookkeeping -/

/-- A group up to its bookkeeping: watchdog, skid, last use of registers, serial mode and tracked paths. -/
def Group.alike (x y : Group) : Prop :=
  y = { x with v := y.v, vsh := y.vsh, lru := y.lru, spilled := y.spilled, ser := y.ser, paths := y.paths, wd := y.wd,
               skid := y.skid, stepped := y.stepped } ∧
  ∀ sh n, y.vreg sh n = x.vreg sh n

/-- The state `t` is the state `u` up to the bookkeeping of group `g`, what its core counts, the gangs and the counter of free
values. -/
def State.alike (u t : State) (g : Nat) : Prop :=
  t = { u with groups := t.groups, cores := t.cores, gangs := t.gangs, cur := t.cur, free := t.free } ∧
  (∀ h, h ≠ g → t.group? h = u.group? h) ∧ (∀ c, (t.core c).uncounted = (u.core c).uncounted) ∧
  match u.group? g, t.group? g with
  | some x, some y => x.alike y
  | none, none => True
  | _, _ => False

/-- Every gang but `k` that holds no copy of the lane is as it was. -/
def State.gangsKept (s t : State) (k : Nat) (l : Lane) : Prop :=
  ∀ j x, j ≠ k → s.gang? j = some x → (∀ m ∈ x.lanes, m.g ≠ l.g ∨ m.t ≠ l.t) → t.gang? j = some x

/-- The word has acted as `u` says and its gang goes on at the next word, remembering the operations `ops` it began. -/
def State.passed (s u t : State) (k : Nat) (gang : Gang) (l : Lane) (i : Instr) (ops : List Issued) : Prop :=
  (u.modThread l fun th => th.past (gang.ctx k)).alike t l.g ∧ s.wentOn t k { gang with ops := ops ++ gang.ops } i ∧
  s.gangsKept t k l

/-- The word has acted as `u` says and the one lane has left its gang, which is gone; at a yield point it may stand behind other
paths (R246). -/
def State.leftGang (u t : State) (k : Nat) (l : Lane) : Prop :=
  (∃ b, (u.modThread l fun th => { th with behind := b }).alike t l.g) ∧ t.gang? k = none ∧ t.cur = .none

/-- The lane stands at a clause. -/
def Thread.goneTo (th : Thread) (pc : DWord) : Thread := { th with pc, mid := false, passing := none }

/-- The state after a lane's group has fetched the clause at an address, from its slot or memory, if the fetch succeeds (R77, R241). -/
def State.fetched (s : State) (gang : Gang) (l : Lane) (va : DWord) : Option State :=
  match (s.issued gang).fetchFor l.g va with
  | (.ok _, t) => some t
  | (.error _, _) => none

/-- The fault a fetch by a lane's group meets, with the state after it. -/
def State.fetchFails (s : State) (gang : Gang) (l : Lane) (va : DWord) : Option (FaultInfo × State) :=
  match (s.issued gang).fetchFor l.g va with
  | (.error f, t) => some (f, t)
  | (.ok _, _) => none

end Sys2Proof.Machine
end

