-- ==== Sys2Proof/Certificates/Slice0/Obligations.lean ====
section
/-! DEFINITION. The statements about the model, for the provers: by family of words, of events, of encodings and of invariants.
`Sys2Proof.Spec` holds the terms they are made in. -/

namespace Sys2Proof.Spec

open Sys2Proof Sys2Proof.Machine

/-! ### What the rules say of integer words (R110 to R119), on operand values -/

/-- The number of bits of an operand: w of R110. -/
def bits (w : Bool) : Nat := if w then 64 else 32

/-- An operand read as unsigned. -/
def uns (w : Bool) (x : DWord) : Int := if w then x.toNat else x.lo.toNat

/-- Val of R110: signed when SG = 1. -/
def num (w sg : Bool) (x : DWord) : Int := if sg then (if w then x.toInt else x.lo.toInt) else uns w x

/-- Clip of R110 before its bits are taken. -/
def clipped (w sg : Bool) (v : Int) : Int :=
  let lo : Int := if sg then -2 ^ (bits w - 1) else 0
  let hi : Int := if sg then 2 ^ (bits w - 1) - 1 else 2 ^ bits w - 1
  min (max v lo) hi

/-- The second operand of an immediate form (R114). -/
def imm25 (i : BitVec 25) : DWord := (i.signExtend 32).zeroExtend 64

/-- The integer whose low bits an arithmetic word writes (R111, R114). -/
def arithmetic : Instr → List DWord → Option Int
  | .iadd _ x, [a, b] => some (if x.sat then clipped x.w x.sg (num x.w x.sg a + num x.w x.sg b) else uns x.w a + uns x.w b)
  | .isub _ x, [a, b] => some (if x.sat then clipped x.w x.sg (num x.w x.sg a - num x.w x.sg b) else uns x.w a - uns x.w b)
  | .imul _ x, [a, b] => some (uns x.w a * uns x.w b)
  | .imulh _ x, [a, b] => some (num x.w x.sg a * num x.w x.sg b / 2 ^ bits x.w)
  | .imad _ x, [a, b, c] => some (uns x.w a * uns x.w b + uns x.w c)
  | .imadw _ x, [a, b, c] => some (num false x.sg a * num false x.sg b + uns true c)
  | .ineg _ x, [a] => some (if x.sat then clipped x.w true (-num x.w true a) else -uns x.w a)
  | .iabs _ x, [a] => some (if x.sat then clipped x.w true |num x.w true a| else |num x.w true a|)
  | .imin _ x, [a, b] => some (min (num x.w x.sg a) (num x.w x.sg b))
  | .imax _ x, [a, b] => some (max (num x.w x.sg a) (num x.w x.sg b))
  | .lea _ x, [a, b] => some (uns x.w a + num false x.sg b * 2 ^ x.sh.val)
  | .iaddImm _ x, [a] => some (uns false a + num false true (imm25 x.imm))
  | .isubImm _ x, [a] => some (uns false a - num false true (imm25 x.imm))
  | .imulImm _ x, [a] => some (uns false a * num false true (imm25 x.imm))
  | .iminImm _ x, [a] => some (min (num false true a) (num false true (imm25 x.imm)))
  | .imaxImm _ x, [a] => some (max (num false true a) (num false true (imm25 x.imm)))
  | .movi _ _ imm, [] => some (imm.toInt)
  | .movi32 _ _ imm, [] => some imm.toNat
  | .mov _ x, [a] => some (uns x.w a)
  | _, _ => none

/-- Bit `i` of an operand. -/
def bit (x : DWord) (i : Nat) : Bool := x.getLsbD i

/-- The shift amount: a 32-bit operand read as unsigned (R112). -/
def amt (x : DWord) : Nat := x.lo.toNat

/-- The length of a bit field: cut at the end of the register (R112). -/
def fieldN (w : Bool) (pos len : DWord) : Nat := min (len.toNat % 256) (bits w - pos.toNat % 256)

/-- Bit `i` of what a logic, shift or bit-field word writes (R112 to R114). -/
def logic : Instr → List DWord → Option (Bool × (Nat → Bool))
  | .and _ x, [a, b] => some (x.w, fun i => bit a i && bit b i)
  | .or _ x, [a, b] => some (x.w, fun i => bit a i || bit b i)
  | .xor _ x, [a, b] => some (x.w, fun i => bit a i != bit b i)
  | .andn _ x, [a, b] => some (x.w, fun i => bit a i && !bit b i)
  | .bool3 _ x, [a, b, c] => some (x.w, fun i =>
      x.tt.getLsbD (4 * (bit a i).toNat + 2 * (bit b i).toNat + (bit c i).toNat))
  | .shl _ x, [a, s] => some (x.w, fun i => decide (amt s ≤ i) && bit a (i - amt s))
  | .shr _ x, [a, s] => some (x.w, fun i =>
      if i + amt s < bits x.w then bit a (i + amt s) else x.sg && bit a (bits x.w - 1))
  | .rot _ x, [a, s] => some (x.w, fun i => bit a ((i + bits x.w - amt s % bits x.w) % bits x.w))
  | .fshl _ x, [a, b, s] => some (x.w, fun i =>
      if amt s % bits x.w ≤ i then bit a (i - amt s % bits x.w) else bit b (bits x.w + i - amt s % bits x.w))
  | .bfx _ x, [a, p, n] => some (x.w, fun i =>
      if i < fieldN x.w p n then bit a (p.toNat % 256 + i)
      else x.sg && decide (0 < fieldN x.w p n) && bit a (p.toNat % 256 + fieldN x.w p n - 1))
  | .bfi _ x, [a, p, n, e] => some (x.w, fun i =>
      if p.toNat % 256 ≤ i ∧ i < p.toNat % 256 + fieldN x.w p n then bit a (i - p.toNat % 256) else bit e i)
  | .brev _ x, [a] => some (x.w, fun i => bit a (bits x.w - 1 - i))
  | .andImm _ x, [a] => some (false, fun i => bit a i && bit (imm25 x.imm) i)
  | .orImm _ x, [a] => some (false, fun i => bit a i || bit (imm25 x.imm) i)
  | .xorImm _ x, [a] => some (false, fun i => bit a i != bit (imm25 x.imm) i)
  | .shlImm _ x, [a] => some (false, fun i => decide (x.amt.val ≤ i) && bit a (i - x.amt.val))
  | .shrImm _ x, [a] => some (false, fun i => if i + x.amt.val < 32 then bit a (i + x.amt.val) else x.sg && bit a 31)
  | .rotImm _ x, [a] => some (false, fun i => bit a ((i + 32 - x.amt.val) % 32))
  | _, _ => none

/-- What POPC, CLZ and CTZ write: the number of ones, of leading zeros, of trailing zeros (R112). -/
def counts : Instr → List DWord → Nat → Prop
  | .popc _ x, [a], c => c = (List.range (bits x.w)).countP (bit a)
  | .clz _ x, [a], c => c ≤ bits x.w ∧ (∀ i, bits x.w - c ≤ i → i < bits x.w → bit a i = false) ∧
      (c < bits x.w → bit a (bits x.w - 1 - c) = true)
  | .ctz _ x, [a], c => c ≤ bits x.w ∧ (∀ i, i < c → bit a i = false) ∧ (c < bits x.w → bit a c = true)
  | _, _, _ => False

/-- Is it one of the three counting words? -/
def isCount : Instr → Bool
  | .popc .. | .clz .. | .ctz .. => true
  | _ => false

end Sys2Proof.Spec

open Sys2Proof Sys2Proof.Machine

/-- R111, R114, R119: integer arithmetic, its immediate forms and the plain moves complete: the low bits of the rule's integer
stand in the destination, no flag changes, and nothing else does.
The model's own choices in it: log entry 36. -/
def Obligations.IntegerArithmeticResult : Prop :=
  ∀ (i : Instr) (s : State) (k : Nat) (gang : Gang) (l : Lane) (vs : List DWord) (th : Thread) (v : Int),
    s.plainAt k gang l i = true → gang.inside = true → s.operandsOf l i = some (vs, th) →
    Spec.arithmetic i vs = some v →
    ∃ t, exec i s = .next t ∧ s.computed t k gang l i (writes i) (BitVec.ofInt 64 v) th

/-- R112 to R114: logic, shifts and bit fields complete, each result bit as the rule gives it. -/
def Sys2Proof.Spec.logicAndShiftResultRule : Prop :=
  ∀ (i : Instr) (s : State) (k : Nat) (gang : Gang) (l : Lane) (vs : List DWord) (th : Thread) (w : Bool) (f : Nat → Bool),
    s.plainAt k gang l i = true → gang.inside = true → s.operandsOf l i = some (vs, th) →
    Spec.logic i vs = some (w, f) →
    ∃ t v, exec i s = .next t ∧ s.computed t k gang l i (writes i) v th ∧
      ∀ b, b < Spec.bits w → v.getLsbD b = f b

/-- R112: the counting words complete. -/
def Sys2Proof.Spec.countResultRule : Prop :=
  ∀ (i : Instr) (s : State) (k : Nat) (gang : Gang) (l : Lane) (vs : List DWord) (th : Thread),
    s.plainAt k gang l i = true → gang.inside = true → s.operandsOf l i = some (vs, th) → Spec.isCount i = true →
    ∃ t c, exec i s = .next t ∧ s.computed t k gang l i (writes i) (BitVec.ofNat 64 c) th ∧ Spec.counts i vs c

/-- Logic, shifts, counts and the other one-result integer words: each writes its rule's result and nothing else changes. -/
def Obligations.LogicShiftAndCountResult : Prop :=
  Spec.logicAndShiftResultRule ∧ Spec.countResultRule

/-- R115 to R118: compares, selects and predicate words complete; the second predicate of a compare is written second, and a
write of P31 is discarded (R31). -/
def Obligations.CompareAndPredicateWords : Prop :=
  ∀ (s : State) (k : Nat) (gang : Gang) (l : Lane) (h : Head) (vs : List DWord) (th : Thread),
    (∀ x : IcmpF, s.plainAt k gang l (.icmp h x) = true → gang.inside = true →
      s.operandsOf l (.icmp h x) = some (vs, th) →
      let a := vs.getD 0 0
      let b := vs.getD 1 0
      let c : Bool := match x.cond with
        | .eq => Spec.uns x.w a = Spec.uns x.w b
        | .ne => Spec.uns x.w a ≠ Spec.uns x.w b
        | .lts => Spec.num x.w true a < Spec.num x.w true b
        | .les => Spec.num x.w true a ≤ Spec.num x.w true b
        | .ltu => Spec.uns x.w a < Spec.uns x.w b
        | .leu => Spec.uns x.w a ≤ Spec.uns x.w b
      let pc := (s.thread l).pred x.pc.val
      ∃ t, exec (.icmp h x) s = .next t ∧
        s.computed t k gang l (.icmp h x) [] 0 ((th.setPred x.pa.val (c && pc)).setPred x.pb.val (!c && pc))) ∧
    (∀ x : IselF, s.plainAt k gang l (.isel h x) = true → gang.inside = true →
      s.operandsOf l (.isel h x) = some (vs, th) →
      ∃ t, exec (.isel h x) s = .next t ∧
        s.computed t k gang l (.isel h x) (writes (.isel h x))
          (if (s.thread l).pred x.pc.val then vs.getD 0 0 else vs.getD 1 0) th ∧
        ((t.grp l.g).vreg false x.d.val).val.code = 2) ∧
    (∀ x : PlogF, s.plainAt k gang l (.plog h x) = true → gang.inside = true →
      ∃ t, exec (.plog h x) s = .next t ∧
        s.computed t k gang l (.plog h x) [] 0 ((s.thread l).setPred x.pd.val
          (x.tt.getLsbD (4 * (s.p l x.pa.val).toNat + 2 * (s.p l x.pb.val).toNat + (s.p l x.pc.val).toNat)))) ∧
    (∀ d : Fin 96, s.plainAt k gang l (.pmovGet h d) = true → gang.inside = true →
      ∃ t v, exec (.pmovGet h d) s = .next t ∧ s.computed t k gang l (.pmovGet h d) [d.val] v (s.thread l) ∧
        (∀ n, n < 32 → v.getLsbD n = s.p l n) ∧ ((t.grp l.g).vreg false d.val).val.code = 2) ∧
    (∀ a b : Src, s.plainAt k gang l (.pmovSet h a b) = true → gang.inside = true →
      s.operandsOf l (.pmovSet h a b) = some (vs, th) →
      ∃ t th', exec (.pmovSet h a b) s = .next t ∧ s.computed t k gang l (.pmovSet h a b) [] 0 th' ∧
        th' = { th with preds := th'.preds } ∧
        ∀ n, n < 31 → th'.pred n = if (vs.getD 1 0).getLsbD n then (vs.getD 0 0).getLsbD n else s.p l n)

/-- R120: MOVS reads a special register and MOVSW writes one; the values of R43 that a thread owns, and the clocks. -/
def Obligations.SpecialRegisterWords : Prop :=
  ∀ (s : State) (k : Nat) (gang : Gang) (l : Lane) (h : Head) (r : SReg),
    (∀ d : Fin 96, s.plainAt k gang l (.movs h d r) = true → gang.inside = true →
      ∃ t v, exec (.movs h d r) s = .next t ∧
        s.computed t k gang l (.movs h d r) (if r.wide then [d.val, d.val + 1] else [d.val]) v (s.thread l) ∧
        match r with
        | .tid => v = BitVec.ofNat 64 l.t
        | .width => v = BitVec.ofNat 64 (s.grp l.g).width
        | .gid => v = BitVec.ofNat 64 (s.grp l.g).gid
        | .cid => v = BitVec.ofNat 64 (s.grp l.g).cid
        | .core => v = BitVec.ofNat 64 ((s.grp l.g).core % 96)
        | .clu => v = BitVec.ofNat 64 ((s.grp l.g).core % 96 / 24)
        | .die => v = BitVec.ofNat 64 ((s.grp l.g).core / 96)
        | .clk => v = BitVec.ofNat 64 (s.time / 20)
        | .dclk => v = BitVec.ofNat 64 (s.dclk ((s.grp l.g).core / 96))
        | .fst => v = (s.thread l).fst.zeroExtend 64
        | .fmode => v = (s.thread l).fmode.zeroExtend 64
        | .smf => v = (s.thread l).smf.zeroExtend 64
        | .rstat => v = (s.thread l).rstat.zeroExtend 64
        | .exc => v = (s.thread l).exc
        | .trap => v = (s.thread l).trap.zeroExtend 64
        | .faddr => v = (s.thread l).faddr
        | .col => v = BitVec.ofNat 64 ((s.grp l.g).base + l.t)
        | .gstat | .itb | .ite | .fix => v = s.sreg l r) ∧
    (∀ (b : Src) (vs : List DWord) (th : Thread), s.plainAt k gang l (.movsw h r b) = true → gang.inside = true →
      r.writable = true → s.operandsOf l (.movsw h r b) = some (vs, th) →
      (r = .fmode → (vs.getD 0 0).toNat % 8 ≤ 4) →
      ∃ t th', exec (.movsw h r b) s = .next t ∧ s.computed t k gang l (.movsw h r b) [] 0 th' ∧
        match r with
        | .fst => th' = { th with fst := th.fst &&& ~~~(vs.getD 0 0).lo }
        | .fmode => th' = { th with fmode := (vs.getD 0 0).lo &&& 0xFF07 }
        | .smf => th' = { th with smf := (vs.getD 0 0).lo &&& 0xF0F }
        | _ => th' = { th with exc := vs.getD 0 0 })

/-- R121, R122: an elected thread gets 1 and its own number; a rejoin mask takes the pair below the group's width, and is
read back as a pair. -/
def Obligations.ElectAndRejoinMasks : Prop :=
  ∀ (s : State) (k : Nat) (gang : Gang) (l : Lane) (h : Head),
    (∀ (pd : Fin 32) (d : Option (Fin 96)), s.plainAt k gang l (.elect h pd d) = true → gang.inside = true →
      ∃ t, exec (.elect h pd d) s = .next t ∧
        s.computed t k gang l (.elect h pd d) (writes (.elect h pd d)) (BitVec.ofNat 64 l.t)
          ((s.thread l).setPred pd.val true)) ∧
    (∀ (j : Fin 8) (a : Src) (vs : List DWord) (th : Thread), s.plainAt k gang l (.movjToJ h j a) = true →
      gang.inside = true → s.operandsOf l (.movjToJ h j a) = some (vs, th) →
      ∃ t, exec (.movjToJ h j a) s = .next t ∧ s.wentOn t k gang (.movjToJ h j a) ∧
        t.thread? l = some (th.past (gang.ctx k)) ∧ s.regsKept t l [] ∧ s.restKept t l ∧
        (∀ b, ((t.grp l.g).j.get 0 j.val).getLsbD b =
          (decide (b < (s.grp l.g).width) && (vs.getD 0 0).getLsbD b)) ∧
        ∀ n, n ≠ j.val → (t.grp l.g).j.get 0 n = (s.grp l.g).j.get 0 n) ∧
    (∀ (d : Fin 96) (j : Fin 8), s.plainAt k gang l (.movjToV h d j) = true → gang.inside = true →
      ∃ t, exec (.movjToV h d j) s = .next t ∧
        s.computed t k gang l (.movjToV h d j) [d.val, d.val + 1] ((s.grp l.g).j.get 0 j.val) (s.thread l))

namespace Sys2Proof.Spec

open Sys2Proof Sys2Proof.Machine

/-- One float operation on each element of an operand: one element, or the two halves for `.bf16` (R139). -/
def each1 (t : FFmt) (m : SrcMod) (f : Nat → Nat × Word) (a : DWord) : Nat × Word :=
  match t with
  | .bf16 =>
    let lo := f (applyMod (fpar t) m (a.extractLsb' 0 16).toNat)
    let hi := f (applyMod (fpar t) m (a.extractLsb' 16 16).toNat)
    (lo.1 + 65536 * hi.1, lo.2 ||| hi.2)
  | .f16 => f (applyMod (fpar t) m (a.extractLsb' 0 16).toNat)
  | .f32 => f (applyMod (fpar t) m a.lo.toNat)
  | .f64 => f (applyMod (fpar t) m a.toNat)

/-- The same for two operands: the second one's element is taken with its own modifiers. -/
def each2 (t : FFmt) (ma mb : SrcMod) (f : Nat → Nat → Nat × Word) (a b : DWord) : Nat × Word :=
  match t with
  | .bf16 =>
    let lo := f (applyMod (fpar t) ma (a.extractLsb' 0 16).toNat) (applyMod (fpar t) mb (b.extractLsb' 0 16).toNat)
    let hi := f (applyMod (fpar t) ma (a.extractLsb' 16 16).toNat) (applyMod (fpar t) mb (b.extractLsb' 16 16).toNat)
    (lo.1 + 65536 * hi.1, lo.2 ||| hi.2)
  | .f16 => f (applyMod (fpar t) ma (a.extractLsb' 0 16).toNat) (applyMod (fpar t) mb (b.extractLsb' 0 16).toNat)
  | .f32 => f (applyMod (fpar t) ma a.lo.toNat) (applyMod (fpar t) mb b.lo.toNat)
  | .f64 => f (applyMod (fpar t) ma a.toNat) (applyMod (fpar t) mb b.toNat)

/-- One exact value rounded once, with the flags of both (R51, R52). -/
def rounded (f : FPar) (rm : RMode) (v : FVal × Word) : Nat × Word := ((roundVal f rm v.1).1, (roundVal f rm v.1).2 ||| v.2)

/-- The number a sign, an integer and an exponent stand for. -/
def rat (neg : Bool) (m : Nat) (e : Int) : ℚ := (if neg then -1 else 1) * (m * 2 ^ e)

/-- The single value in the low bits of an operand (R149 to R152). -/
def low (t : FFmt) (a : DWord) : Nat := a.toNat % 2 ^ (fpar t).width

/-- The bits and the flags a float word gives, on its operand values and the thread's rounding mode (R142 to R152); `old` is
the word PACKP writes into. -/
def float (i : Instr) (th : Thread) (old : Word) (vs : List DWord) : Option (Nat × Word) :=
  match i, vs with
  | .fadd _ x, [a, b] =>
    let rm := modeOf x.rm th.fmode
    some (each2 x.t x.ma x.mb (fun p q =>
      rounded (fpar x.t) rm (addVal (rm == .rdn) (unpackF (fpar x.t) p) (unpackF (fpar x.t) q))) a b)
  | .fsub _ x, [a, b] =>
    let rm := modeOf x.rm th.fmode
    some (each2 x.t x.ma x.mb (fun p q =>
      rounded (fpar x.t) rm (addVal (rm == .rdn) (unpackF (fpar x.t) p) (unpackF (fpar x.t) q).neg)) a b)
  | .fmul _ x, [a, b] =>
    some (each2 x.t x.ma x.mb (fun p q =>
      rounded (fpar x.t) (modeOf x.rm th.fmode) (mulVal (unpackF (fpar x.t) p) (unpackF (fpar x.t) q))) a b)
  | .ffma _ x, [_, _, _] => some (ffmaElems x th vs)
  | .fmin _ x, [a, b] => some (each2 x.t x.ma x.mb (fminmaxBits (fpar x.t) false x.num) a b)
  | .fmax _ x, [a, b] => some (each2 x.t x.ma x.mb (fminmaxBits (fpar x.t) true x.num) a b)
  | .fclass _ x, [a] => some (each1 x.t { abs := false, neg := false } (fun p => (fclassBits (fpar x.t) p, 0)) a)
  | .frnd _ x, [a] => some (each1 x.t x.ma (frndBits (fpar x.t) (modeOf x.rm th.fmode) x.exact) a)
  | .fscale _ x, [a, b] =>
    some (each1 x.t x.ma (fun p => fscaleBits (fpar x.t) (modeOf x.rm th.fmode) p b.lo.toInt) a)
  | .frcp _ x, [a] => some (each1 x.t x.ma (specBits .rcp x.t (modeOf x.rm th.fmode)) a)
  | .frsq _ x, [a] => some (each1 x.t x.ma (specBits .rsq x.t (modeOf x.rm th.fmode)) a)
  | .fsqrt _ x, [a] => some (each1 x.t x.ma (specBits .sqrt x.t (modeOf x.rm th.fmode)) a)
  | .fexp2 _ x, [a] => some (each1 x.t x.ma (specBits .exp2 x.t (modeOf x.rm th.fmode)) a)
  | .flog2 _ x, [a] => some (each1 x.t x.ma (specBits .log2 x.t (modeOf x.rm th.fmode)) a)
  | .fsin _ x, [a] => some (each1 x.t x.ma (specBits .sin x.t (modeOf x.rm th.fmode)) a)
  | .fcos _ x, [a] => some (each1 x.t x.ma (specBits .cos x.t (modeOf x.rm th.fmode)) a)
  | .ftanh _ x, [a] => some (each1 x.t x.ma (specBits .tanh x.t (modeOf x.rm th.fmode)) a)
  | .fcvt _ x, [a] =>
    some (roundVal (fpar x.dst) (modeOf x.rm th.fmode) (unpackF (fpar x.src) (applyMod (fpar x.src) x.ma (low x.src a))))
  | .icvt _ x, [a] => some (icvtBits x (modeOf x.rm th.fmode) a)
  | .extp _ x, [a, b, c] =>
    let k := b.toNat % (if x.t6 then 8 else 4)
    let n := if x.t6 then 6 else 8
    some (roundVal (fpar x.dst) (modeOf x.rm th.fmode)
      (if x.t6 && decide (4 < k) then FVal.fin false 0 0
       else (decodeTap (a.toNat / 2 ^ (n * k) % 2 ^ n) n).scale c.lo.toInt))
  | .packp _ x, [_, _, _] => some (packpBits x old vs)
  | _, _ => none

/-- The tag of an operand: ZERO counts as U, a queue as G (R29, R33). -/
def tagOf (g : Group) : Src → VVal
  | .v n => (g.vreg false n.val).val
  | .q _ => .g []
  | .zero => .u 0

/-- Is an operand U over the whole width it is read in (R28)? -/
def readsU (g : Group) (o : Src × Bool) : Bool :=
  match o.1 with
  | .v n => (g.vreg false n.val).val.code == 0 && (!o.2 || (g.vreg false (n.val + 1)).val.code == 0)
  | .q _ => false
  | .zero => true

/-- The 32-bit words whose `.sat` form keeps no A tag (R29, R111). -/
def saturates : Instr → Bool
  | .iadd _ x | .isub _ x => x.sat
  | .ineg _ x => x.sat
  | _ => false

end Sys2Proof.Spec

namespace Sys2Proof.Machine

/-- Is the lane's thread the only live member of its group? Its writes are then whole-group (R29). -/
def State.sole (s : State) (l : Lane) : Bool := (s.grp l.g).live.all fun e => e.1 == l.t

end Sys2Proof.Machine

open Sys2Proof Sys2Proof.Machine

/-- R123 to R125: SHAPE.Q reads a tag's code and is U when whole-group, SHAPE.G makes the tag G and keeps what each thread reads,
AFF writes a + t × b. -/
def Sys2Proof.Spec.shapeWordsRule : Prop :=
  ∀ (s : State) (k : Nat) (gang : Gang) (l : Lane) (h : Head) (d : Fin 96),
    (∀ (a : Src) (vs : List DWord) (th : Thread), s.plainAt k gang l (.shapeQ h d a) = true → gang.inside = true →
      s.operandsOf l (.shapeQ h d a) = some (vs, th) →
      ∃ t, exec (.shapeQ h d a) s = .next t ∧
        s.computed t k gang l (.shapeQ h d a) [d.val]
          (match a with
          | .v n => BitVec.ofNat 64 ((s.grp l.g).vreg false n.val).val.code
          | .q _ => 2
          | .zero => 0) th ∧
        ((t.grp l.g).vreg false d.val).val.code = if s.sole l then 0 else 2) ∧
    (s.plainAt k gang l (.shapeG h d) = true → gang.inside = true →
      ∃ t, exec (.shapeG h d) s = .next t ∧ s.wentOn t k gang (.shapeG h d) ∧
        t.thread? l = some ((s.thread l).past (gang.ctx k)) ∧ ((t.grp l.g).vreg false d.val).val.code = 2 ∧
        (∀ (m : Lane) (n : Nat), m.g = l.g → m.t < (s.grp l.g).width → t.v m n = s.v m n) ∧
        s.groupKept t l ∧ s.restKept t l) ∧
    (∀ (a b : Src) (vs : List DWord) (th : Thread), s.plainAt k gang l (.aff h d a b) = true → gang.inside = true →
      s.operandsOf l (.aff h d a b) = some (vs, th) →
      ∃ t, exec (.aff h d a b) s = .next t ∧
        s.computed t k gang l (.aff h d a b) [d.val]
          (BitVec.ofNat 64 ((vs.getD 0 0).toNat + l.t * (vs.getD 1 0).toNat)) th ∧
        (∀ x y, Spec.tagOf (s.grp l.g) a = .u x → Spec.tagOf (s.grp l.g) b = .u y → s.sole l = true →
          ((t.grp l.g).vreg false d.val).val = .a x y) ∧
        (s.sole l = false ∨ (Spec.tagOf (s.grp l.g) a).code ≠ 0 ∨ (Spec.tagOf (s.grp l.g) b).code ≠ 0 →
          ((t.grp l.g).vreg false d.val).val.code = 2))

/-- R28, R29: the tags a computing word leaves: U on every register it writes where the write is whole-group and every source is
U, ZERO, an immediate or absent; G where a live member is not in the issue; and G where the write is a pair, or the word has no
row of its own in the table, and some source is not U. -/
def Sys2Proof.Spec.uniformAndGeneralTagsRule : Prop :=
  ∀ (i : Instr) (s : State) (k : Nat) (gang : Gang) (l : Lane) (vs : List DWord) (th : Thread),
    s.plainAt k gang l i = true → gang.inside = true → s.operandsOf l i = some (vs, th) →
    let fl := (Spec.float i (s.thread l) (s.v l ((writes i).headD 0)) vs).isSome
    (Spec.arithmetic i vs).isSome ∨ (Spec.logic i vs).isSome ∨ Spec.isCount i = true ∨ fl = true →
    let allU := (allSources i).all (Spec.readsU (s.grp l.g))
    let codes := fun c => ∃ t, exec i s = .next t ∧ ∀ n ∈ writes i, ((t.grp l.g).vreg false n).val.code = c
    (s.sole l = true → allU = true → codes 0) ∧
    (s.sole l = false → codes 2) ∧
    (allU = false → 2 ≤ (writes i).length ∨ Spec.isCount i = true ∨ fl = true ∨ Spec.saturates i = true → codes 2)

/-- R29: the tag of a 32-bit write by the only live member of its group with an A source: an A source plus or minus a U source
gives A with the base moved, and two A sources add or subtract; IMUL and SHL by a U source, INEG, LEA with its index shifted, MOV
and MOVS of `%tid` keep base and stride as the table says; ZERO and the immediates count as U. -/
def Sys2Proof.Spec.affineTagsRule : Prop :=
  ∀ (s : State) (k : Nat) (gang : Gang) (l : Lane) (h : Head) (d : Fin 96) (a b : Src) (sg : Bool) (sh : Fin 8)
    (imm : BitVec 25) (n : Fin 32),
    s.sole l = true → gang.inside = true →
    let g := s.grp l.g
    let tag := fun (i : Instr) (v : VVal) => s.plainAt k gang l i = true → (∃ r, s.operandsOf l i = some r) →
      ∃ t, exec i s = .next t ∧ ((t.grp l.g).vreg false d.val).val = v
    let x : Alu2 := { d, a, b, w := false, sg, sat := false }
    let lea : Instr := .lea h { d, a, b, sh, w := false, sg }
    let im : Word := imm.signExtend 32
    (∀ p q w, Spec.tagOf g a = .a p q → Spec.tagOf g b = .u w →
      tag (.iadd h x) (.a (p + w) q) ∧ tag (.isub h x) (.a (p - w) q) ∧ tag lea (.a (p + w <<< sh.val) q) ∧
      tag (.imul h { x with sg := false }) (.a (p * w) (q * w)) ∧
      (w.toNat < 32 → tag (.shl h { x with sg := false }) (.a (p <<< w.toNat) (q <<< w.toNat)))) ∧
    (∀ p q w, Spec.tagOf g a = .u w → Spec.tagOf g b = .a p q →
      tag (.iadd h x) (.a (p + w) q) ∧ tag (.isub h x) (.a (w - p) (-q)) ∧
      tag lea (.a (p <<< sh.val + w) (q <<< sh.val)) ∧
      tag (.imul h { x with sg := false }) (.a (p * w) (q * w))) ∧
    (∀ p q p' q', Spec.tagOf g a = .a p q → Spec.tagOf g b = .a p' q' →
      tag (.iadd h x) (.a (p + p') (q + q')) ∧ tag (.isub h x) (.a (p - p') (q - q')) ∧
      tag lea (.a (p + p' <<< sh.val) (q + q' <<< sh.val))) ∧
    (∀ p q, Spec.tagOf g a = .a p q →
      tag (.ineg h { d, a, w := false, sg, sat := false }) (.a (-p) (-q)) ∧
      tag (.mov h { d, a, w := false }) (.a p q) ∧
      tag (.iaddImm h { d, a, imm }) (.a (p + im) q) ∧ tag (.isubImm h { d, a, imm }) (.a (p - im) q) ∧
      tag (.imulImm h { d, a, imm }) (.a (p * im) (q * im)) ∧
      tag (.shlImm h { d, a, amt := n, sg := false }) (.a (p <<< n.val) (q <<< n.val))) ∧
    tag (.movs h d .tid) (.a 0 1)

/-- R43, R29: MOVS of a register the table reads as U leaves U when whole-group; of one it reads as G, or for a part of the live
members, G. -/
def Sys2Proof.Spec.specialRegisterTagsRule : Prop :=
  ∀ (s : State) (k : Nat) (gang : Gang) (l : Lane) (h : Head) (d : Fin 96) (r : SReg),
    s.plainAt k gang l (.movs h d r) = true → gang.inside = true →
    ∃ t, exec (.movs h d r) s = .next t ∧
      (r ∈ [.gid, .cid, .width, .core, .clu, .die, .gstat, .itb, .ite, .fix] → s.sole l = true →
        ((t.grp l.g).vreg false d.val).val.code = 0) ∧
      (r ∈ [.col, .clk, .dclk, .fst, .fmode, .smf, .rstat, .exc, .trap, .faddr] ∨ s.sole l = false →
        ∀ n ∈ writes (.movs h d r), ((t.grp l.g).vreg false n).val.code = 2)

/-- SHAPE words change a tag and no value, AFF forms an A register of base and stride, and every computing word leaves the tags
of R29: U from U sources, A where the table has a row for it, G for a partial write and every other combination.
The model's own choices in it: log entry 36. -/
def Obligations.ShapeAndAffineWords : Prop :=
  Spec.shapeWordsRule ∧ Spec.uniformAndGeneralTagsRule ∧ Spec.affineTagsRule ∧ Spec.specialRegisterTagsRule

/-- R139 to R152: float words complete: the destination holds the rounded elements, `%fst` gains their flags, nothing else
changes. -/
def Sys2Proof.Spec.floatResultRule : Prop :=
  ∀ (i : Instr) (s : State) (k : Nat) (gang : Gang) (l : Lane) (vs : List DWord) (th : Thread) (r : Nat × Word),
    s.plainAt k gang l i = true → gang.inside = true → s.operandsOf l i = some (vs, th) →
    Spec.float i (s.thread l) (s.v l ((writes i).headD 0)) vs = some r →
    ∃ t, exec i s = .next t ∧ s.computed t k gang l i (writes i) (BitVec.ofNat 64 r.1) (th.raise r.2)

/-- R144: FCMP compares the low elements, writes both predicates and raises NV alone. -/
def Sys2Proof.Spec.floatCompareRule : Prop :=
  ∀ (s : State) (k : Nat) (gang : Gang) (l : Lane) (h : Head) (x : FcmpF) (vs : List DWord) (th : Thread),
    s.plainAt k gang l (.fcmp h x) = true → gang.inside = true → s.operandsOf l (.fcmp h x) = some (vs, th) →
    let el := fun (ab : Bool) (a : DWord) =>
      unpackF (fpar x.t) (applyMod (fpar x.t) { abs := ab, neg := false } (Spec.low x.t a))
    let c := fcmpVal x.cond x.sig (el x.absA (vs.getD 0 0)) (el x.absB (vs.getD 1 0))
    let pc := (s.thread l).pred x.pc.val
    (∃ t, exec (.fcmp h x) s = .next t ∧
      s.computed t k gang l (.fcmp h x) [] 0
        (((th.raise c.2).setPred x.pa.val (c.1 && pc)).setPred x.pb.val (!c.1 && pc))) ∧
    (c.2 = 0 ∨ c.2 = 1)

/-- R148: the special values of the functions: infinities, zeros, negative operands and NaNs, with their flags. -/
def Sys2Proof.Spec.specialValuesRule : Prop :=
  ∀ (t : FFmt) (rm : RMode) (x : Nat),
    let f := fpar t
    let gives := fun (fn : SpecFn) (r : Nat × Word) => specBits fn t rm x = r
    (∀ sig, unpackF f x = .nan sig → ∀ fn, gives fn (f.nan, if sig then 1 else 0)) ∧
    (∀ n, unpackF f x = .inf n →
      gives .rcp (f.zero n, 0) ∧ gives .rsq (if n then (f.nan, 1) else (f.zero false, 0)) ∧
      gives .sqrt (if n then (f.nan, 1) else (f.inf false, 0)) ∧
      gives .exp2 (if n then (f.zero false, 0) else (f.inf false, 0)) ∧
      gives .log2 (if n then (f.nan, 1) else (f.inf false, 0)) ∧
      gives .sin (f.nan, 1) ∧ gives .cos (f.nan, 1) ∧ (gives .tanh (roundTo f .rne n 1 0))) ∧
    (∀ n e, unpackF f x = .fin n 0 e →
      gives .rcp (f.inf n, 2) ∧ gives .rsq (f.inf n, 2) ∧ gives .sqrt (f.zero n, 0) ∧
      gives .exp2 (roundTo f .rne false 1 0) ∧ gives .log2 (f.inf true, 2) ∧
      gives .sin (f.zero n, 0) ∧ gives .cos (roundTo f .rne false 1 0) ∧ gives .tanh (f.zero n, 0)) ∧
    (∀ m e, unpackF f x = .fin true m e → 0 < m →
      gives .rsq (f.nan, 1) ∧ gives .sqrt (f.nan, 1) ∧ gives .log2 (f.nan, 1))

/-- R148: the exact cases: FRSQ of 4^k, FEXP2 of an integer, FLOG2 of 2^k, FSIN of an integer, FCOS of an integer or of an odd
half. -/
def Sys2Proof.Spec.specialExactCasesRule : Prop :=
  ∀ (t : FFmt) (rm : RMode) (x : Nat) (n : Bool) (m : Nat) (e : Int),
    let f := fpar t
    unpackF f x = .fin n m e → 0 < m →
    (∀ k : Int, Spec.rat n m e = 4 ^ k → specBits .rsq t rm x = roundTo f .rne false 1 (-k)) ∧
    (∀ k : Int, Spec.rat n m e = k → |k| < 65536 → specBits .exp2 t rm x = roundTo f .rne false 1 k) ∧
    (∀ k : Int, Spec.rat n m e = 2 ^ k → specBits .log2 t rm x = roundTo f .rne (decide (k < 0)) k.natAbs 0) ∧
    (∀ k : Int, Spec.rat n m e = k → specBits .sin t rm x = (f.zero n, 0) ∧
      specBits .cos t rm x = roundTo f .rne (decide (k % 2 = 1)) 1 0) ∧
    (∀ k : Int, Spec.rat n m e = k + 1 / 2 → specBits .cos t rm x = (f.zero false, 0))

/-- R148: where a result is not exact, NX is raised and what is delivered is the nearest value of the format or a finite value no
farther than 1 or 2 ulp, as the table says, from the model's own 200-bit result, the ulp being that of the format at that
result; FRSQ's own result is the root cut at its last bit. -/
def Sys2Proof.Spec.specialErrorBoundRule : Prop :=
  (∀ (fn : SpecFn) (t : FFmt) (x : Nat) (r : SpecRes), r.exact = false → 0 < r.m →
    let f := fpar t
    let out := deliver fn t x r
    out.2.getLsbD 4 = true ∧
    (out.1 = (roundTo f .rne r.neg r.m r.e).1 ∨
      ∃ n m e, unpackF f out.1 = .fin n m e ∧
        ∀ top : Int, 2 ^ top ≤ |Spec.rat r.neg r.m r.e| → |Spec.rat r.neg r.m r.e| < 2 ^ (top + 1) →
          |Spec.rat n m e - Spec.rat r.neg r.m r.e| ≤
            (if fn = .rsq ∨ t = .f16 then 1 else 2) * 2 ^ (max top f.emin - f.fb))) ∧
  (∀ (m : Nat) (e : Int), 0 < m →
    let r := rsqOf m e
    let v := Spec.rat r.neg r.m r.e
    r.exact = false → 0 < r.m ∧ v ^ 2 * Spec.rat false m e ≤ 1 ∧ 1 < (v + 2 ^ r.e) ^ 2 * Spec.rat false m e)

/-- Float words write the rounded value and raise their flags; FCMP writes two predicates, FCLASS a class mask to its register; the
special functions give their exact cases, and else a value within their bound of the model's own 200-bit result.
The model's own choices in it: log entries 12 and 62. -/
def Obligations.FloatArithmeticAndCompare : Prop :=
  Spec.floatResultRule ∧ Spec.floatCompareRule ∧ Spec.specialValuesRule ∧ Spec.specialExactCasesRule ∧
  Spec.specialErrorBoundRule

/-- R51: cutting m × 2^e at weight 2^q is exact when nothing is cut, and otherwise goes to the multiple the mode names: toward
zero, up, down, or the nearest one, a tie to even or away from zero. -/
def Obligations.RoundingPicksTheNamedMultiple : Prop :=
  ∀ (rm : RMode) (neg : Bool) (m : Nat) (e q : Int) (k : Nat) (nx : Bool), cutAt rm neg m e q = (k, nx) → e < q →
    let d := 2 ^ (q - e).toNat
    (nx = false ↔ k * d = m) ∧
    (rm = .rtz → k * d ≤ m ∧ m < (k + 1) * d) ∧
    (rm = .rup → if neg then k * d ≤ m ∧ m < (k + 1) * d else m ≤ k * d ∧ k * d < m + d) ∧
    (rm = .rdn → if neg then m ≤ k * d ∧ k * d < m + d else k * d ≤ m ∧ m < (k + 1) * d) ∧
    (rm = .rne → 2 * m ≤ (2 * k + 1) * d ∧ 2 * k * d ≤ 2 * m + d ∧
      (2 * m = (2 * k + 1) * d ∨ 2 * k * d = 2 * m + d → k % 2 = 0)) ∧
    (rm = .rna → 2 * m < (2 * k + 1) * d ∧ 2 * k * d ≤ 2 * m + d)

namespace Sys2Proof.Spec

open Sys2Proof Sys2Proof.Machine

/-- The address a label names: the word's own plus 8 × OFF32, signed (R127). -/
def label (w : DWord) (off : Word) : DWord := w + BitVec.ofInt 64 (8 * off.toInt)

/-- A pair as a lane reads it (R27). -/
def pair (s : State) (l : Lane) (n : Nat) : DWord := DWord.ofWords (s.v l n) (s.v l (n + 1))

/-- The frames that count toward F (R36): the trap frame does not. -/
def depth (fs : List Frame) : Nat := fs.countP fun f => !f.ret.getLsbD 0

/-- A thread exits (R136): it is live no more and holds nothing. -/
def ended (th : Thread) : Thread :=
  { th with live := false, frames := [], hold := none, q := [], region := none, mid := false, behind := [], raised := none, loads := [],
            fabric := [], passing := none, sofar := [], sofarYld := false }

/-- A handler's return (R78, R129): the trap frame is gone and the thread stands at the word it records, inside its clause with what it
had issued of it, or at the header where the fault was met; a BREAK it came for is not raised again (R225). -/
def returned (pc : DWord) (x : Option TrapRec) (th : Thread) : Thread :=
  { th.repeatLoads with
    frames := th.frames.drop 1, pc, raised := none
    mid := (match x with
      | some r => !r.atHeader
      | none => true)
    brkDone := (match x with
      | some r => r.info.cause == .brk
      | none => decide (th.trap.toNat % 256 = 15))
    sofar := (match x with
      | some r => r.ops
      | none => th.sofar)
    sofarYld := (match x with
      | some r => r.yld
      | none => th.sofarYld)
    header := (match x with
      | some r => r.header
      | none => th.header) }

/-- The causes after which the handler's return executes the word again (R11). -/
def resumes (c : Cause) : Prop := c = .pageFault ∨ c = .promiseMissed ∨ c = .watchdog ∨ c = .brk

end Sys2Proof.Spec

open Sys2Proof Sys2Proof.Machine

/-- R126, R127: a branch whose target clause can be fetched puts its thread there and changes nothing else; one whose target
cannot be fetched takes that fault at the branch.
The model's own choices in it: log entries 6 and 56. -/
def Obligations.BranchWords : Prop :=
  ∀ (s : State) (k : Nat) (gang : Gang) (l : Lane) (h : Head) (i : Instr) (target : DWord),
    (∃ off, i = .bra h off ∧ target = Spec.label (gang.ctx k).w off) ∨
      (∃ r : Fin 96, i = .brx h r ∧ target = Spec.pair s l r.val) →
    s.plainAt k gang l i = true →
    (∀ s', s.fetched gang l target = some s' →
      ∃ t, exec i s = .next t ∧ (s'.modThread l fun th => th.goneTo target).leftGang t k l ∧ s.gangsKept t k l) ∧
    (∀ f s', s.fetchFails gang l target = some (f, s') →
      ∃ t, exec i s = .next t ∧ (s'.takeFault l (gang.ctx k).w f).leftGang t k l)

/-- R128, R396: a call below the depth F whose target can be fetched pushes a frame with the fall-through clause and the landing pad and
goes to its target, unless the frame that leaves the resident ones waits for a port, where it stalls; at depth F it takes STACK. -/
def Sys2Proof.Spec.callWordsRule : Prop :=
  ∀ (s : State) (k : Nat) (gang : Gang) (l : Lane) (h : Head) (i : Instr) (target pad : DWord) (r : LaunchRec),
    let c := gang.ctx k
    (∃ off, i = .call h off ∧ target = Spec.label c.w off ∧ pad = 0) ∨
      (∃ v : Fin 96, i = .callx h v ∧ target = Spec.pair s l v.val ∧ pad = 0) ∨
      (∃ (off : Word) (p : BitVec 7), i = .callL h off p ∧ target = Spec.label c.w off ∧
        pad = c.ft + BitVec.ofNat 64 (8 * p.toNat)) ∨
      (∃ (v : Fin 96) (off : Word), i = .callxL h v off ∧ target = Spec.pair s l v.val ∧ pad = Spec.label c.w off) →
    s.plainAt k gang l i = true → s.recOf l.g = some r →
    ((s.issued gang).spillWaits l = true → exec i s = .next s) ∧
    (∀ s', Spec.depth (s.thread l).frames ≠ r.stkf → (s.issued gang).spillWaits l = false → s.fetched gang l target = some s' →
      ∃ t, exec i s = .next t ∧
        ((s'.pushOwn l { pad, ret := c.ft }).modThread l fun th => th.goneTo target).leftGang t k l ∧ s.gangsKept t k l) ∧
    (Spec.depth (s.thread l).frames = r.stkf →
      ∃ t a, exec i s = .next t ∧
        ((s.issued gang).takeFault l c.w { cause := .stack, kind := .none, addr := a }).leftGang t k l)

/-- R36: a push onto fewer than four frames changes the control stack alone; a push onto four or more also writes the frame that
leaves the four resident ones to its place in the thread's stack area, RET below PAD, and no other byte. -/
def Sys2Proof.Spec.framesBeyondFourGoToMemoryRule : Prop :=
  ∀ (s : State) (l : Lane) (f : Frame), l.sh = false → s.sound = true →
    ((s.thread l).frames.length < 4 →
      s.pushOwn l f = s.modThread l fun th => { th with frames := f :: th.frames }) ∧
    (∀ (r : LaunchRec) (low : Frame) (pa : Nat) (s' : State),
      s.recOf l.g = some r → (s.thread? l).isSome → (s.thread l).frames[3]? = some low →
      let g := s.grp l.g
      let slot := (g.gid * g.width + l.t) * (r.stkf + 1) + ((s.thread l).frames.length - 4)
      let s1 := s.modThread l fun th => { th with frames := f :: th.frames }
      s1.resolve l.g (r.stkbase + BitVec.ofNat 64 (slot * 16)) 16 .wr = (.ok (.phys pa), s') → pa + 16 ≤ hbmSize →
      (∀ j, j < 8 → (s.pushOwn l f).byteAt (pa + j) = low.ret.extractLsb' (8 * j) 8) ∧
      (∀ j, j < 8 → (s.pushOwn l f).byteAt (pa + 8 + j) = low.pad.extractLsb' (8 * j) 8) ∧
      ∀ a, a < pa ∨ pa + 16 ≤ a → (s.pushOwn l f).byteAt a = s'.byteAt a)

/-- R129, R130, R11: RET takes an ordinary frame's RET once it is fetched, and a trap frame's word address without its bit 0, where a cause
that cannot be returned from is raised again; THROW goes to the landing pad of the topmost frame that has one and removes that
frame and all above it; without such a frame either takes STACK. -/
def Sys2Proof.Spec.returnAndThrowRule : Prop :=
  ∀ (s : State) (k : Nat) (gang : Gang) (l : Lane) (h : Head),
    let c := gang.ctx k
    let fs := (s.thread l).frames
    (s.plainAt k gang l (.ret h) = true →
      (∀ f r s', fs = f :: r → f.ret.getLsbD 0 = false → s.fetched gang l f.ret = some s' →
        ∃ t, exec (.ret h) s = .next t ∧
          (s'.modThread l fun th => { th.goneTo f.ret with frames := r }).leftGang t k l ∧ s.gangsKept t k l) ∧
      (∀ f r, fs = f :: r → f.ret.getLsbD 0 = true →
        let u := ((s.issued gang).modBoth l (Spec.returned (f.ret - 1) (s.thread l).raised)).leaveGang l
        ((∀ x, (s.thread l).raised = some x → Spec.resumes x.info.cause) →
          ∃ t, exec (.ret h) s = .next t ∧ u.leftGang t k l ∧ s.gangsKept t k l) ∧
        (∀ x, (s.thread l).raised = some x → ¬Spec.resumes x.info.cause → x.atHeader = false →
          ∃ t, exec (.ret h) s = .next t ∧ (u.enterFault l (f.ret - 1) x.info).leftGang t k l))) ∧
    (s.plainAt k gang l (.throw h) = true →
      ∀ up f r s', fs = up ++ f :: r → (∀ x ∈ up, x.pad = 0) → f.pad ≠ 0 → s.fetched gang l f.pad = some s' →
        ∃ t, exec (.throw h) s = .next t ∧
          (s'.modThread l fun th => { th.goneTo f.pad with
            frames := r, raised := if r.any (fun x => x.ret.getLsbD 0) then th.raised else none }).leftGang t k l ∧
          s.gangsKept t k l) ∧
    (∀ i, (i = .ret h ∧ fs = []) ∨ (i = .throw h ∧ ∀ x ∈ fs, x.pad = 0) → s.plainAt k gang l i = true →
      ∃ t a, exec i s = .next t ∧
        ((s.issued gang).takeFault l c.w { cause := .stack, kind := .none, addr := a }).leftGang t k l)

/-- CALL pushes a frame, RET pops it, a frame beyond four goes to memory, THROW goes to the landing pad of the topmost frame that has
one, passing over the frames above it and a trap frame among them.
The model's own choices in it: log entry 6. -/
def Obligations.CallReturnAndThrow : Prop :=
  Spec.callWordsRule ∧ Spec.framesBeyondFourGoToMemoryRule ∧ Spec.returnAndThrowRule

/-- R132, R133, R135 to R137: NOP has no effect; JARM sets the thread's bit of Jn; WAITJ passes while Jn is 0 and else holds the
thread; YIELD only ends the clause; EXIT ends the thread and its crew counts it. -/
def Obligations.RejoinYieldExitNop : Prop :=
  ∀ (s : State) (k : Nat) (gang : Gang) (l : Lane) (h : Head) (j : Fin 8),
    let c := gang.ctx k
    let goesOn := fun (i : Instr) => ∀ s', s.fetched gang l c.ft = some s' →
      ∃ t, exec i s = .next t ∧ (s'.modThread l fun th => { th with pc := c.ft, mid := false, brkDone := false }).leftGang t k l ∧
        s.gangsKept t k l
    (s.plainAt k gang l (.nop h) = true →
      (gang.inside = true → ∃ t, exec (.nop h) s = .next t ∧ s.passed s t k gang l (.nop h) []) ∧
      (gang.inside = false → goesOn (.nop h))) ∧
    (s.plainAt k gang l (.jarm h j) = true → gang.inside = true →
      ∃ t, exec (.jarm h j) s = .next t ∧
        s.passed (s.modGroup l.g fun g => { g with j := g.j.set j.val (g.j.get 0 j.val ||| 1#64 <<< l.t) }) t k gang l
          (.jarm h j) []) ∧
    (s.plainAt k gang l (.waitj h j) = true →
      ((s.grp l.g).j.get 0 j.val = 0 → goesOn (.waitj h j)) ∧
      ((s.grp l.g).j.get 0 j.val ≠ 0 →
        let u := ((s.issued gang).modBoth l fun th =>
          { th with pc := c.w, mid := false, hold := some { kind := .waitj j, ft := c.ft } }).leaveGang l
        ∀ x s', u.fetchFor l.g c.ft = (.ok x, s') →
          ∃ t, exec (.waitj h j) s = .next t ∧ s'.leftGang t k l ∧ s.gangsKept t k l)) ∧
    (s.plainAt k gang l (.yield h) = true → goesOn (.yield h)) ∧
    (s.plainAt k gang l (.exit h) = true → (s.thread l).fabric = [] →
      (∀ f ∈ (s.thread l).frames, f.ret.getLsbD 0 = false) →
      ∃ t, exec (.exit h) s = .next t ∧
        ((s.modBoth l Spec.ended).modCrew (s.grp l.g).crew fun x =>
          { x with exited := ((s.grp l.g).idx * (s.grp l.g).width + l.t) :: x.exited }).leftGang t k l ∧ s.gangsKept t k l)

namespace Sys2Proof.Spec

open Sys2Proof Sys2Proof.Machine

/-- The codes of R11, in the order of its table. -/
def causeNumber (c : Cause) : Nat :=
  match c with
  | .illegalOpc => 0x01
  | .illegalEnc => 0x02
  | .illegalClause => 0x03
  | .illegalTarget => 0x04
  | .shape => 0x05
  | .token => 0x06
  | .pageFault => 0x07
  | .promiseMissed => 0x08
  | .watchdog => 0x09
  | .poison => 0x0A
  | .bounds => 0x0B
  | .stack => 0x0C
  | .dmrMismatch => 0x0D
  | .fabricLost => 0x0E
  | .brk => 0x0F

/-- `%trap` (R44): the cause in bits 7 to 0, the kind in bits 9 and 8, NEST in bit 10. -/
def trapIs (w : Word) (f : FaultInfo) (nest : Bool) : Prop :=
  w.toNat % 256 = causeNumber f.cause ∧ w.toNat / 256 % 4 = (match f.kind with
    | .none => 0
    | .load => 1
    | .store => 2
    | .atomic => 3) ∧ w.getLsbD 10 = nest

/-- The words of a cross-lane round or a rendezvous (R154, R162). -/
def crossLane : Instr → Bool
  | .shfl .. | .vote .. | .redx .. | .scanx .. | .matchx .. | .xsnd .. | .xrcv .. => true
  | _ => false

/-- The thread at the handler, with the trap frame on its stack (R10, R131). -/
def trapped (pc handler : DWord) (f : FaultInfo) (trap : Word) (raised : TrapRec) (th : Thread) : Thread :=
  { th with pc := handler, mid := false, hold := none, brkDone := false, trap, faddr := f.addr, raised := some raised, passing := none,
            sofar := [], sofarYld := false, barAt := th.barAt.filter fun b => b.2,
            frames := { pad := 0, ret := pc ||| 1 } :: th.frames }

end Sys2Proof.Spec

open Sys2Proof Sys2Proof.Machine

/-- R10, R131: a fault outside a region, with a handler that can be entered, pushes a frame that holds the faulting word's address with
bit 0 set and PAD 0, writes `%trap` and `%faddr` and goes to the handler; no register, no other thread and, beside the frame
that leaves the four resident ones, no byte of memory changes. FABRIC_LOST is counted first (R385). -/
def Sys2Proof.Spec.takingAFaultRule : Prop :=
  ∀ (s : State) (l : Lane) (pc : DWord) (f : FaultInfo) (r : LaunchRec) (th : Thread) (c : Clause) (s' : State),
    l.sh = false → s.thread? l = some th → th.live = true → th.region = none → (s.grp l.g).prot = false →
    (∀ x ∈ th.frames, x.ret.getLsbD 0 = false) → s.recOf l.g = some r → r.handler ≠ 0 →
    (∀ x, s.launch? (s.grp l.g).launch = some x → x.state ≠ .replaying) →
    f.cause ≠ .poison → f.cause ≠ .dmrMismatch →
    (s.countError (coreDie (s.grp l.g).core) f.cause).fetchCheck (s.grp l.g).core (s.grp l.g).part r.handler = (.ok c, s') →
    let t := s.takeFault l pc f
    (∃ w x, t.thread? l = some (Spec.trapped pc r.handler f w x th) ∧ Spec.trapIs w f false ∧ x.info = f ∧ x.atHeader = false) ∧
    (∀ a, t.byteAt a = (s'.pushOwn l { pad := 0, ret := pc ||| 1 }).byteAt a) ∧
    (∀ m n, t.v m n = s.v m n) ∧
    (∀ m : Lane, m.g = l.g → m.key ≠ l.key → m.key ≠ l.key + 64 →
      (t.thread? m).map (fun x => { x with region := none }) = (s.thread? m).map fun x => { x with region := none }) ∧
    (∀ k gang, t.gang? k = some gang → ∀ m ∈ gang.lanes, ¬(m.g = l.g ∧ m.t = l.t)) ∧
    (t.grp l.g).j = (s.grp l.g).j ∧ (t.grp l.g).b = (s.grp l.g).b ∧
    (f.cause = .fabricLost → ∀ d,
      (t.die d).fabLost = (s.die d).fabLost + if d = coreDie (s.grp l.g).core then 1 else 0)

/-- R45: where the handler is active, is absent or cannot be fetched, the fault sets NEST and ends the thread as by EXIT, with the
cause, kind and address of the fault itself, and its launch takes a failure reason if it has none: FABRIC where it or the fault
being handled is FABRIC_LOST (R395). -/
def Sys2Proof.Spec.nestedFaultEndsTheThreadRule : Prop :=
  ∀ (s : State) (l : Lane) (pc : DWord) (f : FaultInfo) (r : LaunchRec) (th : Thread) (x : Launch) (s' : State),
    l.sh = false → s.thread? l = some th → th.live = true → th.region = none → s.recOf l.g = some r →
    th.fabric = [] → f.cause ≠ .poison → f.cause ≠ .dmrMismatch →
    s.launch? (s.grp l.g).launch = some x → x.state ≠ .replaying →
    let u := s.countError (coreDie (s.grp l.g).core) f.cause
    let active := ∃ y ∈ th.frames, y.ret.getLsbD 0 = true
    ((active ∨ r.handler = 0) ∧ s' = u) ∨
      (¬active ∧ r.handler ≠ 0 ∧ ∃ e, e.cause ≠ .poison ∧
        u.fetchCheck (s.grp l.g).core (s.grp l.g).part r.handler = (.error e, s')) →
    let t := s.takeFault l pc f
    let lost := f.cause = .fabricLost ∨ ∃ y, th.raised = some y ∧ y.info.cause = .fabricLost
    (∃ w, t.thread? l = some { Spec.ended { th with pc } with trap := w, faddr := f.addr, endedBy := some f } ∧
      Spec.trapIs w f true) ∧
    (∃ y, t.launch? (s.grp l.g).launch = some y ∧ y.state = x.state ∧ (x.reason.isSome → y.reason = x.reason) ∧
      (x.reason = none → (lost → y.reason = some .fabric) ∧ (¬lost → y.reason = some .fault))) ∧
    (∀ m n, t.v m n = s.v m n) ∧ (∀ a, t.byteAt a = s'.byteAt a) ∧
    (∀ k gang, t.gang? k = some gang → ∀ m ∈ gang.lanes, ¬(m.g = l.g ∧ m.t = l.t))

/-- R10, R223: a fault of a word in an open region does not enter the handler: the region aborts with REASON 6, `%trap` and `%faddr`
take the fault, the thread has its values and its queues of RBEGIN again and stands at the abort target, and no byte of memory
changes. -/
def Sys2Proof.Spec.faultInsideARegionRule : Prop :=
  ∀ (s : State) (l : Lane) (pc : DWord) (f : FaultInfo) (th : Thread) (r : Region),
    l.sh = false → s.thread? l = some th → th.live = true → th.region = some r → (s.grp l.g).prot = false →
    (∀ x, s.launch? (s.grp l.g).launch = some x → x.state ≠ .replaying) →
    f.cause ≠ .poison → f.cause ≠ .dmrMismatch →
    let t := s.takeFault l pc f
    (∃ y, t.thread? l = some y ∧ y.region = none ∧ y.rstat = 0x60 ∧ y.pc = r.target ∧ y.mid = false ∧ y.hold = none ∧
      Spec.trapIs y.trap f false ∧ y.faddr = f.addr ∧ y.frames = th.frames ∧ y.live = true ∧
      y.preds = r.preds ∧ y.fst = r.fst ∧ y.fmode = r.fmode ∧ y.smf = r.smf ∧ y.exc = r.exc ∧ y.pops = r.pops ∧
      y.q = r.popped.foldr (fun e q => q.upd [] e.1 (e.2 :: ·)) th.q) ∧
    (∀ n, n ∈ r.wrote ∨ s.v l n = (r.v.get VReg.init n).val.at l.t → t.v l n = (r.v.get VReg.init n).val.at l.t) ∧
    (∀ a, t.byteAt a = s.byteAt a) ∧
    (t.core (s.grp l.g).core).aborts = (s.core (s.grp l.g).core).aborts + 1 ∧
    (∀ k gang, t.gang? k = some gang → ∀ m ∈ gang.lanes, ¬(m.g = l.g ∧ m.t = l.t))

/-- A fault with a handler enters it with the trap registers saved; one inside a handler, without one, or whose handler cannot be
fetched ends the thread; one inside a region aborts the region.
The model's own choices in it: log entry 6. -/
def Obligations.TakingAFault : Prop :=
  Spec.takingAFaultRule ∧ Spec.nestedFaultEndsTheThreadRule ∧ Spec.faultInsideARegionRule

/-- R375, R376, R380, R381: consumed poison makes a launch with an intact snapshot, no side effect and fewer than two replays begin a
replay: it is REPLAYING, none of its groups issues, and they stay until what they have in flight is over (step 2); in any other
launch the fault is delivered and the launch is marked SIDEEFFECT or UNCORRECTED unless it already has a reason. -/
def Sys2Proof.Spec.errorActionRule : Prop :=
  ∀ (s : State) (l : Lane) (pc : DWord) (f : FaultInfo) (x : Launch),
    f.cause = .poison ∨ f.cause = .dmrMismatch → s.launch? (s.grp l.g).launch = some x → x.state ≠ .replaying →
    (x.lrec.snap = true → x.snap = .held → x.sideEffect = false → x.nreplay < 2 →
      let t := s.takeFault l pc f
      t.launch? (s.grp l.g).launch =
        some { x with state := .replaying, replayFault := some (f, (s.grp l.g).gid, false), dealt := [] } ∧
      t.groups = s.groups ∧ t.ops = s.ops ∧ t.mem = s.mem ∧
      ∀ k gang, t.gang? k = some gang → ∀ m ∈ gang.lanes, ∀ y, t.group? m.g = some y → y.launch ≠ (s.grp l.g).launch) ∧
    (x.lrec.snap = false ∨ x.snap ≠ .held ∨ x.sideEffect = true ∨ 2 ≤ x.nreplay →
      ∃ s1 : State, s.takeFault l pc f = s1.enterFault l pc f ∧
        (∃ y, s1.launch? (s.grp l.g).launch = some y ∧ y.state = x.state ∧
          y.reason = (match x.reason with
            | some q => some q
            | none => some (if x.sideEffect = true ∧ x.snap = .held then .sideeffect else .uncorrected))) ∧
        s1.groups = s.groups ∧ s1.mem = s.mem)


/-- R89, R90: encoding faults reach a thread whatever its guard: ERRINJ (opcode 0x382) outside a debug partition is ILLEGAL_OPC; a word of another
engine class, or one that ends a clause before its last place, is ILLEGAL_CLAUSE; a register at or above VCNT is ILLEGAL_ENC. -/
def Sys2Proof.Spec.encodingFaultsIgnoreTheGuardRule : Prop :=
  ∀ (s : State) (k : Nat) (gang : Gang) (l : Lane) (i : Instr) (cause : Cause) (r : LaunchRec),
    isWord i = true → s.cur = .gang k → s.gang? k = some gang → gang.lanes = [l] → l.sh = false → gang.step = false →
    (s.thread l).live = true → s.recOf l.g = some r →
    let banned := opcOf i = 0x382 ∧ (s.partn (s.grp l.g).part).debug = false
    let misplaced := gang.clause.hdr.eng = .acc ∨ admits gang.clause.hdr.eng (classOfOpc (opcOf i)) = false ∨
      (endsClause (opcOf i) = true ∧ gang.ix ≠ gang.clause.hdr.cnt)
    (banned ∧ cause = .illegalOpc) ∨ (¬banned ∧ misplaced ∧ cause = .illegalClause) ∨
      (¬banned ∧ ¬misplaced ∧ (∃ n ∈ reads i ++ writes i, r.vcnt ≤ n) ∧ cause = .illegalEnc) →
    ∃ t a, exec i s = .next t ∧
      ((s.issued gang).takeFault l (gang.ctx k).w { cause, kind := .none, addr := a }).leftGang t k l

/-- R82, R236: a word whose guard is false only moves its thread on; of the words, those of a cross-lane round also decline it. -/
def Sys2Proof.Spec.falseGuardOnlyMovesOnRule : Prop :=
  ∀ (i : Instr) (s : State) (k : Nat) (gang : Gang) (l : Lane),
    isWord i = true → Spec.crossLane i = false →
    s.standsAt k gang l i = true → guardTrue (headPart i).guard (s.thread l) = false →
    (gang.inside = true → ∃ t, exec i s = .next t ∧ s.passed s t k gang l i []) ∧
    (gang.inside = false → ∀ s', s.fetched gang l (gang.ctx k).ft = some s' →
      ∃ t, exec i s = .next t ∧
        (s'.modThread l fun th => { th with pc := (gang.ctx k).ft, mid := false, brkDone := false }).leftGang t k l)

/-- R73, R76: a word whose thread stalls changes nothing at all: it names a register in flight, its HOLD bit waits for an operation, a
queue it reads has no entry yet, its counter stands at 63, or its quad's memory pipe is full. -/
def Sys2Proof.Spec.stalledWordChangesNothingRule : Prop :=
  ∀ (i : Instr) (s : State) (k : Nat) (gang : Gang) (l : Lane),
    isWord i = true → s.standsAt k gang l i = true → guardTrue (headPart i).guard (s.thread l) = true →
    (s.thread l).region = none → s.laneError i (headPart i).guard l = none → s.eccClean l i = true →
    (∃ e ∈ s.ops, e.2.lane = l ∧ ∃ n ∈ opDst e.2.kind, n ∈ reads i ++ writes i) ∨
      (natBit gang.clause.hdr.hold gang.ix = true ∧ ∃ o ∈ gang.ops, o.lane = l ∧ s.opPending (s.grp l.g).core o.op = true) ∨
      (∃ c, counterOf i = some c ∧ (s.thread l).count c = 63) ∨
      (usesQueue i = true ∧ ∃ n, n < 8 ∧ popWaits (s.grp l.g).slice.running (popsOf i n) ((s.thread l).q.get [] n) = true) ∨
      s.pipeFull (s.grp l.g) i = true →
    exec i s = .next s

/-- A false guard only moves on, except past an encoding fault; a word that stalls changes nothing.
The model's own choices in it: log entry 6. -/
def Obligations.GuardsStallsAndEncodingFaults : Prop :=
  Spec.encodingFaultsIgnoreTheGuardRule ∧ Spec.falseGuardOnlyMovesOnRule ∧ Spec.stalledWordChangesNothingRule

namespace Sys2Proof.Spec

open Sys2Proof Sys2Proof.Machine

/-- Where the units of an access begin: every 8 bytes of 16 and of 32, else the whole (R171). -/
def unitStarts (size : Nat) : List Nat := if size = 16 then [0, 8] else if size = 32 then [0, 8, 16, 24] else [0]

/-- The bytes of one unit. -/
def unitBytes (size : Nat) : Nat := if size = 16 ∨ size = 32 then 8 else size

/-- A place some bytes on. -/
def onward (n : Nat) : Space → Space
  | .phys pa => .phys (pa + n)
  | .aper g off => .aper g (off + n)
  | .win c w off => .win c w (off + n)

/-- What a word puts in flight: place, bytes, scope, order, hint and kind of its access, and what it stores. -/
structure Flight where
  va : DWord
  sp : Space
  size : Nat
  scope : Scope
  ord : MOrd
  hint : Nat
  kind : OpKind
  data : List Byte

/-- The scope an access is performed at: `.sys` in another package's memory (R169). -/
def scopeOf (s : State) (sp : Space) (scope : Scope) : Scope :=
  match sp with
  | .phys pa => if s.paKind pa = .span then .sys else scope
  | .aper _ _ | .win _ _ _ => scope

/-- The memory an access reaches, which for a place of a stash window is what the page behind it holds (R174, R380). -/
def behind (s : State) (sp : Space) : PaKind :=
  match sp with
  | .phys pa => s.paKind pa
  | .aper _ _ => .hbm
  | .win core w off =>
    match (s.winPa core w (off / 64) .leaf).1 with
    | .ok pa => s.paKind (pa + off % 64)
    | .error _ => .hbm

/-- One unit of an access as it goes into flight (R37, R165). -/
def inFlight (s : State) (l : Lane) (a : Flight) (word off : Nat) : MemOp :=
  { lane := l, kind := a.kind, va := a.va, space := onward off a.sp, size := unitBytes a.size, off, patch := []
    scope := scopeOf s a.sp a.scope, ord := a.ord, hint := a.hint, word
    data := if a.kind = .store then (a.data.drop off).take (unitBytes a.size) else a.data
    level := 0, entry := false, rejects := 0, rejected := false, fenced := false, agedAt := none, failed := none, got := none
    core := (s.grp l.g).core, quad := (s.grp l.g).quad, gid := (s.grp l.g).gid, part := (s.grp l.g).part
    gen := (s.partn (s.grp l.g).part).gen, launch := (s.grp l.g).launch }

/-- The state with the units of one more access in flight under the next numbers. -/
def flies (s : State) (l : Lane) (a : Flight) : State :=
  (unitStarts a.size).foldl (fun u off =>
    { u with ops := u.ops.set u.nextId (inFlight u l a s.nextId off), nextId := u.nextId + 1 }) s

/-- A thread counts one more operation (R37). -/
def counted (c : Counter) (th : Thread) : Thread :=
  match c with
  | .ld => { th with ld := th.ld + 1 }
  | .st => { th with st := th.st + 1 }
  | .cp => { th with cp := th.cp + 1 }
  | .tl => { th with tl := th.tl + 1 }

/-- The state with one more access in flight, counted by its thread. -/
def began (s : State) (l : Lane) (c : Counter) (a : Flight) : State := (flies s l a).modBoth l (counted c)

/-- The numbers of its units. -/
def unitIds (s : State) (l : Lane) (size : Nat) : List Issued :=
  (List.range (unitStarts size).length).map fun j => { lane := l, op := s.nextId + j }

/-- The bytes a type names (R166, R167), with the sign of a load. -/
def loadType : LdTy → Nat × Bool
  | .b8 => (1, false)
  | .b16 => (2, false)
  | .b32 => (4, false)
  | .b64 => (8, false)
  | .b128 => (16, false)
  | .s8 => (1, true)
  | .s16 => (2, true)

def storeType : StTy → Nat
  | .b8 => 1
  | .b16 => 2
  | .b32 => 4
  | .b64 => 8
  | .b128 => 16

/-- `n` bytes of a value, the lowest first (R3). -/
def bytes (n : Nat) (v : Nat) : List Byte := (List.range n).map fun j => BitVec.ofNat 8 (v / 256 ^ j)

/-- The bytes of consecutive registers of a lane, the lowest register first. -/
def registers (s : State) (l : Lane) (n k : Nat) : List Byte :=
  ((List.range k).map fun j => bytes 4 (s.v l (n + j)).toNat).flatten

/-- One access of a memory word: its record and offset, its bytes and alignment, its direction, what it needs of the page, its
scope, order, hint, counter and kind, and what it stores, from the operand values. -/
structure Access where
  m : MAddr
  size : Nat
  dir : AccKind
  need : Need
  scope : Scope
  ord : MOrd
  hint : Fin 7
  counter : Counter
  kind : OpKind
  data : List Byte

/-- The access of each memory word (R166 to R168, R172, R173). -/
def access (s : State) (l : Lane) (i : Instr) (vs : List DWord) : Option Access :=
  let n := fun (w : Bool) => if w then 8 else 4
  match i with
  | .ld _ x => some
      { m := x.m, size := (loadType x.ty).1, dir := .load, need := .rd, scope := x.scope, ord := x.ord, hint := x.hint, counter := .ld, kind := .load (loadType x.ty).2 (writes i) none, data := [] }
  | .st _ x => some
      { m := x.m, size := storeType x.ty, dir := .store, need := .wr, scope := x.scope, ord := x.ord, hint := x.hint, counter := .st, kind := .store, data := (match x.ty, x.data with
          | .b128, .v d => registers s l d.val 4
          | _, _ => bytes (storeType x.ty) (vs.getD 0 0).toNat) }
  | .bst _ x => some
      { m := x.m, size := 64, dir := .store, need := .wr, scope := x.scope, ord := x.ord, hint := x.hint, counter := .st, kind := .store, data := (match x.data with
          | .v d => registers s l d.val 16
          | .q _ | .zero => List.replicate 64 0) }
  | .atom _ x => some
      { m := x.m, size := n x.w, dir := .atomic, need := .rw, scope := x.scope, ord := x.ord, hint := x.hint, counter := .ld, kind := .atom x.op x.w (writes i), data := bytes (n x.w) (vs.getD 0 0).toNat }
  | .atomNr _ x => some
      { m := x.m, size := n x.w, dir := .atomic, need := .rw, scope := x.scope, ord := x.ord, hint := x.hint, counter := .st, kind := .atom x.op x.w [], data := bytes (n x.w) (vs.getD 0 0).toNat }
  | .acas _ x => some
      { m := x.m, size := n x.w, dir := .atomic, need := .rw, scope := x.scope, ord := x.ord, hint := x.hint, counter := .ld, kind := .acas x.w (writes i), data := registers s l x.d.val (if x.w then 4 else 2) }
  | _ => none

/-- The access at its place. -/
def Access.flight (a : Access) (va : DWord) (sp : Space) : Flight :=
  { va, sp, size := a.size, scope := a.scope, ord := a.ord, hint := a.hint.val, kind := a.kind, data := a.data }

/-- What a watch unit sees: 0 a load, 1 a store, 2 and 3 an atomic inside and outside the core (R361). -/
def watchKind (s : State) (l : Lane) (a : Access) (sp : Space) : Nat :=
  match a.dir with
  | .load => 0
  | .store => 1
  | .atomic | .none => s.atomKind l.g sp a.scope

/-- Does an access to a place leave the package, so that its launch may not be replayed (R380)? -/
def leaves (s : State) (a : Access) (sp : Space) : Bool := a.dir != .load && (behind s sp).external

end Sys2Proof.Spec

open Sys2Proof Sys2Proof.Machine

/-- R165 to R168, R172, R173, R37: a memory word whose address passes its checks puts one access in flight with its bytes, scope and
order, raises its counter, and passes; no byte of memory and no register changes at issue. Loads and atomics need a place
without poison; atomics also need a place outside plain host memory. -/
def Sys2Proof.Spec.memoryWordsIssueRule : Prop :=
  ∀ (i : Instr) (s : State) (k : Nat) (gang : Gang) (l : Lane) (vs : List DWord) (th : Thread) (a : Spec.Access) (va : DWord)
    (sp : Space) (s' : State),
    s.plainAt k gang l i = true → gang.inside = true → s.operandsOf l i = some (vs, th) →
    Spec.access s l i vs = some a → (s.issued gang).address l a.m a.size a.size a.dir a.need = (.at va sp, s') →
    (a.dir ≠ .store → s'.spacePoison sp a.size = false) → (a.dir = .atomic → ∀ p, Spec.behind s' sp ≠ .host p) →
    let u := ((s'.modThread l fun _ => th).popShadow l (sources i)).watch l (gang.ctx k).w va (Spec.watchKind s' l a sp) a.size
      (Spec.scopeOf s' sp a.scope)
    let u := if Spec.leaves u a sp then u.sideEffect (s.grp l.g).launch else u
    (∀ b, u.byteAt b = s'.byteAt b) ∧
    ∃ t, exec i s = .next t ∧ s.passed (Spec.began u l a.counter (a.flight va sp)) t k gang l i (Spec.unitIds u l a.size)

/-- R165, R40: where a check of its address fails, a memory word takes that fault and does nothing else; under ZERO bounds a load or a
returning atomic outside the extent writes 0 at once and a store does nothing. R174: an atomic to plain host memory takes BOUNDS. -/
def Sys2Proof.Spec.memoryWordsCheckFirstRule : Prop :=
  ∀ (i : Instr) (s : State) (k : Nat) (gang : Gang) (l : Lane) (vs : List DWord) (th : Thread) (a : Spec.Access) (s' : State),
    s.plainAt k gang l i = true → gang.inside = true → s.operandsOf l i = some (vs, th) →
    Spec.access s l i vs = some a →
    (∀ f, (s.issued gang).address l a.m a.size a.size a.dir a.need = (.fault f, s') →
      ∃ t, exec i s = .next t ∧ (s'.takeFault l (gang.ctx k).w f).leftGang t k l) ∧
    ((s.issued gang).address l a.m a.size a.size a.dir a.need = (.outside, s') →
      ∃ t, exec i s = .next t ∧
        (match a.kind with
        | .load _ dst _ | .atom _ _ dst | .acas _ dst => dst ≠ [] → ∀ d ∈ dst, t.v l d = 0
        | _ => True) ∧
        t.thread? l = some (th.past (gang.ctx k)) ∧ s.wentOn t k gang i ∧ s.regsKept t l (opDst a.kind) ∧
        s.othersKept t l (opDst a.kind) ∧ s.restKept t l) ∧
    (∀ va sp, (s.issued gang).address l a.m a.size a.size a.dir a.need = (.at va sp, s') → a.dir ≠ .store →
      (∀ p, a.dir = .atomic → Spec.behind s' sp ≠ .host p) → s'.spacePoison sp a.size = true → s'.nowReady l sp a.size = true →
      ∃ t, exec i s = .next t ∧
        (s'.takeFault l (gang.ctx k).w { cause := .poison, kind := a.dir, addr := va }).leftGang t k l) ∧
    (∀ va sp p, (s.issued gang).address l a.m a.size a.size a.dir a.need = (.at va sp, s') → a.dir = .atomic → Spec.behind s' sp = .host p →
      s'.spacePoison sp a.size = false →
      ∃ t, exec i s = .next t ∧
        (s'.takeFault l (gang.ctx k).w { cause := .bounds, kind := .atomic, addr := va }).leftGang t k l)

/-- R387: a thread of a protected group and its shadow stand alone in their gang at a word inside its clause, or at one that ends it. -/
def Sys2Proof.Spec.pairAt (s : State) (k : Nat) (gang : Gang) (l : Lane) (i : Instr) : Prop :=
  s.cur = .gang k ∧ s.gang? k = some gang ∧ gang.lanes = [l, l.shadow] ∧ l.sh = false ∧ l.t < 64 ∧ gang.step = false ∧
  (gang.inside = true ∨ endsClause (opcOf i) = true) ∧ (s.grp l.g).prot = true ∧ encFault s gang i = none ∧
  ∀ m, m = l ∨ m = l.shadow → (s.thread? m).isSome ∧ (s.thread m).live = true ∧ (s.thread m).hold = none ∧ (s.thread m).region = none

/-- R388: the words whose captured sources are compared as they are read; memory words are compared by their address and data. -/
def Sys2Proof.Spec.comparesSources : Instr → Bool
  | .shfl .. | .redx .. | .scanx .. | .matchx .. | .xsnd .. | .xrcv .. | .copy .. | .signalSt .. | .signalAdd .. => true
  | .smap .. | .sunmap .. | .sflush .. | .smode .. | .launch .. | .tacq .. | .trel .. | .tmovGet .. | .tmovPut .. => true
  | _ => false

/-- R388, R389: what differs between a thread and its shadow at a word that is compared: the guard, the sources, or the address and
the data of a memory word. -/
def Sys2Proof.Spec.pairDiffers (s : State) (l : Lane) (i : Instr) (vs ws : List DWord) : Prop :=
  let g := s.grp l.g
  let own := guardTrue (headPart i).guard (s.thread l)
  let other := guardTrue (headPart i).guard (s.thread l.shadow)
  (Spec.comparesSources i = true ∧ own = true ∧ (other = false ∨ vs ≠ ws)) ∨
  ∃ a b, Spec.access s l i vs = some a ∧ Spec.access s l.shadow i ws = some b ∧
    (own ≠ other ∨ (own = true ∧ (a.data ≠ b.data ∨
      recordAddress (g.brec a.m.br.val) (g.offsetPair l a.m.ofs) a.m.imm 1 false ≠
        recordAddress (g.brec a.m.br.val) (g.offsetPair l.shadow a.m.ofs) a.m.imm 1 false)))

/-- R387 to R389: at a compared word where a thread and its shadow differ, the primary takes DMR_MISMATCH at the word and nothing of
the word is performed; where a memory word meets no error, it is performed once, by the primary, and counts in both; a computing word
computes for each from its own registers; and a handler entered after a fault finds the primary's values in the shadow. -/
def Sys2Proof.Spec.protectedPairRule : Prop :=
  ∀ (i : Instr) (s : State) (k : Nat) (gang : Gang) (l : Lane) (vs ws : List DWord) (th th' : Thread),
    Spec.pairAt s k gang l i → s.operandsOf l i = some (vs, th) → s.operandsOf l.shadow i = some (ws, th') →
    let c := gang.ctx k
    let gd := (headPart i).guard
    (Spec.pairDiffers s l i vs ws →
      ∃ t a, exec i s = .next t ∧ t.gang? k = none ∧ t.cur = .none ∧
        let u := s.takeFault l c.w { cause := .dmrMismatch, kind := .none, addr := a }
        (t.thread? l = u.thread? l ∧ t.ops = u.ops ∧ t.copies = u.copies ∧ t.launches = u.launches ∧
          (t.die (coreDie (s.grp l.g).core)).dmr = (s.die (coreDie (s.grp l.g).core)).dmr + 1 ∧
          ∀ x, t.byteAt x = u.byteAt x)) ∧
    (guardTrue gd (s.thread l) = true → guardTrue gd (s.thread l.shadow) = true → s.laneError i gd l = none →
      s.eccClean l i = true → s.eccClean l.shadow i = true → s.laneStalls gang i l = false → s.pipeFull (s.grp l.g) i = false →
      (∀ (a : Spec.Access) (va : DWord) (sp : Space) (s' : State), Spec.access s l i vs = some a →
        (s.issued gang).address l a.m a.size a.size a.dir a.need = (.at va sp, s') →
        (a.dir ≠ .store → s'.spacePoison sp a.size = false) → (a.dir = .atomic → ∀ p, Spec.behind s' sp ≠ .host p) →
        ∃ t, exec i s = .next t ∧ t.ops = (Spec.flies s' l (a.flight va sp)).ops ∧
          (t.thread l).count a.counter = (s.thread l).count a.counter + 1 ∧
          (t.thread l.shadow).count a.counter = (s.thread l.shadow).count a.counter + 1 ∧
          ∀ x, t.byteAt x = s'.byteAt x) ∧
      (∀ v w, Spec.arithmetic i vs = some v → Spec.arithmetic i ws = some w →
        ∃ t, exec i s = .next t ∧ t.destHolds l (writes i) (BitVec.ofInt 64 v) ∧
          t.destHolds l.shadow (writes i) (BitVec.ofInt 64 w) ∧ s.restKept t l)) ∧
    (∀ (r : LaunchRec) (f : FaultInfo) (y : Clause) (s' : State) (pc : DWord),
      (∀ x ∈ (s.thread l).frames, x.ret.getLsbD 0 = false) → s.recOf l.g = some r → r.handler ≠ 0 →
      (∀ x, s.launch? (s.grp l.g).launch = some x → x.state ≠ .replaying) →
      s.fetchCheck (s.grp l.g).core (s.grp l.g).part r.handler = (.ok y, s') →
      let t := s.enterFault l pc f
      t.thread? l.shadow = t.thread? l ∧ ∀ n, t.v l.shadow n = s.v l n ∧ t.v l n = s.v l n)

/-- Poison and a mismatch of a protected pair take the error action; a protected pair performs a word once, its shadow compared first.
The model's own choices in it: log entry 24. -/
def Obligations.ErrorActionReplaysOrMarks : Prop :=
  Spec.errorActionRule ∧ Spec.protectedPairRule

/-- Memory words check their address before anything else, and issue one access with its counter raised. -/
def Obligations.MemoryWordsCheckAndIssue : Prop :=
  Spec.memoryWordsIssueRule ∧ Spec.memoryWordsCheckFirstRule

namespace Sys2Proof.Spec

open Sys2Proof Sys2Proof.Machine

/-- A thread that has gone on at a clause after a word that ends one (R72). -/
def fell (pc : DWord) (th : Thread) : Thread := { th with pc, mid := false, brkDone := false }

/-- A thread held at a word (R240). -/
def held (c : Ctx) (kind : HoldKind) (th : Thread) : Thread :=
  { th with hold := some { kind, ft := c.ft }, pc := c.w, mid := false }

/-- The state once a lane's queue operands have been popped, for its shadow as well (R33, R387). -/
def popped (s : State) (l : Lane) (i : Instr) (th : Thread) : State := (s.modThread l fun _ => th).popShadow l (sources i)

/-- A word that ends its clause leaves the state `u`: its fall-through clause is fetched, and where that succeeds the word is over and its
thread, as `put` has it then, in no gang (R72, R77). -/
def stops (s : State) (k : Nat) (gang : Gang) (l : Lane) (i : Instr) (u : State) (put : Thread → Thread) : Prop :=
  ∀ x s', u.fetchFor l.g (gang.ctx k).ft = (.ok x, s') →
    ∃ t, exec i s = .next t ∧ (s'.modThread l put).leftGang t k l

/-- A word that ends its clause and keeps its thread: the thread, `th` after the operands were read, goes on at the fall-through
clause. -/
def falls (s : State) (k : Nat) (gang : Gang) (l : Lane) (i : Instr) (th : Thread) : Prop :=
  stops s k gang l i (popped (s.issued gang) l i th) (fell (gang.ctx k).ft)

/-- The state in which a word has held its thread (R240). -/
def heldIn (u : State) (k : Nat) (gang : Gang) (l : Lane) (kind : HoldKind) : State :=
  (u.modBoth l (held (gang.ctx k) kind)).leaveGang l

/-- A word holds its thread (R240). -/
def holds (s : State) (k : Nat) (gang : Gang) (l : Lane) (i : Instr) (th : Thread) (kind : HoldKind) : Prop :=
  stops s k gang l i (heldIn (popped (s.issued gang) l i th) k gang l kind) id

/-- A held thread goes on at its fall-through clause, to which the word it was held at passes control (R240, R77). -/
def released (th : Thread) : Thread :=
  match th.hold with
  | some h => { th with hold := none, pc := h.ft, mid := false, passing := some th.pc }
  | none => th

/-- The arrivals of a crew's thread at a barrier that count: those before its first one that still waits (R177). -/
def arrivals (c : Crew) (t n : Nat) : Word :=
  match c.pending.find? fun p => p.t == t && p.n == n with
  | some p => p.phase
  | none => c.counts.get 0 (16 * t + n)

/-- A word faults at its own address. -/
def faults (s : State) (k : Nat) (gang : Gang) (l : Lane) (i : Instr) (th : Thread) (f : FaultInfo) : Prop :=
  ∃ t, exec i s = .next t ∧ ((popped (s.issued gang) l i th).takeFault l (gang.ctx k).w f).leftGang t k l

end Sys2Proof.Spec

open Sys2Proof Sys2Proof.Machine

/-- R175, R178, R281 to R283: FENCE passes once what its kind names is done: for a release the thread's accesses are performed as far as the
scope goes, every invalidation inside it has arrived and what the stores it has read rest on is performed, for an acquire its reads are
and, at the narrower of each read's scope and its own, what the releases it has read rest on; and WAITC once every counter is at or below its limit; until then
they change nothing. -/
def Sys2Proof.Spec.fenceAndCounterWaitRule : Prop :=
  ∀ (s : State) (k : Nat) (gang : Gang) (l : Lane) (h : Head),
    (∀ (scope : Scope) (kind : MOrd), s.plainAt k gang l (.fence h scope kind) = true → gang.inside = true →
      let core := (s.grp l.g).core
      let inside := fun (c : Nat) => scopeContains scope core c = true
      let performed := ∀ e ∈ s.ops, e.2.lane = l → e.2.live = false ∨ s.ownsFor e.2 scope = true
      let arrived := ∀ e ∈ s.sectors, (∀ c ∈ e.2.stale, ¬inside c.1) ∧
        ∀ d ∈ e.2.l2stale, d.1 ≠ coreDie core ∧ ¬inside (96 * d.1)
      let observed := ∀ r ∈ s.rels, (∃ e ∈ r.readers, e.1 = l) → ∀ n ∈ r.needs, s.before n.1 n.2 = []
      let read := ∀ e ∈ s.ops, e.2.lane = l → e.2.kind.isRead = true → e.2.live = false
      let seen := ∀ r ∈ s.rels, r.rel = true → r.lane ≠ l → scopeContains r.scope r.core core = true →
        (∃ e ∈ r.readers, e.1 = l ∧
          scopeContains (if scopeCode e.2 ≤ scopeCode scope then e.2 else scope) core r.core = true) → s.relDone r = true
      let due := (kind = .rel ∨ kind = .ar → performed ∧ arrived ∧ observed) ∧ (kind = .acq ∨ kind = .ar → read ∧ seen)
      (due → ∃ t, exec (.fence h scope kind) s = .next t ∧
        s.passed (if kind = .rel ∨ kind = .ar then s.passFence l scope else s) t k gang l (.fence h scope kind) []) ∧
      (¬due → exec (.fence h scope kind) s = .next s)) ∧
    (∀ x : WaitcF, s.plainAt k gang l (.waitc h x) = true → gang.inside = true →
      let th := s.thread l
      let due := th.ld ≤ x.ld.val ∧ th.st ≤ x.st.val ∧ th.cp ≤ x.cp.val ∧ th.tl ≤ x.tl.val
      (due → ∃ t, exec (.waitc h x) s = .next t ∧ s.passed s t k gang l (.waitc h x) []) ∧
      (¬due → exec (.waitc h x) s = .next s))

/-- R176, R177, R198: BAR holds its thread, but one whose phase completed while it was saved goes on; BARA writes the thread's arrival count of the barrier to its destination and raises it, at once
where nothing before it is under way; BARW holds a thread for a phase it has arrived at itself and faults for another. -/
def Sys2Proof.Spec.barrierWordsRule : Prop :=
  ∀ (s : State) (k : Nat) (gang : Gang) (l : Lane) (h : Head),
    let g := s.grp l.g
    let me := g.idx * g.width + l.t
    (s.plainAt k gang l (.bar h) = true →
      let th := { s.thread l with barAt := none }
      ((s.thread l).barAt = some ((gang.ctx k).w, true) → Spec.falls s k gang l (.bar h) th) ∧
      ((s.thread l).barAt ≠ some ((gang.ctx k).w, true) → Spec.holds s k gang l (.bar h) th .bar)) ∧
    (∀ (x : BaraF) (c : Crew), s.plainAt k gang l (.bara h x) = true → gang.inside = true → s.crew? g.crew = some c →
      let a := c.counts.get 0 (16 * me + x.n.val)
      ∃ t c', exec (.bara h x) s = .next t ∧ t.crew? g.crew = some c' ∧
        c'.counts.get 0 (16 * me + x.n.val) = a + 1 ∧
        (∀ j, j ≠ 16 * me + x.n.val → c'.counts.get 0 j = c.counts.get 0 j) ∧
        ((∀ e ∈ s.ops, e.2.lane = l → e.2.live = false) → s.staleIn x.scope g.core = false → s.observedDone l = true →
          (s.sealedBefore l (s.thread l).batch).all CopyOp.ended = true → ∀ p ∈ c'.pending, p ∈ c.pending) ∧
        (∀ d, x.d = some d → t.v l d.val = a) ∧ s.regsKept t l (writes (.bara h x)) ∧
        t.thread? l = some ((s.thread l).past (gang.ctx k)) ∧ s.wentOn t k gang (.bara h x) ∧
        (∀ b, t.byteAt b = s.byteAt b) ∧ t.ops = s.ops) ∧
    (∀ (x : BarwF) (c : Crew) (vs : List DWord) (th : Thread), s.plainAt k gang l (.barw h x) = true →
      s.crew? g.crew = some c → s.operandsOf l (.barw h x) = some (vs, th) →
      let p := (vs.getD 0 0).lo
      let ahead := (p - c.counts.get 0 (16 * me + x.n.val)).toInt
      (ahead < 0 → Spec.holds s k gang l (.barw h x) th (.barw x.n p x.scope)) ∧
      (0 ≤ ahead → ∃ a, Spec.faults s k gang l (.barw h x) th { cause := .illegalEnc, kind := .none, addr := a }))

/-- R133, R134, R176, R177, R181 to R183: what the end of every step releases (`State.settle`). A rejoin mask: once every live thread
whose bit is set is held at its WAITJ and all that is held has arrived, all go on at their fall-through clauses and the mask is 0.
The group barrier: once every live thread is held at a BAR, or counts there since a save, and has arrived. A thread at a BARW: once
every thread of the crew has exited or has made an arrival of the phase that counts. A thread at an HWAIT, a SLEEPT whose time has
come, or a WAITB: once what it waits for is complete; where that failed it takes the fault. Until then nothing changes. -/
def Sys2Proof.Spec.releasesRule : Prop :=
  ∀ (s : State) (g : Nat) (x : Group), s.group? g = some x → AMap.sorted x.threads = true →
    let lane := fun (t : Nat) => ({ g, t, sh := false } : Lane)
    (∀ j : Fin 8,
      let waits := fun (th : Thread) => ∃ ft, th.hold = some { kind := .waitj j, ft }
      let ready := (∃ e ∈ x.live, waits e.2) ∧ (∀ e ∈ x.live, (x.j.get 0 j.val).getLsbD e.1 = true → waits e.2) ∧
        ∀ e ∈ x.live, waits e.2 → s.arrived (lane e.1) .core = true
      let t := s.settleJ g j
      (ready → (t.grp g).j.get 0 j.val = 0 ∧ (∀ n, n ≠ j.val → (t.grp g).j.get 0 n = x.j.get 0 n) ∧
        ∀ e ∈ x.live, (waits e.2 → t.thread? (lane e.1) = some (Spec.released e.2)) ∧
          (¬waits e.2 → t.thread? (lane e.1) = some e.2)) ∧
      (¬ready → t = s)) ∧
    (let waits := fun (th : Thread) => ∃ ft, th.hold = some { kind := .bar, ft }
     let counts := fun (th : Thread) => th.hold = none ∧ th.barAt = some (th.pc, false)
     let ready := x.live ≠ [] ∧ (∀ e ∈ x.live, waits e.2 ∨ counts e.2) ∧
       ∀ e ∈ x.live, waits e.2 → s.arrived (lane e.1) .core = true
     let t := s.settleBar g
     (ready → ∀ e ∈ x.live, (waits e.2 → t.thread? (lane e.1) = some (Spec.released e.2)) ∧
       (counts e.2 → t.thread? (lane e.1) = some { e.2 with barAt := some (e.2.pc, true) })) ∧
     (¬ready → t = s)) ∧
    (∀ (t : Nat) (th : Thread), t < 64 → s.thread? (lane t) = some th →
      (∀ n p sc ft c, th.hold = some { kind := .barw n p sc, ft } → s.crew? x.crew = some c →
        let done := ∀ u, u < c.groups.length * c.width → u ∈ c.exited ∨ 0 ≤ (Spec.arrivals c u n.val - p - 1).toInt
        (done → (s.settleBarw (lane t)).thread? (lane t) = some (Spec.released th)) ∧
        (¬done → s.settleBarw (lane t) = s)) ∧
      (∀ hv ft, th.hold = some { kind := .hwait hv, ft } ∨ (∃ u, th.hold = some { kind := .sleept u (some hv) true, ft }) →
        let st := s.hState x.part hv
        (st = .complete → (s.settleWait (lane t)).thread? (lane t) = some (Spec.released th)) ∧
        (st = .pending → s.settleWait (lane t) = s) ∧
        (∀ f, st = .failed f → (∀ c y, s.hCopy x.part hv = some (c, y) → y.resumable = false) →
          (∀ c, (s.cluster c).stopped = false) →
          let u := s.modBoth (lane t) fun y => { y with tileFaults := y.tileFaults.filter fun e => e.handle ≠ some hv }
          s.settleWait (lane t) =
            if f.cause = .poison then u.enterFault (lane t) th.pc f else u.takeFault (lane t) th.pc f)) ∧
      (∀ q ft, th.hold = some { kind := .waitb q, ft } →
        let mine := fun (c : CopyOp) => c.lane = lane t ∧ c.batch ≠ th.batch ∧ (th.batch - c.batch).toInt ≥ 0 ∧
          (q - c.batch).toInt ≥ 0
        (∀ e ∈ s.copies, mine e.2 → ∀ f, e.2.st ≠ .failed f) →
        ((∀ e ∈ s.copies, mine e.2 → e.2.st = .complete) →
          (s.settleWait (lane t)).thread? (lane t) = some (Spec.released th)) ∧
        ((∃ e ∈ s.copies, mine e.2 ∧ e.2.st ≠ .complete) → s.settleWait (lane t) = s)))

/-- FENCE and WAITC let a thread past once its counters allow it; barrier words hold a thread, and the end of a step releases it once
what its word waits for is there.
The model's own choices in it: log entries 8, 39 and 70. -/
def Obligations.FenceWaitAndBarrierWords : Prop :=
  Spec.fenceAndCounterWaitRule ∧ Spec.barrierWordsRule ∧ Spec.releasesRule

/-- R34, R179, R180: COPY gives its thread a fresh handle of kind 1 on its die, pending or for length 0 complete at once, queues the copy
with its promise (R184), and raises CP where there is something to copy; no register changes.
The model's own choices in it: log entry 16. -/
def Obligations.CopyIssues : Prop :=
  ∀ (s : State) (k : Nat) (gang : Gang) (l : Lane) (h : Head) (x : CopyF) (dst src n : DWord) (th : Thread),
    let i := Instr.copy h x
    let g := s.grp l.g
    let die := g.core / 96
    let len := n.toNat % 2 ^ 32
    s.plainAt k gang l i = true → gang.inside = true → s.operandsOf l i = some ([dst, src, n], th) →
    canonical dst = true → canonical src = true →
    (len = 0 ∨ ((src.toNat + len ≤ dst.toNat ∨ dst.toNat + len ≤ src.toNat) ∧ s.aperBad l.g dst len = false ∧
      s.aperBad l.g src len = false)) →
    (s.copiesOf die).length < 256 →
    let seq := (s.die die).seqs.get 0 1
    let hv := BitVec.ofNat 64 (1 * 2 ^ 60 + die * 2 ^ 56 + (s.partn g.part).gen.toNat % 256 * 2 ^ 48 + seq)
    ∃ t c, exec i s = .next t ∧
      t.thread? l = some (Thread.past { th with h := th.h.set x.hd.val hv, cp := if len = 0 then th.cp else th.cp + 1 }
        (gang.ctx k)) ∧
      s.wentOn t k { gang with ops := (if len = 0 then [] else [{ lane := l, op := s.nextId }]) ++ gang.ops } i ∧
      t.copies.find? s.nextId = some c ∧ c.dst = dst ∧ c.src = src ∧ c.len = len ∧ c.scope = x.scope ∧ c.lane = l ∧
      c.batch = (s.thread l).batch ∧ c.off = 0 ∧ c.st = (if len = 0 then .complete else .queued) ∧
      c.promise = s.dclk die + 2000 + (((s.copiesOf die).map CopyOp.unwritten).sum + len + 127) / 128 ∧ c.ahead = [] ∧
      (∀ j, j ≠ s.nextId → t.copies.find? j = s.copies.find? j) ∧
      (die < 16 → seq < 2 ^ 48 → t.hState g.part hv = (if len = 0 then .complete else .pending)) ∧
      s.regsKept t l [] ∧ t.ops = s.ops

/-- R181, R182, R186: HWAIT goes on where its handle is complete, holds its thread while it is pending and takes the fault of one that
failed; HTEST reports complete and pending; HCANCEL asks a pending copy to stop; HMOV moves handles; HTIME reads the promise of a
pending copy and else 0. -/
def Sys2Proof.Spec.handleWordsRule : Prop :=
  ∀ (s : State) (k : Nat) (gang : Gang) (l : Lane) (h : Head) (n : Fin 16),
    let th := s.thread l
    let hv := th.h.get 0 n.val
    let st := s.hState (s.grp l.g).part hv
    (s.plainAt k gang l (.hwait h n) = true →
      (st = .complete → Spec.falls s k gang l (.hwait h n) th) ∧
      (st = .pending → Spec.holds s k gang l (.hwait h n) th (.hwait hv)) ∧
      (∀ f, st = .failed f → th.mid = false →
        let u := (s.issued gang).modBoth l fun y => { y with tileFaults := y.tileFaults.filter fun e => e.handle ≠ some hv }
        ∃ t, exec (.hwait h n) s = .next t ∧
          (if f.cause = .poison then u.enterFault l (gang.ctx k).w f else u.takeFault l (gang.ctx k).w f).leftGang t k l)) ∧
    (∀ pa pb : Fin 32, s.plainAt k gang l (.htest h pa pb n) = true → gang.inside = true →
      ∃ t, exec (.htest h pa pb n) s = .next t ∧
        s.passed (s.modBoth l fun y => (y.setPred pa.val (st == .complete)).setPred pb.val (st == .pending)) t k gang l
          (.htest h pa pb n) []) ∧
    (s.plainAt k gang l (.hcancel h n) = true → gang.inside = true →
      (∀ c y, st = .pending → s.hCopy (s.grp l.g).part hv = some (c, y) →
        ∃ t, exec (.hcancel h n) s = .next t ∧
          s.passed { s with copies := s.copies.modify c fun y => { y with cancel := true } } t k gang l (.hcancel h n) []) ∧
      (st ≠ .pending ∨ s.hCopy (s.grp l.g).part hv = none →
        ∃ t, exec (.hcancel h n) s = .next t ∧ s.passed s t k gang l (.hcancel h n) [])) ∧
    (∀ (a : Src) (v : DWord) (th' : Thread), s.plainAt k gang l (.hmovToH h n a) = true → gang.inside = true →
      s.operandsOf l (.hmovToH h n a) = some ([v], th') →
      ∃ t, exec (.hmovToH h n a) s = .next t ∧
        t.thread? l = some (Thread.past { th' with h := th'.h.set n.val v } (gang.ctx k)) ∧
        s.wentOn t k gang (.hmovToH h n a) ∧ s.regsKept t l [] ∧ s.restKept t l) ∧
    (∀ d : Fin 96, d.val + 1 < 96 → s.plainAt k gang l (.hmovToV h d n) = true → gang.inside = true →
      ∃ t, exec (.hmovToV h d n) s = .next t ∧ s.computed t k gang l (.hmovToV h d n) [d.val, d.val + 1] hv th) ∧
    (∀ d : Fin 96, d.val + 1 < 96 → s.plainAt k gang l (.htime h d n) = true → gang.inside = true →
      ∃ t v, exec (.htime h d n) s = .next t ∧ s.computed t k gang l (.htime h d n) [d.val, d.val + 1] v th ∧
        (∀ c y, st = .pending → s.hCopy (s.grp l.g).part hv = some (c, y) → v = BitVec.ofNat 64 y.promise) ∧
        (st ≠ .pending → v = 0))

/-- R183 to R185: SEAL writes the batch number and starts the next; WAITB goes on once every copy of the sealed batches up to its operand
has ended and holds its thread before; SLEEPT holds its thread until its time and goes on at once for a time already reached. -/
def Sys2Proof.Spec.batchAndSleepWordsRule : Prop :=
  ∀ (s : State) (k : Nat) (gang : Gang) (l : Lane) (h : Head),
    let th := s.thread l
    (∀ d : Option (Fin 96), s.plainAt k gang l (.seal h d) = true → gang.inside = true →
      ∃ t, exec (.seal h d) s = .next t ∧
        s.computed t k gang l (.seal h d) (writes (.seal h d)) (th.batch.zeroExtend 64) { th with batch := th.batch + 1 }) ∧
    (∀ (a : Src) (q : DWord) (th' : Thread), s.plainAt k gang l (.waitb h a) = true →
      s.operandsOf l (.waitb h a) = some ([q], th') →
      let mine := fun (c : CopyOp) => c.lane = l ∧ c.batch ≠ th.batch ∧ (th.batch - c.batch).toInt ≥ 0 ∧
        (q.lo - c.batch).toInt ≥ 0
      (∀ e ∈ s.copies, mine e.2 → ∀ f, e.2.st ≠ .failed f) →
      ((∀ e ∈ s.copies, mine e.2 → e.2.st = .complete) → Spec.falls s k gang l (.waitb h a) th') ∧
      ((∃ e ∈ s.copies, mine e.2 ∧ e.2.st ≠ .complete) → Spec.holds s k gang l (.waitb h a) th' (.waitb q.lo))) ∧
    (∀ (a : Src) (n : Option (Fin 16)) (until_ : DWord) (th' : Thread), s.plainAt k gang l (.sleept h a n) = true →
      s.operandsOf l (.sleept h a n) = some ([until_], th') →
      let hv := n.map fun n => th.h.get 0 n.val
      let now := s.dclk ((s.grp l.g).core / 96)
      (now < until_.toNat → Spec.holds s k gang l (.sleept h a n) th' (.sleept until_ hv false)) ∧
      (until_.toNat ≤ now → (∀ v, hv = some v → s.hState (s.grp l.g).part v = .complete) →
        Spec.falls s k gang l (.sleept h a n) th'))

/-- Words over handles, batches and SLEEPT hold a thread until what they wait for is there.
The model's own choices in it: log entries 22 and 64. -/
def Obligations.HandleBatchAndSleepWords : Prop :=
  Spec.handleWordsRule ∧ Spec.batchAndSleepWordsRule

namespace Sys2Proof.Spec

open Sys2Proof Sys2Proof.Machine

/-- A thread stands at a word as `plainAt` has it, but in an open region. -/
def openAt (s : State) (k : Nat) (gang : Gang) (l : Lane) (i : Instr) (r : Region) : Prop :=
  (s.modThread l fun th => { th with region := none }).plainAt k gang l i = true ∧ s.thread? l = some (s.thread l) ∧
  (s.thread l).region = some r

/-- No recorded access of a region overlaps bytes of memory. -/
def apartFrom (r : Region) (pa n : Nat) : Prop :=
  (∀ y ∈ r.inputs, ∃ q, y.space = .phys q ∧ (q + y.size ≤ pa ∨ pa + n ≤ q)) ∧
  ∀ y ∈ r.stores, ∃ q, y.space = .phys q ∧ (q + y.data.length ≤ pa ∨ pa + n ≤ q)

/-- The word aborts the lane's region with a REASON: the thread is out of its gang, at the abort target, with its values of RBEGIN in
what it wrote, and memory is as in `u` (R223). -/
def abortsAt (s u : State) (k : Nat) (l : Lane) (i : Instr) (r : Region) (reason : Nat) : Prop :=
  ∃ t y, exec i s = .next t ∧ t.gang? k = none ∧ t.thread? l = some y ∧ y.region = none ∧ y.pc = r.target ∧
    y.rstat = BitVec.ofNat 32 (16 * reason) ∧ y.preds = r.preds ∧ (∀ n ∈ r.wrote, t.v l n = (r.v.get VReg.init n).val.at l.t) ∧
    ∀ a, t.byteAt a = u.byteAt a

/-- No value that a register of the lane will receive is under way. -/
def settledRegs (s : State) (l : Lane) : Prop :=
  ∀ e ∈ s.ops, e.2.lane = l → e.2.live = true → opDst e.2.kind = [] ∧ opInput e.2.kind = none

/-- A slice past its word: at the next one, or at the fall-through clause (R72, R187). -/
def sliceOn (sl : Slice) (cl : Clause) : Slice :=
  if sl.ix = cl.hdr.cnt then { sl with pc := cl.addr + BitVec.ofNat 64 (8 * (cl.hdr.cnt + 2)), clause := none, ix := 0 }
  else { sl with ix := sl.ix + 1, pc := sl.pc + 8 }

/-- The slice of a group stands in a clause at a word whose guard its predicates make true. -/
def sliceAt (s : State) (g : Nat) (x : Group) (cl : Clause) (i : Instr) : Prop :=
  s.cur = .slice g ∧ s.group? g = some x ∧ x.slice.clause = some cl ∧ guardTrue (headPart i).guard (Thread.create 0) = true

end Sys2Proof.Spec

open Sys2Proof Sys2Proof.Machine

/-- R219, R223, R307: RBEGIN opens a region at its label's target in a thread that has none, recording its predicates and status; RABORT
without a region has no effect, and in one it returns the thread to what RBEGIN saw, at the target with REASON 8; RCOMMIT in a region
enters the commit engine of its core and holds the thread, and without one faults. -/
def Sys2Proof.Spec.regionControlRule : Prop :=
  ∀ (s : State) (k : Nat) (gang : Gang) (l : Lane) (h : Head) (r : Region),
    let c := gang.ctx k
    let th := s.thread l
    (∀ scope off, s.plainAt k gang l (.rbegin h scope off) = true → gang.inside = true → Spec.settledRegs s l →
      ∃ t y, exec (.rbegin h scope off) s = .next t ∧
        t.thread? l = some (Thread.past { th with rstat := 1, region := some y } c) ∧
        y.scope = scope ∧ y.target = Spec.label c.w off ∧ y.preds = th.preds ∧ y.fst = th.fst ∧ y.fmode = th.fmode ∧
        y.smf = th.smf ∧ y.exc = th.exc ∧ y.inputs = [] ∧ y.stores = [] ∧ y.cons = [] ∧ y.wrote = [] ∧ y.popped = [] ∧
        (∀ n, (y.v.get VReg.init n).val = ((s.grp l.g).vreg false n).val) ∧
        s.wentOn t k gang (.rbegin h scope off) ∧ s.regsKept t l [] ∧ s.restKept t l) ∧
    (s.plainAt k gang l (.rabort h) = true → Spec.falls s k gang l (.rabort h) th) ∧
    (Spec.openAt s k gang l (.rabort h) r →
      ∃ t y, exec (.rabort h) s = .next t ∧ t.thread? l = some y ∧ y.region = none ∧ y.pc = r.target ∧ y.rstat = 0x80 ∧
        y.preds = r.preds ∧ y.fst = r.fst ∧ y.fmode = r.fmode ∧ y.smf = r.smf ∧ y.exc = r.exc ∧
        (∀ n ∈ r.wrote, t.v l n = (r.v.get VReg.init n).val.at l.t) ∧ (∀ a, t.byteAt a = s.byteAt a) ∧
        (t.core (s.grp l.g).core).aborts = (s.core (s.grp l.g).core).aborts + 1) ∧
    (Spec.openAt s k gang l (.rcommit h) r → Spec.settledRegs s l → (s.core (s.grp l.g).core).commits.length < 65 →
      Spec.stops s k gang l (.rcommit h) ((Spec.heldIn (s.issued gang) k gang l .commit).modCore (s.grp l.g).core fun y =>
        { y with commits := y.commits ++ [l] }) id) ∧
    (s.plainAt k gang l (.rcommit h) = true →
      ∃ a, Spec.faults s k gang l (.rcommit h) th { cause := .illegalEnc, kind := .none, addr := a })

/-- R220, R221: LD in an open region at a place of the package's memory that no recorded access overlaps is a new input, in flight at
the region's scope, and for 4 and 8 bytes its destination carries the tag of that input; one of exactly the bytes of a recorded store
takes its value and its tag and reads nothing; a ninth input aborts the region with REASON 3. -/
def Sys2Proof.Spec.loadInARegionRule : Prop :=
  ∀ (s : State) (k : Nat) (gang : Gang) (l : Lane) (h : Head) (r : Region) (x : LdF) (va : DWord) (pa : Nat) (s' : State),
    let i := Instr.ld h x
    let n := (Spec.loadType x.ty).1
    let word : Bool := x.ty == .b32 || x.ty == .b64
    Spec.openAt s k gang l i r → gang.inside = true →
    (s.issued gang).address l x.m n n .load .rd = (.at va (.phys pa), s') → s'.paKind pa = .hbm → s'.poisoned pa n = false →
    (∀ o, x.m.ofs = some o → ∀ e ∈ r.tags, e.1 ≠ o.val ∧ e.1 + 1 ≠ o.val ∧ e.1 ≠ o.val + 1) →
    (Spec.apartFrom r pa n → r.inputs.length < 8 →
      ∃ t y r' nth, exec i s = .next t ∧ t.thread? l = some y ∧ y.region = some r' ∧
        r'.inputs = r.inputs ++ [{ va, space := .phys pa, size := n, val := 0, trackable := word, mark := false, nth }] ∧
        r'.stores = r.stores ∧ r'.cons = r.cons ∧ r'.untrackable = r.untrackable ∧ (∀ d ∈ writes i, d ∈ r'.wrote) ∧
        (word = true → r'.tags.find? x.d.val =
          some { input := r.inputs.length, wide := decide (n = 8), chain := .none }) ∧
        y.ld = (s.thread l).ld + 1 ∧
        t.ops = (Spec.flies s' l { va, sp := .phys pa, size := n, scope := r.scope, ord := .rlx, hint := x.hint.val, kind := .load (Spec.loadType x.ty).2 (writes i) (some r.inputs.length), data := [] }).ops ∧
        (∀ a, t.byteAt a = s'.byteAt a) ∧ s.wentOn t k { gang with ops := Spec.unitIds s' l n ++ gang.ops } i) ∧
    (∀ st, r.stores.find? (fun y => decide (y.space = .phys pa) && decide (y.data.length = n)) = some st →
      ∃ t y r', exec i s = .next t ∧ t.thread? l = some y ∧ y.region = some r' ∧ r'.inputs = r.inputs ∧
        r'.stores = r.stores ∧ r'.untrackable = r.untrackable ∧ t.ops = s'.ops ∧ y.ld = (s.thread l).ld ∧
        (x.ty = .b32 → (∀ j, j < 4 → (t.v l x.d.val).extractLsb' (8 * j) 8 = st.data.getD j 0) ∧
          ∀ tag, st.sym = some tag → r'.tags.find? x.d.val = some tag)) ∧
    (Spec.apartFrom r pa n → 8 ≤ r.inputs.length → Spec.abortsAt s s' k l i r 3)

/-- R220, R221: ST in an open region at such a place performs nothing and counts nothing: its bytes, with the tag of a tagged value
of 4 or 8 bytes, are recorded after the others or in the place of a store to exactly those bytes; a value of another size makes the
region untrackable; a seventeenth store aborts the region with REASON 3. -/
def Sys2Proof.Spec.storeInARegionRule : Prop :=
  ∀ (s : State) (k : Nat) (gang : Gang) (l : Lane) (h : Head) (r : Region) (x : StF) (va : DWord) (pa : Nat) (s' : State)
    (vs : List DWord) (a : Spec.Access),
    let i := Instr.st h x
    let n := Spec.storeType x.ty
    let word : Bool := x.ty == .b32 || x.ty == .b64
    Spec.openAt s k gang l i r → gang.inside = true → (∀ q, x.data ≠ .q q) → s.operandsOf l i = some (vs, s.thread l) →
    Spec.access s l i vs = some a →
    (s.issued gang).address l x.m n n .store .wr = (.at va (.phys pa), s') → s'.paKind pa = .hbm →
    (∀ o, x.m.ofs = some o → ∀ e ∈ r.tags, e.1 ≠ o.val ∧ e.1 + 1 ≠ o.val ∧ e.1 ≠ o.val + 1) →
    let exact := fun (y : RStore) => decide (y.space = .phys pa) && decide (y.data.length = n)
    let same := r.stores.any exact
    ((∀ y ∈ r.stores, exact y = true ∨ ∃ q, y.space = .phys q ∧ (q + y.data.length ≤ pa ∨ pa + n ≤ q)) →
      (same = true ∨ r.stores.length < 16) →
      (∀ d, x.data = .v d → ∀ e ∈ r.tags, e.1 = d.val ∧ word = true ∧ e.2.wide = decide (n = 8)) →
      let sym : Option SymTag := match x.data with
        | .v d => r.tags.find? d.val
        | .q _ | .zero => none
      ∃ t y r', exec i s = .next t ∧ t.thread? l = some y ∧ y.region = some r' ∧ r'.inputs = r.inputs ∧ r'.cons = r.cons ∧
        r'.untrackable = (r.untrackable || !word) ∧ y.st = (s.thread l).st ∧ t.ops = s'.ops ∧
        (∀ b, t.byteAt b = s'.byteAt b) ∧
        (same = false → ∃ nth, r'.stores = r.stores ++ [{ va, space := .phys pa, data := a.data, sym, nth }]) ∧
        (same = true → r'.stores = r.stores.map fun y =>
          if exact y then { va, space := .phys pa, data := a.data, sym, nth := y.nth } else y)) ∧
    (same = false → 16 ≤ r.stores.length → Spec.abortsAt s s' k l i r 3)

/-- R220, R221: with one tagged register in the region, a plain IADD adds the untagged value to the chain's constant, a plain FADD of
its format appends an addend with the rounding mode in force, an ICMP records a constraint, and a word of another rule makes the region
untrackable and leaves its result untagged; a fifth addend and a ninth constraint abort the region with REASON 3. The results are
computed as outside a region. -/
def Sys2Proof.Spec.trackedWordsRule : Prop :=
  ∀ (s : State) (k : Nat) (gang : Gang) (l : Lane) (h : Head) (r : Region) (a b d : Fin 96) (tag : SymTag) (vs : List DWord),
    r.tags = [(a.val, tag)] → tag.wide = false → b ≠ a → d ≠ a → gang.inside = true →
    let goes := fun (i : Instr) (f : State → Thread → Region → Prop) =>
      Spec.openAt s k gang l i r → s.operandsOf l i = some (vs, s.thread l) →
      ∃ t y r', exec i s = .next t ∧ t.thread? l = some y ∧ y.region = some r' ∧ r'.inputs = r.inputs ∧ r'.stores = r.stores ∧
        s.wentOn t k gang i ∧ f t y r'
    let x : Alu2 := { d, a := .v a, b := .v b, w := false, sg := true, sat := false }
    let fx : Fp2 := { t := .f32, d, a := .v a, b := .v b, ma := { abs := false, neg := false }, mb := { abs := false, neg := false }, rm := .rne }
    let val := vs.getD 1 0
    (∀ c, (tag.chain = .none ∧ c = val) ∨ (∃ k', tag.chain = .int k' ∧ c = k' + val) →
      goes (.iadd h x) fun t _ r' => r'.tags.find? d.val = some { tag with chain := .int c } ∧ r'.untrackable = r.untrackable ∧
        t.v l d.val = s.v l a.val + s.v l b.val) ∧
    goes (.and h { x with sg := false }) (fun t _ r' => r'.tags.find? d.val = none ∧ r'.untrackable = true ∧
      t.v l d.val = s.v l a.val &&& s.v l b.val) ∧
    (∀ as, (tag.chain = .none ∧ as = []) ∨ tag.chain = .flt false as →
      (as.length < 4 → goes (.fadd h fx) fun _ _ r' => r'.untrackable = r.untrackable ∧
        r'.tags.find? d.val = some { tag with
          chain := .flt false (as ++ [{ neg := false, val := BitVec.ofNat 64 (val.toNat % 2 ^ 32), rm := .rne }]) }) ∧
      (4 ≤ as.length → s.operandsOf l (.fadd h fx) = some (vs, s.thread l) → Spec.openAt s k gang l (.fadd h fx) r →
        Spec.abortsAt s s k l (.fadd h fx) r 3)) ∧
    (∀ (pa pb pc : Fin 32), let i := Instr.icmp h { pa, pb, pc, a := .v a, b := .v b, w := false, cond := .lts }
      (r.cons.length < 8 → goes i fun _ _ r' => r'.untrackable = r.untrackable ∧
        let o := decide ((s.v l a.val).toInt < (s.v l b.val).toInt)
        r'.cons = r.cons ++ [{ cmp := .int .lts false, tagFirst := true, tag, other := val, pc := s.p l pc.val, outcome := o }]) ∧
      (8 ≤ r.cons.length → s.operandsOf l i = some (vs, s.thread l) → Spec.openAt s k gang l i r → Spec.abortsAt s s k l i r 3))

/-- Regions open, track what their words do, enter the commit engine and abort.
The model's own choices in it: log entries 35 and 67. -/
def Obligations.RegionWords : Prop :=
  Spec.regionControlRule ∧ Spec.loadInARegionRule ∧ Spec.storeInARegionRule ∧ Spec.trackedWordsRule

/-- R225, R371: TRAP and BRK take BREAK, whose `%faddr` holds the code, with bit 16 for TRAP; a word the handler returns to falls
through; where the debugger has armed break handling, BRK starts a stop with trigger 16 and its thread goes on. -/
def Sys2Proof.Spec.trapAndBreakRule : Prop :=
  ∀ (s : State) (k : Nat) (gang : Gang) (l : Lane) (h : Head) (code : BitVec 16) (i : Instr) (addr : DWord),
    let c := gang.ctx k
    let th := s.thread l
    let clu := coreCluster (s.grp l.g).core
    let armed := (s.partn (s.grp l.g).part).debug = true ∧ (s.cluster clu).dbgctl.getLsbD 5 = true
    (i = .trap h code ∧ addr = BitVec.ofNat 64 (0x10000 + code.toNat)) ∨
      (i = .brk h code ∧ addr = BitVec.ofNat 64 code.toNat ∧ ¬armed) →
    s.plainAt k gang l i = true →
    (¬(th.brkDone = true ∧ th.mid = true ∧ th.pc = c.w) →
      Spec.faults s k gang l i th { cause := .brk, kind := .none, addr }) ∧
    (th.brkDone = true → th.mid = true → th.pc = c.w → Spec.falls s k gang l i th)

/-- R362, R363, R371: BRK in a debug partition whose cluster has break handling armed starts a stop, unless one has started, and leaves
its thread to go on. -/
def Sys2Proof.Spec.armedBreakStopsTheClusterRule : Prop :=
  ∀ (s : State) (k : Nat) (gang : Gang) (l : Lane) (h : Head) (code : BitVec 16),
    let clu := coreCluster (s.grp l.g).core
    s.plainAt k gang l (.brk h code) = true → (s.partn (s.grp l.g).part).debug = true →
    (s.cluster clu).dbgctl.getLsbD 5 = true → (s.cluster clu).stopping = false →
    (s.cluster clu).stoprec.getLsbD 0 = false →
    let u := (s.issued gang).trigger clu 0 (gang.ctx k).w (s.grp l.g).gid l.t (s.grp l.g).core 0 4 16
    Spec.stops s k gang l (.brk h code) u (Spec.fell (gang.ctx k).ft) ∧
    (u.cluster clu).stopping = true ∧ (u.cluster clu).stoprec.getLsbD 0 = true ∧
    (u.cluster clu).stoprec.extractLsb' 128 64 = (gang.ctx k).w ∧ (u.cluster clu).stoprec.extractLsb' 5 5 = 16#5 ∧
    (u.cluster clu).stoprec.extractLsb' 32 32 = BitVec.ofNat 32 (s.grp l.g).gid ∧ ∀ a, u.byteAt a = s.byteAt a

/-- R226: ERRINJ inverts bits of the stored word of a register and leaves its value's tag, or inverts a bit of an entry of a Z tile its
group holds, or poisons the sector at an address. -/
def Sys2Proof.Spec.errorInjectionRule : Prop :=
  ∀ (s : State) (k : Nat) (gang : Gang) (l : Lane) (h : Head),
    let passes := fun (i : Instr) (t : State) => t.thread? l = some ((s.thread l).past (gang.ctx k)) ∧ s.wentOn t k gang i
    (∀ (n : Fin 96) (b : Fin 32), let i := Instr.errinjVflip1 h n b
      s.plainAt k gang l i = true → gang.inside = true →
      ∃ t, exec i s = .next t ∧ passes i t ∧ s.regsKept t l [] ∧ s.restKept t l ∧
        ((t.grp l.g).vreg false n.val).errAt l.t = ((s.grp l.g).vreg false n.val).errAt l.t ^^^ (1#32 <<< b.val)) ∧
    (∀ (n : Fin 96) (b b' : Fin 32), let i := Instr.errinjVflip2 h n b b'
      s.plainAt k gang l i = true → gang.inside = true →
      ∃ t, exec i s = .next t ∧ passes i t ∧ s.regsKept t l [] ∧ s.restKept t l ∧
        ((t.grp l.g).vreg false n.val).errAt l.t =
          ((s.grp l.g).vreg false n.val).errAt l.t ^^^ ((1#32 <<< b.val) ^^^ (1#32 <<< b'.val))) ∧
    (∀ (a : Src) (n : Fin 8) (b : Fin 32) (v : DWord) (th : Thread) (row col : Nat), let i := Instr.errinjZflip h a n b
      s.plainAt k gang l i = true → gang.inside = true → s.operandsOf l i = some ([v], th) →
      row < 64 → col < 64 → v.lo.toNat = row + 256 * col →
      let core := (s.grp l.g).core
      (s.core core).token n.val = .group l.g → (s.core core).tops = [] →
      ∃ t, exec i s = .next t ∧ t.thread? l = some (th.past (gang.ctx k)) ∧ s.wentOn t k gang i ∧
        ((t.core core).ztile n.val).els.get 0 (64 * row + col) =
          ((s.core core).ztile n.val).els.get 0 (64 * row + col) ^^^ (1#32 <<< b.val) ∧
        (∀ e, e ≠ 64 * row + col → ((t.core core).ztile n.val).els.get 0 e = ((s.core core).ztile n.val).els.get 0 e) ∧
        (∀ m, m ≠ n.val → (t.core core).ztile m = (s.core core).ztile m) ∧ (∀ x, t.byteAt x = s.byteAt x) ∧
        s.regsKept t l []) ∧
    (∀ (a : Src) (va : DWord) (th : Thread) (pa : Nat) (s' : State), let i := Instr.errinjPoison h a
      s.plainAt k gang l i = true → gang.inside = true → s.operandsOf l i = some ([va], th) → canonical va = true →
      (Spec.popped (s.issued gang) l i th).resolve l.g va 1 .leaf = (.ok (.phys pa), s') →
      ∃ t, exec i s = .next t ∧ t.thread? l = some (th.past (gang.ctx k)) ∧ s.wentOn t k gang i ∧
        (t.sector (pa / 64)).poison = true ∧ (∀ n, n ≠ pa / 64 → (t.sector n).poison = (s'.sector n).poison) ∧
        (∀ x, t.byteAt x = s'.byteAt x) ∧ s.regsKept t l [])

/-- TRAP, BRK with and without an armed debugger, and ERRINJ.
The model's own choices in it: log entries 33 and 42. -/
def Obligations.TrapBreakAndErrorInjection : Prop :=
  Spec.trapAndBreakRule ∧ Spec.armedBreakStopsTheClusterRule ∧ Spec.errorInjectionRule

/-- R228: SIGNAL with an aligned target outside the aperture that translates and is no plain host memory marks its launch, is seen by the
watch units, and puts one 8-byte release access at `.sys` in flight; SIGNAL.add also needs a place without poison. -/
def Sys2Proof.Spec.signalWordsRule : Prop :=
  ∀ (s : State) (k : Nat) (gang : Gang) (l : Lane) (h : Head),
    let g := s.grp l.g
    let c := gang.ctx k
    ∀ (add : Bool) (va vb : Src) (a v : DWord) (th : Thread) (sp : Space) (s' : State),
      let i := if add then Instr.signalAdd h va vb else .signalSt h va vb
      s.plainAt k gang l i = true → gang.inside = true → s.operandsOf l i = some ([a, v], th) →
      canonical a = true → a.toNat % 8 = 0 → aperOff a = none →
      (Spec.popped (s.issued gang) l i th).resolve l.g a 8 (if add then .rw else .wr) = (.ok sp, s') →
      (∀ p, Spec.behind s' sp ≠ .host p) → (add = true → s'.spacePoison sp 8 = false) →
      let u := (s'.watch l c.w a (if add then s'.atomKind l.g sp .sys else 1) 8 .sys).sideEffect g.launch
      let d := Spec.bytes 8 v.toNat
      let f : Spec.Flight := { va := a, sp, size := 8, scope := .sys, ord := .rel, hint := 0, kind := .signal add, data := d }
      ∃ t, exec i s = .next t ∧ s.passed (Spec.began u l .st f) t k gang l i (Spec.unitIds u l 8)

/-- R228: IRQ, once its thread's accesses are performed at `.sys`, marks its launch and sends its vector from the partition's function, or
leaves it pending while masked; a port in recovery discards it. -/
def Sys2Proof.Spec.irqWordRule : Prop :=
  ∀ (s : State) (k : Nat) (gang : Gang) (l : Lane) (h : Head),
    let g := s.grp l.g
    let c := gang.ctx k
    ∀ vec : BitVec 11, let i := Instr.irq h vec
      s.plainAt k gang l i = true → gang.inside = true → s.releasable l .sys = true →
      let x := s.partn g.part
      ∃ t, exec i s = .next t ∧ t.thread? l = some ((s.thread l).past c) ∧ s.wentOn t k gang i ∧
        (∀ y, s.launch? g.launch = some y → t.launch? g.launch = some { y with sideEffect := true }) ∧
        t.msgs = (if (s.hostPort x.port).recovery.isSome ∨ vec.toNat ∈ x.msixMask then s.msgs
          else s.msgs ++ [{ port := x.port, vf := some g.part, vec := vec.toNat }]) ∧
        ((s.hostPort x.port).recovery = none → vec.toNat ∈ x.msixMask → vec.toNat ∈ (t.partn g.part).msixPend) ∧
        (∀ a, t.byteAt a = s.byteAt a) ∧ s.regsKept t l []

/-- R227, R320, R323: LAUNCH with a uniform aligned record address outside the aperture that can be read, a free place in the launch buffer
and its stores performed at `.pkg` marks its launch, reserves the next record number of its queue, takes the place with the record's bytes,
and gives a handle named the next one of kind 3. -/
def Sys2Proof.Spec.launchWordRule : Prop :=
  ∀ (s : State) (k : Nat) (gang : Gang) (l : Lane) (h : Head),
    let g := s.grp l.g
    let c := gang.ctx k
    ∀ (va : Src) (q : BitVec 8) (hd : Option (Fin 16)) (a : DWord) (sps : List Space) (s' : State),
      let i := Instr.launch h va q hd
      s.plainAt k gang l i = true → gang.inside = true → s.operandsOf l i = some ([a], s.thread l) →
      srcIsU g false (va, true) = true → canonical a = true → a.toNat % 64 = 0 →
      (s.issued gang).recordPlaces l.g a = (.ok sps, s') → (s'.partn g.part).lbuf.length < 64 →
      s'.releasable l .pkg = true → (∀ sp ∈ sps, s'.placeLost sp = false ∧ s'.engineMay (g.core / 96) false sp = true) →
      let qb := ((s'.partn g.part).queues.get default q.toNat).qb
      s'.reachAt 1 (g.core / 96) true qb = true →
      let s1 := sps.foldl (fun (u : State) sp => u.engineReads (g.core / 96) 0 sp) s'
      let s2 := (s1.readSpaces sps).2
      let n := s2.rdNat qb 8
      let hv := BitVec.ofNat 64 (3 * 2 ^ 60 + g.core / 96 * 2 ^ 56 + (s2.partn g.part).gen.toNat % 256 * 2 ^ 48 +
        (s2.die (g.core / 96)).seqs.get 0 3)
      qb + 8 ≤ hbmSize → s.sound = true →
      ∃ t e, exec i s = .next t ∧ s.wentOn t k gang i ∧
        (∀ y, s2.launch? g.launch = some y → t.launch? g.launch = some { y with sideEffect := true }) ∧
        t.thread? l = some (Thread.past { (s.thread l) with h := match hd with
          | some hd => (s.thread l).h.set hd.val hv
          | none => (s.thread l).h } c) ∧
        (t.partn g.part).lbuf = (s2.partn g.part).lbuf ++ [e] ∧ e.q = q.toNat ∧ e.n = n ∧
        e.bytes = (s1.readSpaces sps).1.take 248 ∧ e.handle.isSome = hd.isSome ∧
        (∀ j, j < 8 → t.byteAt (qb + j) = BitVec.ofNat 8 ((n + 1) % 2 ^ 64 / 256 ^ j)) ∧
        (∀ x, x < qb ∨ qb + 8 ≤ x → t.byteAt x = s2.byteAt x) ∧ s.regsKept t l []

/-- R227, R228, R323: SIGNAL, IRQ and LAUNCH complete.
The model's own choices in it: log entry 25. -/
def Obligations.SignalIrqLaunch : Prop :=
  Spec.signalWordsRule ∧ Spec.irqWordRule ∧ Spec.launchWordRule

/-- R187 to R189: in an access slice QEND stops the engine, QLOOP counts a U register below V16 down and branches while it is not
zero, and QLD pushes one load of every live thread to its queue once each has a place. -/
def Sys2Proof.Spec.sliceWordsRule : Prop :=
  ∀ (s : State) (g : Nat) (x : Group) (cl : Clause) (h : Head),
    (Spec.sliceAt s g x cl (.qend h) → exec (.qend h) s = .next (s.modGroup g fun y =>
      { y with slice := { x.slice with running := false, clause := none } })) ∧
    (∀ (n : Fin 96) (off w : Word), n.val < 16 → Spec.sliceAt s g x cl (.qloop h n off) → x.slice.v.get (.u 0) n.val = .u w →
      let sl := { x.slice with v := x.slice.v.set n.val (.u (w - 1)) }
      ∃ t y, exec (.qloop h n off) s = .next t ∧ t.group? g = some y ∧
        y = { x with slice := if w = 1 then Spec.sliceOn sl cl
          else { sl with pc := Spec.label x.slice.pc off, clause := none, ix := 0 } } ∧
        (∀ j, j ≠ g → t.group? j = s.group? j) ∧ ∀ a, t.byteAt a = s.byteAt a) ∧
    (∀ (q : Fin 8) (m : MAddr) (scope : Scope) (hint : Fin 7), Spec.sliceAt s g x cl (.qld h q m scope hint) →
      (∀ e, m.ofs = some e → e.val % 2 = 0 ∧ e.val ≤ 14) → (∀ e ∈ x.live, e.2.occupied q.val < 16) →
      ∃ t y, exec (.qld h q m scope hint) s = .next t ∧ t.group? g = some y ∧ y.slice = Spec.sliceOn x.slice cl ∧
        ∀ n th, x.thread? n = some th → n < 64 → th.live = true → th.drop.get 0 q.val = 0 →
          ∃ th' es, y.thread? n = some th' ∧ th'.q.get [] q.val = th.q.get [] q.val ++ es ∧ es ≠ [] ∧
            (∀ e ∈ es, e.scope = scope) ∧ (AMap.sorted x.threads = true → es.length = 1))

/-- R75, R89, R187: a gang that meets QLD, QLOOP or QEND takes ILLEGAL_CLAUSE, whatever the thread's guard. -/
def Sys2Proof.Spec.sliceWordsInAGangRule : Prop :=
  ∀ (s : State) (k : Nat) (gang : Gang) (l : Lane) (h : Head) (i : Instr) (r : LaunchRec),
    i = .qend h ∨ (∃ n off, i = .qloop h n off) ∨ (∃ q m scope hint, i = .qld h q m scope hint) →
    s.cur = .gang k → s.gang? k = some gang → gang.lanes = [l] → l.sh = false → gang.step = false →
    (s.thread l).live = true → s.recOf l.g = some r →
    ∃ t a, exec i s = .next t ∧
      ((s.issued gang).takeFault l (gang.ctx k).w { cause := .illegalClause, kind := .none, addr := a }).leftGang t k l

/-- QEND, QLOOP and QLD act in an access slice; a gang that meets one of them takes ILLEGAL_CLAUSE.
The model's own choices in it: log entry 20. -/
def Obligations.SliceWords : Prop :=
  Spec.sliceWordsRule ∧ Spec.sliceWordsInAGangRule

namespace Sys2Proof.Spec

open Sys2Proof Sys2Proof.Machine

/-- The mask of a round: a rejoin mask, or the pair among the operand values (R154). -/
def roundMaskOf (s : State) (l : Lane) (i : Instr) (vs : List DWord) : DWord :=
  let of := fun (m : MaskOp) (at' : Nat) => match m with
    | .j n => (s.grp l.g).j.get 0 n.val
    | .pair _ => vs.getD at' 0
  match i with
  | .shfl _ x => of x.mask 2
  | .vote _ x => of x.mask 0
  | .redx _ x => of x.mask 1
  | .scanx _ x => of x.mask 1
  | .matchx _ x => of x.mask 1
  | .xsnd _ x => of x.mask 2
  | .xrcv _ x => of x.mask 1
  | _ => 0

/-- What a round gives its only joined thread (R157 to R161): the value for its registers, or the value of its predicate; `here` says
that the mask names it. -/
def alone (s : State) (l : Lane) (here : Bool) (i : Instr) (vs : List DWord) : DWord × List (Nat × Bool) :=
  let own := vs.getD 0 0
  let fill := vs.getLastD 0
  match i with
  | .shfl _ x =>
    let n := (vs.getD 1 0).lo.toNat
    let mine := here && (match x.mode with
      | .idx => n == l.t
      | .up | .down => n == 0
      | .xor => (l.t ^^^ n) == l.t)
    (if mine then own else fill, [])
  | .vote _ x => (match x.dst with
    | .all pd f | .any pd f => (0, [(pd.val, if here then s.p l x.pa.val else s.p l f.val)])
    | .uni pd f => (0, [(pd.val, if here then true else s.p l f.val)])
    | .ballot _ _ => (if here then (if s.p l x.pa.val then 1#64 <<< l.t else 0) else fill, []))
  | .redx _ _ => (if here then own else fill, [])
  | .scanx _ x => (if here && !x.excl then own else fill, [])
  | .matchx _ x => (if here then 1#64 <<< l.t else if x.all then fill else 0, [])
  | _ => (0, [])

/-- No other thread the mask names is live, and no round has begun at the word. -/
def onlyOne (s : State) (k : Nat) (gang : Gang) (l : Lane) (mask : DWord) : Prop :=
  l.t < (s.grp l.g).width ∧ l.t < 64 ∧ (s.grp l.g).rounds.find? (gang.ctx k).w.toNat = none ∧
  ∀ m, m < (s.grp l.g).width → m ≠ l.t → mask.getLsbD m = true → (s.thread { g := l.g, t := m, sh := false }).live = false

end Sys2Proof.Spec

open Sys2Proof Sys2Proof.Machine

/-- R154 to R161: a cross-lane word whose round its own thread completes delivers the round's result to it and sends it to the fall-
through clause: a thread the mask names combines its own value alone, and one it does not name gets the fill. -/
def Sys2Proof.Spec.crossLaneRoundOfOneRule : Prop :=
  ∀ (i : Instr) (s : State) (k : Nat) (gang : Gang) (l : Lane) (vs : List DWord) (th : Thread),
    Spec.crossLane i = true → (∀ h x, i ≠ .xsnd h x) → (∀ h x, i ≠ .xrcv h x) →
    s.plainAt k gang l i = true → s.operandsOf l i = some (vs, th) →
    let c := gang.ctx k
    let mask := Spec.roundMaskOf s l i vs
    Spec.onlyOne s k gang l mask →
    let out := Spec.alone s l (mask.getLsbD l.t) i vs
    ∃ t b, exec i s = .next t ∧ t.destHolds l (writes i) out.1 ∧
      t.thread? l = some { (th.setPreds out.2) with pc := c.ft, mid := false, hold := none, passing := some c.w, behind := b } ∧
      t.gang? k = none ∧ t.cur = .none ∧ s.regsKept t l (writes i) ∧ s.othersKept t l (writes i) ∧
      (t.grp l.g).rounds.find? c.w.toNat = none ∧ s.restKept t l

/-- R155: while another thread its mask names is live and has not come to the word, a thread that joins a round is held at it and its
value waits there. -/
def Sys2Proof.Spec.crossLaneRoundWaitsRule : Prop :=
  ∀ (i : Instr) (s : State) (k : Nat) (gang : Gang) (l : Lane) (vs : List DWord) (th : Thread) (m : Nat),
    Spec.crossLane i = true → (∀ h x, i ≠ .xsnd h x) → (∀ h x, i ≠ .xrcv h x) →
    s.plainAt k gang l i = true → s.operandsOf l i = some (vs, th) →
    let c := gang.ctx k
    let mask := Spec.roundMaskOf s l i vs
    l.t < (s.grp l.g).width → (s.grp l.g).rounds.find? c.w.toNat = none →
    m < (s.grp l.g).width → m ≠ l.t → m ≠ l.t + 64 → mask.getLsbD m = true →
    (s.thread { g := l.g, t := m, sh := false }).live = true → (s.thread { g := l.g, t := m, sh := false }).hold = none →
    ∃ r : Round, r.ins = i ∧ (∀ n, n < (s.grp l.g).width → n < 64 → (r.mask.getD 0).getLsbD n = mask.getLsbD n) ∧
      (r.joined.find? l.t).isSome = true ∧
      Spec.stops s k gang l i (Spec.heldIn ((Spec.popped (s.issued gang) l i th).modGroup l.g fun g =>
        { g with rounds := g.rounds.set c.w.toNat r }) k gang l .round) id

/-- A cross-lane round of one thread completes at once, and a larger one waits for its threads. -/
def Obligations.CrossLaneRounds : Prop :=
  Spec.crossLaneRoundOfOneRule ∧ Spec.crossLaneRoundWaitsRule

/-- R162, R163: XSND and XRCV with a legal slot in a uniform register close their round and wait at the rendezvous: a sending round
joins the senders of its slot, a receiving one its receivers. -/
def Sys2Proof.Spec.rendezvousWordsRule : Prop :=
  ∀ (i : Instr) (s : State) (k : Nat) (gang : Gang) (l : Lane) (vs : List DWord) (th : Thread) (slot : Src) (cr : Crew),
    (∃ h x, i = .xsnd h x ∧ slot = x.slot) ∨ (∃ h x, i = .xrcv h x ∧ slot = x.slot) →
    s.plainAt k gang l i = true → s.operandsOf l i = some (vs, th) → srcIsU (s.grp l.g) false (slot, false) = true →
    (vs.getD 0 0).lo.toNat < 16 → s.crew? (s.grp l.g).crew = some cr →
    let c := gang.ctx k
    let key := 16 * coreCluster (s.grp l.g).core + (vs.getD 0 0).lo.toNat
    Spec.onlyOne s k gang l (Spec.roundMaskOf s l i vs) →
    ∃ x : XRound, x.g = l.g ∧ x.pc = c.w ∧ x.round.ins = i ∧ (x.round.joined.find? l.t).isSome = true ∧
      Spec.stops s k gang l i ((Spec.heldIn (Spec.popped (s.issued gang) l i th) k gang l .rendezvous).modCrew (s.grp l.g).crew
        fun y => { y with slots := y.slots.upd default key fun z => match i with
          | .xsnd _ _ => { z with senders := z.senders ++ [x] }
          | _ => { z with receivers := z.receivers ++ [x] } }) id

/-- R162: a slot that is not uniform faults with SHAPE, and a slot number above 15 with ILLEGAL_ENC. -/
def Sys2Proof.Spec.rendezvousSlotFaultsRule : Prop :=
  ∀ (i : Instr) (s : State) (k : Nat) (gang : Gang) (l : Lane) (slot : Src) (cause : Cause),
    (∃ h x, i = .xsnd h x ∧ slot = x.slot) ∨ (∃ h x, i = .xrcv h x ∧ slot = x.slot) →
    s.plainAt k gang l i = true →
    (srcIsU (s.grp l.g) false (slot, false) = false ∧ cause = .shape) ∨
      (∃ n : Fin 96, slot = .v n ∧ srcIsU (s.grp l.g) false (slot, false) = true ∧ 16 ≤ (s.v l n.val).toNat ∧
        cause = .illegalEnc) →
    ∃ t a, exec i s = .next t ∧
      ((s.issued gang).takeFault l (gang.ctx k).w { cause, kind := .none, addr := a }).leftGang t k l

/-- Rendezvous words join a round of their slot, and fault on a slot that is not uniform or whose number is above 15.
The model's own choices in it: log entry 6. -/
def Obligations.RendezvousWords : Prop :=
  Spec.rendezvousWordsRule ∧ Spec.rendezvousSlotFaultsRule

namespace Sys2Proof.Spec

open Sys2Proof Sys2Proof.Machine

/-- The thread whose value SHFL reads (R157). -/
def partner (m : ShflMode) (t n : Nat) : Option Nat :=
  match m with
  | .idx => some n
  | .up => if n ≤ t then some (t - n) else none
  | .down => some (t + n)
  | .xor => some (t ^^^ n)

/-- The value a joined thread's registers get from the captures of the present members (R157 to R161). -/
def roundValue (i : Instr) (rm : RMode) (present : AMap Captured) (t : Nat) (own : Captured) : DWord :=
  match i with
  | .shfl _ x =>
    match (partner x.mode t own.b.lo.toNat).bind present.find? with
    | some c => c.a
    | none => own.fill
  | .vote _ _ => if present = [] then own.fill else BitVec.ofNat 64 (present.map fun e => if e.2.p then 2 ^ e.1 else 0).sum
  | .redx _ x =>
    match (reduce x.op rm (present.map fun e => (e.1, e.2.a.toNat))).1 with
    | some v => BitVec.ofNat 64 v
    | none => own.fill
  | .scanx _ x =>
    match (present.filter fun e => if x.excl then decide (e.1 < t) else decide (e.1 ≤ t)).map fun e => e.2.a.toNat with
    | v :: r => BitVec.ofNat 64 (r.foldl (fun acc y => (combine x.op rm acc y).1) v)
    | [] => own.fill
  | .matchx _ x =>
    let same := if x.all then present.all fun e => present.all fun f => e.2.a == f.2.a else true
    if x.all && (present.isEmpty || !same) then own.fill
    else BitVec.ofNat 64 ((present.filter fun e => x.all || e.2.a == own.a).map fun e => 2 ^ e.1).sum
  | _ => 0

/-- The predicate VOTE writes (R158). -/
def roundPreds (i : Instr) (present : AMap Captured) (own : Captured) : List (Nat × Bool) :=
  let ps := present.map fun e => e.2.p
  match i with
  | .vote _ { dst := .all pd _, .. } => [(pd.val, if ps = [] then own.pfill else ps.all id)]
  | .vote _ { dst := .any pd _, .. } => [(pd.val, if ps = [] then own.pfill else ps.any id)]
  | .vote _ { dst := .uni pd _, .. } => [(pd.val, if ps = [] then own.pfill else ps.all id || ps.all (!·))]
  | _ => []

/-- A node of the tree of R70: level 0 holds the leaves, level 6 the result; an empty child passes its sibling through. -/
def treeNode (f : FPar) (rm : RMode) (leaf : Nat → Option Nat) : Nat → Nat → Option Nat
  | 0, p => leaf p
  | n + 1, p =>
    match treeNode f rm leaf n (2 * p), treeNode f rm leaf n (2 * p + 1) with
    | some a, some b => some (faddBits f rm a b).1
    | some a, none => some a
    | none, y => y

end Sys2Proof.Spec

open Sys2Proof Sys2Proof.Machine

/-- R155, R157 to R161: a round closes once every thread its mask names stands joined, has declined or is live no more; each joined
thread then gets its own result of the present members' values, and goes on at its fall-through clause. Until then nothing changes. -/
def Sys2Proof.Spec.roundsCloseRule : Prop :=
  ∀ (s : State) (g : Nat) (x : Group) (pc : DWord) (r : Round) (m : DWord),
    s.group? g = some x → x.prot = false → AMap.sorted x.threads = true → x.rounds.find? pc.toNat = some r →
    AMap.sorted r.joined = true → r.mask = some m → (∀ h y, r.ins ≠ .xsnd h y) → (∀ h y, r.ins ≠ .xrcv h y) →
    Spec.crossLane r.ins = true →
    let stands := fun t => ∃ th ft, x.thread? t = some th ∧ th.live = true ∧ th.pc = pc ∧ th.hold = some { kind := .round, ft }
    let closes := ∀ t, t < x.width → m.getLsbD t = true →
      stands t ∨ t ∈ r.declined ∨ (∀ th, x.thread? t = some th → th.live = false)
    let u := s.closeRound g pc
    (¬closes → u = s) ∧
    (closes →
      (u.grp g).rounds = AMap.erase pc.toNat x.rounds ∧
      ∀ (t : Nat) (own : Captured) (th : Thread) (present : AMap Captured), t < 64 → r.joined.find? t = some own → stands t →
        x.thread? t = some th → th.region = none →
        AMap.sorted present = true →
        (∀ n c, present.find? n = some c ↔ r.joined.find? n = some c ∧ stands n ∧ m.getLsbD n = true) →
        let l : Lane := { g, t, sh := false }
        u.destHolds l (writes r.ins) (Spec.roundValue r.ins r.rm present t own) ∧
        ∃ fl, u.thread? l = some (Spec.released ((th.raise fl).setPreds (Spec.roundPreds r.ins present own))) ∧
          (∀ h y, r.ins = .redx h y → fl = (reduce y.op r.rm (present.map fun e => (e.1, e.2.a.toNat))).2) ∧
          ((∀ h y, r.ins ≠ .redx h y) → (∀ h y, r.ins ≠ .scanx h y) → fl = 0))

/-- R163: a sending round and a receiving round that are paired leave all their threads at their fall-through clauses; a receiving thread
gets the value that the sender of its own number sent, or its fill; no other thread and no byte of memory changes. -/
def Sys2Proof.Spec.pairedRoundsDeliverRule : Prop :=
  ∀ (s : State) (a b : XRound) (h : Head) (x : XrcvF) (ga gb : Group),
    b.round.ins = .xrcv h x → a.g ≠ b.g → s.group? a.g = some ga → s.group? b.g = some gb → x.d.val + 1 < 96 →
    ga.prot = false → gb.prot = false → AMap.sorted ga.threads = true → AMap.sorted gb.threads = true →
    AMap.sorted a.round.joined = true → AMap.sorted b.round.joined = true →
    let stands := fun (gr : Group) (y : XRound) (t : Nat) (th : Thread) => gr.thread? t = some th ∧ th.live = true ∧ th.pc = y.pc ∧
      ∃ ft, th.hold = some { kind := .rendezvous, ft }
    let u := s.pairRounds a b
    (∀ t own th, t < 64 → b.round.joined.find? t = some own → stands gb b t th → th.region = none →
      let v := match (a.round.joined.filter fun e => (a.round.mask.getD 0).getLsbD e.1).find? fun e => e.1 == t with
        | some e => e.2.a
        | none => own.fill
      let l : Lane := { g := b.g, t, sh := false }
      u.destHolds l (if x.w then [x.d.val, x.d.val + 1] else [x.d.val]) v ∧ u.thread? l = some (Spec.released th)) ∧
    (∀ t own th, t < 64 → a.round.joined.find? t = some own → stands ga a t th →
      u.thread? { g := a.g, t, sh := false } = some (Spec.released th)) ∧
    (∀ l th, s.thread? l = some th → th.hold = none → u.thread? l = some th) ∧ ∀ y, u.byteAt y = s.byteAt y

/-- R159, R70: the integer and bit combinations run over every present value, one after another in increasing `%tid`; the float sums
alone go by the tree of R70 over 64 leaves. -/
def Sys2Proof.Spec.reductionsCombineEveryValueRule : Prop :=
  ∀ (rm : RMode) (vs : AMap Nat), vs ≠ [] →
    let ns := vs.map Prod.snd
    let s32 := fun (n : Nat) => (BitVec.ofNat 32 n).toInt
    ((∀ n ∈ ns, n < 2 ^ 64) → (reduce .add64 rm vs).1 = some (ns.sum % 2 ^ 64)) ∧
    ((∀ n ∈ ns, n < 2 ^ 32) →
      (reduce .add32 rm vs).1 = some (ns.sum % 2 ^ 32) ∧
      (∃ n ∈ ns, (reduce .minn rm vs).1 = some n ∧ ∀ m ∈ ns, n ≤ m) ∧
      (∃ n ∈ ns, (reduce .maxn rm vs).1 = some n ∧ ∀ m ∈ ns, m ≤ n) ∧
      (∃ n ∈ ns, (reduce .mins rm vs).1 = some n ∧ ∀ m ∈ ns, s32 n ≤ s32 m) ∧
      (∃ n ∈ ns, (reduce .maxs rm vs).1 = some n ∧ ∀ m ∈ ns, s32 m ≤ s32 n) ∧
      (∃ n, (reduce .and rm vs).1 = some n ∧ ∀ b, n.testBit b = ns.all fun m => m.testBit b) ∧
      (∃ n, (reduce .or rm vs).1 = some n ∧ ∀ b, n.testBit b = ns.any fun m => m.testBit b) ∧
      (∃ n, (reduce .xor rm vs).1 = some n ∧ ∀ b, n.testBit b = decide ((ns.countP fun m => m.testBit b) % 2 = 1))) ∧
    (reduce .fadd32 rm vs).1 = Spec.treeNode parF32 rm vs.find? 6 0 ∧
    (reduce .fadd64 rm vs).1 = Spec.treeNode parF64 rm vs.find? 6 0

/-- A closed round delivers each joined thread its partner's value, or the combination of every value, and releases it; paired rounds
release the threads of both sides.
The model's own choices in it: log entry 61. -/
def Obligations.RoundsDeliverAndReduce : Prop :=
  Spec.roundsCloseRule ∧ Spec.pairedRoundsDeliverRule ∧ Spec.reductionsCombineEveryValueRule

namespace Sys2Proof.Spec

open Sys2Proof Sys2Proof.Machine

/-- The word has passed, whatever it did outside its thread: the thread is `th` at the next word and no register changed. -/
def wentBy (s t : State) (k : Nat) (gang : Gang) (l : Lane) (i : Instr) (th : Thread) : Prop :=
  t.thread? l = some (th.past (gang.ctx k)) ∧ s.wentOn t k gang i ∧ s.regsKept t l []

/-- The fields SMAP writes into its record (R191): the window's address and bytes, TRAP bounds, WR and STASH. -/
def windowRecord (va : DWord) (len : Nat) : BRec :=
  BitVec.ofNat 256 (va.toNat + len * 2 ^ 64 + 1 * 2 ^ 114 + 1 * 2 ^ 118 + 1 * 2 ^ 119)

/-- The 64-byte sectors a range word covers: whole 256-byte lines from the one of its first byte (R194), by the pages they lie in; the aperture
has none. -/
def rangeSectors (va len : Nat) (pages : List (Option Nat)) : List Nat :=
  let a := va / 256 * 256
  let n := (va + max len 1 + 255) / 256 * 256 - a
  (List.range (n / 64)).filterMap fun j =>
    let x := a + 64 * j
    (pages.getD (x / 4096 - a / 4096) none).map fun p => (p + x % 4096) / 64

/-- The state in which sector number `n` of a window has its turn to be written back: those before it are written. -/
def turnBack (s : State) (core w : Nat) (x : Window) (n : Nat) : State :=
  (x.sectors.keys.take n).foldl (fun s k => s.winBack core w k) s

/-- Every dirty sector of a software-managed window has a place of its own in memory to go back to: `pa n` for sector number `n`, which its
translation for writing gives without a change of the tables. -/
def backPlaces (s : State) (core w : Nat) (x : Window) (pa : Nat → Nat) : Prop :=
  x.coh = false ∧ AMap.sorted x.sectors = true ∧
  (∀ n e, x.sectors[n]? = some e → e.2.dirty = true → e.2.bytes.length = 64 ∧
    (turnBack s core w x n).winPa core w e.1 .wr = (.ok (pa n), turnBack s core w x n) ∧ pa n % 64 = 0 ∧ s.paKind (pa n) = .hbm ∧
    (s.sector (pa n / 64)).win = none) ∧
  ∀ n m e f, n ≠ m → x.sectors[n]? = some e → x.sectors[m]? = some f → e.2.dirty = true → f.2.dirty = true → pa n ≠ pa m

/-- Every dirty sector of the window stands at its place, and no other byte of memory changed. -/
def wroteBack (s t : State) (x : Window) (pa : Nat → Nat) : Prop :=
  (∀ n e, x.sectors[n]? = some e → e.2.dirty = true → ∀ j, j < 64 → t.byteAt (pa n + j) = e.2.bytes.getD j 0) ∧
  ∀ a, (∀ n e, x.sectors[n]? = some e → e.2.dirty = true → a < pa n ∨ pa n + 64 ≤ a) → t.byteAt a = s.byteAt a

end Sys2Proof.Spec

open Sys2Proof Sys2Proof.Machine

/-- R191, R192: SMAP with legal uniform operands maps a window of the core's stash through its record; where its operands are not
uniform it takes SHAPE, where they are misaligned or name B0 to B2 ILLEGAL_ENC, and where they leave the stash BOUNDS. SUNMAP writes the window
back, removes it and clears the record. -/
def Sys2Proof.Spec.stashWindowsMapAndUnmapRule : Prop :=
  ∀ (s : State) (k : Nat) (gang : Gang) (l : Lane) (h : Head) (core : Nat),
    core = (s.grp l.g).core →
    (∀ (x : SmapF) (va off len : DWord), let i := Instr.smap h x
      let uni := srcIsU (s.grp l.g) false (x.va, true) && srcIsU (s.grp l.g) false (x.off, false) &&
        srcIsU (s.grp l.g) false (x.len, false)
      s.plainAt k gang l i = true → gang.inside = true → s.operandsOf l i = some ([va, off, len], s.thread l) →
      let o := off.toNat
      let n := len.toNat
      let ill := va.toNat % 4096 ≠ 0 ∨ o % 4096 ≠ 0 ∨ n % 4096 ≠ 0 ∨ n = 0 ∨ x.bd.val < 3 ∨ (aperOff va).isSome
      let stash := match (s.core core).carve with
        | some y => y.stash * 65536
        | none => 0
      let busy := s.recBusy [l] x.bd.val = true
      (uni = true → ¬busy → ¬ill → o + n ≤ stash → (s.core core).wins = [] →
        ∃ t w, exec i s = .next t ∧ Spec.wentBy s t k gang l i (s.thread l) ∧ (t.core core).wins = [w] ∧ w.1 < 16 ∧
          w.2 = { g := l.g, bd := x.bd.val, va, off := o, len := n, coh := x.coh, sectors := [] } ∧
          ((s.group? l.g).isSome → (t.grp l.g).brec x.bd.val = Spec.windowRecord va n) ∧ ∀ a, t.byteAt a = s.byteAt a) ∧
      (uni = true → ¬busy → ill →
        ∃ t a, exec i s = .next t ∧
          ((s.issued gang).takeFault l (gang.ctx k).w { cause := .illegalEnc, kind := .none, addr := a }).leftGang t k l) ∧
      (uni = true → ¬busy → ¬ill → stash < o + n →
        ∃ t a, exec i s = .next t ∧
          ((s.issued gang).takeFault l (gang.ctx k).w { cause := .bounds, kind := .none, addr := a }).leftGang t k l)) ∧
    (∀ x : SmapF, s.plainAt k gang l (.smap h x) = true →
      (∃ o ∈ [(x.va, true), (x.off, false), (x.len, false)], srcIsU (s.grp l.g) false o = false) →
      ∃ t a, exec (.smap h x) s = .next t ∧
        ((s.issued gang).takeFault l (gang.ctx k).w { cause := .shape, kind := .none, addr := a }).leftGang t k l) ∧
    (∀ bd : Fin 32, s.plainAt k gang l (.sunmap h bd) = true → gang.inside = true → s.recBusy [l] bd.val = false →
      (s.issued gang).recWaits [l] bd.val = false →
      (s.winOf l.g bd.val = none →
        ∃ t, exec (.sunmap h bd) s = .next t ∧ s.passed s t k gang l (.sunmap h bd) []) ∧
      (∀ w x, s.winOf l.g bd.val = some (w, x) → s.win? core w = some x →
        ((∀ e ∈ x.sectors, e.2.dirty = false) →
          ∃ t, exec (.sunmap h bd) s = .next t ∧ Spec.wentBy s t k gang l (.sunmap h bd) (s.thread l) ∧
            (t.core core).wins = AMap.erase w (s.core core).wins ∧ (t.grp l.g).brec bd.val = 0 ∧ ∀ a, t.byteAt a = s.byteAt a) ∧
        (∀ pa, Spec.backPlaces (s.issued gang) core w x pa → s.sound = true →
          (∀ z, s.launch? (s.grp l.g).launch = some z → z.snap ≠ .held) →
          ∃ t, exec (.sunmap h bd) s = .next t ∧ Spec.wentBy s t k gang l (.sunmap h bd) (s.thread l) ∧ t.win? core w = none ∧
            (∀ v, v ≠ w → t.win? core v = s.win? core v) ∧ (t.grp l.g).brec bd.val = 0 ∧ Spec.wroteBack s t x pa)))

/-- R192, R193: SFLUSH writes every dirty sector of a software-managed window to its place in memory and keeps them all as clean; SMODE has
no effect in the mode the window is in and otherwise leaves it in the mode it names; without a window neither has an effect. -/
def Sys2Proof.Spec.stashFlushAndModeRule : Prop :=
  ∀ (s : State) (k : Nat) (gang : Gang) (l : Lane) (h : Head) (bd : Fin 32) (core : Nat),
    core = (s.grp l.g).core →
    (s.plainAt k gang l (.sflush h bd) = true → gang.inside = true → s.recBusy [l] bd.val = false →
      (s.issued gang).recWaits [l] bd.val = false →
      (s.winOf l.g bd.val = none →
        ∃ t, exec (.sflush h bd) s = .next t ∧ s.passed s t k gang l (.sflush h bd) []) ∧
      (∀ w x pa, s.winOf l.g bd.val = some (w, x) → s.win? core w = some x → Spec.backPlaces (s.issued gang) core w x pa →
        s.sound = true → (∀ z, s.launch? (s.grp l.g).launch = some z → z.snap ≠ .held) →
        ∃ t, exec (.sflush h bd) s = .next t ∧ Spec.wentBy s t k gang l (.sflush h bd) (s.thread l) ∧ Spec.wroteBack s t x pa ∧
          ∃ x', t.win? core w = some x' ∧ x'.sectors = x.sectors.map fun e => (e.1, { e.2 with dirty := false }))) ∧
    (∀ coh : Bool, s.plainAt k gang l (.smode h bd coh) = true → gang.inside = true →
      (s.winOf l.g bd.val = none ∨ (∃ w x, s.winOf l.g bd.val = some (w, x) ∧ x.coh = coh) →
        ∃ t, exec (.smode h bd coh) s = .next t ∧ s.passed s t k gang l (.smode h bd coh) []) ∧
      (∀ w x ps s', s.winOf l.g bd.val = some (w, x) → s.win? core w = some x → x.coh ≠ coh →
        (s.issued gang).winPages core w x.pages = (.ok ps, s') → s'.winBusy core w = false → s'.pagesBusy ps = false → s'.backWaits core w = false →
        (coh = true → ∀ p ∈ ps, s'.pageOpen (coreDie core) p = true) →
        ∃ t x', exec (.smode h bd coh) s = .next t ∧ Spec.wentBy s t k gang l (.smode h bd coh) (s.thread l) ∧
          t.win? core w = some x' ∧ x'.coh = coh ∧ x'.va = x.va ∧ x'.len = x.len ∧ x'.off = x.off))

/-- Stash windows are mapped, unmapped, written back and given a mode.
The model's own choices in it: log entry 21. -/
def Obligations.StashWords : Prop :=
  Spec.stashWindowsMapAndUnmapRule ∧ Spec.stashFlushAndModeRule

/-- R194 to R196: once the lane's own accesses are performed and every page of the range translates, CFLUSH leaves no dirty copy of
its sectors inside the scope, CINV no copy at all, ICINV no instruction-cache copy; none of them changes a byte of cached memory.
MSCFL leaves no dirty memory-side line of a home inside the scope. -/
def Sys2Proof.Spec.cacheControlWordsRule : Prop :=
  ∀ (i : Instr) (s : State) (k : Nat) (gang : Gang) (l : Lane) (h : Head) (x : RangeF) (n : DWord) (va : DWord)
    (ps : List (Option Nat)) (s' : State) (th : Thread),
    i = .cflush h x ∨ i = .cinv h x ∨ i = .icinv h x →
    s.plainAt k gang l i = true → gang.inside = true → (∀ e ∈ s.ops, e.2.lane = l → e.2.live = false) →
    s.operandsOf l i = some ([n], th) → (x.m.ofs = none ∨ ∃ r, x.m.ofs = some r ∧ r.val % 2 = 0) →
    let core := (s.grp l.g).core
    let len := n.toNat % 2 ^ 32
    recordAddress ((s.grp l.g).brec x.m.br.val) ((s.grp l.g).offsetPair l x.m.ofs) x.m.imm (max len 1) false = .at va →
    aperOff va = none → aperOff (va + BitVec.ofNat 64 (max len 1 - 1)) = none →
    (Spec.popped (s.issued gang) l i th).rangePages l va (va.toNat / 256 * 256)
      ((va.toNat + max len 1 + 255) / 256 * 256 - va.toNat / 256 * 256) = (.ok ps, s') →
    let secs := Spec.rangeSectors va.toNat len ps
    (∀ y ∈ secs, (∀ p, s'.paKind (64 * y) ≠ .host p) ∧ (s'.sector y).win = none ∧ s.kindOpen (s.paKind (64 * y)) = true ∧
      s.homeLost y = false) →
    ∃ t, exec i s = .next t ∧ Spec.wentBy s t k gang l i th ∧ (∀ a, t.byteAt a = s'.byteAt a) ∧
      (i = .cflush h x ∨ i = .cinv h x → ∀ y ∈ secs, ∀ e ∈ (t.sector y).l1, scopeContains x.scope core e.1 = true →
        e.2 ≠ .m ∧ e.2 ≠ .o) ∧
      (i = .cinv h x → ∀ y ∈ secs, ∀ e ∈ (t.sector y).l1, scopeContains x.scope core e.1 = false) ∧
      (i = .icinv h x → ∀ y ∈ secs, ∀ c, scopeContains x.scope core c = true → (t.core c).icache.find? y = none)

/-- R196: MSCFL completes. -/
def Sys2Proof.Spec.memorySideCacheFlushRule : Prop :=
  ∀ (s : State) (k : Nat) (gang : Gang) (l : Lane) (h : Head) (scope : Scope),
    let i := Instr.mscfl h scope
    s.plainAt k gang l i = true → gang.inside = true →
    ∃ t, exec i s = .next t ∧ Spec.wentBy s t k gang l i (s.thread l) ∧ (∀ a, t.byteAt a = s.byteAt a) ∧
      ∀ n, (s.sector n).msc.isSome → scopeContains scope (s.grp l.g).core (s.home (64 * n) * 96) = true →
        (t.sector n).msc = none

/-- Cache control words reach every sector of their range.
The model's own choices in it: log entry 10. -/
def Obligations.CacheControlWords : Prop :=
  Spec.cacheControlWordsRule ∧ Spec.memorySideCacheFlushRule

namespace Sys2Proof.Spec

open Sys2Proof Sys2Proof.Machine

/-- The token of a tile: Z tiles 0 to 7, Y tiles 8 to 15 (R42). -/
def tile (y : Bool) (n : Nat) : Nat := if y then n + 8 else n

/-- Nothing is in flight on a core's tiles. -/
def engineIdle (c : Core) : Prop := c.tops = [] ∧ c.mma = []

/-- A group's thread has taken no fault of a tile operation that it still has to report. -/
def nothingKept (s : State) (l : Lane) : Prop := (s.thread l).tileFaults = []

/-- The window of a transfer: rows in bits 6 to 0, columns in bits 14 to 8, each 1 to 64 (R205). -/
def window (r c : Nat) : Nat := r + 256 * c

/-- The operand and record a transfer word names: tile number, record, register of the address, kind. -/
def transfer : Instr → Option (Nat × Fin 32 × Option (Fin 96) × TileKind × Fin 8 × Scope)
  | .tld _ x => some (tile x.y x.tn.val, x.br, x.va, if x.y then .tldY else .tldZ, x.tn, x.scope)
  | .tsv _ x => some (tile false x.tn.val, x.br, x.va, .tsv, x.tn, x.scope)
  | .tsum _ x => some (tile false x.tn.val, x.br, x.va, .tsum x.sums, x.tn, x.scope)
  | .qcv _ x => some (tile false x.tn.val, x.br, x.va, .qcv x.t6, x.tn, x.scope)
  | .ptld _ x => some (16 + x.t.val, x.br, x.va, .ptld, x.t, x.scope)
  | _ => none

/-- One transfer more is in flight on a core, and its thread counts it on TL. -/
def transferBegan (s : State) (l : Lane) (core : Nat) (o : TileOp) : State :=
  ({ s with nextId := s.nextId + 1 }.modCore core fun c => { c with tops := c.tops ++ [o] }).modBoth l fun y =>
    { y with tl := y.tl + 1 }

end Sys2Proof.Spec

open Sys2Proof Sys2Proof.Machine

/-- R42, R204: TACQ takes a free tile that no other group waits for, TREL frees a tile its group holds once nothing is in flight on it and
what its thread releases at `.core` is performed, waits while the engine holds it for its group, and takes TOKEN for one that is free or that
another group or its MMA holds; both take ILLEGAL_ENC for a number above 7 and SHAPE for an operand that is not uniform. -/
def Sys2Proof.Spec.tileTokensRule : Prop :=
  ∀ (s : State) (k : Nat) (gang : Gang) (l : Lane) (h : Head) (y : Bool) (a : Src) (core n : Nat) (v : DWord),
    core = (s.grp l.g).core → n = v.toNat →
    let acq := Instr.tacq h y a
    let rel := Instr.trel h y a
    let uni := srcIsU (s.grp l.g) false (a, false) = true
    (s.plainAt k gang l acq = true → gang.inside = true → s.operandsOf l acq = some ([v], s.thread l) → uni → n < 8 →
      Spec.nothingKept s l → Spec.engineIdle (s.core core) → (s.core core).token (Spec.tile y n) = .free →
      (s.core core).tacq = [] →
      ∃ t, exec acq s = .next t ∧ Spec.wentBy s t k gang l acq (s.thread l) ∧
        (t.core core).token (Spec.tile y n) = .group l.g ∧
        (∀ m, m ≠ Spec.tile y n → (t.core core).token m = (s.core core).token m) ∧
        (t.core core).z = (s.core core).z ∧ (t.core core).y = (s.core core).y ∧ ∀ b, t.byteAt b = s.byteAt b) ∧
    (s.plainAt k gang l rel = true → gang.inside = true → s.operandsOf l rel = some ([v], s.thread l) → uni → n < 8 →
      Spec.nothingKept s l → Spec.engineIdle (s.core core) →
      ((s.core core).token (Spec.tile y n) = .group l.g → s.fenceReleases .core l = true →
        ∃ t, exec rel s = .next t ∧ Spec.wentBy s t k gang l rel (s.thread l) ∧
          (t.core core).token (Spec.tile y n) = .free ∧
          (∀ m, m ≠ Spec.tile y n → (t.core core).token m = (s.core core).token m) ∧ ∀ b, t.byteAt b = s.byteAt b) ∧
      ((s.core core).token (Spec.tile y n) = .engine l.g → exec rel s = .next s) ∧
      ((s.core core).token (Spec.tile y n) ≠ .group l.g → (s.core core).token (Spec.tile y n) ≠ .engine l.g →
        ∃ t b, exec rel s = .next t ∧
          ((s.issued gang).takeFault l (gang.ctx k).w { cause := .token, kind := .none, addr := b }).leftGang t k l)) ∧
    (∀ i, i = acq ∨ i = rel → s.plainAt k gang l i = true →
      (¬uni → ∃ t b, exec i s = .next t ∧
        ((s.issued gang).takeFault l (gang.ctx k).w { cause := .shape, kind := .none, addr := b }).leftGang t k l) ∧
      (uni → s.operandsOf l i = some ([v], s.thread l) → 8 ≤ n → ∃ t b, exec i s = .next t ∧
        ((s.issued gang).takeFault l (gang.ctx k).w { cause := .illegalEnc, kind := .none, addr := b }).leftGang t k l))

/-- R206, R207, R300: TZERO writes 0 to every element of a tile its group holds; TMOV reads or writes the one entry its selector names; all
take TOKEN for a tile the group does not hold, be it free, another group's or the engine's. -/
def Sys2Proof.Spec.tileElementWordsRule : Prop :=
  ∀ (s : State) (k : Nat) (gang : Gang) (l : Lane) (h : Head) (core : Nat),
    core = (s.grp l.g).core → Spec.engineIdle (s.core core) →
    let entry := fun (y : Bool) (v : DWord) (e : Nat) => ∃ i j, i < 64 ∧ j < 64 ∧
      ((v.lo.toNat = i + 256 * j ∧ e = 64 * i + j) ∨ (y = false ∧ v.lo.toNat = i + 256 * j + 65536 ∧ e = 4096 + i) ∨
        (y = false ∧ v.lo.toNat = i + 256 * j + 131072 ∧ e = 4160 + j))
    (∀ (y : Bool) (n : Fin 8), let i := Instr.tzero h y n
      s.plainAt k gang l i = true → gang.inside = true →
      ((s.core core).token (Spec.tile y n.val) = .group l.g →
        ∃ t, exec i s = .next t ∧ Spec.wentBy s t k gang l i (s.thread l) ∧
          (∀ e, if y then ((t.core core).ytile n.val).els.get 0 e = 0 else ((t.core core).ztile n.val).els.get 0 e = 0) ∧
          (∀ m, m ≠ n.val ∨ y = true → (t.core core).ztile m = (s.core core).ztile m) ∧
          (∀ m, m ≠ n.val ∨ y = false → (t.core core).ytile m = (s.core core).ytile m) ∧ ∀ b, t.byteAt b = s.byteAt b) ∧
      ((s.core core).token (Spec.tile y n.val) ≠ .group l.g →
        ∃ t b, exec i s = .next t ∧
          ((s.issued gang).takeFault l (gang.ctx k).w { cause := .token, kind := .none, addr := b }).leftGang t k l)) ∧
    (∀ (i : Instr) (y : Bool) (n : Fin 8) (vs : List DWord) (sel : DWord) (th : Thread) (e : Nat),
      (∃ x : TmovGetF, i = .tmovGet h x ∧ y = x.y ∧ n = x.tn ∧ vs = [sel]) ∨
        (∃ (x : TmovPutF) (v : DWord), i = .tmovPut h x ∧ y = x.y ∧ n = x.tn ∧ vs = [v, sel]) →
      s.plainAt k gang l i = true → s.operandsOf l i = some (vs, th) → entry y sel e →
      (s.core core).token (Spec.tile y n.val) ≠ .group l.g →
      ∃ t b, exec i s = .next t ∧
        ((s.issued gang).takeFault l (gang.ctx k).w { cause := .token, kind := .none, addr := b }).leftGang t k l) ∧
    (∀ (x : TmovGetF) (v : DWord) (th : Thread) (e : Nat), let i := Instr.tmovGet h x
      s.plainAt k gang l i = true → gang.inside = true → s.operandsOf l i = some ([v], th) → entry x.y v e →
      (s.core core).token (Spec.tile x.y x.tn.val) = .group l.g →
      (if x.y then ((s.core core).ytile x.tn.val).poison else ((s.core core).ztile x.tn.val).poison).contains e = false →
      ∃ t, exec i s = .next t ∧
        s.computed t k gang l i [x.d.val] (if x.y then (((s.core core).ytile x.tn.val).els.get 0 e).zeroExtend 64
          else (((s.core core).ztile x.tn.val).els.get 0 e).zeroExtend 64) th) ∧
    (∀ (x : TmovPutF) (v sel : DWord) (th : Thread) (e : Nat), let i := Instr.tmovPut h x
      s.plainAt k gang l i = true → gang.inside = true → s.operandsOf l i = some ([v, sel], th) → entry x.y sel e →
      (s.core core).token (Spec.tile x.y x.tn.val) = .group l.g →
      ∃ t, exec i s = .next t ∧ Spec.wentBy s t k gang l i th ∧
        (x.y = true → ((t.core core).ytile x.tn.val).els.get 0 e = v.extractLsb' 0 20) ∧
        (x.y = false → ((t.core core).ztile x.tn.val).els.get 0 e = v.lo) ∧
        (∀ m f, f ≠ e ∨ m ≠ x.tn.val ∨ x.y = true →
          ((t.core core).ztile m).els.get 0 f = ((s.core core).ztile m).els.get 0 f) ∧
        (∀ m f, f ≠ e ∨ m ≠ x.tn.val ∨ x.y = false →
          ((t.core core).ytile m).els.get 0 f = ((s.core core).ytile m).els.get 0 f) ∧ ∀ b, t.byteAt b = s.byteAt b)

/-- Tile tokens are taken and given back, and a held tile's elements are read and written.
The model's own choices in it: log entry 6. -/
def Obligations.TileTokensAndElements : Prop :=
  Spec.tileTokensRule ∧ Spec.tileElementWordsRule

/-- What R209 calls illegal in a parameter block, byte by byte, with the record of A. -/
def Sys2Proof.Spec.mmaIllegal (bs : List Byte) (r : BRec) : Prop :=
  let b := fun (n : Nat) => (bs.getD n 0).toNat
  let e := recEfmt r
  let xf := if b 22 % 4 = 3 then recXform r else b 22 % 4
  b 16 < 1 ∨ 64 < b 16 ∨ b 17 < 1 ∨ 64 < b 17 ∨ b 18 < 1 ∨ 64 < b 18 ∨ 32 ≤ b 19 ∨ 128 ≤ b 21 ∨ (∃ n, 23 ≤ n ∧ n < 64 ∧ b n ≠ 0) ∨
  (b 20 ≠ 0 ∧ b 20 ≠ e) ∨ e = 0 ∨ e = 5 ∨ (128 ≤ b 22 ∧ e = 1) ∨ (b 21 / 64 % 2 = 1 ∧ b 21 / 8 % 2 = 1) ∨ (xf ≠ 0 ∧ e ≠ 1) ∨
  (xf = 1 ∧ b 12 % 16 ≠ 0) ∨ (b 22 / 4 % 8 ≠ 0 ∧ b 22 % 4 ≠ 2)

/-- R200 to R205, R212 to R214: a transfer word whose operands are valid, whose tile its group holds and whose addresses all resolve puts
one operation in flight on its core and raises TL in its thread; no tile and no byte of memory changes at issue, beyond what
translation marks. -/
def Sys2Proof.Spec.tileTransfersIssueRule : Prop :=
  ∀ (i : Instr) (s : State) (k : Nat) (gang : Gang) (l : Lane) (v : DWord) (th : Thread) (bd : Fin 32) (plan : Word → TileOp)
    (pl : AMap TPlace) (s' : State) (key : Nat) (r : Fin 32) (va : Option (Fin 96)) (kind : TileKind) (n : Fin 8)
    (scope : Scope),
    s.plainAt k gang l i = true → gang.inside = true → s.operandsOf l i = some ([v], th) →
    Spec.transfer i = some (key, r, va, kind, n, scope) → s.tilePlan i l = some (bd, plan) →
    let core := (s.grp l.g).core
    let o := { plan v.lo with id := s.nextId, lanes := [l] }
    Spec.engineIdle (s.core core) → o.invalid = false → (∀ e ∈ o.objs, e < 16 → (s.core core).token e = .group l.g) →
    (Spec.popped (s.issued gang) l i th).holdPlaces l bd.val (if o.writes then .store else .load)
      (if o.writes then .wr else .rd)
      ((o.offsets ((s.core core).table o.tab.val)).map fun e => (o.addr e.1 e.2, e.2)) = (.ok pl, s') →
    let g := s.grp l.g
    let u := if o.writes then pl.foldl (fun u e => u.outward l e.2.space) s' else s'
    bd = r ∧ o.kind = kind ∧ o.tn = n ∧ o.scope = scope ∧ o.g = l.g ∧ o.br = (s.grp l.g).brec r.val ∧
    o.va = (s.grp l.g).offsetPair l va ∧ o.vb = v.lo ∧ key ∈ o.objs ∧
    ∃ t, exec i s = .next t ∧
      s.passed (Spec.transferBegan u l core { o with places := pl, gid := g.gid, launch := g.launch, part := g.part }) t k gang l i
        [{ lane := l, op := s.nextId }]

/-- R208 to R211, R300: an MMA whose parameter block passes R209, whose tiles its group holds and whose A block resolves enters the matrix
engine; the engine holds the Z tile's token, TL rises, and a handle named takes a fresh pending handle of kind 2. -/
def Sys2Proof.Spec.matrixMultiplyIssuesRule : Prop :=
  ∀ (s : State) (k : Nat) (gang : Gang) (l : Lane) (h : Head) (x : MmaF) (bs : List Byte) (pl : AMap TPlace) (s1 s' : State),
    let i := Instr.mma h x
    let g := s.grp l.g
    s.plainAt k gang l i = true → gang.inside = true → gang.wip = none → Spec.engineIdle (s.core g.core) → Spec.nothingKept s l →
    (∀ n, x.va = some n → srcIsU g false (.v n, true) = true) → (g.offsetPair l x.va).toNat % 64 = 0 →
    (s.issued gang).mmaParam l x = (.ok bs, s1) →
    let o := { mmaOf bs g with g := l.g, lanes := [l], scope := x.scope }
    mmaInvalid bs o = false → (∀ e ∈ o.objs, (s.core g.core).token e = .group l.g) →
    s1.holdPlaces l (mmaRecNo bs) .load .rd (o.cells.map fun e =>
      (recCheckOff o.arec (o.aAt e.1 e.2).1 (elemSize (recEfmt o.arec)) false, elemSize (recEfmt o.arec))) = (.ok pl, s') →
    let hv := BitVec.ofNat 64 (2 * 2 ^ 60 + g.core / 96 * 2 ^ 56 + (s.partn g.part).gen.toNat % 256 * 2 ^ 48 +
      (s.die (g.core / 96)).seqs.get 0 2)
    ∃ t m, exec i s = .next t ∧ (t.core g.core).mma = [m] ∧ m.id = s.nextId ∧ m.places = pl ∧ m.zt = o.zt ∧ m.yt = o.yt ∧
      m.m = o.m ∧ m.n = o.n ∧ m.k = o.k ∧ m.cap = none ∧ m.handle = (if x.hd.isSome then some hv else none) ∧
      (t.core g.core).token o.zt.val = .engine l.g ∧ (t.core g.core).z = (s.core g.core).z ∧
      t.thread? l = some (Thread.past { (s.thread l) with tl := (s.thread l).tl + 1, h := match x.hd with
        | some hd => (s.thread l).h.set hd.val hv
        | none => (s.thread l).h } (gang.ctx k)) ∧
      s.wentOn t k { gang with ops := { lane := l, op := s.nextId } :: gang.ops } i ∧ s.regsKept t l [] ∧
      ∀ a, t.byteAt a = s'.byteAt a

/-- R209: the checks of an MMA in their order: SHAPE of its address pair, the read of its parameter block, the block's values, the tokens of
its tiles, and every address of A; the first that fails faults the word. -/
def Sys2Proof.Spec.matrixMultiplyFaultsRule : Prop :=
  ∀ (s : State) (k : Nat) (gang : Gang) (l : Lane) (h : Head) (x : MmaF),
    let i := Instr.mma h x
    let g := s.grp l.g
    let uni := ∀ n, x.va = some n → srcIsU g false (.v n, true) = true
    let faulted := fun (u : State) (f : FaultInfo) =>
      ∃ t, exec i s = .next t ∧ (u.takeFault l (gang.ctx k).w f).leftGang t k l
    s.plainAt k gang l i = true → gang.wip = none → Spec.engineIdle (s.core g.core) → Spec.nothingKept s l →
    (¬uni → ∃ a, faulted (s.issued gang) { cause := .shape, kind := .none, addr := a }) ∧
    (∀ f s1, uni → (s.issued gang).mmaParam l x = (.error f, s1) → (s.issued gang).mmaParamWaits l x = false → faulted s1 f) ∧
    (∀ bs s1, uni → (s.issued gang).mmaParam l x = (.ok bs, s1) → bs.length = 64 →
      let r := g.brec ((bs.getD 19 0).toNat % 32)
      let z := (bs.getD 21 0).toNat % 8
      let y := 8 + (bs.getD 21 0).toNat / 8 % 8
      let held := (s.core g.core).token z = .group l.g ∧ (s.core g.core).token y = .group l.g ∧
        ((bs.getD 21 0).toNat / 64 % 2 = 1 → (s.core g.core).token (y + 1) = .group l.g)
      let o := { mmaOf bs g with g := l.g, lanes := [l], scope := x.scope }
      (Spec.mmaIllegal bs r → ∃ a, faulted s1 { cause := .illegalEnc, kind := .none, addr := a }) ∧
      ((g.offsetPair l x.va).toNat % 64 = 0 → ¬Spec.mmaIllegal bs r →
        (¬held → ∃ a, faulted s1 { cause := .token, kind := .none, addr := a }) ∧
        (∀ f s2, held → s1.holdPlaces l (mmaRecNo bs) .load .rd (o.cells.map fun e =>
            (recCheckOff o.arec (o.aAt e.1 e.2).1 (elemSize (recEfmt o.arec)) false, elemSize (recEfmt o.arec))) = (.error f, s2) →
          faulted s2 f)))

/-- R205 to R214: where the operand values are invalid a transfer takes ILLEGAL_ENC, and where its group does not hold the tile TOKEN. -/
def Sys2Proof.Spec.tileTransferFaultsRule : Prop :=
  ∀ (i : Instr) (s : State) (k : Nat) (gang : Gang) (l : Lane) (v : DWord) (th : Thread) (bd : Fin 32) (plan : Word → TileOp)
    (cause : Cause),
    s.plainAt k gang l i = true → s.operandsOf l i = some ([v], th) → s.tilePlan i l = some (bd, plan) →
    let core := (s.grp l.g).core
    let o := plan v.lo
    Spec.engineIdle (s.core core) →
    (o.invalid = true ∧ cause = .illegalEnc) ∨
      (o.invalid = false ∧ (∃ e ∈ o.objs, e < 16 ∧ (s.core core).token e ≠ .group l.g) ∧ cause = .token) →
    ∃ t b, exec i s = .next t ∧
      ((s.issued gang).takeFault l (gang.ctx k).w { cause, kind := .none, addr := b }).leftGang t k l

/-- Tile transfers and MMA are handed to the engines with TL raised, or fault before that.
The model's own choices in it: log entry 28. -/
def Obligations.TileEngineIssue : Prop :=
  Spec.tileTransfersIssueRule ∧ Spec.matrixMultiplyIssuesRule ∧ Spec.tileTransferFaultsRule ∧ Spec.matrixMultiplyFaultsRule

namespace Sys2Proof.Spec

open Sys2Proof Sys2Proof.Machine

/-- n fused steps acc := Round(a[k] × b[k] + acc) in increasing k, flags gathered (R216). -/
def steps (f : FPar) (rm : RMode) (a b : Nat → Nat) (acc : Nat × Word) : Nat → Nat × Word
  | 0 => acc
  | n + 1 =>
    let p := steps f rm a b acc n
    let q := ffmaBits f rm (a n) (b n) p.1
    (q.1, p.2 ||| q.2)

/-- The M register a matrix word writes. -/
def smTarget : Instr → Option (Fin 8)
  | .smset _ x => some x.md
  | .smadd _ x | .smmul _ x | .smsolve _ x => some x.md
  | .smmad _ x => some x.md
  | .smchol _ x | .smlu _ x => some x.md
  | .smtr _ md _ => some md
  | _ => none

/-- Two operands have one type and one shape. -/
def sameShape (a b : SMat) : Prop := a.f32 = b.f32 ∧ a.rows = b.rows ∧ a.cols = b.cols

/-- The shape of an M register keeps within the launch's dimension; a register is empty in both directions or in none (R35). -/
def smFit (s : State) (l : Lane) (n : Fin 8) : Prop :=
  (s.mat l n).rows ≤ s.smDim l ∧ (s.mat l n).cols ≤ s.smDim l ∧ ((s.mat l n).rows = 0 ↔ (s.mat l n).cols = 0)

/-- The M registers a matrix word reads (R215 to R218). -/
def smReads : Instr → List (Fin 8)
  | .smmov _ _ ma | .smtr _ _ ma => [ma]
  | .smadd _ x | .smmul _ x | .smsolve _ x => [x.ma, x.mb]
  | .smmad _ x => [x.ma, x.mb, x.mc]
  | .smchol _ x | .smlu _ x => [x.ma]
  | _ => []

/-- What the operands of a matrix word must be to each other (R215 to R218). -/
def smAgree (s : State) (l : Lane) : Instr → Prop
  | .smset _ _ => True
  | .smmov _ _ ma | .smtr _ _ ma => (s.mat l ma).rows ≠ 0
  | .smadd _ x => (s.mat l x.ma).rows ≠ 0 ∧ sameShape (s.mat l x.ma) (s.mat l x.mb)
  | .smmul _ x => (s.mat l x.ma).rows ≠ 0 ∧ (s.mat l x.mb).rows ≠ 0 ∧ (s.mat l x.ma).f32 = (s.mat l x.mb).f32 ∧
      (s.mat l x.ma).cols = (s.mat l x.mb).rows
  | .smmad _ x => (s.mat l x.ma).rows ≠ 0 ∧ (s.mat l x.mb).rows ≠ 0 ∧ (s.mat l x.mc).rows ≠ 0 ∧
      (s.mat l x.ma).f32 = (s.mat l x.mb).f32 ∧ (s.mat l x.mc).f32 = (s.mat l x.ma).f32 ∧
      (s.mat l x.ma).cols = (s.mat l x.mb).rows ∧ (s.mat l x.mc).rows = (s.mat l x.ma).rows ∧
      (s.mat l x.mc).cols = (s.mat l x.mb).cols
  | .smchol _ x | .smlu _ x => (s.mat l x.ma).rows ≠ 0 ∧ (s.mat l x.ma).rows = (s.mat l x.ma).cols
  | .smsolve _ x => (s.mat l x.ma).rows ≠ 0 ∧ (s.mat l x.ma).rows = (s.mat l x.ma).cols ∧
      ((s.mat l x.ma).fact = 1 ∨ (s.mat l x.ma).fact = 2) ∧ (s.mat l x.mb).rows ≠ 0 ∧
      (s.mat l x.ma).f32 = (s.mat l x.mb).f32 ∧ (s.mat l x.ma).cols = (s.mat l x.mb).rows
  | _ => False

/-- The operands a matrix word may have (R35, R215 to R218). -/
def smLegal (s : State) (l : Lane) (i : Instr) : Prop := (∀ n ∈ smReads i, smFit s l n) ∧ smAgree s l i

/-- Where the rows of a matrix stand after the exchanges of its first pivots, row `q j` with row `j` at step j (R217). -/
def rowOrder (q : Nat → Nat) : Nat → Nat → Nat
  | 0, i => i
  | j + 1, i => rowOrder q j (if i = j then q j else if i = q j then j else i)

/-- The result of a matrix word, its flags, and the new `%smf` of one that rewrites it. -/
def smOutcome (s : State) (l : Lane) : Instr → Option (SMat × Word × Option Word)
  | .smset _ x => some (smResult x.f32 x.rows.val x.cols.val fun _ _ => 0, 0, none)
  | .smadd _ x =>
    let a := s.mat l x.ma
    let r := smMap a.f32 a.rows a.cols fun i j => faddBits a.par (s.smMode l x.rm) (a.at i j) ((s.mat l x.mb).at i j)
    some (r.1, r.2, none)
  | .smtr _ _ ma =>
    let a := s.mat l ma
    some (smResult a.f32 a.cols a.rows fun i j => a.at j i, 0, none)
  | .smmul _ x =>
    let a := s.mat l x.ma
    let b := s.mat l x.mb
    let r := smMap a.f32 a.rows b.cols fun i j => steps a.par (s.smMode l x.rm) (a.at i) (fun k => b.at k j) (0, 0) a.cols
    some (r.1, r.2, none)
  | .smmad _ x =>
    let a := s.mat l x.ma
    let b := s.mat l x.mb
    let r := smMap a.f32 a.rows b.cols fun i j =>
      steps a.par (s.smMode l x.rm) (a.at i) (fun k => b.at k j) ((s.mat l x.mc).at i j, 0) a.cols
    some (r.1, r.2, none)
  | .smchol _ x =>
    let r := smChol (s.smMode l x.rm) (s.texp l) (s.mat l x.ma)
    some (r.1, r.2.1, some r.2.2)
  | .smlu _ x =>
    let r := smLu (s.smMode l x.rm) (s.texp l) (s.mat l x.ma)
    some (r.1, r.2.1, some r.2.2)
  | .smsolve _ x =>
    let r := smSolve (s.smMode l x.rm) (s.mat l x.ma) (s.mat l x.mb)
    some (r.1, r.2.1, some r.2.2)
  | _ => none

/-- A lane's M register, flags and `%smf` after a matrix word. -/
def smWritten (u : State) (l : Lane) (md : Fin 8) (m : SMat) (fl : Word) (smf : Option Word) : State :=
  let d := u.smDim l
  u.modThread l fun th =>
    { { th with m := th.m.set md.val (m.reg d) }.raise fl with smf := smf.getD th.smf }

/-- Memory has returned a lane's M register, for its shadow as well (R388). -/
def smLoaded (u : State) (l : Lane) (md : Fin 8) (m : SMat) : State :=
  let d := u.smDim l
  u.modBoth l fun th => { th with m := th.m.set md.val (m.reg d) }

/-- A lane's M register is replaced by another one whole. -/
def smCopied (u : State) (l : Lane) (md ma : Fin 8) : State :=
  u.modThread l fun th => { th with m := th.m.set md.val (th.m.get MReg.empty ma.val) }

/-- One slot of a lane's M register has been written anew: an error of it is gone (R373), the others stay. -/
def smSlot (u : State) (l : Lane) (md : Fin 8) (slot : Nat) (old : MReg) : State :=
  u.modThread l fun th => { th with m := th.m.modify md.val fun r => { r with bad := old.bad.filter (· != slot) } }

/-- The operands of a word with a scalar have been read: the thread stands after its pops. -/
def smPopped (s : State) (l : Lane) (th : Thread) : State := s.modThread l fun _ => th

/-- The lane takes ILLEGAL_ENC at its word. -/
def smRefused (s : State) (k : Nat) (gang : Gang) (l : Lane) (i : Instr) : Prop :=
  ∃ t b, exec i s = .next t ∧
    ((s.issued gang).takeFault l (gang.ctx k).w { cause := .illegalEnc, kind := .none, addr := b }).leftGang t k l

/-- The accesses of a matrix word, one for each element that has a place, row by row (R215). -/
def begunAll (l : Lane) (w : DWord) (x : SmMemF) (size word : Nat) (kind : Nat → OpKind) (data : Nat → List Byte) :
    List (Nat × Option (DWord × Space)) → State → State
  | [], u => u
  | (_, none) :: r, u => begunAll l w x size word kind data r u
  | (e, some (va, sp)) :: r, u =>
    let u := if kind e = .smst then u.outward l sp else u
    let u := u.watch l w va (if kind e = .smst then 1 else 0) size (scopeOf u sp x.scope)
    let a : Flight := { va, sp, size, scope := x.scope, ord := x.ord, hint := x.hint.val, kind := kind e, data := data e }
    begunAll l w x size word kind data r { u with ops := u.ops.set u.nextId (inFlight u l a word 0), nextId := u.nextId + 1 }

/-- The word waits, and everything put in flight since number `n` is what it waits for. -/
def waitsFor (s u : State) (k : Nat) (gang : Gang) (i : Instr) (n : Nat) : Prop :=
  let w : List Issued := (u.ops.filter fun e => decide (n ≤ e.1)).map fun e => { lane := e.2.lane, op := e.1 }
  exec i s = .next (u.modGang k fun _ => { gang with wip := some w })

/-- Every access the word waits for belongs to the lane and is performed. -/
def arrived (s : State) (l : Lane) (w : List Issued) : Prop :=
  ∀ e ∈ w, e.lane = l ∧ ∃ o, s.ops.find? e.op = some o ∧ o.live = false ∧ o.failed = none

end Sys2Proof.Spec

open Sys2Proof Sys2Proof.Machine

/-- R215 to R218: where its operands are legal a matrix word writes its result with FACT and PERM of that result, raises its flags and
rewrites `%smf` where the word does so; else it takes ILLEGAL_ENC and writes nothing. SMMOV copies the register whole. -/
def Sys2Proof.Spec.smallMatrixWordsRule : Prop :=
  ∀ (i : Instr) (s : State) (k : Nat) (gang : Gang) (l : Lane),
    s.plainAt k gang l i = true →
    (∀ md m fl smf, gang.inside = true → Spec.smTarget i = some md → Spec.smLegal s l i → Spec.smOutcome s l i = some (m, fl, smf) →
      ∃ t, exec i s = .next t ∧ s.passed (Spec.smWritten s l md m fl smf) t k gang l i []) ∧
    (∀ h md ma, i = .smmov h md ma → gang.inside = true → Spec.smLegal s l i →
      ∃ t, exec i s = .next t ∧ s.passed (Spec.smCopied s l md ma) t k gang l i []) ∧
    ((Spec.smTarget i).isSome ∨ (∃ h md ma, i = .smmov h md ma) → ¬Spec.smLegal s l i → Spec.smRefused s k gang l i)

/-- R215: the words with a scalar. SMMOV.get reads one element into V, two registers for FP64; SMMOV.put writes one element
and clears FACT; SMSCL multiplies every element. An index outside the shape, an FP64 scalar in an odd register and an empty source take
ILLEGAL_ENC. -/
def Sys2Proof.Spec.smallMatrixScalarsRule : Prop :=
  ∀ (s : State) (k : Nat) (gang : Gang) (l : Lane) (h : Head),
    (∀ (x : SmGetF) (a b : DWord) (th : Thread), let i := Instr.smmovGet h x
      let m := s.mat l x.ma
      s.plainAt k gang l i = true → gang.inside = true → s.operandsOf l i = some ([a, b], th) →
      (m.f32 = false → s.smBusy l [x.d.val + 1] = false) →
      (Spec.smFit s l x.ma → a.toNat < m.rows → b.toNat < m.cols → (m.f32 = true ∨ s.smPairOk l x.d.val = true) →
        ∃ t, exec i s = .next t ∧
          s.computed t k gang l i (if m.f32 then [x.d.val] else [x.d.val, x.d.val + 1]) (BitVec.ofNat 64 (m.at a.toNat b.toNat)) th) ∧
      (m.rows ≤ a.toNat ∨ m.cols ≤ b.toNat ∨ (m.f32 = false ∧ x.d.val % 2 = 1) ∨ ¬Spec.smFit s l x.ma → Spec.smRefused s k gang l i)) ∧
    (∀ (x : SmPutF) (v a b : DWord) (th : Thread), let i := Instr.smmovPut h x
      let m := s.mat l x.md
      let ops := (x.a, !m.f32) :: [(x.i, false), (x.j, false)]
      s.plainAt k gang l i = true → gang.inside = true → readSrcs (s.grp l.g) l (s.thread l) ops = (.ok [v, a, b], th) →
      s.smScalarWaits l m.f32 x.a [(x.i, false), (x.j, false)] = false →
      (Spec.smFit s l x.md → a.toNat < m.rows → b.toNat < m.cols → s.smScalarOk l m.f32 x.a = true →
        ∃ t, exec i s = .next t ∧
          s.passed (Spec.smSlot (Spec.smWritten (Spec.smPopped s l th) l x.md
              { m with fact := 0, perm := 0, e := m.e.set (8 * a.toNat + b.toNat) v.toNat } 0 none)
            l x.md (a.toNat * s.smDim l + b.toNat) ((s.thread l).m.get MReg.empty x.md.val)) t k gang l i []) ∧
      (m.rows ≤ a.toNat ∨ m.cols ≤ b.toNat ∨ s.smScalarOk l m.f32 x.a = false ∨ ¬Spec.smFit s l x.md → Spec.smRefused s k gang l i)) ∧
    (∀ (x : SmsclF) (v : DWord) (th : Thread), let i := Instr.smscl h x
      let m := s.mat l x.ma
      let ops := [(x.e, !m.f32)]
      s.plainAt k gang l i = true → gang.inside = true → readSrcs (s.grp l.g) l (s.thread l) ops = (.ok [v], th) →
      s.smScalarWaits l m.f32 x.e [] = false →
      (Spec.smFit s l x.ma → m.rows ≠ 0 → s.smScalarOk l m.f32 x.e = true →
        let r := smMap m.f32 m.rows m.cols fun i j => fmulBits m.par (s.smMode l x.rm) (m.at i j) v.toNat
        ∃ t, exec i s = .next t ∧
          s.passed (Spec.smWritten (Spec.smPopped s l th) l x.md r.1 r.2 none) t k gang l i []) ∧
      (m.rows = 0 ∨ s.smScalarOk l m.f32 x.e = false ∨ ¬Spec.smFit s l x.ma → Spec.smRefused s k gang l i))

/-- R217: an LU factorisation that was not stopped. At step j the row of largest magnitude in column j, the lowest on ties, is exchanged into
row j; PERM holds the order of the rows that results. With the rows so ordered, U[i][j] is A[i][j] − L[i][0]·U[0][j] − … in i fused steps
for i ≤ j, and L[i][j] is A[i][j] − … in j fused steps, divided by U[j][j]. -/
def Sys2Proof.Spec.luRecurrenceRule : Prop :=
  ∀ (rm : RMode) (texp : Nat) (a : SMat), a.rows ≤ 7 → a.cols = a.rows → a.e = (smCells a.rows a.rows).map (fun x => (8 * x.1 + x.2, a.at x.1 x.2)) →
    (smLu rm texp a).2.2 = 0 →
    let f := a.par
    let n := a.rows
    let r := (smLu rm texp a).1
    let p := fun i => r.perm / 8 ^ i % 8
    let sum := fun i j m => (Spec.steps f rm (fun k => negBits f (r.at i k)) (fun k => r.at k j) (a.at (p i) j, 0) m).1
    let mag := fun i j => (unpackF f (sum i j j)).abs
    let tiny := smTiny f texp ((smCells n n).map fun x => a.at x.1 x.2)
    r.fact = 2 ∧ r.rows = n ∧ r.cols = n ∧
    (∀ i j, i < n → j < n → (i ≤ j → r.at i j = sum i j i) ∧ (j < i → r.at i j = (fdivBits f rm (sum i j j) (r.at j j)).1)) ∧
    ∃ q : Nat → Nat, (∀ i, i < n → p i = Spec.rowOrder q n i) ∧
      ∀ j, j < n → j ≤ q j ∧ q j < n ∧ pivotStop false tiny (unpackF f (r.at j j)) = none ∧
        ∀ i x, j ≤ i → i < n → i ≠ q j → x < n → p x = Spec.rowOrder q j i → (mag x j).isNan = false →
          cmpVal (mag x j) (mag j j) ≠ .gt ∧ (i < q j → cmpVal (mag x j) (mag j j) = .lt)

/-- R218: a solution by factors whose diagonal holds no zero and no NaN. Forward, y[i] is b[i] (its row by PERM for LU factors) minus
L[i][0]·y[0] and so on in increasing k, divided by L[i][i] for Cholesky factors; backward from the last row, x[i] is y[i] minus
U[i][k]·x[k] in increasing k, divided by U[i][i], with U the transpose of L for Cholesky factors. Any other diagonal gives NaN throughout. -/
def Sys2Proof.Spec.solveRecurrenceRule : Prop :=
  ∀ (rm : RMode) (m b : SMat), m.rows ≤ 7 → b.rows = m.rows → b.cols ≤ 7 → (m.fact = 1 ∨ m.fact = 2) →
    let f := m.par
    let n := m.rows
    let r := (smSolve rm m b).1
    let bad := fun i => (unpackF f (m.at i i)).isNan = true ∨ (unpackF f (m.at i i)).isZero = true
    let up := fun i k => if m.fact = 1 then m.at k i else m.at i k
    r.rows = n ∧ r.cols = b.cols ∧ r.fact = 0 ∧
    ((∃ i, i < n ∧ bad i) → (∀ i c, i < n → c < b.cols → r.at i c = f.nan) ∧ (smSolve rm m b).2.2 ≠ 0) ∧
    ((∀ i, i < n → ¬bad i) → ∀ c, c < b.cols → ∃ y : Nat → Nat, ∀ i, i < n →
      (let from' := b.at (if m.fact = 1 then i else natField m.perm (3 * i) 3) c
       let t := (Spec.steps f rm (fun k => negBits f (m.at i k)) y (from', 0) i).1
       y i = if m.fact = 1 then (fdivBits f rm t (m.at i i)).1 else t) ∧
      r.at i c = (fdivBits f rm
        (Spec.steps f rm (fun k => negBits f (up i (i + 1 + k))) (fun k => r.at (i + 1 + k) c) (y i, 0) (n - i - 1)).1 (up i i)).1)

/-- Small-matrix words write the elements and scalars of their rules.
The model's own choices in it: log entries 6 and 32. -/
def Obligations.SmallMatrixResults : Prop :=
  Spec.smallMatrixWordsRule ∧ Spec.smallMatrixScalarsRule ∧ Spec.luRecurrenceRule ∧ Spec.solveRecurrenceRule

/-- R167, R35, R215: BLD, SMLD and SMST put their accesses in flight, one of 32 bytes in units of 8 or one per element, and wait at the
word for them; where an address fails its check they take that fault, and a matrix register that R35 forbids takes ILLEGAL_ENC. -/
def Sys2Proof.Spec.waitingMemoryWordsBeginRule : Prop :=
  ∀ (s s' : State) (k : Nat) (gang : Gang) (l : Lane) (h : Head),
    gang.wip = none →
    let s0 := s.issued gang
    (∀ (x : BldF) (va : DWord) (sp : Space), s.plainAt k gang l (.bld h x) = true →
      s0.address l x.m 32 32 .load .rd = (.at va sp, s') → s'.spacePoison sp 32 = false →
      let u := s'.watch l (gang.ctx k).w va 0 32 (Spec.scopeOf s' sp x.scope)
      Spec.waitsFor s (Spec.began u l .ld { va, sp, size := 32, scope := x.scope, ord := x.ord, hint := 0, kind := .bld [l.t], data := [] })
        k gang (.bld h x) s.nextId) ∧
    (∀ (x : SmMemF) (ps : List (Nat × Option (DWord × Space))), s.plainAt k gang l (.smld h x) = true → Spec.smFit s l x.md →
      s0.smPlaces l x.m (s.mat l x.md) .load .rd = (.ok ps, s') →
      Spec.waitsFor s (Spec.begunAll l (gang.ctx k).w x (if (s.mat l x.md).f32 then 4 else 8) s.nextId OpKind.smld
        (fun _ => []) ps s') k gang (.smld h x) s.nextId) ∧
    (∀ (x : SmMemF) (ps : List (Nat × Option (DWord × Space))), let m := s.mat l x.md
      s.plainAt k gang l (.smst h x) = true → Spec.smFit s l x.md → m.rows ≠ 0 → s0.smPlaces l x.m m .store .wr = (.ok ps, s') →
      let n := if m.f32 then 4 else 8
      Spec.waitsFor s (Spec.begunAll l (gang.ctx k).w x n s.nextId (fun _ => .smst)
        (fun e => Spec.bytes n (m.at (e / m.cols) (e % m.cols))) ps s') k gang (.smst h x) s.nextId) ∧
    (∀ (i : Instr) (f : FaultInfo), s.plainAt k gang l i = true →
      (∃ x : BldF, i = .bld h x ∧ s0.address l x.m 32 32 .load .rd = (.fault f, s')) ∨
        (∃ x : SmMemF, i = .smld h x ∧ Spec.smFit s l x.md ∧ s0.smPlaces l x.m (s.mat l x.md) .load .rd = (.error f, s')) ∨
        (∃ x : SmMemF, i = .smst h x ∧ Spec.smFit s l x.md ∧ (s.mat l x.md).rows ≠ 0 ∧
          s0.smPlaces l x.m (s.mat l x.md) .store .wr = (.error f, s')) →
      ∃ t, exec i s = .next t ∧ (s'.takeFault l (gang.ctx k).w f).leftGang t k l) ∧
    (∀ x : SmMemF, (s.plainAt k gang l (.smld h x) = true → ¬Spec.smFit s l x.md → Spec.smRefused s k gang l (.smld h x)) ∧
      (s.plainAt k gang l (.smst h x) = true → ¬Spec.smFit s l x.md ∨ (s.mat l x.md).rows = 0 → Spec.smRefused s k gang l (.smst h x)))

/-- R167, R38, R215: such a word stays while an access is under way. When BLD's 32 bytes are there the record is taken in all lanes of
the group if it is legal, else the performer takes ILLEGAL_ENC; SMLD writes the elements read, an element with no place 0, and clears FACT;
SMST has stored when its stores are performed. -/
def Sys2Proof.Spec.waitingMemoryWordsCompleteRule : Prop :=
  ∀ (s : State) (k : Nat) (gang : Gang) (l : Lane) (h : Head) (w : List Issued),
    gang.wip = some w →
    (∀ i, (∃ x, i = .bld h x) ∨ (∃ x, i = .smld h x) ∨ (∃ x, i = .smst h x) → s.plainAt k gang l i = true →
      (∃ e ∈ w, ∃ o, s.ops.find? e.op = some o ∧ o.live = true) → exec i s = .next s) ∧
    (∀ (x : BldF) (o : MemOp) (os : List MemOp), s.plainAt k gang l (.bld h x) = true → Spec.arrived s l w →
      w.map (fun e => s.ops.find? e.op) = (o :: os).map some →
      let r : BRec := BitVec.ofNat 256 (wordOfBytes ((o :: os).map fun o => o.got.getD []).flatten)
      (recOk r = true → gang.inside = true →
        ∃ t, exec (.bld h x) s = .next t ∧
          s.passed ((s.wipDrop w l).modGroup l.g fun g => { g with b := g.b.set x.bd.val (recLoad r) }) t k gang l (.bld h x) []) ∧
      (recOk r = false →
        ∃ t, exec (.bld h x) s = .next t ∧
          (((s.issued gang).wipDrop w l).takeFault l (gang.ctx k).w { cause := .illegalEnc, kind := .load, addr := o.va }).leftGang t k l)) ∧
    (∀ x : SmMemF, let m := s.mat l x.md
      s.plainAt k gang l (.smld h x) = true → gang.inside = true → Spec.arrived s l w →
      let got := fun e => ((w.filterMap fun y => s.ops.find? y.op).find? fun o => o.kind = .smld e ∧ o.got.isSome).bind fun o => o.got
      let r := smResult m.f32 m.rows m.cols fun i j => ((got (i * m.cols + j)).map wordOfBytes).getD 0
      ∃ t, exec (.smld h x) s = .next t ∧
        s.passed ((Spec.smLoaded s l x.md r).wipDrop w l) t k gang l (.smld h x) []) ∧
    (∀ x : SmMemF, s.plainAt k gang l (.smst h x) = true → gang.inside = true → Spec.arrived s l w →
      ∃ t, exec (.smst h x) s = .next t ∧ s.passed s t k gang l (.smst h x) [])

/-- BLD, SMLD and SMST begin their accesses, stall while one is in flight, and complete with all that was read. -/
def Obligations.WaitingMemoryWords : Prop :=
  Spec.waitingMemoryWordsBeginRule ∧ Spec.waitingMemoryWordsCompleteRule

/-- R217: a Cholesky factor that was not stopped. With S[i][j] = A[i][j] − L[i][0]·L[j][0] − … in j fused steps, L[j][j] is the square
root of S[j][j], which is no NaN, positive and not tiny; L[i][j] is S[i][j] / L[j][j] below the diagonal, no NaN, and 0 above it. -/
def Obligations.CholeskyRecurrence : Prop :=
  ∀ (rm : RMode) (texp : Nat) (a : SMat), a.rows ≤ 7 → (smChol rm texp a).2.2 = 0 →
    let f := a.par
    let r := (smChol rm texp a).1
    let sum := fun i j => (Spec.steps f rm (fun k => negBits f (r.at i k)) (fun k => r.at j k) (a.at i j, 0) j).1
    let tiny := smTiny f texp (((smCells a.rows a.rows).filter fun x => decide (x.2 ≤ x.1)).map fun x => a.at x.1 x.2)
    r.fact = 1 ∧ r.rows = a.rows ∧ r.cols = a.rows ∧
    ∀ j, j < a.rows →
      pivotStop true tiny (unpackF f (sum j j)) = none ∧ r.at j j = (fsqrtBits f rm (sum j j)).1 ∧
      ∀ i, i < a.rows → (j < i → r.at i j = (fdivBits f rm (sum i j) (r.at j j)).1 ∧ (unpackF f (r.at i j)).isNan = false) ∧
        (i < j → r.at i j = 0)

namespace Sys2Proof.Spec

open Sys2Proof Sys2Proof.Machine

/-- The opcode values the opcode map leaves unassigned (R91 to R99). -/
def unassigned (n : Nat) : Prop :=
  (0x01C ≤ n ∧ n ≤ 0x01F) ∨ (0x023 ≤ n ∧ n ≤ 0x027) ∨ n = 0x02A ∨ n = 0x02E ∨ n = 0x02F ∨ (0x033 ≤ n ∧ n ≤ 0x03F) ∨
  (0x049 ≤ n ∧ n ≤ 0x07F) ∨ (0x08D ≤ n ∧ n ≤ 0x0FF) ∨
  (0x100 ≤ n ∧ n ≤ 0x13F ∧ 10 ≤ n % 16) ∨ (0x158 ≤ n ∧ n ≤ 0x15F) ∨ (0x164 ≤ n ∧ n ≤ 0x17F) ∨
  n = 0x187 ∨ (0x18B ≤ n ∧ n ≤ 0x1FF) ∨
  n = 0x207 ∨ (0x20F ≤ n ∧ n ≤ 0x21F) ∨ n = 0x22F ∨ n = 0x23F ∨ (0x24B ≤ n ∧ n ≤ 0x24F) ∨ (0x25B ≤ n ∧ n ≤ 0x25F) ∨
  (0x26A ≤ n ∧ n ≤ 0x27F) ∨ n = 0x28E ∨ n = 0x28F ∨ (0x293 ≤ n ∧ n ≤ 0x2FF) ∨ (0x30A ≤ n ∧ n ≤ 0x33F) ∨
  (0x34C ≤ n ∧ n ≤ 0x37F) ∨ (0x386 ≤ n ∧ n ≤ 0x3BF) ∨ 0x3C3 ≤ n

/-- A field of a word, bits hi to lo (R2). -/
def field (w : DWord) (hi lo : Nat) : Nat := w.toNat / 2 ^ lo % 2 ^ (hi + 1 - lo)

/-- What a step does with an outcome: what it made ready at once follows (R133, R155, R177). -/
def andSettles : Host.Outcome State Fault Refusal → Host.Outcome State Fault Refusal
  | .next s => .next s.settle
  | .fault f => .fault f
  | .refused r => .refused r

/-- RecordAddress of R40 in whole numbers: the offset as first formed, as a signed 64-bit number. -/
def offset (r : BRec) (a : DWord) (imm : BitVec 12) : Int :=
  let i := imm.toInt
  (BitVec.ofInt 64 (if recMode r = 1 then a.lo.toInt * (recStride1 r).toInt + a.hi.toInt * (recStride2 r).toInt + i
    else if recMode r = 2 then (a.lo.toNat / 48 * 64 : Nat) + i else (a.toNat : Int) + i)).toInt

/-- BASE plus an offset, modulo 2^64. -/
def basePlus (r : BRec) (o : Int) : DWord := BitVec.ofInt 64 ((recBase r).toNat + o)

/-- Bits 63 to 57 repeat bit 56 (R40). -/
def isCanonical (va : DWord) : Prop := va.toInt < 2 ^ 56 ∧ -(2 ^ 56) ≤ va.toInt

/-- The gang of a word whose lanes are one thread has gone past it with everything else as `u` says. -/
def doesNothing (s : State) (k : Nat) (gang : Gang) (l : Lane) (i : Instr) : Prop :=
  ∃ t, exec i s = .next t ∧ s.passed s t k gang l i []

/-- CRC-16 one bit of a byte after the other (R62). -/
def crcSteps : Nat → BitVec 16 → BitVec 16
  | 0, c => c
  | n + 1, c => crcSteps n (if c.getLsbD 15 then (c <<< 1) ^^^ 0x1021 else c <<< 1)

/-- CRC-16 over bytes from a value (R62). -/
def crcFrom (c : BitVec 16) : List Byte → BitVec 16
  | [] => c
  | b :: r => crcFrom (crcSteps 8 (c ^^^ (b.zeroExtend 16 <<< 8))) r

end Sys2Proof.Spec

open Sys2Proof Sys2Proof.Machine

/-- R81 to R99: decoding the encoding of a well-formed word gives that word back: no operand, guard or scheduling bit is dropped. -/
def Obligations.EncodeThenDecode : Prop :=
  ∀ i : Instr, isWord i = true → wellFormed i = true → decode (encode i) = .ok i

/-- R81 to R99: a word that decodes is the encoding of what it decodes to, which is well formed: every bit of it has its one
meaning. -/
def Obligations.DecodeThenEncode : Prop :=
  ∀ (w : DWord) (i : Instr), decode w = .ok i → isWord i = true ∧ wellFormed i = true ∧ encode i = w

/-- R89, R91 to R99, R83: a word whose opcode is unassigned decodes to ILLEGAL_OPC and no other word does; an assigned opcode with scheduling
code 3 decodes to ILLEGAL_ENC; no word that decodes has a header's signature. -/
def Sys2Proof.Spec.unassignedOpcodesRule : Prop :=
  ∀ w : DWord, (decode w = .illegalOpc ↔ Spec.unassigned (Spec.field w 63 54)) ∧
    (¬Spec.unassigned (Spec.field w 63 54) → Spec.field w 40 39 = 3 → decode w = .illegalEnc) ∧
    (Spec.field w 63 56 = 0x9C → decode w = .illegalOpc)

/-- R71: a header is read from its fields, and one whose reserved bits are not zero, whose class is unassigned, or that holds word 0 or a
word past its last is refused. -/
def Sys2Proof.Spec.clauseHeadersRule : Prop :=
  ∀ w : DWord, Spec.field w 63 56 = 0x9C →
    (∀ h, headerOf w.toNat = some h → headerWord h = w.toNat ∧ h.cnt = Spec.field w 55 52 ∧ engCode h.eng = Spec.field w 51 49 ∧
      (h.yld = true ↔ Spec.field w 48 48 = 1) ∧ h.wld = Spec.field w 47 44 ∧ h.wst = Spec.field w 43 40 ∧
      h.wcp = Spec.field w 39 36 ∧ h.wtl = Spec.field w 35 32 ∧ h.hold = Spec.field w 31 16) ∧
    (headerOf w.toNat = none ↔ Spec.field w 15 0 ≠ 0 ∨ engOf (Spec.field w 51 49) = none ∨ Spec.field w 16 16 = 1 ∨
      2 ^ (Spec.field w 55 52 + 1) ≤ Spec.field w 31 16)

/-- An opcode the table does not assign is refused, and a header is legal only within its fields. -/
def Obligations.ClauseWordsAndHeaders : Prop :=
  Spec.unassignedOpcodesRule ∧ Spec.clauseHeadersRule

/-- R81 to R99: words written out bit by bit from the encoding tables, one of each of R91's eight families, decode to what they stand for. -/
def Obligations.WordsFromTheEncodingTables : Prop :=
  -- ICMP.lt.s32 P1, P2, V4, V5: family 000
  decode 0x069F7C01081411F2 =
      .ok (.icmp Head.plain { pa := 1, pb := 2, pc := 31, a := .v 4, b := .v 5, w := false, cond := .lts }) ∧
  -- EXIT: family 001
  decode 0x22DF7C0000000000 = .ok (.exit Head.plain) ∧
  -- FADD: family 010
  decode 0x481F7C040A180067 = .ok (.fadd Head.plain { t := .f32, d := 4, a := .v 5, b := .v 6, ma := { abs := true, neg := false }, mb := { abs := false, neg := true }, rm := .dyn }) ∧
  -- REDX.fadd.f32 V9, V7, J2, V10 (the word of R161): family 011
  decode 0x609F7C090E4010A7 = .ok (.redx Head.plain { op := .fadd32, d := 9, a := .v 7, mask := .j 2, fill := .v 10, rm := .dyn }) ∧
  -- ATOM.add.b64.clu V10, [B2 + 0x40]: family 100
  decode 0x90017C0856804020 = .ok (.atom { guard := { pA := 1, negA := false, pB := 31, negB := false, joinOr := false }, sched := .none }
    { op := .add, w := true, d := 10, m := { br := 2, ofs := none, imm := 0x40 }, scope := .clu, ord := .rlx, hint := 0 }) ∧
  -- BARW.clu V7, 1: family 101
  decode 0xA0DF7C000E040800 = .ok (.barw Head.plain { n := 1, a := .v 7, scope := .clu }) ∧
  -- MMA.die H2, [B4 + V10] (the word of R211): family 110
  decode 0xC19F7C1050028040 = .ok (.mma Head.plain { br := 4, va := some 10, hd := some 2, scope := .die }) ∧
  -- TRAP 7: family 111
  decode 0xE01F7C0000000007 = .ok (.trap Head.plain 7)

/-- R236, R82: a step runs the instruction its agent's word decodes to, on the state it stands in, after the turn's time has passed; what
the word made ready at once follows in the same step. A turn may also be an event.
The model's own choices in it: log entry 1. -/
def Obligations.StepRunsTheDecodedWord : Prop :=
  (∀ (s : State) (k : Nat) (gang : Gang) (w : DWord) (i : Instr), s.agenda = [] → s.cur = .gang k → s.gang? k = some gang →
    s.mayIssue gang = true → gang.clause.words[gang.ix]? = some w → decode w = .ok i →
    step s = Spec.andSettles (exec i s)) ∧
  (∀ (s : State) (g : Nat) (x : Group) (c : Clause) (w : DWord) (i : Instr), s.agenda = [] → s.cur = .slice g →
    s.group? g = some x → x.slice.running = true → s.alive x = true → (s.cluster (coreCluster x.core)).stopped = false →
    x.slice.clause = some c → c.words[x.slice.ix]? = some w → decode w = .ok i → admits .acc (classOfOpc (opcOf i)) = true →
    (endsClause (opcOf i) = true → x.slice.ix = c.hdr.cnt) → step s = Spec.andSettles (exec i s)) ∧
  (∀ (s : State) (t : Turn) (r : List Turn) (k : Nat) (gang : Gang) (w : DWord) (i : Instr), s.agenda = t :: r → t.move = .gang k →
    let s' := { State.tick { s with agenda := r } t.dt with cur := .gang k }
    s'.gang? k = some gang → s'.mayIssue gang = true → gang.clause.words[gang.ix]? = some w → decode w = .ok i →
    step s = Spec.andSettles (exec i s')) ∧
  (∀ (s : State) (t : Turn) (r : List Turn) (e : Instr), s.agenda = t :: r → t.move = .event e → isWord e = false →
    step s = Spec.andSettles (exec e (State.tick { s with agenda := r } t.dt))) ∧
  (∀ (w : DWord) (i : Instr), decode w = .ok i →
    step (State.reset.withFetchWord 64 w.toNat) = Spec.andSettles (exec i (State.reset.withFetchWord 64 w.toNat))) ∧
  (∀ (s : State) (k : Nat) (gang : Gang) (l : Lane) (w : DWord), s.agenda = [] → s.cur = .gang k → s.gang? k = some gang →
    gang.lanes = [l] → l.sh = false → gang.step = false → s.mayIssue gang = true → gang.clause.words[gang.ix]? = some w →
    decode w = .illegalOpc →
    ∃ t a, step s = .next t.settle ∧
      ((s.issued gang).takeFault l (gang.ctx k).w { cause := .illegalOpc, kind := .none, addr := a }).leftGang t k l)

/-- R137: NOP. Every field is zero, and it has no effect; a NOP guarded (!P31) behaves identically. -/
def Obligations.NopHasNoEffect : Prop :=
  (∀ w : DWord, Spec.field w 63 54 = 0x08C →
    (Spec.field w 38 0 ≠ 0 → decode w = .illegalEnc) ∧
    (Spec.field w 38 0 = 0 → Spec.field w 40 39 ≠ 3 → ∃ h, decode w = .ok (.nop h))) ∧
  ∀ (s : State) (k : Nat) (gang : Gang) (l : Lane) (h : Head), s.plainAt k gang l (.nop h) = true → gang.inside = true →
    Spec.doesNothing s k gang l (.nop h) ∧
    let never := { h with guard := { negA := true, pA := 31, negB := false, pB := 31, joinOr := false } }
    exec (.nop never) s = exec (.nop h) s ∧ Spec.doesNothing s k gang l (.nop never)

/-- R113: BOOL3 reads X11 as W, two reserved bits and tt, and forms each result bit from tt; majority is 0xE8 and XOR 0x96. -/
def Obligations.Bool3FormsEachBit : Prop :=
  (∀ w : DWord, Spec.field w 63 54 = 0x00F →
    (Spec.field w 9 8 ≠ 0 → decode w = .illegalEnc) ∧
    ∀ i, decode w = .ok i → ∃ h x, i = .bool3 h x ∧ (x.w = true ↔ Spec.field w 10 10 = 1) ∧ x.tt.toNat = Spec.field w 7 0) ∧
  ∀ (s : State) (k : Nat) (gang : Gang) (l : Lane) (h : Head) (x : Bool3F) (a b c : DWord) (th : Thread),
    s.plainAt k gang l (.bool3 h x) = true → gang.inside = true → s.operandsOf l (.bool3 h x) = some ([a, b, c], th) →
    wellFormed (.bool3 h x) = true →
    ∃ t v, exec (.bool3 h x) s = .next t ∧ s.computed t k gang l (.bool3 h x) (if x.w then [x.d.val, x.d.val + 1] else [x.d.val]) v th ∧
      ∀ j, j < (if x.w then 64 else 32) →
        v.getLsbD j = x.tt.getLsbD (4 * (a.getLsbD j).toNat + 2 * (b.getLsbD j).toNat + (c.getLsbD j).toNat) ∧
        (x.tt = 0xE8 → (v.getLsbD j = true ↔ 2 ≤ (a.getLsbD j).toNat + (b.getLsbD j).toNat + (c.getLsbD j).toNat)) ∧
        (x.tt = 0x96 → v.getLsbD j = ((a.getLsbD j ^^ b.getLsbD j) ^^ c.getLsbD j))

/-- R62: bytes 62 and 63 of a block hold the CRC-16 of bytes 0 to 61, the low byte first; over "123456789" it is 0x29B1. -/
def Obligations.BlockChecksum : Prop :=
  (∀ bs : List Byte, crc16 bs = (Spec.crcFrom 0xFFFF bs).toNat) ∧
  (∀ b : List Byte, b.length = 64 → (blkCrcOk b = true ↔
    (b.getD 62 0).toNat + 256 * (b.getD 63 0).toNat = (Spec.crcFrom 0xFFFF (b.take 62)).toNat)) ∧
  (∀ b : List Byte, b.length = 62 → (sealBlock b).length = 64 ∧ (sealBlock b).take 62 = b ∧ blkCrcOk (sealBlock b) = true) ∧
  crc16 [0x31, 0x32, 0x33, 0x34, 0x35, 0x36, 0x37, 0x38, 0x39] = 0x29B1

/-- R40: RecordAddress: the offset by mode, the write bit, the bounds under each BOUNDS value, the canonical check, and what `%faddr`
receives. -/
def Obligations.RecordAddress : Prop :=
  ∀ (r : BRec) (a : DWord) (imm : BitVec 12) (size : Nat) (isWrite : Bool),
    let o := Spec.offset r a imm
    let n : Int := if recMode r = 2 then 64 else size
    let x : Int := recExtent r
    let ends := fun (o : Int) (res : RecAddr) =>
      (Spec.isCanonical (Spec.basePlus r o) → res = .at (Spec.basePlus r o)) ∧
      (¬Spec.isCanonical (Spec.basePlus r o) → res = .bad (Spec.basePlus r o))
    let res := recordAddress r a imm size isWrite
    let inside := recBounds r = 0 ∨ (0 ≤ o ∧ o + n ≤ x)
    (isWrite = true ∧ recWr r = false → res = .bad (Spec.basePlus r o)) ∧
    (¬(isWrite = true ∧ recWr r = false) →
      (inside → ends o res) ∧
      (¬inside → recBounds r = 1 → res = .bad (Spec.basePlus r o)) ∧
      (¬inside → recBounds r = 2 → res = .outside) ∧
      (¬inside → recBounds r = 3 → x = 0 ∨ x < o % x + n → res = .bad (Spec.basePlus r o)) ∧
      (¬inside → recBounds r = 3 → x ≠ 0 → o % x + n ≤ x → ends (o % x) res))

/-- R44, R248, R275, R313, R385, R398, R408, R410: at power-up bring-up is at step 1, time and every counter are 0, PWR.LIMIT is 5,400, every partition
is FREE with generation 0, no launch, crew, group, gang or access exists, and memory is listed nowhere.
The model's own choices in it: log entries 4 and 14. -/
def Obligations.ResetState : Prop :=
  let s := State.reset
  s.boot.step = 1 ∧ s.time = 0 ∧ s.pwr.limit = 5400 ∧ s.pwr.throt = 0 ∧ s.groups = [] ∧ s.gangs = [] ∧ s.crews = [] ∧
  s.launches = [] ∧ s.ops = [] ∧ s.copies = [] ∧ s.msgs = [] ∧ (∀ a, s.byteAt a = 0) ∧
  (∀ p, (s.partn p).state = .free ∧ (s.partn p).gen = 0 ∧ (s.partn p).latmiss = 0) ∧
  (∀ d, let x := s.die d
    x.fenced = false ∧ x.corr = 0 ∧ x.uncorr = 0 ∧ x.consume = 0 ∧ x.mirror = 0 ∧ x.dmr = 0 ∧ x.replay = 0 ∧ x.snapDrop = 0 ∧
    x.fabLost = 0 ∧ x.mscHit = 0 ∧ x.mscMiss = 0 ∧ x.mscWb = 0 ∧ x.memRej = 0 ∧ x.memAged = 0 ∧ x.errrec = 0) ∧
  (∀ c, let x := s.core c
    x.aged = 0 ∧ x.serent = 0 ∧ x.serclk = 0 ∧ x.refetch = 0 ∧ x.spill = 0 ∧ x.sfill = 0 ∧ x.l1hit = 0 ∧ x.l1miss = 0 ∧
    x.mmas = 0 ∧ x.zskip = 0 ∧ x.zmiss = 0 ∧ x.commitsN = 0 ∧ x.reread = 0 ∧ x.aborts = 0 ∧ x.use = .idle ∧ x.carve = none) ∧
  ∀ c, (s.cluster c).dbgctl = 0 ∧ (s.cluster c).stopped = false ∧ (s.cluster c).wu = []

/-- Log entry 4: memory's canonical form: every step keeps it, from every state that has it. -/
def Obligations.MemoryFormKept : Prop :=
  ∀ s t : State, s.sound = true → step s = .next t → t.sound = true

/-- Log entry 4: memory has its canonical form at reset, and where the next word is placed. -/
def Obligations.MemoryFormAtReset : Prop :=
  State.reset.sound = true ∧ ∀ (s : State) (n w : Nat), s.sound = true → (s.withFetchWord n w).sound = true

namespace Sys2Proof.Spec

open Sys2Proof Sys2Proof.Machine

/-- Bytes of memory from an address on. -/
def bytesAre (t : State) (a : Nat) (bs : List Byte) : Prop := ∀ j, j < bs.length → t.byteAt (a + j) = bs.getD j 0

/-- Every byte outside a range is as it was. -/
def memoryKept (s t : State) (a n : Nat) : Prop := ∀ b, b < a ∨ a + n ≤ b → t.byteAt b = s.byteAt b

/-- Every byte is as it was. -/
def sameMemory (s t : State) : Prop := ∀ b, t.byteAt b = s.byteAt b

/-- An event its rule does not allow now changes nothing (log entry 1). -/
def nothing (e : Instr) (s : State) : Prop := exec e s = .next s

/-- Nothing captures a write of a launch: it holds no snapshot (R378). -/
def noCapture (s : State) (launch : Nat) : Prop := ∀ x, s.launch? launch = some x → x.snap ≠ .held

/-- A coherent sector of HBM that no window holds. -/
def plainHbm (s : State) (pa : Nat) : Prop := s.paKind pa = .hbm ∧ (s.sector (pa / 64)).win = none

/-- The access may be performed as far as its own thread's order goes: in flight, admitted, nothing it must follow left, and its sector not held
for another thread's fenced store (R278, R283). -/
def onItsWay (s : State) (id : Nat) (o : MemOp) (pa : Nat) : Prop :=
  s.ops.find? id = some o ∧ o.live = true ∧ o.rejected = false ∧ s.opReady id o = true ∧ o.space = .phys pa ∧
  plainHbm s pa ∧ s.heldFor (pa / 64) (some o.lane) = false ∧ (s.group? o.lane.g).isSome ∧ o.lane.sh = false ∧
  o.lane.t < (s.grp o.lane.g).width ∧ (opDst o.kind).Nodup

/-- The access may be performed, with nothing left to release (R281). -/
def mayPerform (s : State) (id : Nat) (o : MemOp) (pa : Nat) : Prop := onItsWay s id o pa ∧ s.relReady id o = true

/-- What one unit of an access puts in its registers: its bytes, with the region's own stores in them (R171, R220). -/
def unitTakes (t : State) (o : MemOp) (sgn : Bool) (bs : List Byte) : Prop :=
  ∀ e ∈ loadWords sgn (o.unitDst (opDst o.kind)) (bs.zipIdx.map fun e => (o.patch.find? e.2).getD e.1), t.v o.lane e.1 = e.2

/-- No other unit of the word's access is left in flight. -/
def lastUnit (s : State) (id : Nat) (o : MemOp) : Prop := ∀ e ∈ s.ops, e.1 ≠ id → e.2.word ≠ o.word

/-- A Span port as an event leaves it. -/
def spanPortIs (s t : State) (n : Nat) (p : SpanPort) : Prop :=
  t = { s with span := t.span } ∧ t.spanPort n = p ∧ ∀ m, m ≠ n → t.spanPort m = s.spanPort m

/-- A host port as an event leaves it. -/
def hostPortIs (s t : State) (n : Nat) (p : HostPort) : Prop :=
  t = { s with hosts := t.hosts } ∧ t.hostPort n = p ∧ ∀ m, m ≠ n → t.hostPort m = s.hostPort m

/-- Every time table in use says what the dies do (R400). -/
def tablesFresh (s : State) : Prop :=
  ∀ p ∈ AMap.keys s.parts, natBit (s.partn p).ttab.toNat 0 = false ∨
    s.rdN ((s.partn p).ttab.toNat / 512 * 512 + 16) 256 = ((List.range 16).map fun d => (s.die d).ttEntry).flatten

/-- What threads that resume inside a clause have issued of it (R73, R78). -/
def issuedBefore (s : State) (ls : List Lane) : List Issued :=
  (ls.map fun l => (s.thread l).sofar.map fun o => ({ lane := l, op := o } : Issued)).flatten

/-- An outside agent's write of bytes has landed and no cached copy is left. -/
def landed (s t : State) (pa : Nat) (bs : List Byte) : Prop :=
  bytesAre t pa bs ∧ memoryKept s t pa bs.length ∧ (t.sector (pa / 64)).l1 = []

/-- An outside agent's read has left no core the only owner. -/
def sharedOut (s t : State) (pa : Nat) : Prop :=
  sameMemory s t ∧ ∀ e ∈ (t.sector (pa / 64)).l1, e.2 = .o ∨ e.2 = .s

end Sys2Proof.Spec

open Sys2Proof Sys2Proof.Machine

/-- R77, R236 to R247: CLAUSE_FETCH fills a group's slot with the clause at a path's address or faults its threads; GANG_ISSUE starts a gang of the
ready threads at its first word; PATH_AGED marks a path that has waited 4,096 clk; WATCHDOG faults a group's thread at its word once the
limit is reached, and neither happens before.
The model's own choices in it: log entries 1, 6, 33, 34, 55 and 56. -/
def Obligations.PickerEvents : Prop :=
  ∀ s : State,
    (∀ quad pc gs c ix ls, s.gatherGang quad pc gs = some (c, ix, ls) →
      gs.length ≤ 8 ∧ ∀ l ∈ ls, ∃ x, s.group? l.g = some x ∧ s.mayStart x = true ∧ quadOf x = quad ∧
        x.slotFor (x.midAt l.t) pc = some c) ∧
    (∀ quad pc gs c ix ls, s.gatherGang quad pc gs = some (c, ix, ls) → s.agedReady quad c.hdr.eng = [] →
      (∀ g ∈ gs, s.slotKept g (s.grp g) pc = false) →
      (∀ l ∈ ls, s.headerFault l c.hdr = none ∧ (s.thread l).live = true ∧ (s.thread l).pc = pc) →
      let lanes := s.withShadows ls
      ∃ t, exec (.gangIssue quad pc gs) s = .next t ∧
        t.gang? s.nextId = some { quad, clause := c, ix, lanes, ops := Spec.issuedBefore s ls, yld := ls.any fun l => (s.thread l).sofarYld,
                                  step := false, wip := none, issueId := s.nextId } ∧
        t.cur = .gang s.nextId ∧ t.nextId = s.nextId + 1 ∧
        (∀ l ∈ lanes, (t.thread l).pc = c.addr + BitVec.ofNat 64 (8 * (ix + 1)) ∧ (t.thread l).header = some (c.addr, c.hdr) ∧
          (t.thread l).behind = []) ∧ (∀ l n, t.v l n = s.v l n) ∧
        t.ops = s.ops ∧ Spec.sameMemory s t) ∧
    (∀ quad pc gs c ix ls g p a r, s.gatherGang quad pc gs = some (c, ix, ls) → s.agedReady quad c.hdr.eng = (g, p, a) :: r →
      ¬(g ∈ gs ∧ p = pc) → Spec.nothing (.gangIssue quad pc gs) s) ∧
    (∀ g x pc t0 r, s.group? g = some x → s.idleAt g x pc = t0 :: r → x.midAt t0 = false → s.mayStart x = true →
      x.slotFor false pc = none → s.slotKept g x pc = false → s.fetchOpen x.core x.part pc = true →
      (∀ c s1, s.fetchCheck x.core x.part pc = (.ok c, s1) →
        ∃ t, exec (.clauseFetch g pc) s = .next t ∧ (t.grp g).fslot = some { clause := c, marked := false } ∧
          (∀ l n, t.v l n = s1.v l n) ∧
          (∀ l, t.thread? l = if l.g = g ∧ l.key ∈ t0 :: r then (s1.thread? l).map fun th => { th with passing := none, header := some (pc, c.hdr) }
            else s1.thread? l) ∧ Spec.sameMemory s1 t) ∧
      (∀ f s1, s.fetchCheck x.core x.part pc = (.error f, s1) → r = [] →
        let l : Lane := { g, t := t0, sh := false }
        let u := s1.modGroup g fun y => { y with fslot := none }
        let u := if x.fslot.isSome then u.modCore x.core fun y => { y with refetch := y.refetch + 1 } else u
        exec (.clauseFetch g pc) s = .next (match (s.thread l).passing with
          | some w => u.takeFault l w f
          | none => u.headerEntry (u.takeFault l pc f) l))) ∧
    (∀ g x pc t0 r a, s.group? g = some x → s.idleAt g x pc = t0 :: r → x.midAt t0 = true → s.mayStart x = true →
      x.slotFor true pc = none → s.slotKept g x pc = false → s.fetchOpen x.core x.part pc = true →
      let l : Lane := { g, t := t0, sh := false }
      (s.thread l).clauseAddr = some a →
      (∀ c s1, s.fetchCheck x.core x.part a = (.ok c, s1) → (pc - a).toNat / 8 ≤ c.hdr.cnt + 1 →
        ∃ t, exec (.clauseFetch g pc) s = .next t ∧ (t.grp g).fslot = some { clause := c, marked := false } ∧
          (∀ m n, t.v m n = s1.v m n) ∧ (∀ m, t.thread? m = s1.thread? m) ∧ Spec.sameMemory s1 t) ∧
      (∀ f s1, s.fetchCheck x.core x.part a = (.error f, s1) → r = [] → (s.thread l).passing = none →
        let u := s1.modGroup g fun y => { y with fslot := none }
        let u := if x.fslot.isSome then u.modCore x.core fun y => { y with refetch := y.refetch + 1 } else u
        exec (.clauseFetch g pc) s = .next (u.takeFault l pc f))) ∧
    (∀ g x pc p, s.group? g = some x → x.path? pc = some p → p.aged = none →
      (4096 * 20 ≤ p.cnt → ∃ t, exec (.pathAged g pc) s = .next t ∧
        (∃ q, (t.grp g).path? pc = some q ∧ q.aged = some s.time ∧ q.cnt = p.cnt) ∧
        ∀ y, y ≠ pc → (t.grp g).path? y = x.path? y) ∧
      (p.cnt < 4096 * 20 → Spec.nothing (.pathAged g pc) s)) ∧
    (∀ g x, s.group? g = some x →
      let limit := 2 ^ (if (s.partn x.part).wdlog = 0 then 27 else (s.partn x.part).wdlog) * 20
      (x.wd < limit → Spec.nothing (.watchdog g) s) ∧
      (∀ k th, limit ≤ x.wd → x.live = [(k, th)] → let l : Lane := { g, t := k, sh := false }
        s.exempt l = false → (s.thread l).hold = none →
        let w := s.modGroup g fun y => { y with wd := 0 }
        ∃ a, let u := (w.takeFault l (s.thread l).pc { cause := .watchdog, kind := .none, addr := a }).used 1
          exec (.watchdog g) s = .next (if (s.thread l).mid = true ∨ s.inGang g k = true then u else w.headerEntry u l)) ∧
      (limit ≤ x.wd → (∀ e ∈ x.live, s.exempt { g, t := e.1, sh := false } = true) →
        exec (.watchdog g) s = .next (s.modGroup g fun y => { y with wd := 0 })))

/-- R37, R171, R174, R265 to R273, R375: LOAD_COMPLETE gives a load the bytes its core's copy holds, its old bytes where the invalidation has not
arrived, or the fault of poison; STORE_COMPLETE and LOAD_COMPLETE perform stores under ownership and atomics where their scope's point of
coherence holds the sector; DIRECTORY_REQUEST climbs and is answered; REQUEST_REPRESENT takes an entry, is rejected again, or ages;
FORWARDED_REQUEST ends a stale copy; MSC_WRITEBACK drains a line.
The model's own choices in it: log entries 8, 10, 18 and 59. -/
def Obligations.AccessEvents : Prop :=
  ∀ s : State, s.sound = true →
    (∀ id o pa sg dst inp, Spec.mayPerform s id o pa → o.kind = .load sg dst inp →
      let x := s.sector (pa / 64)
      (∀ bs, (x.stale.find? o.core = none ∧ (x.l1.find? o.core).isSome ∧ s.poisoned pa o.size = false ∧ bs = s.rdN pa o.size) ∨
          (∃ old, x.stale.find? o.core = some old ∧ bs = (old.drop (pa % 64)).take o.size) →
        ∃ t, exec (.loadComplete id) s = .next t ∧ Spec.unitTakes t o sg bs ∧ t.ops.find? id = none ∧
          (Spec.lastUnit s id o → (t.thread o.lane).ld = (s.thread o.lane).ld - 1) ∧ Spec.sameMemory s t) ∧
      (x.stale.find? o.core = none → (x.l1.find? o.core).isSome → s.poisoned pa o.size = true → (s.thread o.lane).live = true → dst ≠ [] →
        ∃ t, exec (.loadComplete id) s = .next t ∧ t.ops.find? id = none ∧
          (t.thread o.lane).loads = (s.thread o.lane).loads ++
            [{ info := { cause := .poison, kind := .load, addr := o.va }, dst, input := inp.isSome }] ∧
          (t.thread o.lane).ld = (s.thread o.lane).ld - 1 ∧
          (t.die (coreDie o.core)).consume = (s.die (coreDie o.core)).consume + 1 ∧ (∀ l n, t.v l n = s.v l n) ∧ Spec.sameMemory s t) ∧
      (x.stale.find? o.core = none → x.l1.find? o.core = none → Spec.nothing (.loadComplete id) s)) ∧
    (∀ id o pa, Spec.mayPerform s id o pa → o.kind.plainRead = false → o.atDirectory = false →
      let x := s.sector (pa / 64)
      let e := if o.kind.returns then Instr.loadComplete id else Instr.storeComplete id
      let old := s.rdN pa o.size
      let owns := x.l1.find? o.core = some .m ∨ x.l1.find? o.core = some .e
      (owns → x.clearFor o.scope o.core = true → (o.kind.reads = true → s.poisoned pa o.size = false) → Spec.noCapture s o.launch →
        ∃ t, exec e s = .next t ∧
          (∀ bs, rmwBytes o.kind old o.data = some bs → Spec.bytesAre t pa bs ∧ Spec.memoryKept s t pa bs.length ∧
            (¬(o.hint = 4 ∧ o.level = 5) → (t.sector (pa / 64)).l1.find? o.core = some .m)) ∧
          (rmwBytes o.kind old o.data = none → Spec.sameMemory s t) ∧ Spec.unitTakes t o false old ∧ t.ops.find? id = none) ∧
      (¬owns ∨ x.clearFor o.scope o.core = false → Spec.nothing e s)) ∧
    (∀ id o pa, Spec.onItsWay s id o pa → s.relReady id o = false → o.kind.plainRead = false → o.atDirectory = false →
      let x := s.sector (pa / 64)
      let e := if o.kind.returns then Instr.loadComplete id else Instr.storeComplete id
      (o.scope = .sys ∨ o.kind.isRead = true → Spec.nothing e s) ∧
      (o.scope ≠ .sys → o.kind.isRead = false → x.l1.find? o.core = some .m ∨ x.l1.find? o.core = some .e →
        x.clearFor o.scope o.core = true → (o.kind.reads = true → s.poisoned pa o.size = false) → Spec.noCapture s o.launch →
        ∃ t, exec e s = .next t ∧
          (∀ bs, rmwBytes o.kind (s.rdN pa o.size) o.data = some bs → Spec.bytesAre t pa bs ∧ Spec.memoryKept s t pa bs.length) ∧
          t.ops.find? id = none ∧
          ∃ r ∈ t.rels, r.lane = o.lane ∧ r.core = o.core ∧ r.scope = o.scope ∧ r.rel = true ∧ r.space = o.space ∧ r.size = o.size ∧
            r.last = true)) ∧
    (∀ id o pa, Spec.mayPerform s id o pa → o.atDirectory = true →
      let e := if o.kind.returns then Instr.loadComplete id else Instr.storeComplete id
      let old := s.rdN pa o.size
      let x := s.sector (pa / 64)
      let ready := x.l1 = [] ∧ x.l2own = some (coreDie o.core) ∧ (∀ d ∈ x.l2s, d = coreDie o.core) ∧ x.clearFor o.scope o.core = true ∧
        s.entryLost (pocLevel o.scope) o.core (pa / 64) = false
      (ready → s.poisoned pa o.size = false → Spec.noCapture s o.launch →
        ∃ t, exec e s = .next t ∧
          (∀ bs, rmwBytes o.kind old o.data = some bs → Spec.bytesAre t pa bs ∧ Spec.memoryKept s t pa bs.length ∧
            (t.sector (pa / 64)).l2dirty = some (coreDie o.core)) ∧
          (rmwBytes o.kind old o.data = none → Spec.sameMemory s t) ∧ Spec.unitTakes t o false old ∧
          (t.sector (pa / 64)).l1 = [] ∧ t.ops.find? id = none) ∧
      (¬ready → Spec.nothing e s)) ∧
    (∀ id o pa, s.ops.find? id = some o → o.live = true → o.rejected = false → o.space = .phys pa → Spec.plainHbm s pa → o.level ≤ 4 →
      (s.answered o pa = true ∨ s.entryLost o.level o.core (pa / 64) = true → Spec.nothing (.directoryRequest id) s) ∧
      (s.answered o pa = false → s.entryLost o.level o.core (pa / 64) = false → s.heldFor (pa / 64) (some o.lane) = false →
        let x := s.sector (pa / 64)
        let k := o.level
        let own := o.kind.plainRead = false
        let d := x.dir.find? (dirKey k o.core)
        let far := o.atDirectory = true ∧ k < pocLevel o.scope
        let here := (if o.kind.plainRead then d ≠ none else d = some .x) ∨ k = 4
        let missed := if k = 0 ∧ x.l1.find? o.core = none then 1 else 0
        (¬own → x.oldBelow (dirKey k o.core) o.core = none) →
        (far ∨ ¬here → k ≠ 1 →
          ∃ t, exec (.directoryRequest id) s = .next t ∧ t.ops.find? id = some { o with level := k + 1 } ∧
            (t.core o.core).l1miss = (s.core o.core).l1miss + missed ∧ t.sectors = s.sectors ∧ Spec.sameMemory s t) ∧
        (far ∨ ¬here → k = 1 →
          ∃ t, exec (.directoryRequest id) s = .next t ∧ t.sectors = s.sectors ∧ Spec.sameMemory s t ∧
            t.ops.find? id = some (if o.entry = true ∨ s.entryFree (coreDie o.core) (sliceOf pa) id none = true
              then { o with level := 2, entry := true } else { o with rejected := true, rejects := o.rejects + 1 })) ∧
        (¬far → here → s.pathLost (if o.atDirectory then pocLevel o.scope else k) o.core (pa / 64) (!o.kind.plainRead) = false →
          (own → x.stale = [] ∧ x.l2stale = []) →
          ∃ t, exec (.directoryRequest id) s = .next t ∧
            t.ops.find? id = some { o with level := 5, entry := o.entry && (o.atDirectory || !o.kind.plainRead) } ∧
            (o.atDirectory = true → (t.sector (pa / 64)).l1 = [] ∧ (t.sector (pa / 64)).l2own = some (coreDie o.core)) ∧
            (o.atDirectory = false → ((t.sector (pa / 64)).l1.find? o.core).isSome) ∧
            (o.atDirectory = false → own → (t.sector (pa / 64)).l1.map Prod.fst = [o.core]) ∧ Spec.sameMemory s t))) ∧
    (∀ id o pa, s.ops.find? id = some o → o.live = true → o.rejected = true → o.space = .phys pa →
      let die := coreDie o.core
      let room := s.entryFree die (sliceOf pa) id o.agedAt = true
      (room → ∃ t, exec (.requestRepresent id) s = .next t ∧
        t.ops.find? id = some { o with rejected := false, agedAt := none, level := 2, entry := true } ∧
        (t.die die).memAged = (s.die die).memAged + (if o.agedAt.isSome then 1 else 0)) ∧
      (¬room → o.agedAt = none → ∃ t, exec (.requestRepresent id) s = .next t ∧
        t.ops.find? id = some { o with rejects := o.rejects + 1, agedAt := if 64 ≤ o.rejects + 1 then some s.time else none } ∧
        (t.die die).memRej = (s.die die).memRej + 1) ∧
      (¬room → o.agedAt.isSome → Spec.nothing (.requestRepresent id) s)) ∧
    (∀ sec core, ((s.sector sec).stale.find? core).isSome →
      ∃ t, exec (.forwardedRequest sec core) s = .next t ∧ ((t.sector sec).stale.find? core) = none ∧
        (∀ c, c ≠ core → (t.sector sec).stale.find? c = (s.sector sec).stale.find? c) ∧ Spec.sameMemory s t) ∧
    (∀ sec core, (s.sector sec).stale.find? core = none → ((s.sector sec).l2stale.find? (coreDie core)).isSome →
      ∃ t, exec (.forwardedRequest sec core) s = .next t ∧ (t.sector sec).l2stale.find? (coreDie core) = none ∧
        (∀ d, d ≠ coreDie core → (t.sector sec).l2stale.find? d = (s.sector sec).l2stale.find? d) ∧ Spec.sameMemory s t) ∧
    (∀ line k, k < 4 → (s.sector (4 * line + k)).msc.isSome →
      ∃ t, exec (.mscWriteback line) s = .next t ∧ (∀ j, j < 4 → (t.sector (4 * line + j)).msc = none) ∧
        (t.die (s.home (256 * line))).mscWb = (s.die (s.home (256 * line))).mscWb + 1 ∧ Spec.sameMemory s t)

/-- R267, R268, R293, R357, R358: HOST_SNOOP by an agent of the port of an enabled window and REMOTE_ACCESS over an open port act coherently on
memory, a write or an addition leaving no cached copy, a read no exclusive one; host memory outside the windows and other packages' memory
change without the part.
The model's own choices in it: log entries 1 and 19. -/
def Obligations.OutsideEvents : Prop :=
  ∀ s : State, s.sound = true →
    (∀ (x : ExtAccess) (e : Instr), s.homeLost (x.pa / 64) = false → s.heldFor (x.pa / 64) none = false → (s.sector (x.pa / 64)).win = none →
      (s.sector (x.pa / 64)).gone = none →
      (e = .hostSnoop x ∧ s.paKind x.pa = .window x.port ∧ (s.hostPort x.port).recovery = none) ∨
        (e = .remoteAccess x ∧ s.paKind x.pa = .hbm ∧ (s.spanPort x.port).enabled = true ∧ (s.spanPort x.port).recovery = none) →
      (∀ bs, x.kind = .write bs → bs ≠ [] → x.pa % 64 + bs.length ≤ 64 →
        ∃ t, exec e s = .next t ∧ Spec.landed s t x.pa bs) ∧
      (∀ v, x.kind = .add v → x.pa % 8 = 0 →
        ∃ t, exec e s = .next t ∧ Spec.landed s t x.pa (bytesOfNat 8 ((s.rdNat x.pa 8 + v.toNat) % 2 ^ 64))) ∧
      (x.kind = .read → ∃ t, exec e s = .next t ∧ Spec.sharedOut s t x.pa)) ∧
    (∀ (x : ExtAccess) (e : Instr) (u : State),
      (e = .hostSnoop x ∧ s.paKind x.pa = .host x.port ∧ u = s.hostKeeps (x.pa / 64)) ∨ (e = .remoteAccess x ∧ s.paKind x.pa = .span ∧ u = s) →
      (∀ bs, x.kind = .write bs → bs ≠ [] → x.pa % 64 + bs.length ≤ 64 → exec e s = .next (u.wrN x.pa bs)) ∧
      (∀ v, x.kind = .add v → x.pa % 8 = 0 →
        exec e s = .next (u.wrN x.pa (bytesOfNat 8 ((s.rdNat x.pa 8 + v.toNat) % 2 ^ 64)))))

/-- R274, R393 to R396: a port counts its nacks, enters recovery with the time, loses its link and comes back
once no flit of it is held; RECOVERY_BOUND does nothing for a port
that is not in recovery or has not been for 50 ms; then an access that the port holds ends: a load's or an atomic's thread keeps FABRIC_LOST for the
word that needs its value.
The model's own choices in it: log entries 1, 8, 19 and 46. -/
def Obligations.PortEvents : Prop :=
  ∀ s : State,
    (∀ n, n < 48 → (s.spanPort n).enabled = true → let p := s.spanPort n
      (∃ t, exec (.spanNack n) s = .next t ∧ Spec.spanPortIs s t n { p with nacks := p.nacks + 1 }) ∧
      (p.recovery = none → ∃ t, exec (.spanRecoveryStart n) s = .next t ∧ Spec.spanPortIs s t n { p with recovery := some s.time }) ∧
      (p.recovery = none ∨ p.linkDown = false →
        ∃ t, exec (.spanLinkDrop n) s = .next t ∧
          Spec.spanPortIs s t n { p with recovery := p.recovery <|> some s.time, linkDown := true })) ∧
    (∀ n t0, (s.spanPort n).recovery = some t0 →
      (s.spanOpen = true ∨ (∀ e ∈ s.ops, s.flitHeld .span e.1 e.2 = false) → ∃ t, exec (.spanRecoveryEnd n) s = .next t ∧
        Spec.spanPortIs s t n { s.spanPort n with recovery := none, linkDown := false }) ∧
      (s.spanOpen = false → (∃ e ∈ s.ops, s.flitHeld .span e.1 e.2 = true) → Spec.nothing (.spanRecoveryEnd n) s)) ∧
    (∀ n, n < 2 → let p := s.hostPort n
      (p.recovery = none ∨ p.linkDown = false → ∃ t, exec (.hostLinkDrop n) s = .next t ∧
        Spec.hostPortIs s t n { p with recovery := p.recovery <|> some s.time, linkDown := true }) ∧
      (p.recovery = none → ∃ t, exec (.hostAgentUnanswered n) s = .next t ∧ Spec.hostPortIs s t n { p with recovery := some s.time })) ∧
    (∀ n t0, (s.hostPort n).recovery = some t0 →
      ((∀ e ∈ s.ops, s.flitHeld (.host n) e.1 e.2 = false) → Spec.tablesFresh s → ∃ t, exec (.hostLinkRecoveryEnd n) s = .next t ∧
        Spec.hostPortIs s t n { s.hostPort n with recovery := none, linkDown := false }) ∧
      ((∃ e ∈ s.ops, s.flitHeld (.host n) e.1 e.2 = true) → Spec.nothing (.hostLinkRecoveryEnd n) s)) ∧
    (∀ n, s.recoveryOf n = none → Spec.nothing (.recoveryBound n) s) ∧
    (∀ n t0, s.recoveryOf n = some t0 →
      (s.time < t0 + 50000000 * 17 → Spec.nothing (.recoveryBound n) s) ∧
      (t0 + 50000000 * 17 ≤ s.time → ∃ t, exec (.recoveryBound n) s = .next t ∧
        ∀ p id o pa, n = 48 + p → s.ops = [(id, o)] → s.copies = [] → (∀ c ∈ s.cores, c.2.tops = [] ∧ c.2.mma = []) →
          (∀ g ∈ s.groups, ∀ th ∈ g.2.threads, th.2.q = []) → o.live = true → o.space = .phys pa → s.paKind pa = .window p →
          s.answered o pa = false → o.kind.staged = false →
          rmwBytes o.kind (s.spaceRead o.space o.size).1 o.data = none → (s.group? o.lane.g).isSome → o.lane.sh = false →
          (s.thread o.lane).live = true → opDst o.kind ≠ [] →
          t.ops = [] ∧ (t.thread o.lane).loads = (s.thread o.lane).loads ++
            [{ info := { cause := .fabricLost, kind := accKind o.kind, addr := o.va }, dst := opDst o.kind,
               input := (opInput o.kind).isSome }] ∧ Spec.sameMemory s t))

namespace Sys2Proof.Spec

open Sys2Proof Sys2Proof.Machine

/-- A copy on its engine, in flight and served. -/
def copying (s : State) (k : Nat) (c : CopyOp) : Prop :=
  s.copies.find? k = some c ∧ c.st = .moving ∧ s.copyServed c = true ∧ c.off ≤ c.len ∧ c.lane.sh = false

/-- A copy has ended in a state: its descriptor, its handle, and CP of its thread. -/
def copyEnded (s t : State) (k : Nat) (c : CopyOp) (st : CopySt) (hs : HState) (resumable : Bool) : Prop :=
  (∃ y : CopyOp, t.copies.find? k = some { y with st, counted := false, resumable } ∧ y.dst = c.dst ∧ y.len = c.len) ∧
  (∀ e ∈ (t.die c.die).handles, e.kind = 1 → e.seq = c.seq → e.state = hs) ∧
  (s.thread? c.lane).isSome ∧ (t.thread c.lane).cp = (s.thread c.lane).cp - (if c.counted then 1 else 0)

/-- The offsets of a copy's steps below an end, from an offset on, in order. -/
def copySteps (c : CopyOp) (e : Nat) : Nat → Nat → List Nat
  | _, 0 => []
  | o, n + 1 => if e ≤ o then [] else o :: copySteps c e (o + c.step o) n

/-- The state once a copy's steps below an offset are made. -/
def copyTurn (s : State) (c : CopyOp) (e : Nat) : State :=
  (copySteps c e c.off (c.len + 1)).foldl (fun u o => (u.copyStep c o).2) s

/-- The source of a step is in reach in HBM, and no sector of it is poisoned or held newer elsewhere (R180, R181): byte `j` of the copy's source is
at `p j`. -/
def copySource (u : State) (c : CopyOp) (p : Nat → Nat) (o : Nat) : Prop :=
  let n := c.step o
  (∀ k, k < n → p (o + k) = p o + k) ∧
  u.copyResolve c (c.src + BitVec.ofNat 64 o) n .rd = (.ok (.phys (p o)), u) ∧ plainHbm u (p o) ∧
  u.engineMay c.die false (.phys (p o)) = true ∧ u.poisoned (p o) n = false ∧ (c.rel = true ∨ (u.sector (p o / 64)).dirty = false) ∧
  (u.sector (p o / 64)).l2stale.find? c.die = none

/-- Every step below an end finds its source and its destination in HBM, byte `j` of the copy at `p j` and `q j`; no two bytes meet. -/
def copyPlaces (s : State) (c : CopyOp) (e : Nat) (p q : Nat → Nat) : Prop :=
  (∀ o ∈ copySteps c e c.off (c.len + 1),
    let u := copyTurn s c o
    let n := c.step o
    copySource u c p o ∧ (∀ k, k < n → q (o + k) = q o + k) ∧
    let v := u.engineReads c.die 0 (.phys (p o))
    v.copyResolve c (c.dst + BitVec.ofNat 64 o) n .wr = (.ok (.phys (q o)), v) ∧ plainHbm v (q o) ∧
    v.engineMay c.die true (.phys (q o)) = true) ∧
  (∀ i j, c.off ≤ i → i < e → c.off ≤ j → j < e → p i ≠ q j ∧ (i ≠ j → q i ≠ q j))

/-- The bytes of a copy from its offset to an end have moved, and no other byte of memory changed. -/
def copyLanded (s t : State) (c : CopyOp) (e : Nat) (p q : Nat → Nat) : Prop :=
  (∀ j, c.off ≤ j → j < e → t.byteAt (q j) = s.byteAt (p j)) ∧
  ∀ a, (∀ j, c.off ≤ j → j < e → a ≠ q j) → t.byteAt a = s.byteAt a

/-- What stops a copy at an offset: its source or its destination does not translate, or its source is poisoned (R181). -/
def copyFails (u : State) (c : CopyOp) (p : Nat → Nat) (o : Nat) (f : FaultInfo) : Prop :=
  let a := c.src + BitVec.ofNat 64 o
  let b := c.dst + BitVec.ofNat 64 o
  (∃ x w, u.copyResolve c a (c.step o) .rd = (.error x, w) ∧ w.mem = u.mem ∧ w.groups = u.groups ∧ f = { cause := x.cause, kind := .load, addr := a }) ∨
  (∃ x w, copySource u c p o ∧
    (u.engineReads c.die 0 (.phys (p o))).copyResolve c b (c.step o) .wr = (.error x, w) ∧ w.mem = u.mem ∧ w.groups = u.groups ∧
    f = { cause := x.cause, kind := .store, addr := b }) ∨
  (u.copyResolve c a (c.step o) .rd = (.ok (.phys (p o)), u) ∧ u.engineMay c.die false (.phys (p o)) = true ∧
    u.poisoned (p o) (c.step o) = true ∧ f = { cause := .poison, kind := .load, addr := a })

/-- The end of the destination sector that a copy has begun to write (R186). -/
def sectorEnd (c : CopyOp) : Nat :=
  let at' := (c.dst.toNat + c.off) % 64
  if c.off = 0 ∨ at' = 0 then c.off else min c.len (c.off + (64 - at'))

/-- A transfer may take effect: nothing earlier on its tiles or of its performer's accesses, every sector in reach (R203, R278, R281). -/
def transferReady (s : State) (core : Nat) (o : TileOp) : Prop :=
  (s.core core).tops.find? (fun x => x.id == o.id) = some o ∧ s.tileMay core o = true

/-- The matrix engine streams an operation that may go on. -/
def streaming (s : State) (core : Nat) (o : MmaOp) : Prop :=
  (s.core core).mma.head? = some o ∧ (s.core core).mmaReady o = true ∧ s.placesOpen (coreDie core) false o.places = true

/-- The streamed operation may end: nothing its performer must see first is left, and its launch runs (R203, R278, R281). -/
def mayEnd (s : State) (core : Nat) (o : MmaOp) : Prop :=
  streaming s core o ∧ s.tileOrder o.lanes o.id false o.places = true ∧ s.launchRuns o.launch = true

/-- The sectors an operation touches lie in HBM, and the core holds nothing older of them. -/
def plainPlaces (s : State) (core : Nat) (pl : AMap TPlace) : Prop :=
  AMap.sorted pl = true ∧ ∀ e ∈ pl, ∃ pa, e.2.space = .phys pa ∧ pa % 64 = 0 ∧ plainHbm s pa ∧
    (s.sector (pa / 64)).stale.find? core = none ∧ (s.sector (pa / 64)).l2stale.find? (coreDie core) = none ∧
    (e.2.seen = [] ∨ ∀ j, j < 64 → e.2.seen.length = 64 ∧ e.2.seen.getD j 0 = s.byteAt (pa + j))

/-- Is a sector of an operation poisoned? -/
def badPlace (s : State) (p : TPlace) : Bool :=
  match p.space with
  | .phys pa => s.poisoned pa 64
  | .aper _ _ | .win _ _ _ => false

/-- The bytes of the sector that an operation keeps under a key. -/
def sectorBytes (s : State) (pl : AMap TPlace) (k : Nat) : Option (List Byte) :=
  (pl.find? k).bind fun p => match p.space with
    | .phys pa => some ((List.range 64).map fun j => s.byteAt (pa + j))
    | .aper _ _ | .win _ _ _ => none

/-- Bytes at an address of an operation. -/
def dataAt (s : State) (pl : AMap TPlace) (va : DWord) (n : Nat) : Option (List Byte) :=
  (sectorBytes s pl (va.toNat / 64)).map fun b => (b.drop (va.toNat % 64)).take n

/-- The flags that the blocks among an operation's sectors raise when they are checked (R63). -/
def blockFlags (s : State) (check xf tab : Nat) (counts : Bool) (pl : AMap TPlace) : Word :=
  pl.foldl (fun f e => match blkCheck check ((sectorBytes s pl e.1).getD []) xf tab counts with
    | .nan x => f ||| x
    | .decode | .fault => f) 0

/-- No block among an operation's sectors fails its check so that the operation faults (R63). -/
def blocksPass (s : State) (check xf tab : Nat) (counts : Bool) (pl : AMap TPlace) : Prop :=
  ∀ e ∈ pl, blkCheck check ((sectorBytes s pl e.1).getD []) xf tab counts ≠ .fault

/-- Values of elements of a format, and the bytes of one (R205). -/
def fmtSize (e : Nat) : Nat := if e = 1 then 64 else if e = 4 then 4 else 2
def fmtPar (e : Nat) : FPar := if e = 2 then parBf16 else if e = 3 then parF16 else parF32

/-- The exact zero. -/
def nought : FVal := .fin false 0 0

/-- TileSource of R205: the offset of element (i, j), and its place in a block; nothing is ZEROELEM. -/
def tileAt (o : TileOp) (t : PTable) (i j : Nat) : Option (DWord × Nat) :=
  let row : Int := o.va.lo.toInt + i
  let col : Int := o.va.hi.toInt + j
  let at' := fun (row : Int) =>
    if recEfmt o.br = 1 then (BitVec.ofInt 64 (row / 48 * 64 + col * (recStride2 o.br).toInt), (row % 48).toNat)
    else (BitVec.ofInt 64 (row * (recStride1 o.br).toInt + col * (recStride2 o.br).toInt), 0)
  if o.kind = .tldY ∧ o.xf = 2 then
    (if row < 0 ∨ (t.len : Int) ≤ row then none else some (at' (t.ent.get 0 row.toNat).toNat))
  else some (at' row)

/-- The value TLD finds for element (i, j) of a Y tile (R63, R64, R205). -/
def yValue (s : State) (o : TileOp) (t : PTable) (i j : Nat) : Option FVal :=
  match tileAt o t i j with
  | none => some nought
  | some (off, el) =>
    let e := recEfmt o.br
    if o.xf = 2 ∧ (off.toInt < 0 ∨ (recExtent o.br : Int) < off.toInt + fmtSize e) then some nought
    else match recCheckOff o.br off (fmtSize e) false with
      | .outside => some nought
      | .bad _ => none
      | .at va =>
        if e = 1 then (sectorBytes s o.places (va.toNat / 64)).bind fun b => match blkCheck (recCheck o.br) b 0 0 false with
          | .decode => some (blkElement b el)
          | .nan _ => some (.nan false)
          | .fault => none
        else (dataAt s o.places va (fmtSize e)).map fun bs => unpackF (fmtPar e) (wordOfBytes bs)

/-- The same under H16: entry i mod 16 of the transform of its 16 rows (R66). -/
def yLoaded (s : State) (o : TileOp) (t : PTable) (i j : Nat) : Option FVal :=
  if o.xf = 1 then ((List.range 16).mapM fun k => yValue s o t (i / 16 * 16 + k) j).map fun xs => h16Entry xs (i % 16)
  else yValue s o t i j

/-- The bits TLD finds for element (i, j) of a Z tile. -/
def zLoaded (s : State) (o : TileOp) (i j : Nat) : Option Word :=
  match tileAt o { len := 0, ent := [] } i j with
  | none => none
  | some (off, _) => match recCheckOff o.br off 4 false with
    | .outside => some 0
    | .bad _ => none
    | .at va => (dataAt s o.places va 4).map fun bs => BitVec.ofNat 32 (wordOfBytes bs)

/-- Entry `k` that PTLD finds. -/
def entryLoaded (s : State) (o : TileOp) (k : Nat) : Option (BitVec 16) :=
  match recCheckOff o.br (o.va + BitVec.ofNat 64 (2 * k)) 2 false with
  | .outside => some 0
  | .bad _ => none
  | .at va => (dataAt s o.places va 2).map fun bs => BitVec.ofNat 16 (wordOfBytes bs)

/-- Entry `k` of TSUM over an r × c tile: row entries, then column entries (R212). -/
def sumEntry (sums : Bool) (r c : Nat) (z : ZTile) (k : Nat) : Word :=
  let v := fun n => f32Val (z.els.get 0 n)
  let total := fun (chk : Nat) (ns : List Nat) =>
    if sums then roundF32 (sumExact (ns.map v)) else roundF32 (sumExact (v chk :: ns.map fun n => (v n).neg))
  if k < 64 then (if k < r then total (4096 + k) ((List.range c).map fun j => 64 * k + j) else 0)
  else if k - 64 < c then total (4160 + (k - 64)) ((List.range r).map fun i => 64 * i + (k - 64)) else 0

/-- The Z column of source value `j` of a QCV block that starts at column `c0` (R213). -/
def qcvColumn (o : TileOp) (t : PTable) (c0 j : Nat) : Option Nat :=
  if o.xf = 2 then
    (if c0 + j < t.len ∧ (t.ent.get 0 (c0 + j)).toNat < 64 then some (t.ent.get 0 (c0 + j)).toNat else none)
  else if c0 + j < 64 then some (c0 + j) else none

/-- The block QCV makes of row `a + i`, with its flags (R68, R213). -/
def qcvBlock (o : TileOp) (t6 : Bool) (z : ZTile) (t : PTable) (i : Nat) : List Byte × Word :=
  let a := o.vb.toNat % 64
  let c0 := o.vb.toNat / 65536
  quantise ((List.range 48).map fun j => match qcvColumn o t c0 j with
    | some c => f32Val (z.els.get 0 (64 * (a + i) + c))
    | none => nought) t6 o.xf o.tab.val

/-- The bytes TSV stores of an FP32 element in a format: rounded RNE (R205). -/
def stored (e : Nat) (w : Word) : List Byte :=
  bytesOfNat (fmtSize e) (if e = 4 then w.toNat else (fcvtBits (fmtPar e) parF32 .rne w.toNat).1)

/-- What a transfer to memory would store, in its order: offset and bytes (R205, R212, R213). -/
def outputs (o : TileOp) (z : ZTile) (t : PTable) : List (DWord × List Byte) :=
  let r := o.vb.toNat % 128
  let c := o.vb.toNat / 256 % 128
  match o.kind with
  | .tsv => ((List.range r).map fun i => (List.range c).filterMap fun j =>
      (tileAt o t i j).map fun x => (x.1, stored (recEfmt o.br) (z.els.get 0 (64 * i + j)))).flatten
  | .tsum sums => (List.range 128).map fun k => (o.va + BitVec.ofNat 64 (4 * k), bytesOfNat 4 (sumEntry sums r c z k).toNat)
  | .qcv t6 => (List.range c).map fun (i : Nat) =>
      (o.va + BitVec.ofInt 64 ((i : Int) * (recStride1 o.br).toInt), (qcvBlock o t6 z t i).1)
  | .tldZ | .tldY | .ptld => []

/-- The stores a transfer makes: those inside its record, at their addresses (R40, R201). -/
def tileStores (o : TileOp) (z : ZTile) (t : PTable) : List (DWord × List Byte) :=
  (outputs o z t).filterMap fun e => match recCheckOff o.br e.1 (match o.kind with
    | .qcv _ => 64
    | .tsum _ => 4
    | .tsv | .tldZ | .tldY | .ptld => fmtSize (recEfmt o.br)) true with
    | .at va => some (va, e.2)
    | .outside | .bad _ => none

/-- Store number `n` of a transfer is still to be made, at a physical address. -/
def storeAt (o : TileOp) (l : List (DWord × List Byte)) (n pa : Nat) (bs : List Byte) : Prop :=
  o.early.contains n = false ∧ ∃ va p x, l[n]? = some (va, bs) ∧ o.places.find? (va.toNat / 64) = some p ∧ p.space = .phys x ∧
    pa = x + va.toNat % 64

/-- The Z entries a transfer reads (R205, R212, R213). -/
def zRead (o : TileOp) (t : PTable) (n : Nat) : Prop :=
  let r := o.vb.toNat % 128
  let c := o.vb.toNat / 256 % 128
  match o.kind with
  | .tsv => ∃ i j, i < r ∧ j < c ∧ n = 64 * i + j
  | .tsum sums => (∃ i j, i < r ∧ j < c ∧ n = 64 * i + j) ∨
      (sums = false ∧ ((∃ i, i < r ∧ n = 4096 + i) ∨ ∃ j, j < c ∧ n = 4160 + j))
  | .qcv _ => ∃ i j k, i < c ∧ j < 48 ∧ qcvColumn o t (o.vb.toNat / 65536) j = some k ∧ n = 64 * (o.vb.toNat % 64 + i) + k
  | .tldZ | .tldY | .ptld => False

/-- A transfer has left the engine, and its thread counts one less. -/
def transferGone (s t : State) (core : Nat) (o : TileOp) (l : Lane) : Prop :=
  (∀ x ∈ (t.core core).tops, x.id ≠ o.id) ∧ (t.thread l).tl = (s.thread l).tl - 1

/-- A launch that a consumed error marks but does not replay (R376). -/
def notReplayed (s : State) (launch : Nat) : Prop :=
  ∀ x, s.launch? launch = some x → x.replayable = false ∧ x.state ≠ .replaying

/-- The offset of A element (i, q) of an MMA, and its place in a block (R208). -/
def aOffset (o : MmaOp) (i q : Nat) : DWord × Nat :=
  let p := o.koff + q
  let e := recEfmt o.arec
  let step := fun (major minor : Nat) => o.aoff + BitVec.ofInt 64 ((major : Int) * o.astr.toInt + (minor : Int))
  if e = 1 then (step i (p / 48 * 64), p % 48)
  else if o.alay then (step p (i * fmtSize e), 0) else (step i (p * fmtSize e), 0)

/-- The parts of A element (i, q) (R58, R63, R64, R210). -/
def aTerm (s : State) (o : MmaOp) (i q : Nat) : List FVal :=
  let e := recEfmt o.arec
  let (off, el) := aOffset o i q
  let v : FVal := match recCheckOff o.arec off (fmtSize e) false with
    | .outside | .bad _ => nought
    | .at va =>
      if e = 1 then (match sectorBytes s o.places (va.toNat / 64) with
        | some b => (match blkCheck (recCheck o.arec) b o.xf o.tab.val true with
          | .decode => blkElement b el
          | .nan _ | .fault => .nan false)
        | none => .nan false)
      else unpackF (fmtPar e) (wordOfBytes ((dataAt s o.places va (fmtSize e)).getD []))
  if e = 4 then [ofI20 (splitF32 v).1, ofI20 (splitF32 v).2] else [ofI20 (toI20 v)]

/-- The parts of Y element (q, j) (R58, R210). -/
def yTerm (o : MmaOp) (y : YTile × YTile) (q j : Nat) : List FVal :=
  ofI20 (y.1.els.get 0 (64 * q + j)) :: (if o.ypair then [ofI20 (y.2.els.get 0 (64 * q + j))] else [])

/-- Every product of a part with a part. -/
def products (a y : List FVal) : List FVal := (a.map fun x => y.map fun z => (mulVal x z).1).flatten

/-- MmaElement of R69 after `n` steps: each adds the exact sum of the terms of 16 K positions to the element and rounds once. -/
def accumulated (terms : Nat → List FVal) (k : Nat) (start : Word) : Nat → Word
  | 0 => start
  | n + 1 => roundF32 (sumExact (f32Val (accumulated terms k start n) ::
      ((List.range 16).filterMap fun i => if 16 * n + i < k then some (terms (16 * n + i)) else none).flatten))

/-- What an MMA leaves in an entry of its Z tile: products, row check sums, column check sums; every other entry is untouched (R210). -/
def zAfter (o : MmaOp) (a y : Nat → Nat → List FVal) (z : ZTile) (e : Nat) : Word :=
  let start : Word := if o.ovw then 0 else z.els.get 0 e
  let done := fun (terms : Nat → List FVal) => accumulated terms o.k start ((o.k + 15) / 16)
  let ye := fun q => f32Val (roundF32 (sumExact ((List.range o.n).map fun j => sumExact (y q j))))
  let ae := fun q => f32Val (roundF32 (sumExact ((List.range o.m).map fun i => sumExact (a i q))))
  if e < 4096 then
    (if e / 64 < o.m ∧ e % 64 < o.n then done fun q => products (a (e / 64) q) (y q (e % 64)) else z.els.get 0 e)
  else if o.chk = true ∧ e < 4160 ∧ e - 4096 < o.m then done fun q => [(mulVal (sumExact (a (e - 4096) q)) (ye q)).1]
  else if o.chk = true ∧ 4160 ≤ e ∧ e - 4160 < o.n then done fun q => [(mulVal (ae q) (sumExact (y q (e - 4160)))).1]
  else z.els.get 0 e

/-- What a recorded input holds when its thread commits: the value it returned, or memory's bytes if a conflict touched it (R222, step 2). -/
def inputNow (s : State) (i : RInput) : DWord :=
  match i.mark, i.space with
  | true, .phys pa => BitVec.ofNat 64 (wordOfBytes ((List.range i.size).map fun j => s.byteAt (pa + j)))
  | _, _ => i.val

/-- The value a tag stands for: its input plus the constant, or with each addend in order, each addition rounded in its recorded mode (R222,
step 3). -/
def tagged (rg : Region) (s : State) (t : SymTag) : DWord :=
  let v := (rg.inputs[t.input]?).elim 0 (inputNow s)
  match t.chain with
  | .none => v
  | .int c => if t.wide then v + c else (v.lo + c.lo).zeroExtend 64
  | .flt w as =>
    let f := if w then parF64 else parF32
    BitVec.ofNat 64 (as.foldl (fun x a => let y := a.val.toNat % 2 ^ f.width
      (if a.neg then fsubBits f a.rm x y else faddBits f a.rm x y).1) (v.toNat % 2 ^ f.width))

/-- Does an integer constraint hold over the values of its tag now (R222, step 4)? -/
def constraintNow (rg : Region) (s : State) (c : ICond) (w : Bool) (k : RCon) : Bool :=
  let a := if k.tagFirst then tagged rg s k.tag else k.other
  let b := if k.tagFirst then k.other else tagged rg s k.tag
  match c with
  | .eq => decide (uns w a = uns w b)
  | .ne => decide (uns w a ≠ uns w b)
  | .lts => decide (num w true a < num w true b)
  | .les => decide (num w true a ≤ num w true b)
  | .ltu => decide (uns w a < uns w b)
  | .leu => decide (uns w a ≤ uns w b)

/-- The bytes a recorded store writes. -/
def storedNow (rg : Region) (s : State) (y : RStore) : List Byte :=
  match y.sym with
  | some t => (List.range y.data.length).map fun j => (tagged rg s t).extractLsb' (8 * j) 8
  | none => y.data

/-- The registers a tag stands in. -/
def tagDst (e : Nat × SymTag) : List Nat := if e.2.wide then [e.1, e.1 + 1] else [e.1]

/-- The earliest commit of a core may be performed: its thread's region is open and outside DMR, every earlier access of the thread is performed,
no early release is to be waited for, and every sector of it stands in HBM and answers. -/
def mayCommit (s : State) (core : Nat) (l : Lane) (r : List Lane) (rg : Region) (ft : DWord) : Prop :=
  s.sound = true ∧ (s.core core).commits = l :: r ∧ (s.thread l).region = some rg ∧ l.sh = false ∧ (s.grp l.g).core = core ∧
  (s.grp l.g).prot = false ∧ s.thread? l.shadow = none ∧ l.t < (s.grp l.g).width ∧ (s.thread l).hold = some { kind := .commit, ft } ∧
  (s.die (coreDie core)).fenced = false ∧ s.releasable l rg.scope = true ∧ s.regionWaits l rg = false ∧ s.regionOpen core rg = true ∧
  noCapture s (s.grp l.g).launch ∧
  (∀ i ∈ rg.inputs, 0 < i.size ∧ ∃ pa, i.space = .phys pa ∧ plainHbm s pa ∧ pa % 64 + i.size ≤ 64 ∧ (i.mark = true → s.poisoned pa i.size = false)) ∧
  (∀ y ∈ rg.stores, ∃ pa, y.space = .phys pa ∧ plainHbm s pa ∧ pa % 64 + y.data.length ≤ 64)

/-- The region's inputs that a conflict touched can be told apart from what it computed (R221). -/
def mayReplay (rg : Region) : Prop := ∀ i ∈ rg.inputs, i.mark = true → rg.untrackable = false ∧ i.trackable = true

/-- The commit has aborted: the thread stands at the target with what RBEGIN saw, its place in the engine is free, and memory is as it was. -/
def commitAborted (s t : State) (core : Nat) (l : Lane) (r : List Lane) (rg : Region) (reason : Nat) : Prop :=
  (t.core core).commits = r.filter (· != l) ∧ (t.core core).aborts = (s.core core).aborts + 1 ∧ sameMemory s t ∧
  ∃ y, t.thread? l = some y ∧ y.region = none ∧ y.hold = none ∧ y.pc = rg.target ∧ y.rstat = BitVec.ofNat 32 (16 * reason) ∧
    y.preds = rg.preds ∧ y.fst = rg.fst ∧ ∀ n ∈ rg.wrote, t.v l n = (rg.v.get VReg.init n).val.at l.t

/-- A thread asleep until a time, on a running core. -/
def asleep (s : State) (l : Lane) (t ft : DWord) (h : Option DWord) : Prop :=
  (s.thread l).hold = some { kind := .sleept t h false, ft } ∧ s.alive (s.grp l.g) = true ∧
  (s.cluster (coreCluster (s.grp l.g).core)).stopped = false

end Sys2Proof.Spec

open Sys2Proof Sys2Proof.Machine

/-- R179 to R186, R304: COPY_START puts the earliest queued copy of a die on a free channel; COPY_COMPLETE moves all the bytes left and completes;
COPY_STOP moves those below the first step that meets a fault and ends the copy there, poison being counted as consumed; COPY_CANCEL_STOP finishes
the destination sector a cancelled copy has begun and ends it.
The model's own choices in it: log entries 1 and 11. -/
def Obligations.CopyEvents : Prop :=
  ∀ s : State, s.sound = true →
    (∀ die k c, let here : AMap CopyOp := s.copies.filter fun e => e.2.die == die && s.copyServed e.2
      here.first (fun e => e.2.st == .queued) = some (k, c) → s.copyReady k c = true →
      ((here.filter fun e => e.2.st == .moving).length < 8 →
        exec (.copyStart die) s = .next { s with copies := s.copies.set k { c with st := .moving } }) ∧
      (8 ≤ (here.filter fun e => e.2.st == .moving).length → Spec.nothing (.copyStart die) s)) ∧
    (∀ k c, Spec.copying s k c → (s.thread? c.lane).isSome →
      (c.off = c.len → ∃ t, exec (.copyComplete k) s = .next t ∧ Spec.copyEnded s t k c .complete .complete false ∧ Spec.sameMemory s t) ∧
      (∀ p q, c.ahead = [] → c.off < c.len → Spec.copyPlaces s c c.len p q → Spec.noCapture s c.launch →
        ∃ t, exec (.copyComplete k) s = .next t ∧ Spec.copyEnded s t k c .complete .complete false ∧ Spec.copyLanded s t c c.len p q) ∧
      (∀ p q e f, c.ahead = [] → e ∈ Spec.copySteps c c.len c.off (c.len + 1) → Spec.copyPlaces s c e p q → Spec.noCapture s c.launch →
        Spec.copyFails (Spec.copyTurn s c e) c p e f →
        Spec.nothing (.copyComplete k) s ∧
        (f.cause ≠ .poison → ∃ t, exec (.copyStop k) s = .next t ∧
          Spec.copyEnded s t k c (.failed f) (.failed f) (f.cause == .pageFault) ∧ Spec.copyLanded s t c e p q) ∧
        (f.cause = .poison → ∃ t, exec (.copyStop k) s = .next t ∧ (t.die c.die).consume = (s.die c.die).consume + 1))) ∧
    (∀ k c, s.copies.find? k = some c → (s.thread? c.lane).isSome → c.lane.sh = false → c.ended = false →
      (∀ p q, c.cancel = true → c.ahead = [] → c.off ≤ c.len → Spec.copyPlaces s c (Spec.sectorEnd c) p q → Spec.noCapture s c.launch →
        ∃ t, exec (.copyCancelStop k) s = .next t ∧ Spec.copyEnded s t k c .complete .complete false ∧
          Spec.copyLanded s t c (Spec.sectorEnd c) p q) ∧
      (c.cancel = false → Spec.nothing (.copyCancelStop k) s))

/-- R63, R66, R202, R205, R214: a TLD whose sectors are whole and whose blocks pass their checks writes every element of its window from the bytes
at its places, and no other; a PTLD its table. Its thread takes the flags of the blocks and counts one less on TL. -/
def Sys2Proof.Spec.loadsCompleteRule : Prop :=
  ∀ (s : State) (core : Nat) (o : TileOp) (l : Lane) (r c : Nat),
    Spec.transferReady s core o → o.writes = false → o.invalid = false → o.lanes = [l] → l.sh = false → (s.thread? l).isSome →
    (s.group? o.g).isSome → Spec.plainPlaces s core o.places → (∀ e ∈ o.places, Spec.badPlace s e.2 = false) →
    (o.kind ≠ .ptld → o.xf = 2 → ((s.core core).table o.tab.val).bad = []) →
    let e := recEfmt o.br
    let tab := (s.core core).table o.tab.val
    (o.kind = .tldY → e = 1 → Spec.blocksPass s (recCheck o.br) 0 0 false o.places) → (o.kind ≠ .ptld → o.vb.toNat = Spec.window r c) →
    Spec.nothing (.tileDataFault core o.id) s ∧
    ∃ t, exec (.tileOpComplete core o.id) s = .next t ∧ Spec.transferGone s t core o l ∧ Spec.sameMemory s t ∧
      (t.thread l).tileFaults = (s.thread l).tileFaults ∧
      (t.thread l).fst = (s.thread l).fst ||| (if o.kind = .tldY ∧ e = 1 then Spec.blockFlags s (recCheck o.br) 0 0 false o.places else 0) ∧
      (o.kind = .tldZ →
        (∀ i j v, i < r → j < c → Spec.zLoaded s o i j = some v → ((t.core core).ztile o.tn.val).els.get 0 (64 * i + j) = v ∧
          64 * i + j ∉ ((t.core core).ztile o.tn.val).poison) ∧
        (∀ n k, n ≠ o.tn.val ∨ ¬(k / 64 < r ∧ k % 64 < c) → ((t.core core).ztile n).els.get 0 k = ((s.core core).ztile n).els.get 0 k) ∧
        (t.core core).y = (s.core core).y) ∧
      (o.kind = .tldY →
        (∀ i j v, i < r → j < c → Spec.yLoaded s o tab i j = some v →
          ((t.core core).ytile o.tn.val).els.get 0 (64 * i + j) = (if e = 4 then (splitF32 v).1 else toI20 v) ∧
          64 * i + j ∉ ((t.core core).ytile o.tn.val).poison ∧
          (e = 4 → ((t.core core).ytile (o.tn.val + 1)).els.get 0 (64 * i + j) = (splitF32 v).2)) ∧
        (∀ n k, (n ≠ o.tn.val ∧ ¬(e = 4 ∧ n = o.tn.val + 1)) ∨ ¬(k / 64 < r ∧ k % 64 < c) →
          ((t.core core).ytile n).els.get 0 k = ((s.core core).ytile n).els.get 0 k) ∧
        (t.core core).z = (s.core core).z) ∧
      (o.kind = .ptld → ((t.core core).table o.tn.val).len = o.vb.toNat ∧
        (∀ k v, k < o.vb.toNat → Spec.entryLoaded s o k = some v → ((t.core core).table o.tn.val).ent.get 0 k = v) ∧
        (∀ n, n ≠ o.tn.val → (t.core core).table n = (s.core core).table n) ∧
        (t.core core).z = (s.core core).z ∧ (t.core core).y = (s.core core).y)

/-- R202, R203, R205, R212, R213: a TSV, TSUM or QCV whose tile entries and table are whole makes every store that it has not made yet, each with
the bytes its elements, sums or blocks give, where no later one of its stores covers it; no other byte changes. QCV's thread takes the flags. -/
def Sys2Proof.Spec.storesCompleteRule : Prop :=
  ∀ (s : State) (core : Nat) (o : TileOp) (l : Lane),
    Spec.transferReady s core o → s.sound = true → o.writes = true → o.invalid = false → o.cap = none → o.lanes = [l] → l.sh = false →
    (s.thread? l).isSome → Spec.plainPlaces s core o.places → Spec.noCapture s o.launch → recWr o.br = true →
    let z := (s.core core).ztile o.tn.val
    let tab := (s.core core).table o.tab.val
    (∀ n, Spec.zRead o tab n → n ∉ z.poison) → (o.xf = 2 → tab.bad = []) →
    let st := Spec.tileStores o z tab
    Spec.nothing (.tileDataFault core o.id) s ∧
    ∃ t, exec (.tileOpComplete core o.id) s = .next t ∧ Spec.transferGone s t core o l ∧
      (t.core core).z = (s.core core).z ∧ (t.core core).y = (s.core core).y ∧
      (∀ n pa bs, Spec.storeAt o st n pa bs →
        (∀ m pb cs, n < m → Spec.storeAt o st m pb cs → pa + bs.length ≤ pb ∨ pb + cs.length ≤ pa) → Spec.bytesAre t pa bs) ∧
      (∀ a, (∀ n pa bs, Spec.storeAt o st n pa bs → a < pa ∨ pa + bs.length ≤ a) → t.byteAt a = s.byteAt a) ∧
      (t.thread l).fst = (s.thread l).fst ||| (match o.kind with
        | .qcv t6 => (List.range (o.vb.toNat / 256 % 128)).foldl (fun f i => f ||| (Spec.qcvBlock o t6 z tab i).2) 0
        | .tsv | .tsum _ | .tldZ | .tldY | .ptld => 0)

/-- R63, R202, R375: a transfer whose data are not whole fails: a block that fails its check under FAULT gives BOUNDS at its sector; a poisoned
sector, tile entry or table gives POISON, counted as consumed. The operation is gone, TL falls, the thread keeps the fault for the word that
meets it, and a failed PTLD leaves an empty table. -/
def Sys2Proof.Spec.transfersFailRule : Prop :=
  ∀ (s : State) (core : Nat) (o : TileOp) (l : Lane) (f : FaultInfo),
    Spec.transferReady s core o → o.invalid = false → o.cap = none → o.lanes = [l] → l.sh = false → (s.thread? l).isSome →
    (s.group? o.g).isSome → Spec.plainPlaces s core o.places → Spec.notReplayed s o.launch →
    let z := (s.core core).ztile o.tn.val
    let tab := (s.core core).table o.tab.val
    let failed := fun (e : Nat × TPlace) =>
      blkCheck (recCheck o.br) ((Spec.sectorBytes s o.places e.1).getD []) 0 0 false = .fault
    (o.writes = false ∧ ∃ pre e post, o.places = pre ++ e :: post ∧ (∀ x ∈ pre, Spec.badPlace s x.2 = false) ∧ Spec.badPlace s e.2 = true ∧
        f = { cause := .poison, kind := .load, addr := e.2.va }) ∨
      (o.kind = .tldY ∧ recEfmt o.br = 1 ∧ (∀ e ∈ o.places, Spec.badPlace s e.2 = false) ∧
        (∃ pre e post, o.places = pre ++ e :: post ∧ (∀ x ∈ pre, ¬failed x) ∧ failed e ∧
          f = { cause := .bounds, kind := .load, addr := e.2.va })) ∨
      (o.writes = true ∧ (∃ n, Spec.zRead o tab n ∧ n ∈ z.poison) ∧ f = { cause := .poison, kind := .load, addr := 0 }) ∨
      (o.writes = true ∧ (∀ n, Spec.zRead o tab n → n ∉ z.poison) ∧ o.xf = 2 ∧ tab.bad ≠ [] ∧
        f = { cause := .poison, kind := .load, addr := 0 }) →
    Spec.nothing (.tileOpComplete core o.id) s ∧
    ∃ t, exec (.tileDataFault core o.id) s = .next t ∧ Spec.transferGone s t core o l ∧
      (t.thread l).tileFaults = (s.thread l).tileFaults ++ [{ info := f, objs := o.objs, handle := none }] ∧
      (t.die (coreDie core)).consume = (s.die (coreDie core)).consume + (if f.cause = .poison then 1 else 0) ∧
      (o.kind = .ptld → ((t.core core).table o.tn.val).len = 0) ∧ (o.writes = false → Spec.sameMemory s t)

/-- R203, R211: once its last column is read, an MMA's Y tiles are its own. -/
def Sys2Proof.Spec.lastColumnRule : Prop :=
  ∀ (s : State) (core : Nat) (o : MmaOp), Spec.streaming s core o → o.cap = none →
    ∃ t, exec (.mmaLastColumn core) s = .next t ∧ (t.core core).z = (s.core core).z ∧ (t.core core).y = (s.core core).y ∧
      Spec.sameMemory s t ∧
      ∃ m, (t.core core).mma.head? = some m ∧ m = { o with cap := m.cap } ∧ m.cap = some ((s.core core).ytile o.yt.val,
        if o.ypair then (s.core core).ytile (o.yt.val + 1) else { els := [], poison := [] })

/-- R58, R63, R69, R209 to R211, R300: the MMA the engine streams, its sectors, tiles and table whole, writes in one step every product and, with
CHK, every check sum from the bytes of A and the elements of Y, and nothing else; its Z tile goes back, TL falls, its handle is complete. -/
def Sys2Proof.Spec.multiplyCompletesRule : Prop :=
  ∀ (s : State) (core : Nat) (o : MmaOp) (l : Lane),
    Spec.mayEnd s core o → o.lanes = [l] → l.sh = false → (s.thread? l).isSome → o.m ≤ 64 → o.n ≤ 64 →
    Spec.plainPlaces s core o.places → (∀ e ∈ o.places, Spec.badPlace s e.2 = false) →
    (o.xf = 2 → ((s.core core).table o.tab.val).bad = []) →
    (recEfmt o.arec = 1 → Spec.blocksPass s (recCheck o.arec) o.xf o.tab.val true o.places) →
    let y := o.cap.getD ((s.core core).ytile o.yt.val, (s.core core).ytile (o.yt.val + 1))
    let z := (s.core core).ztile o.zt.val
    y.1.poison = [] → (o.ypair = true → y.2.poison = []) → (o.ovw = false → z.poison = []) →
    ∃ t, exec (.mmaComplete core) s = .next t ∧ Spec.sameMemory s t ∧ (t.core core).y = (s.core core).y ∧
      (∀ e, ((t.core core).ztile o.zt.val).els.get 0 e = Spec.zAfter o (Spec.aTerm s o) (Spec.yTerm o y) z e) ∧
      (∀ n, n ≠ o.zt.val → (t.core core).ztile n = (s.core core).ztile n) ∧ (∀ x ∈ (t.core core).mma, x.id ≠ o.id) ∧
      (t.core core).token o.zt.val = (if (s.group? o.g).isSome then .group o.g else .free) ∧
      (t.thread l).tl = (s.thread l).tl - 1 ∧ (t.thread l).tileFaults = (s.thread l).tileFaults ∧
      (t.thread l).fst = (s.thread l).fst |||
        (if recEfmt o.arec = 1 then Spec.blockFlags s (recCheck o.arec) o.xf o.tab.val true o.places else 0) ∧
      (t.core core).mmas = (s.core core).mmas + 1 ∧
      (∀ h, o.handle = some h → ∀ e ∈ (t.die (hDie h)).handles, e.kind = 2 → e.seq ≠ hSeq h)

/-- R202, R300, R375: an MMA of which a sector of A is poisoned leaves its tiles as they are, gives its Z tile back and fails: its handle and its
thread keep the fault. -/
def Sys2Proof.Spec.multiplyFailsRule : Prop :=
  ∀ (s : State) (core : Nat) (o : MmaOp) (l : Lane) (pre post : AMap TPlace) (e : Nat × TPlace),
    Spec.mayEnd s core o → o.lanes = [l] → l.sh = false → (s.thread? l).isSome → (s.group? o.g).isSome →
    Spec.plainPlaces s core o.places → Spec.notReplayed s o.launch →
    o.places = pre ++ e :: post → (∀ x ∈ pre, Spec.badPlace s x.2 = false) → Spec.badPlace s e.2 = true →
    let f : FaultInfo := { cause := .poison, kind := .load, addr := e.2.va }
    ∃ t, exec (.mmaComplete core) s = .next t ∧ Spec.sameMemory s t ∧ (t.core core).z = (s.core core).z ∧ (t.core core).y = (s.core core).y ∧
      (∀ x ∈ (t.core core).mma, x.id ≠ o.id) ∧ (t.core core).token o.zt.val = .group o.g ∧
      (t.thread l).tl = (s.thread l).tl - 1 ∧
      (t.thread l).tileFaults = (s.thread l).tileFaults ++ [{ info := f, objs := o.objs, handle := o.handle }] ∧
      (t.die (coreDie core)).consume = (s.die (coreDie core)).consume + 1 ∧
      (∀ h, o.handle = some h → ∀ x ∈ (t.die (hDie h)).handles, x.kind = 2 → x.seq = hSeq h → x.state = .failed f)

/-- R202, R203, R205, R209 to R214, R298 to R300: transfers move the data of their windows between memory and tiles and end with TL lowered, or
fail and leave their threads the fault; the MMA the engine streams writes its products and check sums, or fails; after its last column is
read its Y tiles are its own.
The model's own choices in it: log entries 10, 31 and 71. -/
def Obligations.TileEngineEvents : Prop :=
  Spec.loadsCompleteRule ∧ Spec.storesCompleteRule ∧ Spec.transfersFailRule ∧ Spec.lastColumnRule ∧ Spec.multiplyCompletesRule ∧
  Spec.multiplyFailsRule

/-- R190, R292, R302: QLD_RETURN fills an open entry of a queue with the word its load finds, or with the fault it meets; where its port, its
directory or its entry does not answer, nothing happens. -/
def Sys2Proof.Spec.sliceLoadReturnsRule : Prop :=
  ∀ (s : State) (g i : Nat) (es : List QEntry) (e : QEntry) (k : Nat), let l : Lane := { g, t := i % 64, sh := false }
    let opens := es.zipIdx.filter fun e => e.1.val.isNone && e.1.fault.isNone
    (s.thread l).q.find? (i / 64) = some es → opens[s.freeWord.toNat % opens.length]? = some (e, k) →
    let die := coreDie (s.grp g).core
    let filled := fun (t : State) (e' : QEntry) => (t.thread l).q.find? (i / 64) = some (es.modify k fun _ => e')
    let failed := fun (c : Cause) => { e with fault := some { cause := c, kind := .load, addr := e.va } }
    ∀ s1, (s1.thread l).q = (s.thread l).q → (s1.thread? l).isSome → (s1.grp g).core = (s.grp g).core → (s1.grp g).launch = (s.grp g).launch →
      (∀ sp, (s.used 1).resolve g e.va 4 .rd = (.ok sp, s1) →
        (s1.engineMay die false sp = false → Spec.nothing (.qldReturn g i) s) ∧
        (s1.engineMay die false sp = true → s1.spacePoison sp 4 = false →
          ∃ t, exec (.qldReturn g i) s = .next t ∧
            filled t { e with val := some (BitVec.ofNat 32 (wordOfBytes ((s1.engineReads die e.hint sp).spaceRead sp 4).1)) }) ∧
        (∀ pa, sp = .phys pa → Spec.plainHbm s1 pa → s1.engineMay die false sp = true → s1.spacePoison sp 4 = false →
          ∃ t w, exec (.qldReturn g i) s = .next t ∧ filled t { e with val := some w } ∧
            ∀ j, j < 4 → w.extractLsb' (8 * j) 8 = s1.byteAt (pa + j)) ∧
        (s1.engineMay die false sp = true → s1.spacePoison sp 4 = true → Spec.notReplayed s1 (s.grp g).launch →
          ∃ t, exec (.qldReturn g i) s = .next t ∧ filled t (failed .poison) ∧ (t.die die).consume = (s1.die die).consume + 1)) ∧
      (∀ x, (s.used 1).resolve g e.va 4 .rd = (.error x, s1) → x ≠ .poison →
        ∃ t, exec (.qldReturn g i) s = .next t ∧ filled t (failed x.cause))

/-- R222, R307, R313: the earliest commit of a core aborts with UNTRACKABLE if a touched input cannot be replayed and with CONSTRAINT if an integer
constraint comes out otherwise; else its stores land in order, its tagged registers take their new values, and its thread goes on. -/
def Sys2Proof.Spec.commitRule : Prop :=
  ∀ (s : State) (core : Nat) (l : Lane) (r : List Lane) (rg : Region) (ft : DWord), Spec.mayCommit s core l r rg ft →
    let th := s.thread l
    (¬Spec.mayReplay rg → ∃ t, exec (.commitPerform core) s = .next t ∧ Spec.commitAborted s t core l r rg 4) ∧
    (Spec.mayReplay rg → (∃ k ∈ rg.cons, ∃ c w, k.cmp = .int c w ∧ k.pc = true ∧ Spec.constraintNow rg s c w k ≠ k.outcome) →
      ∃ t, exec (.commitPerform core) s = .next t ∧ Spec.commitAborted s t core l r rg 2) ∧
    (Spec.mayReplay rg → (∀ k ∈ rg.cons, ∃ c w, k.cmp = .int c w ∧ (k.pc = true → Spec.constraintNow rg s c w k = k.outcome)) →
      (rg.tags.map Spec.tagDst).flatten.Nodup →
      ∃ t, exec (.commitPerform core) s = .next t ∧ (t.core core).commits = r ∧ (t.core core).commitsN = (s.core core).commitsN + 1 ∧
        (∀ pre y post pa, rg.stores = pre ++ y :: post → y.space = .phys pa →
          ∀ j, j < y.data.length → (∀ x ∈ post, ∀ q, x.space = .phys q → pa + j < q ∨ q + x.data.length ≤ pa + j) →
            t.byteAt (pa + j) = (Spec.storedNow rg s y).getD j 0) ∧
        (∀ b, (∀ y ∈ rg.stores, ∀ q, y.space = .phys q → b < q ∨ q + y.data.length ≤ b) → t.byteAt b = s.byteAt b) ∧
        (∀ e ∈ rg.tags, t.v l e.1 = (Spec.tagged rg s e.2).lo ∧ (e.2.wide = true → t.v l (e.1 + 1) = (Spec.tagged rg s e.2).hi)) ∧
        (∀ n, n ∉ (rg.tags.map Spec.tagDst).flatten → t.v l n = s.v l n) ∧
        ((∀ e ∈ rg.tags, ∀ w as, e.2.chain ≠ .flt w as) → (∀ y ∈ rg.stores, ∀ x, y.sym = some x → ∀ w as, x.chain ≠ .flt w as) →
          (∀ k ∈ rg.cons, ∀ w as, k.tag.chain ≠ .flt w as) →
          t.thread? l = some { th with fst := th.fst &&& ~~~rg.tflags, region := none, rstat := rstatWord 1 false, hold := none, pc := ft, mid := false, passing := some th.pc }))

/-- R222, R307: a place in the engine whose region is gone is dropped; on a fenced die, or before what the commit releases is performed, the engine
does nothing. -/
def Sys2Proof.Spec.commitWaitsRule : Prop :=
  ∀ (s : State) (core : Nat) (l : Lane) (r : List Lane), (s.core core).commits = l :: r →
    ((s.thread l).region = none → ∃ t, exec (.commitPerform core) s = .next t ∧ (t.core core).commits = r ∧ Spec.sameMemory s t) ∧
    (∀ rg, (s.thread l).region = some rg →
      (s.die (coreDie core)).fenced = true ∨ s.releasable l rg.scope = false ∨ s.regionOpen core rg = false →
      Spec.nothing (.commitPerform core) s)

/-- R185: SLEEPT_WAKE lets a thread go on once its die's time has come and what it waits for is there. -/
def Sys2Proof.Spec.sleepEndsRule : Prop :=
  ∀ (s : State) (l : Lane) (t ft : DWord) (h : Option DWord), Spec.asleep s l t ft h →
    let now := s.dclk (coreDie (s.grp l.g).core)
    let awake := { (s.thread l) with hold := none, pc := ft, mid := false, passing := some (s.thread l).pc }
    (now < t.toNat → Spec.nothing (.sleeptWake l) s) ∧
    (t.toNat ≤ now → h = none → ∃ u, exec (.sleeptWake l) s = .next u ∧ u.thread? l = some awake ∧ Spec.sameMemory s u) ∧
    (∀ hv, t.toNat ≤ now → h = some hv → s.hState (s.grp l.g).part hv = .complete → s.hCopy (s.grp l.g).part hv = none →
      ∃ u, exec (.sleeptWake l) s = .next u ∧ u.thread? l = some awake ∧ Spec.sameMemory s u)

/-- R185, R190, R222, R292, R302, R307: slice loads return to their queues, commits are performed or abort, and sleeping threads wake. Which open
entry of a queue returns first is open (R302).
The model's own choices in it: log entries 22 and 35. -/
def Obligations.ThreadEngineEvents : Prop :=
  Spec.sliceLoadReturnsRule ∧ Spec.commitRule ∧ Spec.commitWaitsRule ∧ Spec.sleepEndsRule

namespace Sys2Proof.Spec

open Sys2Proof Sys2Proof.Machine

/-- A queue of a resident partition, its control line and a slot in reach of the engine. -/
def queueUp (s : State) (p q n : Nat) (x : PQueue) : Prop :=
  (s.partn p).queues.find? q = some x ∧ (s.partn p).state = .resident ∧ s.queueOpen p x n = true

/-- Bytes 0 to 247 of a launch record that holds these fields (R316). -/
def recordOf (r : LaunchRec) : List Byte :=
  ([r.entry, r.access, r.rtab, r.stkbase, r.handler].map fun x => bytesOfNat 8 x.toNat).flatten ++
  ([r.itot, r.itile, r.crews].map fun x => bytesOfNat 4 x).flatten ++
  ([r.width, r.gpc, r.cscope, 16 * r.mcnt + r.mdim, r.vcnt, r.stkf].map fun x => bytesOfNat 1 x).flatten ++ bytesOfNat 2 r.gscr ++
  ([r.cregs, r.cscr, r.cstash, 64 * r.prio + 16 * b2n r.split + 8 * b2n r.idem + 4 * b2n r.snap + 2 * b2n r.prot + b2n r.fair].map fun x => bytesOfNat 1 x).flatten ++
  ((r.preds ++ [r.crec]).map fun x => bytesOfNat 8 x.toNat).flatten ++ List.replicate 144 0

/-- Every field has a value that its place can hold. -/
def fieldsFit (r : LaunchRec) : Prop :=
  (∀ x ∈ [r.itot, r.itile, r.crews], x < 2 ^ 32) ∧ (∀ x ∈ [r.width, r.gpc, r.vcnt, r.stkf, r.cregs, r.cscr, r.cstash], x < 256) ∧
  r.cscope < 8 ∧ r.mcnt < 16 ∧ r.mdim < 8 ∧ r.gscr < 2 ^ 16 ∧ r.prio < 4 ∧ r.preds.length = 4

/-- The ranges of the fields outside the carve (R316). -/
def inRange (r : LaunchRec) : Prop :=
  r.rtab.toNat % 64 = 0 ∧ r.stkbase.toNat % 16 = 0 ∧ (r.split = true → 1 ≤ r.itile) ∧ (r.split = false → r.itile = 0 ∧ 1 ≤ r.crews) ∧
  r.width ∈ [8, 16, 32, 64] ∧ 1 ≤ r.gpc ∧ r.gpc ≤ 64 ∧ r.cscope ≤ 3 ∧ r.mcnt ≤ 8 ∧ 1 ≤ r.mdim ∧ r.mdim ≤ 6 ∧
  8 ≤ r.vcnt ∧ r.vcnt ≤ 96 ∧ r.vcnt % 8 = 0 ∧ 4 ≤ r.stkf ∧ r.gscr ≤ 256 * r.cscr ∧ r.crews * r.gpc < 2 ^ 32

/-- The carve keeps its limits (R250). -/
def carveFits (r : LaunchRec) : Prop :=
  4 ≤ r.cregs ∧ r.cregs ≤ 10 ∧ r.cscr + r.cstash ≤ 24 ∧ r.cregs + r.cscr + r.cstash ≤ 34

/-- A reserved bit of a record is set (R316). -/
def reservedSet (bs : List Byte) : Prop :=
  8 ≤ (bs.getD 54 0).toNat ∨ (bs.getD 55 0).getLsbD 3 = true ∨ (bs.getD 63 0).getLsbD 5 = true ∨ ∃ j, 104 ≤ j ∧ j < 248 ∧ bs.getD j 0 ≠ 0

/-- The codes of the reasons, from 1 in order (R327). -/
def reasons : List Reason :=
  [.format, .carve, .record, .progress, .fit, .pred, .access, .context, .fault, .uncorrected, .sideeffect, .killed, .fabric]

/-- STATE of a finished launch (R384). -/
def recordState (x : Launch) : Nat := if x.reason.isSome then 3 else if x.nreplay = 0 then 1 else 2

/-- The fields of a completion record written at a time: offset, size and value (R327, R384). -/
def recordFields (x : Launch) (tend : Nat) : List (Nat × Nat × Nat) :=
  let f := if recordState x = 3 then x.fault else if recordState x = 2 then x.replayFault else none
  [(0, 4, recordState x), (4, 4, match x.reason with
      | some r => reasons.findIdx (· == r) + 1
      | none => 0),
   (8, 8, x.resv % 2 ^ 56 + 2 ^ 56 * x.queue), (16, 8, x.tstart), (24, 8, tend), (32, 4, x.nreplay), (36, 4, x.crewsC),
   (40, 8, match f with
      | some (f, _, _) => f.addr.toNat
      | none => 0),
   (48, 2, match f with
      | some (f, _, nest) => (trapWord f nest).toNat
      | none => 0),
   (50, 2, match f with
      | some (_, gid, _) => min gid 0xFFFF
      | none => 0), (52, 4, 0), (56, 8, 0)]

/-- The completion record of a launch stands in memory. -/
def recordAt (t : State) (pa : Nat) (x : Launch) (tend : Nat) : Prop :=
  ∀ e ∈ recordFields x tend, t.rdNat (pa + e.1) e.2.1 = e.2.2 % 256 ^ e.2.1

/-- Slot HEAD holds the stamp of its reservation. -/
def stamped (s : State) (x : PQueue) : Prop := s.rdNat (x.slot x.head + 248) 8 = (x.head + 1) % 2 ^ 64

/-- A launch has ended with a reason. -/
def refused (t : State) (l : Nat) (r : Reason) : Prop := ∃ y, t.launch? l = some y ∧ y.state = .done ∧ y.reason = some r

/-- No byte of the range lies in host memory outside the windows. -/
def notHost (s : State) (a n : Nat) : Prop := ∀ k, k < n → ∀ port, s.paKind (a + k) ≠ .host port

/-- What a crew's admission leaves: the crew, and each of its groups with its numbers, on a core of the unit, its threads at ENTRY. -/
def crewPlaced (s t : State) (l unit : Nat) (x : Launch) (d : Dealt) : Prop :=
  (∃ c, t.crew? s.nextId = some c ∧ c.cid = d.cid ∧ c.launch = l ∧ c.groups = rangeFrom (s.nextId + 1) x.lrec.gpc) ∧
  ∀ i, i < x.lrec.gpc → ∃ g, t.group? (s.nextId + 1 + i) = some g ∧ g.cid = d.cid ∧ g.gid = d.cid * x.lrec.gpc + i ∧ g.idx = i ∧
    g.launch = l ∧ g.part = x.part ∧ g.core ∈ s.unitCores x unit ∧ ∀ th ∈ g.threads, th.2 = Thread.create x.lrec.entry

end Sys2Proof.Spec

open Sys2Proof Sys2Proof.Machine

/-- R316, R321, R324, R325: QUEUE_TAKE waits for the stamp and for what it reads and writes; then it moves HEAD and drops the record, or makes a
launch of it: DONE with FORMAT or CARVE, or WAITING with the record's fields. -/
def Sys2Proof.Spec.queueTakeRule : Prop :=
  ∀ (s : State) (p q : Nat) (x : PQueue), (s.partn p).queues.find? q = some x →
    let bs := s.rdN (x.slot x.head) 256
    let r := parseRec bs
    let l := s.nextId
    let ready := Spec.queueUp s p q x.head x ∧ Spec.stamped s x ∧ s.engineOpen p true r.crec 64 = true ∧
      (r.rtab = 0 ∨ s.engineOpen p false r.rtab 1024 = true)
    (¬ready → Spec.nothing (.queueTake p q) s) ∧
    (ready → (∃ s2, (s.headOn p q).crecPlace p r.crec = (none, s2)) →
      ∃ t, exec (.queueTake p q) s = .next t ∧ t.launches = s.launches ∧
        (∃ y, (t.partn p).queues.find? q = some y ∧ y.head = x.head + 1 ∧ y.drops = x.drops + 1 ∧ y.lastDrop = x.head) ∧
        ∀ die seq, x.handles.find? x.head = some (die, seq) → ∀ e ∈ (t.die die).handles, e.kind = 3 → e.seq = seq →
          e.state = .failed { cause := .bounds, kind := .store, addr := r.crec }) ∧
    (ready → ∀ pa s2, (s.headOn p q).crecPlace p r.crec = (some pa, s2) →
      let done := fun (why : Reason) => ∃ t, exec (.queueTake p q) s = .next t ∧ Spec.refused t l why
      (Spec.reservedSet bs → done .format) ∧
      ∀ r0, Spec.fieldsFit r0 → bs.take 248 = Spec.recordOf r0 →
        (¬Spec.inRange r0 → done .format) ∧
        (Spec.inRange r0 → ¬Spec.carveFits r0 → done .carve) ∧
        (Spec.inRange r0 → Spec.carveFits r0 → r0.rtab = 0 → r0.snap = false →
          ∃ t, exec (.queueTake p q) s = .next t ∧
            (∃ y, (t.partn p).queues.find? q = some y ∧ y.head = x.head + 1 ∧ y.drops = x.drops) ∧
            ∃ y, t.launch? l = some y ∧ y.state = .waiting ∧ y.part = p ∧ y.queue = q ∧ y.resv = x.head ∧ y.lrec = r0 ∧ y.reason = none ∧ y.crecPa = pa ∧
              ∀ n, 3 ≤ n → n < 32 → y.rtab.find? n = some nullRec))

/-- R322: STAMP_TIMEOUT skips a reservation whose stamp is 10 ms late, and no other. -/
def Sys2Proof.Spec.stampTimeoutRule : Prop :=
  ∀ (s : State) (p q : Nat) (x : PQueue), Spec.queueUp s p q x.head x → ¬Spec.stamped s x → x.head < s.rdNat x.qb 8 →
    (s.partn p).lbuf.all (fun e => e.q != q || e.n != x.head) = true →
    (x.waited < 10000000 * 17 → Spec.nothing (.stampTimeout p q) s) ∧
    (10000000 * 17 ≤ x.waited → ∃ t, exec (.stampTimeout p q) s = .next t ∧
      (∃ y, (t.partn p).queues.find? q = some y ∧ y.head = x.head + 1 ∧ y.drops = x.drops + 1 ∧ y.lastDrop = x.head ∧ y.waited = 0) ∧
      (s.sound = true → x.qb % 256 = 0 → Spec.notHost s x.qb 256 →
        t.rdNat (x.qb + 64) 8 = (x.head + 1) % 2 ^ 64 ∧ t.rdNat (x.qb + 128) 8 = (x.drops + 1) % 2 ^ 64 ∧
        t.rdNat (x.qb + 136) 8 = x.head % 2 ^ 64 ∧ Spec.memoryKept s t x.qb 256))

/-- R320, R323: LAUNCH_BUFFER_WRITE writes the oldest buffered record of a queue and its stamp once the slot is free. -/
def Sys2Proof.Spec.bufferWriteRule : Prop :=
  ∀ (s : State) (p q : Nat) (x : PQueue) (e : LBuf), (s.partn p).queues.find? q = some x → (s.partn p).lbuf.find? (fun e => e.q == q) = some e →
    (s.partn p).state ≠ .free → (s.partn p).state ≠ .killing → s.queueOpen p x e.n = true →
    (x.head + x.slots ≤ e.n → Spec.nothing (.launchBufferWrite p q) s) ∧
    (e.n < x.head + x.slots → let a := x.slot e.n
      ∃ t, exec (.launchBufferWrite p q) s = .next t ∧ (t.partn p).lbuf = (s.partn p).lbuf.erase e ∧
        (s.sound = true → x.qb % 256 = 0 → e.bytes.length = 256 → Spec.notHost s a 256 →
          Spec.bytesAre t a (e.bytes.take 248) ∧ t.rdNat (a + 248) 8 = (e.n + 1) % 2 ^ 64 ∧ Spec.memoryKept s t a 256))

/-- R244, R325, R326, R329, R331, R333: LAUNCH_READY waits for earlier launches of its queue, its predecessors, its turn and its record's place;
then it deals the crews, or ends the launch with PRED, PROGRESS or FIT. -/
def Sys2Proof.Spec.launchReadyRule : Prop :=
  ∀ (s : State) (l : Nat) (x : Launch), s.launch? l = some x → x.state = .waiting → x.reason = none →
    ((s.partn x.part).state ≠ .resident ∨ s.queueHeld l x = true ∨ s.engineOpen x.part true x.lrec.crec 64 = false →
      Spec.nothing (.launchReady l) s) ∧
    ((s.partn x.part).state = .resident → s.queueHeld l x = false → s.engineOpen x.part true x.lrec.crec 64 = true →
      (∀ s1, s.predState x.part x.lrec.preds = (.waits, s1) → Spec.nothing (.launchReady l) s) ∧
      (∀ s1, s.predState x.part x.lrec.preds = (.fails, s1) → ∃ t, exec (.launchReady l) s = .next t ∧ Spec.refused t l .pred) ∧
      (∀ s1, s.predState x.part x.lrec.preds = (.ok, s1) → s.servesFirst l x = true → Spec.nothing (.launchReady l) s) ∧
      (∀ s1, s.predState x.part x.lrec.preds = (.ok, s1) → s.servesFirst l x = false →
        let n := s1.crewsInForce x
        let late := 1 < (s1.partn x.part).towers ∧ x.lrec.fair = true ∧ x.lrec.cscope = 3
        (late → ∃ t, exec (.launchReady l) s = .next t ∧ Spec.refused t l .progress) ∧
        (¬late → n = 0 ∨ s1.fitFails x = true → ∃ t, exec (.launchReady l) s = .next t ∧ Spec.refused t l .fit) ∧
        (¬late → n ≠ 0 → s1.fitFails x = false → ∃ t, exec (.launchReady l) s = .next t ∧
          t.launch? l = some { x with crewsC := n, state := .ready, served := some s1.nextId, dealt := s1.dealCrews x (List.range n), mirr := mirrors x.lrec } ∧
          (t.partn x.part).lastServed = x.queue)))

/-- R316 to R326: queues take launch records and skip late reservations, the launch buffer writes its records, and launches become READY or end.
The model's own choices in it: log entries 1 and 23. -/
def Obligations.QueueEvents : Prop :=
  Spec.queueTakeRule ∧ Spec.stampTimeoutRule ∧ Spec.bufferWriteRule ∧ Spec.launchReadyRule

/-- R23, R327 to R333, R381: STAGED_START starts at most 8 cores of a die in 100 ns; CREW_ADMIT places the next crew of a unit whole, where it fits;
LAUNCH_COMPLETE writes the completion record; REPLAY_RESTORE restores the captured granules and deals the crews again.
The model's own choices in it: log entries 17, 18, 23, 53, 68 and 69. -/
def Obligations.LaunchEvents : Prop :=
  ∀ s : State,
    (∀ die, let d := s.die die
      let n := 8 - (d.starts.filter fun t => decide (s.time < t + 100 * 17)).length
      (n = 0 ∨ d.stage = [] → Spec.nothing (.stagedStart die) s) ∧
      (0 < n → d.stage ≠ [] → ∃ t, exec (.stagedStart die) s = .next t ∧ (t.die die).stage = d.stage.drop n ∧
        (∀ c ∈ d.stage.take n, (t.core c).use = .busy) ∧ ∀ c, c ∉ d.stage.take n → t.core c = s.core c)) ∧
    (∀ l x unit d, s.launch? l = some x → x.nextCrew unit = some d → s.launchAdmits x = true →
      s.outranked l x unit = false → (∃ w, (unit, w) ∈ s.units (s.partn x.part) x.lrec.cscope) →
      (∀ s1, s.crewOnUnit l x unit d.cid = some s1 → ∃ t, exec (.crewAdmit l unit) s = .next t ∧
        t.launch? l = some { x with dealt := x.dealt.erase d, state := .running, tstart := if x.state = .ready then s.dclk (s.partn x.part).master else x.tstart } ∧
        Spec.crewPlaced s t l unit x d) ∧
      (s.crewOnUnit l x unit d.cid = none → s.marksFirst l x unit = true → Spec.nothing (.crewAdmit l unit) s)) ∧
    (∀ l x unit, s.launch? l = some x → s.launchAdmits x = false → Spec.nothing (.crewAdmit l unit) s) ∧
    (∀ l x, s.launch? l = some x → x.state = .finishing →
      (s.launchQuiet l = false ∨ s.engineOpen x.part true x.lrec.crec 64 = false → Spec.nothing (.launchComplete l) s) ∧
      (s.launchQuiet l = true → s.engineOpen x.part true x.lrec.crec 64 = true →
        ∀ pa s1, ((s.engineXlate x.part x.lrec.crec .wr = (.ok pa, s1) ∧ (s1.paKind pa = .hbm ∨ ∃ port, s1.paKind pa = .window port)) ∨
            ((∃ e, s.engineXlate x.part x.lrec.crec .wr = (.error e, s1)) ∧ pa = x.crecPa)) → s1.kindLost (s1.paKind pa) = false →
          ∃ t, exec (.launchComplete l) s = .next t ∧ (∃ y, t.launch? l = some y ∧ y.state = .done ∧ y.reason = x.reason) ∧
            (s.sound = true → pa % 64 = 0 → Spec.notHost s pa 64 →
              Spec.recordAt t pa x (s.dclk (s.partn x.part).master) ∧ Spec.memoryKept s1 t pa 64))) ∧
    (∀ l x, s.launch? l = some x → x.state = .replaying →
      (s.replayQuiet l = false ∨ s.rebuilding = true → Spec.nothing (.replayRestore l) s) ∧
      (s.replayQuiet l = true → s.rebuilding = false → ∃ t, exec (.replayRestore l) s = .next t ∧
        t.launch? l = some { x with state := .running, caps := [], nreplay := x.nreplay + 1, retired := 0, dealt := s.dealCrews x (List.range x.crewsC) } ∧
        (∀ e ∈ t.copies, e.2.launch ≠ l) ∧ (x.caps = [] → Spec.sameMemory s t) ∧
        ∀ c, x.caps = [c] → s.sound = true →
          (∀ j, j < granuleBytes → t.byteAt (c.granule * granuleBytes + j) = s.byteAt (s.poolBase x.part c.entry + j)) ∧
          Spec.memoryKept s t (c.granule * granuleBytes) granuleBytes))

namespace Sys2Proof.Spec

open Sys2Proof Sys2Proof.Machine

/-- The only change is to one partition, which becomes `y`. -/
def partBecomes (s t : State) (p : Nat) (y : Partition) : Prop :=
  t = { s with parts := t.parts } ∧ t.partn p = y ∧ ∀ n, n ≠ p → t.partn n = s.partn n

/-- No group of a partition is on a core, and nothing it issued is in flight. -/
def partQuiet (s : State) (p : Nat) : Prop :=
  s.ofPart p = [] ∧ (∀ o ∈ s.ops, o.2.part ≠ p) ∧ ∀ c ∈ s.cores, ∀ o ∈ c.2.tops, o.part ≠ p

/-- No watch unit names a partition any more, and no cluster is stopped for it (R355, R360, R364). -/
def disarmed (t : State) (p : Nat) : Prop :=
  (∀ n k w, (t.cluster n).wu.find? k = some w → natField w.ctl.toNat 12 4 = p → w.ctl.getLsbD 0 = false) ∧
  ∀ n, (t.cluster n).stopParts.contains p = false

/-- The changes are to one partition, which becomes `y`, and to the debugger's state of the clusters. -/
def partCleared (s t : State) (p : Nat) (y : Partition) : Prop :=
  t = { s with parts := t.parts, clusters := t.clusters } ∧ t.partn p = y ∧ (∀ n, n ≠ p → t.partn n = s.partn n) ∧ disarmed t p

/-- The state without the cached translations that an invalidation covers. -/
def invalidated (s : State) (p : Nat) : State :=
  (s.dropTlb fun e => e.part == p && (s.partn p).covers e).dropWalks fun e => e.part == p && (s.partn p).coversWalk e

/-- No queue has its TAIL where new queues are written. -/
def tailsApart (s : State) (qs : List PQueue) : Prop :=
  ∀ e ∈ s.parts, ∀ z ∈ e.2.queues, ∀ q ∈ qs, z.2.qb + 64 ≤ q.qb ∨ q.qb + 256 * (q.slots + 1) ≤ z.2.qb

/-- The groups of a partition where their pre-emption leaves them, their crews' rounds discarded (R164, R312). -/
def preempted (s : State) (p : Nat) : State := ((AMap.keys (s.ofPart p)).foldl (fun (s : State) g => s.preempt g) s).dropSlots p

/-- The die contexts of a save (R350). -/
def contexts (s : State) (p : Nat) : List Context :=
  (s.partn p).dies.map fun d => (preempted s p).ctxOf p d ((s.ofPart p).map fun e => (e.1, s.windowsOf e.1 e.2))

/-- A die context has a place: in the Cocoon, or in its die's share of the context area (R351). -/
def hasPlace (y : Partition) (c : Context) : Prop := c.cocoon = true ∨ c.size ≤ (y.share c.die).2

/-- No cluster of a partition's dies is stopping or stopped (R364). -/
def unfrozen (s : State) (y : Partition) : Prop :=
  ∀ e ∈ s.clusters, e.2.stopping = true ∨ e.2.stopped = true → y.dies.contains (e.1 / 4) = false

end Sys2Proof.Spec

open Sys2Proof Sys2Proof.Machine

/-- R342, R343, R347, R353 to R355: PCTL_CREATE makes a legal FREE partition SWAPPED with GEN kept and its queues empty, else sets BADCFG; PCTL_KILL and a
function-level reset take groups, copies, accesses, contexts and buffered launches away and raise GEN; KILL_COMPLETE ends every launch KILLED
and frees the partition; PCTL_WAKE holds a wake for a partition that is not RESIDENT.
The model's own choices in it: log entries 3, 38 and 43. -/
def Obligations.PartitionEvents : Prop :=
  ∀ (s : State) (p : Nat), let y := s.partn p
    (16 ≤ p ∨ y.state ≠ .free ∨ s.boot.step ≠ 6 ∨ s.boot.recovery = true → Spec.nothing (.pctlCreate p) s) ∧
    (p < 16 → y.state = .free → s.boot.step = 6 → s.boot.recovery = false →
      (s.createQueues p = none → ∃ t, exec (.pctlCreate p) s = .next t ∧ Spec.partBecomes s t p { y with badcfg := true }) ∧
      (∀ qs, s.createQueues p = some qs → ∃ t, exec (.pctlCreate p) s = .next t ∧ (t.partn p).state = .swapped ∧
        (t.partn p).badcfg = false ∧ (t.partn p).gen = y.gen ∧
        (Spec.tailsApart s qs →
          t.partn p = { y with state := .swapped, badcfg := false, queues := qs.zipIdx.map fun e => (e.2, e.1), lbuf := [], ctxs := [], swapReq := false, resetting := false, since := 0, lastServed := y.qcnt - 1, snapuse := [], master := s.masterOf y, wakeAt := if y.wakepend then some s.time else none } ∧
          ∀ n, n ≠ p → t.partn n = s.partn n) ∧
        (s.sound = true → ∀ b, (∀ q ∈ qs, b < q.qb ∨ q.qb + 256 * (q.slots + 1) ≤ b) → t.byteAt b = s.byteAt b))) ∧
    (y.state = .free → Spec.nothing (.pctlKill p) s ∧
      ∃ t, exec (.functionLevelReset p) s = .next t ∧ Spec.partCleared s t p { y with wakepend := false, wakeAt := none, msixPend := [] }) ∧
    (y.state = .killing → (∃ t, exec (.pctlKill p) s = .next t ∧ Spec.partCleared s t p y) ∧
      ∃ t, exec (.functionLevelReset p) s = .next t ∧ Spec.partCleared s t p { y with resetting := true }) ∧
    (y.state ≠ .free → y.state ≠ .killing → ∀ e reset, (e, reset) = (Instr.pctlKill p, false) ∨ (e, reset) = (.functionLevelReset p, true) →
      ∃ t, exec e s = .next t ∧ (t.partn p).state = .killing ∧ (t.partn p).resetting = reset ∧ (t.partn p).lbuf = [] ∧ (t.partn p).ctxs = [] ∧
        (∀ c ∈ t.copies, c.2.part ≠ p) ∧ (∀ o ∈ t.ops, o.2.part ≠ p) ∧ (∀ d ∈ t.dies, ∀ h ∈ d.2.handles, h.part ≠ p) ∧
        (∀ c ∈ t.cores, (∀ o ∈ c.2.tops, o.part ≠ p) ∧ ∀ m ∈ c.2.mma, m.part ≠ p) ∧
        (Spec.partQuiet s p → Spec.disarmed t p ∧ (t.partn p).gen = y.gen + 1 ∧ t.groups = s.groups ∧ t.launches = s.launches ∧ Spec.sameMemory s t)) ∧
    (y.state ≠ .killing → Spec.nothing (.killComplete p) s) ∧
    (y.state = .killing → ∃ t, exec (.killComplete p) s = .next t ∧ (t.partn p).state = .free ∧ (t.partn p).killdone = true ∧
      (t.partn p).queues = [] ∧ (t.partn p).gen = y.gen ∧
      ((∀ e ∈ s.launches, e.2.part = p → e.2.state = .done) → (t.partn p).wakepend = (y.wakepend && !y.resetting)) ∧
      (∀ l x, s.launch? l = some x → x.part = p → x.state ≠ .done → Spec.refused t l .killed) ∧
      (∀ c ∈ t.cores, ∀ e ∈ c.2.tlb, e.part ≠ p) ∧ (∀ c ∈ t.clusters, ∀ e ∈ c.2.tlb, e.part ≠ p) ∧
      (∀ d ∈ t.dies, (∀ e ∈ d.2.tlb, e.part ≠ p) ∧ ∀ w ∈ d.2.walks, w.part ≠ p) ∧
      (y.resetting = true → t.msgs = s.msgs ++ [{ port := y.port, vf := none, vec := 1 + p }]) ∧
      (y.resetting = false → t.msgs = s.msgs)) ∧
    (y.state = .resident ∨ s.boot.step ≠ 6 ∨ s.boot.recovery = true → Spec.nothing (.pctlWake p) s) ∧
    (y.state ≠ .resident → s.boot.step = 6 → s.boot.recovery = false → ∃ t, exec (.pctlWake p) s = .next t ∧
      Spec.partBecomes s t p { y with wakepend := true, wakeAt := y.wakeAt <|> some s.time })

/-- R311, R312, R344, R345, R348: PCTL_SWAPOUT starts a save, or keeps the request while a stopped cluster or a replay defers it; a THROUGHPUT slice ends at its
length if an equal has work, at once for a LATENCY partition with work; an idle LATENCY partition leaves after 100 µs if another has work; a SWAPPED
partition comes in when its dies are free and its class lets it.
The model's own choices in it: log entry 37. -/
def Obligations.ResidencyEvents : Prop :=
  ∀ (s : State) (p : Nat), let y := s.partn p
    let leaves := fun (e : Instr) => ∃ t, exec e s = .next t ∧ Spec.partBecomes s t p { y with state := .saving, swapReq := false }
    (y.state ≠ .resident →
      Spec.nothing (.pctlSwapout p) s ∧ Spec.nothing (.tsliceExpiry p) s ∧ Spec.nothing (.latencyIdleExpiry p) s) ∧
    (y.state = .resident →
      (s.swapBlocked p = false → leaves (.pctlSwapout p)) ∧
      (s.swapBlocked p = true → Spec.nothing (.tsliceExpiry p) s ∧ Spec.nothing (.latencyIdleExpiry p) s ∧
        ∃ t, exec (.pctlSwapout p) s = .next t ∧ Spec.partBecomes s t p { y with swapReq := true }) ∧
      (s.swapBlocked p = false →
        (y.swapReq = true → leaves (.tsliceExpiry p)) ∧
        (y.swapReq = false → y.qos = 0 → Spec.nothing (.tsliceExpiry p) s) ∧
        (y.qos = 1 → s.rival p (fun q => q == 0) = true → leaves (.tsliceExpiry p)) ∧
        (y.qos = 1 → y.since + y.tslice * 1000 * 17 ≤ s.time → s.rival p (fun q => q == 1) = true → leaves (.tsliceExpiry p)) ∧
        (y.swapReq = false → y.qos = 1 → s.time < y.since + y.tslice * 1000 * 17 → s.rival p (fun q => q == 0) = false →
          s.hasWork p = true → Spec.nothing (.tsliceExpiry p) s) ∧
        (2 ≤ y.qos → s.rival p (fun _ => true) = true → leaves (.tsliceExpiry p)) ∧
        (y.qos = 0 → s.hasWork p = false → y.since + 100000 * 17 ≤ s.time → s.rival p (fun _ => true) = true → leaves (.latencyIdleExpiry p)) ∧
        (y.qos ≠ 0 ∨ s.hasWork p = true ∨ s.time < y.since + 100000 * 17 ∨ s.rival p (fun _ => true) = false →
          Spec.nothing (.latencyIdleExpiry p) s))) ∧
    (y.state = .swapped → s.diesTaken p = false → s.mayEnter p = true →
      ∃ t, exec (.swapIn p) s = .next t ∧ Spec.partBecomes s t p { y with state := .restoring }) ∧
    (y.state ≠ .swapped ∨ s.diesTaken p = true ∨ s.mayEnter p = false → Spec.nothing (.swapIn p) s) ∧
    (y.qos = 0 → s.hasWork p = false → s.mayEnter p = false)

/-- R341, R349 to R353, R357, R386: SAVE_COMPLETE stores the contexts of the dies and empties the cores, or, where one has no place, sets CTXFULL and the
partition stays RESIDENT; RESTORE_COMPLETE puts the groups back and counts a late LATENCY partition; TLBINV drops every cached translation of
its range once nothing holds one; MBXBASE and the error record.
The model's own choices in it: log entries 23, 39, 44 and 45. -/
def Obligations.ContextEvents : Prop :=
  ∀ (s : State) (p : Nat), let y := s.partn p
    (y.state ≠ .saving ∨ s.saveReady p = false → Spec.nothing (.saveComplete p) s) ∧
    (y.state = .saving → s.saveReady p = true →
      ((∃ c ∈ Spec.contexts s p, ¬Spec.hasPlace y c) →
        ∃ t, exec (.saveComplete p) s = .next t ∧ (t.partn p).state = .resident ∧ (t.partn p).ctxfull = true ∧
          (t.partn p).wakepend = false) ∧
      ((∀ c ∈ Spec.contexts s p, Spec.hasPlace y c) →
        ∃ t, exec (.saveComplete p) s = .next t ∧ (∀ e ∈ t.groups, e.2.part ≠ p) ∧ (t.partn p).state = .swapped ∧
          (t.partn p).ctxs = Spec.contexts s p ∧ ((∀ c ∈ Spec.contexts s p, c.cocoon = true) → Spec.sameMemory (Spec.preempted s p) t))) ∧
    let areas := s.areasOpen p (y.ctxs.filterMap fun c => if c.cocoon then none else some c.die)
    (y.state ≠ .restoring ∨ ¬Spec.unfrozen s y ∨ areas = false → Spec.nothing (.restoreComplete p) s) ∧
    (y.state = .restoring → areas = true → Spec.unfrozen s y →
      (∃ t, exec (.restoreComplete p) s = .next t ∧ (t.partn p).state = .resident ∧ (t.partn p).ctxs = [] ∧ (t.partn p).wakepend = false ∧
        (t.partn p).wakeAt = none) ∧
      (y.ctxs = [] → ∀ at', y.qos = 0 → y.wakeAt = some at' →
        ∃ t, exec (.restoreComplete p) s = .next t ∧
          (t.partn p).latmiss = if at' + 20000 * 17 < s.time then min 255 (y.latmiss + 1) else y.latmiss) ∧
      (∀ c x key s1, y.ctxs = [c] → c.cocoon = true → c.groups = [x] → c.crews = [x.group.crew] →
        (s.launch? x.group.launch).isSome → s.savedKey x = some key → s.restoreCrew p c.die [x] = some s1 →
        ∃ t, exec (.restoreComplete p) s = .next t ∧ ∃ g, t.group? key = some g ∧ g.gid = x.group.gid ∧ g.owed = x.tiles ∧
          (∀ k th, x.group.threads.find? k = some th → ∃ u, g.threads.find? k = some u ∧ u.pc = th.pc ∧ u.live = th.live ∧
            u.preds = th.preds ∧ u.h = th.h ∧ u.m = th.m ∧ u.frames = th.frames ∧ u.fst = th.fst ∧ u.drop = th.pops) ∧
          ∀ sh n, (g.vreg sh n).val = (x.group.vreg sh n).val)) ∧
    (∀ val, (val.getLsbD 63 = false ∨ y.tlbBusy = true ∨ s.boot.step ≠ 6 ∨ s.boot.recovery = true → Spec.nothing (.tlbinvStart p val) s) ∧
      (val.getLsbD 63 = true → y.tlbBusy = false → s.boot.step = 6 → s.boot.recovery = false → ∃ t, exec (.tlbinvStart p val) s = .next t ∧
        Spec.partBecomes s t p { y with tlbBusy := true, tlbAll := val.getLsbD 62, tlbN := natField val.toNat 0 45 })) ∧
    let u := Spec.invalidated s p
    (y.tlbBusy = false ∨ s.heldIn p = true ∨ u.recordHeld p = true → Spec.nothing (.tlbinvDone p) s) ∧
    (y.tlbBusy = true → s.heldIn p = false → u.recordHeld p = false → ∃ t, exec (.tlbinvDone p) s = .next t ∧ (t.partn p).tlbBusy = false ∧
      (s.regionsIn p = [] → Spec.sameMemory s t ∧
        (∀ l x pa u', u.recordsIn p = [l] → s.launch? l = some x → u.crecPlace p x.lrec.crec = (some pa, u') →
          t.launch? l = some { x with crecPa := pa }) ∧
        (s.recordsIn p = [] → t.launches = s.launches ∧
          (∀ c ∈ t.cores, ∀ e ∈ c.2.tlb, e.part = p → y.covers e = false) ∧
          (∀ c ∈ t.clusters, ∀ e ∈ c.2.tlb, e.part = p → y.covers e = false) ∧
          (∀ d ∈ t.dies, ∀ e ∈ d.2.tlb, e.part = p → y.covers e = false) ∧
          ∀ d ∈ t.dies, ∀ w ∈ d.2.walks, w.part = p → y.coversWalk w = false))) ∧
    (∀ port val, s.boot.step ≠ 6 ∨ s.boot.recovery = true → Spec.nothing (.mbxbaseWrite port val) s) ∧
    (∀ port val, port < 2 → s.boot.step = 6 → s.boot.recovery = false → let old := (s.hostPort port).mbxbase
      let new := val &&& 0x0003_FFFF_F000_0001#64
      (old.getLsbD 0 = true → old ||| 1 ≠ new ||| 1 → Spec.nothing (.mbxbaseWrite port val) s) ∧
      (old.getLsbD 0 = false ∨ old ||| 1 = new ||| 1 → ∃ t, exec (.mbxbaseWrite port val) s = .next t ∧
        t.hostPort port = { s.hostPort port with mbxbase := new } ∧
        (old.getLsbD 0 = false → ∀ k, t.sector k = s.sector k) ∧
        (old.getLsbD 0 = true → new.getLsbD 0 = false → ∀ k ∈ AMap.keys s.sectors, s.paKind (64 * k) = .window port →
          (s.sector k).win = none → (t.sector k).l1 = []))) ∧
    (∀ die, ((s.die die).fenced = true → Spec.nothing (.errrecRead die) s) ∧
      ((s.die die).fenced = false → ∃ t, exec (.errrecRead die) s = .next t ∧
        t.die die = { s.die die with errrec := (s.die die).errrec &&& ~~~3#128 } ∧ ∀ d, d ≠ die → t.die d = s.die d))

namespace Sys2Proof.Spec

open Sys2Proof Sys2Proof.Machine

/-- The only change is to one cluster, which becomes `c`. -/
def clusterBecomes (s t : State) (n : Nat) (c : Cluster) : Prop :=
  t = { s with clusters := t.clusters } ∧ t.cluster n = c ∧ ∀ m, m ≠ n → t.cluster m = s.cluster m

/-- STEPST of a step that has ended, or has not, with an outcome. -/
def stepped (s t : State) (n : Nat) (o : StepSt) : Prop :=
  clusterBecomes s t n { s.cluster n with stepst := o, stepping := false, stepLane := s.stepTarget n, dbgctl := (s.cluster n).dbgctl &&& ~~~8#64 }

/-- The fields of a zone register (R407). -/
def zoneTemp (z : DWord) : Nat := natField z.toNat 0 16
def zoneHot (z : DWord) : Bool := natBit z.toNat 40

/-- One adjustment of a zone: its temperature, HOT, its target kept, and the way its valve goes. -/
def zoneStep (z z' : DWord) (temp : Nat) : Prop :=
  zoneTemp z' = temp ∧ zoneTtgt z' = zoneTtgt z ∧ zoneHot z' = (zoneHot z || decide (1600 ≤ temp)) ∧
  (zoneTtgt z * 16 < temp → zoneValve z < 255 → zoneValve z < zoneValve z') ∧
  (temp + 80 < zoneTtgt z * 16 → 32 < zoneValve z → zoneValve z' < zoneValve z ∧ 32 ≤ zoneValve z') ∧
  (temp ≤ zoneTtgt z * 16 → zoneTtgt z * 16 ≤ temp + 80 → zoneValve z' = zoneValve z)

/-- Register writes act once bring-up is complete. -/
def writesTo (s : State) (x : RegWrite) (P : State → Prop) : Prop :=
  s.boot.step = 6 → x.off % 8 = 0 → ∃ t, exec (.registerWrite x) s = .next t ∧ P t

end Sys2Proof.Spec

open Sys2Proof Sys2Proof.Machine

/-- R359 to R370: DBG_STOP records a valid stop and CLUSTER_FROZEN completes it once no gang runs; DBG_RESUME clears VALID and both stop states; DBG_STEP
issues nothing for a thread that is not live or is held, else starts one word of one thread; DBG_CANCEL withdraws a step that waits; each is ignored
in the other states.
The model's own choices in it: log entries 40, 42 and 50. -/
def Obligations.DebuggerEvents : Prop :=
  ∀ (s : State) (n : Nat), let c := s.cluster n
    (64 ≤ n ∨ c.stopping = true ∨ c.stopped = true ∨ s.debugOn n = false → Spec.nothing (.dbgStop n) s) ∧
    (n < 64 → c.stopping = false → c.stopped = false → s.debugOn n = true → c.stoprec.getLsbD 0 = false →
      ∃ t, exec (.dbgStop n) s = .next t ∧ (t.cluster n).stopping = true ∧ (t.cluster n).stopped = false ∧
        (t.cluster n).stoprec.getLsbD 0 = true ∧ natField (t.cluster n).stoprec.toNat 12 4 = 5 ∧
        natField (t.cluster n).stoprec.toNat 64 64 = s.dclk (n / 4) % 2 ^ 64 ∧ ∀ m, m ≠ n → t.cluster m = s.cluster m) ∧
    (c.stopping = true → c.stopped = false →
      ((∀ e ∈ s.gangs, e.2.onCluster n = false) →
        ∃ t, exec (.clusterFrozen n) s = .next t ∧ Spec.clusterBecomes s t n { c with stopped := true, dbgctl := c.dbgctl &&& ~~~2#64 }) ∧
      ((∃ e ∈ s.gangs, e.2.onCluster n = true) → Spec.nothing (.clusterFrozen n) s)) ∧
    (c.stopped = false ∨ c.stepping = true → Spec.nothing (.dbgResume n) s ∧ Spec.nothing (.dbgStep n) s) ∧
    (c.stopped = true → c.stepping = false →
      (∃ t, exec (.dbgResume n) s = .next t ∧
        t.cluster n = { c with stopped := false, stopping := false, stepLane := none, stopParts := [], stoprec := c.stoprec &&& ~~~1#256 } ∧
        ∀ g x, s.group? g = some x → ∃ y, t.group? g = some y ∧ (coreCluster x.core = n → y = { x with skid := 0, stepped := false }) ∧
          (coreCluster x.core ≠ n → y = x)) ∧
      (s.stepTarget n = none → ∃ t, exec (.dbgStep n) s = .next t ∧ Spec.stepped s t n .notLive) ∧
      (∀ l, s.stepTarget n = some l → (s.thread l).live = false → ∃ t, exec (.dbgStep n) s = .next t ∧ Spec.stepped s t n .notLive) ∧
      (∀ l h, s.stepTarget n = some l → (s.thread l).live = true → (s.thread l).hold = some h →
        ∃ t, exec (.dbgStep n) s = .next t ∧ ∃ o, Spec.clusterBecomes s t n { c with stepst := o, stepping := o == .waitStall, stepLane := some l, dbgctl := if o = .waitStall then c.dbgctl else c.dbgctl &&& ~~~8#64 } ∧
          (h.kind = .commit → o = .waitStall) ∧ (∀ j, h.kind = .waitj j → o = .waitBar) ∧ (h.kind = .bar → o = .waitBar) ∧ (h.kind = .round → o = .waitOther) ∧
          (∀ q, h.kind = .waitb q → o = .waitOther)) ∧
      (∀ l x s1, s.stepTarget n = some l → (s.thread l).live = true → (s.thread l).hold = none → (s.thread l).mid = true →
        (s.modCluster n fun c => { c with stepLane := some l }).clauseOf (s.grp l.g).core (s.grp l.g).part (s.thread l).pc (s.thread l).clauseAddr = (.ok x, s1) →
        s1.headerFault l x.hdr = none →
        ∃ t k gang, exec (.dbgStep n) s = .next t ∧ t.gang? k = some gang ∧ gang.step = true ∧ (∀ m ∈ gang.lanes, m.g = l.g ∧ m.t = l.t) ∧
          l ∈ gang.lanes ∧ gang.clause = x ∧ (t.cluster n).stepst = .waitStall ∧ (t.cluster n).stepping = true)) ∧
    (c.stopped = false ∨ c.stepping = false → Spec.nothing (.dbgCancel n) s) ∧
    (c.stopped = true → c.stepping = true →
      (s.stepGang n = none → ∃ t, exec (.dbgCancel n) s = .next t ∧
        Spec.clusterBecomes s t n { c with stepst := .none, stepping := false, dbgctl := c.dbgctl &&& ~~~8#64 }) ∧
      (∀ k gang, s.stepGang n = some (k, gang) → gang.wip.isSome → Spec.nothing (.dbgCancel n) s) ∧
      (∀ k gang l, s.stepGang n = some (k, gang) → gang.wip = none → gang.lanes = [l] → (s.thread? l).isSome →
        ∃ t, exec (.dbgCancel n) s = .next t ∧ t.gang? k = none ∧ (t.cluster n).stepst = .none ∧ (t.cluster n).stepping = false ∧
          t.thread? l = some (if (s.thread l).mid then { s.thread l with sofar := (gang.ops.filter fun o => o.lane.g == l.g && o.lane.t == l.t).map fun o => o.op, sofarYld := gang.yld } else { s.thread l with pc := gang.clause.addr })))

/-- R398, R399, R401 to R408: a heartbeat that stays unanswered fences the die and no home is left on it while another die has cores; the rebuild
ends when Luna says so; zones take their temperatures; a power above LIMIT is counted; a recalibration within its limits is taken, another is not.
The model's own choices in it: log entries 9, 15, 18, 47 and 48. -/
def Obligations.DieEvents : Prop :=
  ∀ s : State,
    (∀ die, 16 ≤ die ∨ (s.die die).fenced = true ∨ s.boot.step ≠ 6 → Spec.nothing (.heartbeatTimeout die) s) ∧
    (∀ die, die < 16 → (s.die die).fenced = false → s.boot.step = 6 →
      ∃ t, exec (.heartbeatTimeout die) s = .next t ∧ (t.die die).fenced = true ∧ (t.die die).sites = 0 ∧ (t.die die).fencedAt.isSome ∧
        (((List.range 16).map fun d => sitesOf (t.die d).sites).sum < 1440 → t.boot.degraded = true) ∧
        (∀ c ∈ t.cores, coreDie c.1 ≠ die) ∧ (∀ p ∈ t.parts, p.2.hasDie die = false ∧ ∀ x ∈ p.2.ctxs, x.die ≠ die) ∧
        ((∃ d, d < 16 ∧ (t.die d).fenced = false ∧ 0 < t.coresOf d) → ∀ i, i < 256 → t.homemap.get 0 i ≠ die) ∧
        ∀ i, i < 256 → s.homemap.get 0 i ≠ die → t.homemap.get 0 i = s.homemap.get 0 i) ∧
    (s.rebuilding = false → Spec.nothing .rebuildComplete s) ∧
    (s.rebuilding = true → (∀ e ∈ s.launches, e.2.affected = false) →
      (∀ e ∈ s.parts, e.2.state = .free ∨ e.2.state = .killing ∨ e.2.dies ≠ []) →
      Spec.tablesFresh s →
      ∃ t, exec .rebuildComplete s = .next t ∧ t = { s with dies := t.dies, lostHomes := [], sectors := t.sectors } ∧
        (∀ d, t.die d = { s.die d with fencedAt := none }) ∧
        ∀ k, t.sector k = { s.sector k with poison := (s.sector k).poison || (s.sector k).gone == some true, gone := none }) ∧
    (∀ l x, s.rebuilding = true → s.launches = [(l, x)] → x.affected = true → x.state = .running → x.lrec.idem = false → x.replayable = false →
      s.crews = [] → x.reason = none → (∀ e ∈ s.parts, e.2.state = .free ∨ e.2.state = .killing ∨ e.2.dies ≠ []) →
      ∃ t, exec .rebuildComplete s = .next t ∧ t.rebuilding = false ∧ t.launch? l = some { x with affected := false, reason := some .uncorrected, fault := none }) ∧
    (∀ die temps, s.boot.step ≠ 6 → Spec.nothing (.zoneUpdate die temps) s) ∧
    (∀ die (temps : List (BitVec 16)), die < 16 → s.boot.step = 6 →
      ((∀ k x, k < 16 → temps[k]? = some x → x.toNat < 1760) → ∃ t, exec (.zoneUpdate die temps) s = .next t ∧
        (t.die die).fenced = (s.die die).fenced ∧
        ∀ k, k < 16 → (∀ x, temps[k]? = some x → Spec.zoneStep ((s.die die).zone k) ((t.die die).zone k) x.toNat) ∧
          (temps[k]? = none → (t.die die).zone k = (s.die die).zone k)) ∧
      ((∃ k x, k < 16 ∧ temps[k]? = some x ∧ 1760 ≤ x.toNat) →
        ∃ t, exec (.zoneUpdate die temps) s = .next t ∧ (t.die die).fenced = true)) ∧
    (∀ watts : BitVec 16, s.boot.step = 6 → ∃ t, exec (.powerMeasure watts) s = .next t ∧ t = { s with pwr := t.pwr } ∧
      t.pwr.meas = watts.toNat ∧ t.pwr.limit = s.pwr.limit ∧ (s.pwr.limit < watts.toNat → t.pwr.throt = min 65535 (s.pwr.throt + 1)) ∧
      (watts.toNat ≤ s.pwr.limit → t.pwr.throt = s.pwr.throt)) ∧
    (∀ die toff trate, let u := s.modDie die fun d => { d with toff, trate }
      let moved := u.packageTime die (s.dclk die) - s.packageTime die (s.dclk die)
      (2 ^ 30 < (trate : BitVec 31).toInt.natAbs ∨ moved < 0 ∨ 4 < moved ∨ (s.die die).fenced = true → Spec.nothing (.timeRecalibrate die toff trate) s) ∧
      (die < 16 → s.boot.step = 6 → (s.die die).fenced = false → trate.toInt.natAbs ≤ 2 ^ 30 → 0 ≤ moved → moved ≤ 4 →
        (∀ e, e < 16 → (s.die e).fenced = false → u.timesAgree die e = true ∧ u.timesAgree e die = true) →
        ∃ t, exec (.timeRecalibrate die toff trate) s = .next t ∧ (t.die die).toff = toff ∧ (t.die die).trate = trate ∧
          (∀ d, d ≠ die → (t.die d).toff = (s.die d).toff ∧ (t.die d).trate = (s.die d).trate) ∧
          ((∀ e ∈ s.parts, e.2.ttab.getLsbD 0 = false) → t.die die = { s.die die with toff, trate } ∧ ∀ d, d ≠ die → t.die d = s.die d)))

/-- R403, R409 to R412: POWER_UP takes a valid slot to readiness, fences a die with fewer than 88 working sites, and gives every home map entry to a die
that is not fenced; without a valid slot only the recovery state is reached. Attestation reports what it signs.
The model's own choices in it: log entries 13, 14 and 49. -/
def Obligations.BringUpEvents : Prop :=
  ∀ s : State,
    (∀ x, s.boot.step ≠ 1 → Spec.nothing (.powerUp x) s) ∧
    (∀ x, s.boot.step = 1 →
      (bootSlot x = none → exec (.powerUp x) s = .next { s with boot := { s.boot with recovery := true } }) ∧
      (∀ f b, bootSlot x = some (f, b) → let pkg := Config.parseImage ((f.cfg.drop 256).take (byteField f.cfg 12 4))
        ∃ t, exec (.powerUp x) s = .next t ∧ t.boot.step = 6 ∧ t.boot.recovery = false ∧ t.boot.slotB = b ∧ t.pkg = pkg ∧
          t.boot.fwDigest = (f.fw.drop 16).take 48 ∧ t.boot.cfgDigest = (f.cfg.drop 16).take 48 ∧ t.pwr.limit = pkgWatts pkg ∧
          (∀ d, d < 16 → let m := x.sites.getD d 0
            ((t.die d).fenced = true ↔ sitesOf m < 88) ∧ (88 ≤ sitesOf m → (t.die d).sites = m) ∧
            (t.die d).toff = (x.calib.getD d (0, 0)).1 ∧ (t.die d).trate = (x.calib.getD d (0, 0)).2) ∧
          (∀ d e, d < 16 → e < 16 → t.timesAgree d e = true) ∧
          (∀ n, n < 48 → (t.spanPort n).enabled = pkg.spanPorts.getLsbD n) ∧
          ((∃ d, d < 16 ∧ (t.die d).fenced = false) → ∀ i, i < 256 → (t.die (t.homemap.get 0 i)).fenced = false ∧ t.homemap.get 0 i < 16))) ∧
    (∀ port, (2 ≤ port ∨ s.boot.step ≠ 6 ∨ (s.hostPort port).attBusy = true → Spec.nothing (.attestRequest port) s) ∧
      (port < 2 → s.boot.step = 6 → (s.hostPort port).attBusy = false → ∃ t, exec (.attestRequest port) s = .next t ∧
        Spec.hostPortIs s t port { s.hostPort port with attBusy := true })) ∧
    ((∀ p, p < 2 → (s.hostPort p).attBusy = false) → Spec.nothing .attestDone s) ∧
    (∀ p, p < 2 → (s.hostPort p).attBusy = true → (∀ q, q < p → (s.hostPort q).attBusy = false) → (s.hostPort p).nonce.length = 48 →
      let h := s.hostPort p
      let sig := Config.identitySign Config.identityKey (Config.sha384 (s.attested h.nonce))
      ∃ t, exec .attestDone s = .next t ∧
        Spec.hostPortIs s t p { h with attBusy := false, report := s.boot.fwDigest ++ s.boot.cfgDigest ++ sig })

/-- R341, R342, R347, R357, R359, R360, R377, R397, R407, R408, R412: a register write before readiness changes nothing; then it reaches the named field,
and a field its rule protects keeps its value.
The model's own choices in it: log entries 14, 50 and 51. -/
def Obligations.RegisterWrites : Prop :=
  ∀ s : State,
    (∀ x, s.boot.step ≠ 6 ∨ x.off % 8 ≠ 0 → Spec.nothing (.registerWrite x) s) ∧
    (∀ (port : Fin 2) (p : Fin 16) k val, k < 16 → let y := s.partn p.val
      let x : RegWrite := { space := .pf port, off := 0x1000 + 0x80 * p.val + 8 * k, val }
      (y.state = .free → Spec.writesTo s x fun t => Spec.partBecomes s t p.val { y with cfg := y.cfg.set k val }) ∧
      (y.state ≠ .free → Spec.nothing (.registerWrite x) s)) ∧
    (∀ (p : Fin 16) val, let y := s.partn p.val
      let at' := fun (o : Nat) => ({ space := .vf p, off := o, val } : RegWrite)
      (val.getLsbD 12 = true → Spec.writesTo s (at' 0x00) fun t => Spec.partBecomes s t p.val { y with killdone := false }) ∧
      (val = 2 → y.state ≠ .resident → s.boot.recovery = false → Spec.writesTo s (at' 0x08) fun t =>
        Spec.partBecomes s t p.val { y with wakepend := true, wakeAt := y.wakeAt <|> some s.time }) ∧
      (val = 8 → Spec.nothing (.registerWrite (at' 0x08)) s) ∧
      (y.tlbBusy = false → Spec.writesTo s (at' 0x10) fun t => Spec.partBecomes s t p.val { y with tlbinva := val &&& ~~~0xFFF#64 }) ∧
      (y.tlbBusy = true → Spec.nothing (.registerWrite (at' 0x10)) s ∧ Spec.nothing (.registerWrite (at' 0x18)) s) ∧
      (s.snapBusy p.val = false →
        (Spec.writesTo s (at' 0x20) fun t => Spec.partBecomes s t p.val { y with snapbase := val &&& 0x000F_FFFF_FFFF_0000#64 }) ∧
        Spec.writesTo s (at' 0x28) fun t => Spec.partBecomes s t p.val { y with snaplen := natField val.toNat 0 20 }) ∧
      (s.snapBusy p.val = true → Spec.nothing (.registerWrite (at' 0x20)) s ∧ Spec.nothing (.registerWrite (at' 0x28)) s) ∧
      (val.getLsbD 0 = false → Spec.writesTo s (at' 0x38) fun t => Spec.partBecomes s t p.val { y with ttab := val &&& ~~~0x1FE#64 })) ∧
    (∀ g off bs val, s.inView g = false → Spec.nothing (.registerWrite { space := .view g bs, off, val }) s) ∧
    (∀ (port : Fin 2) clu u val, clu < 64 → u < 16 → let c := s.cluster clu
      let w : WatchUnit := c.wu.get { lo := 0, hi := 0, ctl := 0, thr := 0 } u
      let at' := fun (o : Nat) => ({ space := .pf port, off := 0x8000 + 0x800 * clu + o, val } : RegWrite)
      (Spec.writesTo s (at' (32 * u)) fun t => Spec.clusterBecomes s t clu { c with wu := c.wu.set u { w with lo := val } }) ∧
      (Spec.writesTo s (at' (32 * u + 8)) fun t => Spec.clusterBecomes s t clu { c with wu := c.wu.set u { w with hi := val } }) ∧
      ((s.partn (natField val.toNat 12 4)).debug = false → Spec.writesTo s (at' (32 * u + 16)) fun t =>
        ((t.cluster clu).wu.get { lo := 0, hi := 0, ctl := 0, thr := 0 } u).ctl.getLsbD 0 = false) ∧
      (Spec.writesTo s (at' 0x210) fun t => Spec.clusterBecomes s t clu { c with gsel := val &&& 0x1F#64 })) ∧
    (∀ (port : Fin 2) val, let x : RegWrite := { space := .bar2 port, off := 0x1000_0100, val }
      let n := natField val.toNat 0 13
      (1000 ≤ n → n ≤ 5400 → Spec.writesTo s x fun t => t = { s with pwr := { s.pwr with limit := n } }) ∧
      (n < 1000 ∨ 5400 < n → Spec.nothing (.registerWrite x) s)) ∧
    (∀ (port : Fin 2) die k val, die < 16 → k < 16 → let x : RegWrite := { space := .bar2 port, off := 0x100_0000 * die + 0x3_0000 + 8 * k, val }
      let n := natField val.toNat 32 8
      let z := (s.die die).zone k
      Spec.writesTo s x fun t => zoneTtgt ((t.die die).zone k) = (if 60 ≤ n ∧ n ≤ 95 then n else zoneTtgt z) ∧
        zoneValve ((t.die die).zone k) = zoneValve z ∧ Spec.zoneHot ((t.die die).zone k) = (Spec.zoneHot z && !val.getLsbD 40))
end

