-- ==== Sys2Proof/Laws/Tables.lean ====
section
/-! SUPPORT. What a table of numbered things answers after each of its operations: one lemma for the number that was changed
and one for every other number. -/

namespace Sys2Proof.AMap

variable {α : Type}

theorem get_eq_find? (d : α) (m : AMap α) (k : Nat) : get d m k = (find? m k).getD d := by
  induction m with
  | nil => rfl
  | cons e r ih =>
    obtain ⟨j, v⟩ := e
    by_cases h : j = k <;> simp [get, find?, h, ih]

@[simp] theorem find?_nil (k : Nat) : find? ([] : AMap α) k = none := rfl

@[simp] theorem get_nil (d : α) (k : Nat) : get d ([] : AMap α) k = d := rfl

@[simp] theorem find?_set_self (k : Nat) (v : α) (m : AMap α) : find? (set k v m) k = some v := by
  induction m with
  | nil => simp [set, find?]
  | cons e r ih =>
    obtain ⟨j, w⟩ := e
    simp only [set]
    split
    · simp [find?]
    · split
      · simp [find?]
      · rename_i h
        simp [find?, h, ih]

theorem find?_set_ne {j k : Nat} (h : j ≠ k) (v : α) (m : AMap α) : find? (set k v m) j = find? m j := by
  induction m with
  | nil => simp [set, find?, Ne.symm h]
  | cons e r ih =>
    obtain ⟨i, w⟩ := e
    simp only [set]
    split
    · simp [find?, Ne.symm h]
    · split
      · rename_i hi
        subst hi
        simp [find?, Ne.symm h]
      · simp [find?, ih]

@[simp] theorem get_set_self (d : α) (k : Nat) (v : α) (m : AMap α) : get d (set k v m) k = v := by
  simp [get_eq_find?]

theorem get_set_ne {j k : Nat} (h : j ≠ k) (d v : α) (m : AMap α) : get d (set k v m) j = get d m j := by
  simp [get_eq_find?, find?_set_ne h]

@[simp] theorem find?_modify_self (k : Nat) (f : α → α) (m : AMap α) : find? (modify k f m) k = (find? m k).map f := by
  induction m with
  | nil => rfl
  | cons e r ih =>
    obtain ⟨j, v⟩ := e
    by_cases h : j = k <;> simp [modify, find?, h, ih]

theorem find?_modify_ne {j k : Nat} (h : j ≠ k) (f : α → α) (m : AMap α) : find? (modify k f m) j = find? m j := by
  induction m with
  | nil => rfl
  | cons e r ih =>
    obtain ⟨i, v⟩ := e
    by_cases hi : i = k
    · subst hi
      simp [modify, find?, Ne.symm h]
    · simp [modify, find?, hi, ih]

@[simp] theorem find?_erase_self (k : Nat) (m : AMap α) : find? (erase k m) k = none := by
  induction m with
  | nil => rfl
  | cons e r ih =>
    obtain ⟨j, v⟩ := e
    by_cases h : j = k
    · simpa [erase, h] using ih
    · simpa [erase, find?, h] using ih

theorem find?_erase_ne {j k : Nat} (h : j ≠ k) (m : AMap α) : find? (erase k m) j = find? m j := by
  induction m with
  | nil => rfl
  | cons e r ih =>
    obtain ⟨i, v⟩ := e
    by_cases hi : i = k
    · subst hi
      simpa [erase, find?, Ne.symm h] using ih
    · by_cases hj : i = j
      · simp [erase, find?, hj, h]
      · simpa [erase, find?, hi, hj] using ih

@[simp] theorem find?_mapVals (f : Nat → α → α) (m : AMap α) (k : Nat) :
    find? (mapVals f m) k = (find? m k).map (f k) := by
  induction m with
  | nil => rfl
  | cons e r ih =>
    obtain ⟨j, v⟩ := e
    by_cases h : j = k
    · subst h
      simp [mapVals, find?]
    · simpa [mapVals, find?, h] using ih

theorem modify_none {k : Nat} (f : α → α) {m : AMap α} (h : find? m k = none) : modify k f m = m := by
  induction m with
  | nil => rfl
  | cons e r ih =>
    obtain ⟨j, v⟩ := e
    by_cases hj : j = k
    · simp [find?, hj] at h
    · simp only [find?, hj, if_false] at h
      simp [modify, hj, ih h]

theorem modify_id {k : Nat} {f : α → α} {m : AMap α} {v : α} (h : find? m k = some v) (hf : f v = v) :
    modify k f m = m := by
  induction m with
  | nil => rfl
  | cons e r ih =>
    obtain ⟨j, w⟩ := e
    by_cases hj : j = k
    · simp only [find?, hj, if_true, Option.some.injEq] at h
      simp [modify, hj, h, hf]
    · simp only [find?, hj, if_false] at h
      simp [modify, hj, ih h]

theorem modify_modify (k : Nat) (f g : α → α) (m : AMap α) :
    modify k g (modify k f m) = modify k (fun x => g (f x)) m := by
  induction m with
  | nil => rfl
  | cons e r ih =>
    obtain ⟨j, v⟩ := e
    by_cases h : j = k <;> simp [modify, h, ih]

theorem modify_congr {k : Nat} {f g : α → α} {m : AMap α} {v : α} (h : find? m k = some v) (hf : f v = g v) :
    modify k f m = modify k g m := by
  induction m with
  | nil => rfl
  | cons e r ih =>
    obtain ⟨j, w⟩ := e
    by_cases hj : j = k
    · simp only [find?, hj, if_true, Option.some.injEq] at h
      simp [modify, hj, h, hf]
    · simp only [find?, hj, if_false] at h
      simp [modify, hj, ih h]

theorem mem_of_find? {k : Nat} {m : AMap α} {v : α} (h : find? m k = some v) : (k, v) ∈ m := by
  induction m with
  | nil => simp at h
  | cons e r ih =>
    obtain ⟨j, w⟩ := e
    by_cases hj : j = k
    · simp only [find?, hj, if_true, Option.some.injEq] at h
      simp [hj, h]
    · simp only [find?, hj, if_false] at h
      exact List.mem_cons_of_mem _ (ih h)

end Sys2Proof.AMap
end

