-- ==== Sys2Proof/Laws/State.lean ====
section
/-! SUPPORT. What each update of one part of the state leaves in each field of the state: one lemma per field and update. -/

namespace Sys2Proof.Machine

variable (s : State)

/-! ### State.modGroup -/

@[simp] theorem State.modGroup_agenda (g : Nat) (f : Group → Group) : (s.modGroup g f).agenda = s.agenda := rfl
@[simp] theorem State.modGroup_cur (g : Nat) (f : Group → Group) : (s.modGroup g f).cur = s.cur := rfl
@[simp] theorem State.modGroup_free (g : Nat) (f : Group → Group) : (s.modGroup g f).free = s.free := rfl
@[simp] theorem State.modGroup_nextId (g : Nat) (f : Group → Group) : (s.modGroup g f).nextId = s.nextId := rfl
@[simp] theorem State.modGroup_time (g : Nat) (f : Group → Group) : (s.modGroup g f).time = s.time := rfl
@[simp] theorem State.modGroup_groups (g : Nat) (f : Group → Group) : (s.modGroup g f).groups = s.groups.modify g f := rfl
@[simp] theorem State.modGroup_gangs (g : Nat) (f : Group → Group) : (s.modGroup g f).gangs = s.gangs := rfl
@[simp] theorem State.modGroup_crews (g : Nat) (f : Group → Group) : (s.modGroup g f).crews = s.crews := rfl
@[simp] theorem State.modGroup_cores (g : Nat) (f : Group → Group) : (s.modGroup g f).cores = s.cores := rfl
@[simp] theorem State.modGroup_clusters (g : Nat) (f : Group → Group) : (s.modGroup g f).clusters = s.clusters := rfl
@[simp] theorem State.modGroup_dies (g : Nat) (f : Group → Group) : (s.modGroup g f).dies = s.dies := rfl
@[simp] theorem State.modGroup_parts (g : Nat) (f : Group → Group) : (s.modGroup g f).parts = s.parts := rfl
@[simp] theorem State.modGroup_launches (g : Nat) (f : Group → Group) : (s.modGroup g f).launches = s.launches := rfl
@[simp] theorem State.modGroup_ops (g : Nat) (f : Group → Group) : (s.modGroup g f).ops = s.ops := rfl
@[simp] theorem State.modGroup_copies (g : Nat) (f : Group → Group) : (s.modGroup g f).copies = s.copies := rfl
@[simp] theorem State.modGroup_mem (g : Nat) (f : Group → Group) : (s.modGroup g f).mem = s.mem := rfl
@[simp] theorem State.modGroup_sectors (g : Nat) (f : Group → Group) : (s.modGroup g f).sectors = s.sectors := rfl
@[simp] theorem State.modGroup_hostCache (g : Nat) (f : Group → Group) : (s.modGroup g f).hostCache = s.hostCache := rfl
@[simp] theorem State.modGroup_span (g : Nat) (f : Group → Group) : (s.modGroup g f).span = s.span := rfl
@[simp] theorem State.modGroup_hosts (g : Nat) (f : Group → Group) : (s.modGroup g f).hosts = s.hosts := rfl
@[simp] theorem State.modGroup_homemap (g : Nat) (f : Group → Group) : (s.modGroup g f).homemap = s.homemap := rfl
@[simp] theorem State.modGroup_rels (g : Nat) (f : Group → Group) : (s.modGroup g f).rels = s.rels := rfl
@[simp] theorem State.modGroup_lostHomes (g : Nat) (f : Group → Group) : (s.modGroup g f).lostHomes = s.lostHomes := rfl
@[simp] theorem State.modGroup_pwr (g : Nat) (f : Group → Group) : (s.modGroup g f).pwr = s.pwr := rfl
@[simp] theorem State.modGroup_boot (g : Nat) (f : Group → Group) : (s.modGroup g f).boot = s.boot := rfl
@[simp] theorem State.modGroup_pkg (g : Nat) (f : Group → Group) : (s.modGroup g f).pkg = s.pkg := rfl
@[simp] theorem State.modGroup_msgs (g : Nat) (f : Group → Group) : (s.modGroup g f).msgs = s.msgs := rfl

/-! ### State.modGang -/

@[simp] theorem State.modGang_agenda (k : Nat) (f : Gang → Gang) : (s.modGang k f).agenda = s.agenda := rfl
@[simp] theorem State.modGang_cur (k : Nat) (f : Gang → Gang) : (s.modGang k f).cur = s.cur := rfl
@[simp] theorem State.modGang_free (k : Nat) (f : Gang → Gang) : (s.modGang k f).free = s.free := rfl
@[simp] theorem State.modGang_nextId (k : Nat) (f : Gang → Gang) : (s.modGang k f).nextId = s.nextId := rfl
@[simp] theorem State.modGang_time (k : Nat) (f : Gang → Gang) : (s.modGang k f).time = s.time := rfl
@[simp] theorem State.modGang_groups (k : Nat) (f : Gang → Gang) : (s.modGang k f).groups = s.groups := rfl
@[simp] theorem State.modGang_gangs (k : Nat) (f : Gang → Gang) : (s.modGang k f).gangs = s.gangs.modify k f := rfl
@[simp] theorem State.modGang_crews (k : Nat) (f : Gang → Gang) : (s.modGang k f).crews = s.crews := rfl
@[simp] theorem State.modGang_cores (k : Nat) (f : Gang → Gang) : (s.modGang k f).cores = s.cores := rfl
@[simp] theorem State.modGang_clusters (k : Nat) (f : Gang → Gang) : (s.modGang k f).clusters = s.clusters := rfl
@[simp] theorem State.modGang_dies (k : Nat) (f : Gang → Gang) : (s.modGang k f).dies = s.dies := rfl
@[simp] theorem State.modGang_parts (k : Nat) (f : Gang → Gang) : (s.modGang k f).parts = s.parts := rfl
@[simp] theorem State.modGang_launches (k : Nat) (f : Gang → Gang) : (s.modGang k f).launches = s.launches := rfl
@[simp] theorem State.modGang_ops (k : Nat) (f : Gang → Gang) : (s.modGang k f).ops = s.ops := rfl
@[simp] theorem State.modGang_copies (k : Nat) (f : Gang → Gang) : (s.modGang k f).copies = s.copies := rfl
@[simp] theorem State.modGang_mem (k : Nat) (f : Gang → Gang) : (s.modGang k f).mem = s.mem := rfl
@[simp] theorem State.modGang_sectors (k : Nat) (f : Gang → Gang) : (s.modGang k f).sectors = s.sectors := rfl
@[simp] theorem State.modGang_hostCache (k : Nat) (f : Gang → Gang) : (s.modGang k f).hostCache = s.hostCache := rfl
@[simp] theorem State.modGang_span (k : Nat) (f : Gang → Gang) : (s.modGang k f).span = s.span := rfl
@[simp] theorem State.modGang_hosts (k : Nat) (f : Gang → Gang) : (s.modGang k f).hosts = s.hosts := rfl
@[simp] theorem State.modGang_homemap (k : Nat) (f : Gang → Gang) : (s.modGang k f).homemap = s.homemap := rfl
@[simp] theorem State.modGang_rels (k : Nat) (f : Gang → Gang) : (s.modGang k f).rels = s.rels := rfl
@[simp] theorem State.modGang_lostHomes (k : Nat) (f : Gang → Gang) : (s.modGang k f).lostHomes = s.lostHomes := rfl
@[simp] theorem State.modGang_pwr (k : Nat) (f : Gang → Gang) : (s.modGang k f).pwr = s.pwr := rfl
@[simp] theorem State.modGang_boot (k : Nat) (f : Gang → Gang) : (s.modGang k f).boot = s.boot := rfl
@[simp] theorem State.modGang_pkg (k : Nat) (f : Gang → Gang) : (s.modGang k f).pkg = s.pkg := rfl
@[simp] theorem State.modGang_msgs (k : Nat) (f : Gang → Gang) : (s.modGang k f).msgs = s.msgs := rfl

/-! ### State.modCrew -/

@[simp] theorem State.modCrew_agenda (c : Nat) (f : Crew → Crew) : (s.modCrew c f).agenda = s.agenda := rfl
@[simp] theorem State.modCrew_cur (c : Nat) (f : Crew → Crew) : (s.modCrew c f).cur = s.cur := rfl
@[simp] theorem State.modCrew_free (c : Nat) (f : Crew → Crew) : (s.modCrew c f).free = s.free := rfl
@[simp] theorem State.modCrew_nextId (c : Nat) (f : Crew → Crew) : (s.modCrew c f).nextId = s.nextId := rfl
@[simp] theorem State.modCrew_time (c : Nat) (f : Crew → Crew) : (s.modCrew c f).time = s.time := rfl
@[simp] theorem State.modCrew_groups (c : Nat) (f : Crew → Crew) : (s.modCrew c f).groups = s.groups := rfl
@[simp] theorem State.modCrew_gangs (c : Nat) (f : Crew → Crew) : (s.modCrew c f).gangs = s.gangs := rfl
@[simp] theorem State.modCrew_crews (c : Nat) (f : Crew → Crew) : (s.modCrew c f).crews = s.crews.modify c f := rfl
@[simp] theorem State.modCrew_cores (c : Nat) (f : Crew → Crew) : (s.modCrew c f).cores = s.cores := rfl
@[simp] theorem State.modCrew_clusters (c : Nat) (f : Crew → Crew) : (s.modCrew c f).clusters = s.clusters := rfl
@[simp] theorem State.modCrew_dies (c : Nat) (f : Crew → Crew) : (s.modCrew c f).dies = s.dies := rfl
@[simp] theorem State.modCrew_parts (c : Nat) (f : Crew → Crew) : (s.modCrew c f).parts = s.parts := rfl
@[simp] theorem State.modCrew_launches (c : Nat) (f : Crew → Crew) : (s.modCrew c f).launches = s.launches := rfl
@[simp] theorem State.modCrew_ops (c : Nat) (f : Crew → Crew) : (s.modCrew c f).ops = s.ops := rfl
@[simp] theorem State.modCrew_copies (c : Nat) (f : Crew → Crew) : (s.modCrew c f).copies = s.copies := rfl
@[simp] theorem State.modCrew_mem (c : Nat) (f : Crew → Crew) : (s.modCrew c f).mem = s.mem := rfl
@[simp] theorem State.modCrew_sectors (c : Nat) (f : Crew → Crew) : (s.modCrew c f).sectors = s.sectors := rfl
@[simp] theorem State.modCrew_hostCache (c : Nat) (f : Crew → Crew) : (s.modCrew c f).hostCache = s.hostCache := rfl
@[simp] theorem State.modCrew_span (c : Nat) (f : Crew → Crew) : (s.modCrew c f).span = s.span := rfl
@[simp] theorem State.modCrew_hosts (c : Nat) (f : Crew → Crew) : (s.modCrew c f).hosts = s.hosts := rfl
@[simp] theorem State.modCrew_homemap (c : Nat) (f : Crew → Crew) : (s.modCrew c f).homemap = s.homemap := rfl
@[simp] theorem State.modCrew_rels (c : Nat) (f : Crew → Crew) : (s.modCrew c f).rels = s.rels := rfl
@[simp] theorem State.modCrew_lostHomes (c : Nat) (f : Crew → Crew) : (s.modCrew c f).lostHomes = s.lostHomes := rfl
@[simp] theorem State.modCrew_pwr (c : Nat) (f : Crew → Crew) : (s.modCrew c f).pwr = s.pwr := rfl
@[simp] theorem State.modCrew_boot (c : Nat) (f : Crew → Crew) : (s.modCrew c f).boot = s.boot := rfl
@[simp] theorem State.modCrew_pkg (c : Nat) (f : Crew → Crew) : (s.modCrew c f).pkg = s.pkg := rfl
@[simp] theorem State.modCrew_msgs (c : Nat) (f : Crew → Crew) : (s.modCrew c f).msgs = s.msgs := rfl

/-! ### State.setCore -/

@[simp] theorem State.setCore_agenda (c : Nat) (x : Core) : (s.setCore c x).agenda = s.agenda := rfl
@[simp] theorem State.setCore_cur (c : Nat) (x : Core) : (s.setCore c x).cur = s.cur := rfl
@[simp] theorem State.setCore_free (c : Nat) (x : Core) : (s.setCore c x).free = s.free := rfl
@[simp] theorem State.setCore_nextId (c : Nat) (x : Core) : (s.setCore c x).nextId = s.nextId := rfl
@[simp] theorem State.setCore_time (c : Nat) (x : Core) : (s.setCore c x).time = s.time := rfl
@[simp] theorem State.setCore_groups (c : Nat) (x : Core) : (s.setCore c x).groups = s.groups := rfl
@[simp] theorem State.setCore_gangs (c : Nat) (x : Core) : (s.setCore c x).gangs = s.gangs := rfl
@[simp] theorem State.setCore_crews (c : Nat) (x : Core) : (s.setCore c x).crews = s.crews := rfl
@[simp] theorem State.setCore_cores (c : Nat) (x : Core) : (s.setCore c x).cores = s.cores.set c x := rfl
@[simp] theorem State.setCore_clusters (c : Nat) (x : Core) : (s.setCore c x).clusters = s.clusters := rfl
@[simp] theorem State.setCore_dies (c : Nat) (x : Core) : (s.setCore c x).dies = s.dies := rfl
@[simp] theorem State.setCore_parts (c : Nat) (x : Core) : (s.setCore c x).parts = s.parts := rfl
@[simp] theorem State.setCore_launches (c : Nat) (x : Core) : (s.setCore c x).launches = s.launches := rfl
@[simp] theorem State.setCore_ops (c : Nat) (x : Core) : (s.setCore c x).ops = s.ops := rfl
@[simp] theorem State.setCore_copies (c : Nat) (x : Core) : (s.setCore c x).copies = s.copies := rfl
@[simp] theorem State.setCore_mem (c : Nat) (x : Core) : (s.setCore c x).mem = s.mem := rfl
@[simp] theorem State.setCore_sectors (c : Nat) (x : Core) : (s.setCore c x).sectors = s.sectors := rfl
@[simp] theorem State.setCore_hostCache (c : Nat) (x : Core) : (s.setCore c x).hostCache = s.hostCache := rfl
@[simp] theorem State.setCore_span (c : Nat) (x : Core) : (s.setCore c x).span = s.span := rfl
@[simp] theorem State.setCore_hosts (c : Nat) (x : Core) : (s.setCore c x).hosts = s.hosts := rfl
@[simp] theorem State.setCore_homemap (c : Nat) (x : Core) : (s.setCore c x).homemap = s.homemap := rfl
@[simp] theorem State.setCore_rels (c : Nat) (x : Core) : (s.setCore c x).rels = s.rels := rfl
@[simp] theorem State.setCore_lostHomes (c : Nat) (x : Core) : (s.setCore c x).lostHomes = s.lostHomes := rfl
@[simp] theorem State.setCore_pwr (c : Nat) (x : Core) : (s.setCore c x).pwr = s.pwr := rfl
@[simp] theorem State.setCore_boot (c : Nat) (x : Core) : (s.setCore c x).boot = s.boot := rfl
@[simp] theorem State.setCore_pkg (c : Nat) (x : Core) : (s.setCore c x).pkg = s.pkg := rfl
@[simp] theorem State.setCore_msgs (c : Nat) (x : Core) : (s.setCore c x).msgs = s.msgs := rfl

/-! ### State.modCore -/

@[simp] theorem State.modCore_agenda (c : Nat) (f : Core → Core) : (s.modCore c f).agenda = s.agenda := rfl
@[simp] theorem State.modCore_cur (c : Nat) (f : Core → Core) : (s.modCore c f).cur = s.cur := rfl
@[simp] theorem State.modCore_free (c : Nat) (f : Core → Core) : (s.modCore c f).free = s.free := rfl
@[simp] theorem State.modCore_nextId (c : Nat) (f : Core → Core) : (s.modCore c f).nextId = s.nextId := rfl
@[simp] theorem State.modCore_time (c : Nat) (f : Core → Core) : (s.modCore c f).time = s.time := rfl
@[simp] theorem State.modCore_groups (c : Nat) (f : Core → Core) : (s.modCore c f).groups = s.groups := rfl
@[simp] theorem State.modCore_gangs (c : Nat) (f : Core → Core) : (s.modCore c f).gangs = s.gangs := rfl
@[simp] theorem State.modCore_crews (c : Nat) (f : Core → Core) : (s.modCore c f).crews = s.crews := rfl
@[simp] theorem State.modCore_cores (c : Nat) (f : Core → Core) : (s.modCore c f).cores = s.cores.set c (f (s.core c)) := rfl
@[simp] theorem State.modCore_clusters (c : Nat) (f : Core → Core) : (s.modCore c f).clusters = s.clusters := rfl
@[simp] theorem State.modCore_dies (c : Nat) (f : Core → Core) : (s.modCore c f).dies = s.dies := rfl
@[simp] theorem State.modCore_parts (c : Nat) (f : Core → Core) : (s.modCore c f).parts = s.parts := rfl
@[simp] theorem State.modCore_launches (c : Nat) (f : Core → Core) : (s.modCore c f).launches = s.launches := rfl
@[simp] theorem State.modCore_ops (c : Nat) (f : Core → Core) : (s.modCore c f).ops = s.ops := rfl
@[simp] theorem State.modCore_copies (c : Nat) (f : Core → Core) : (s.modCore c f).copies = s.copies := rfl
@[simp] theorem State.modCore_mem (c : Nat) (f : Core → Core) : (s.modCore c f).mem = s.mem := rfl
@[simp] theorem State.modCore_sectors (c : Nat) (f : Core → Core) : (s.modCore c f).sectors = s.sectors := rfl
@[simp] theorem State.modCore_hostCache (c : Nat) (f : Core → Core) : (s.modCore c f).hostCache = s.hostCache := rfl
@[simp] theorem State.modCore_span (c : Nat) (f : Core → Core) : (s.modCore c f).span = s.span := rfl
@[simp] theorem State.modCore_hosts (c : Nat) (f : Core → Core) : (s.modCore c f).hosts = s.hosts := rfl
@[simp] theorem State.modCore_homemap (c : Nat) (f : Core → Core) : (s.modCore c f).homemap = s.homemap := rfl
@[simp] theorem State.modCore_rels (c : Nat) (f : Core → Core) : (s.modCore c f).rels = s.rels := rfl
@[simp] theorem State.modCore_lostHomes (c : Nat) (f : Core → Core) : (s.modCore c f).lostHomes = s.lostHomes := rfl
@[simp] theorem State.modCore_pwr (c : Nat) (f : Core → Core) : (s.modCore c f).pwr = s.pwr := rfl
@[simp] theorem State.modCore_boot (c : Nat) (f : Core → Core) : (s.modCore c f).boot = s.boot := rfl
@[simp] theorem State.modCore_pkg (c : Nat) (f : Core → Core) : (s.modCore c f).pkg = s.pkg := rfl
@[simp] theorem State.modCore_msgs (c : Nat) (f : Core → Core) : (s.modCore c f).msgs = s.msgs := rfl

/-! ### State.modCluster -/

@[simp] theorem State.modCluster_agenda (c : Nat) (f : Cluster → Cluster) : (s.modCluster c f).agenda = s.agenda := rfl
@[simp] theorem State.modCluster_cur (c : Nat) (f : Cluster → Cluster) : (s.modCluster c f).cur = s.cur := rfl
@[simp] theorem State.modCluster_free (c : Nat) (f : Cluster → Cluster) : (s.modCluster c f).free = s.free := rfl
@[simp] theorem State.modCluster_nextId (c : Nat) (f : Cluster → Cluster) : (s.modCluster c f).nextId = s.nextId := rfl
@[simp] theorem State.modCluster_time (c : Nat) (f : Cluster → Cluster) : (s.modCluster c f).time = s.time := rfl
@[simp] theorem State.modCluster_groups (c : Nat) (f : Cluster → Cluster) : (s.modCluster c f).groups = s.groups := rfl
@[simp] theorem State.modCluster_gangs (c : Nat) (f : Cluster → Cluster) : (s.modCluster c f).gangs = s.gangs := rfl
@[simp] theorem State.modCluster_crews (c : Nat) (f : Cluster → Cluster) : (s.modCluster c f).crews = s.crews := rfl
@[simp] theorem State.modCluster_cores (c : Nat) (f : Cluster → Cluster) : (s.modCluster c f).cores = s.cores := rfl
@[simp] theorem State.modCluster_clusters (c : Nat) (f : Cluster → Cluster) : (s.modCluster c f).clusters = s.clusters.set c (f (s.cluster c)) := rfl
@[simp] theorem State.modCluster_dies (c : Nat) (f : Cluster → Cluster) : (s.modCluster c f).dies = s.dies := rfl
@[simp] theorem State.modCluster_parts (c : Nat) (f : Cluster → Cluster) : (s.modCluster c f).parts = s.parts := rfl
@[simp] theorem State.modCluster_launches (c : Nat) (f : Cluster → Cluster) : (s.modCluster c f).launches = s.launches := rfl
@[simp] theorem State.modCluster_ops (c : Nat) (f : Cluster → Cluster) : (s.modCluster c f).ops = s.ops := rfl
@[simp] theorem State.modCluster_copies (c : Nat) (f : Cluster → Cluster) : (s.modCluster c f).copies = s.copies := rfl
@[simp] theorem State.modCluster_mem (c : Nat) (f : Cluster → Cluster) : (s.modCluster c f).mem = s.mem := rfl
@[simp] theorem State.modCluster_sectors (c : Nat) (f : Cluster → Cluster) : (s.modCluster c f).sectors = s.sectors := rfl
@[simp] theorem State.modCluster_hostCache (c : Nat) (f : Cluster → Cluster) : (s.modCluster c f).hostCache = s.hostCache := rfl
@[simp] theorem State.modCluster_span (c : Nat) (f : Cluster → Cluster) : (s.modCluster c f).span = s.span := rfl
@[simp] theorem State.modCluster_hosts (c : Nat) (f : Cluster → Cluster) : (s.modCluster c f).hosts = s.hosts := rfl
@[simp] theorem State.modCluster_homemap (c : Nat) (f : Cluster → Cluster) : (s.modCluster c f).homemap = s.homemap := rfl
@[simp] theorem State.modCluster_rels (c : Nat) (f : Cluster → Cluster) : (s.modCluster c f).rels = s.rels := rfl
@[simp] theorem State.modCluster_lostHomes (c : Nat) (f : Cluster → Cluster) : (s.modCluster c f).lostHomes = s.lostHomes := rfl
@[simp] theorem State.modCluster_pwr (c : Nat) (f : Cluster → Cluster) : (s.modCluster c f).pwr = s.pwr := rfl
@[simp] theorem State.modCluster_boot (c : Nat) (f : Cluster → Cluster) : (s.modCluster c f).boot = s.boot := rfl
@[simp] theorem State.modCluster_pkg (c : Nat) (f : Cluster → Cluster) : (s.modCluster c f).pkg = s.pkg := rfl
@[simp] theorem State.modCluster_msgs (c : Nat) (f : Cluster → Cluster) : (s.modCluster c f).msgs = s.msgs := rfl

/-! ### State.modDie -/

@[simp] theorem State.modDie_agenda (d : Nat) (f : Die → Die) : (s.modDie d f).agenda = s.agenda := rfl
@[simp] theorem State.modDie_cur (d : Nat) (f : Die → Die) : (s.modDie d f).cur = s.cur := rfl
@[simp] theorem State.modDie_free (d : Nat) (f : Die → Die) : (s.modDie d f).free = s.free := rfl
@[simp] theorem State.modDie_nextId (d : Nat) (f : Die → Die) : (s.modDie d f).nextId = s.nextId := rfl
@[simp] theorem State.modDie_time (d : Nat) (f : Die → Die) : (s.modDie d f).time = s.time := rfl
@[simp] theorem State.modDie_groups (d : Nat) (f : Die → Die) : (s.modDie d f).groups = s.groups := rfl
@[simp] theorem State.modDie_gangs (d : Nat) (f : Die → Die) : (s.modDie d f).gangs = s.gangs := rfl
@[simp] theorem State.modDie_crews (d : Nat) (f : Die → Die) : (s.modDie d f).crews = s.crews := rfl
@[simp] theorem State.modDie_cores (d : Nat) (f : Die → Die) : (s.modDie d f).cores = s.cores := rfl
@[simp] theorem State.modDie_clusters (d : Nat) (f : Die → Die) : (s.modDie d f).clusters = s.clusters := rfl
@[simp] theorem State.modDie_dies (d : Nat) (f : Die → Die) : (s.modDie d f).dies = s.dies.set d (f (s.die d)) := rfl
@[simp] theorem State.modDie_parts (d : Nat) (f : Die → Die) : (s.modDie d f).parts = s.parts := rfl
@[simp] theorem State.modDie_launches (d : Nat) (f : Die → Die) : (s.modDie d f).launches = s.launches := rfl
@[simp] theorem State.modDie_ops (d : Nat) (f : Die → Die) : (s.modDie d f).ops = s.ops := rfl
@[simp] theorem State.modDie_copies (d : Nat) (f : Die → Die) : (s.modDie d f).copies = s.copies := rfl
@[simp] theorem State.modDie_mem (d : Nat) (f : Die → Die) : (s.modDie d f).mem = s.mem := rfl
@[simp] theorem State.modDie_sectors (d : Nat) (f : Die → Die) : (s.modDie d f).sectors = s.sectors := rfl
@[simp] theorem State.modDie_hostCache (d : Nat) (f : Die → Die) : (s.modDie d f).hostCache = s.hostCache := rfl
@[simp] theorem State.modDie_span (d : Nat) (f : Die → Die) : (s.modDie d f).span = s.span := rfl
@[simp] theorem State.modDie_hosts (d : Nat) (f : Die → Die) : (s.modDie d f).hosts = s.hosts := rfl
@[simp] theorem State.modDie_homemap (d : Nat) (f : Die → Die) : (s.modDie d f).homemap = s.homemap := rfl
@[simp] theorem State.modDie_rels (d : Nat) (f : Die → Die) : (s.modDie d f).rels = s.rels := rfl
@[simp] theorem State.modDie_lostHomes (d : Nat) (f : Die → Die) : (s.modDie d f).lostHomes = s.lostHomes := rfl
@[simp] theorem State.modDie_pwr (d : Nat) (f : Die → Die) : (s.modDie d f).pwr = s.pwr := rfl
@[simp] theorem State.modDie_boot (d : Nat) (f : Die → Die) : (s.modDie d f).boot = s.boot := rfl
@[simp] theorem State.modDie_pkg (d : Nat) (f : Die → Die) : (s.modDie d f).pkg = s.pkg := rfl
@[simp] theorem State.modDie_msgs (d : Nat) (f : Die → Die) : (s.modDie d f).msgs = s.msgs := rfl

/-! ### State.modPart -/

@[simp] theorem State.modPart_agenda (p : Nat) (f : Partition → Partition) : (s.modPart p f).agenda = s.agenda := rfl
@[simp] theorem State.modPart_cur (p : Nat) (f : Partition → Partition) : (s.modPart p f).cur = s.cur := rfl
@[simp] theorem State.modPart_free (p : Nat) (f : Partition → Partition) : (s.modPart p f).free = s.free := rfl
@[simp] theorem State.modPart_nextId (p : Nat) (f : Partition → Partition) : (s.modPart p f).nextId = s.nextId := rfl
@[simp] theorem State.modPart_time (p : Nat) (f : Partition → Partition) : (s.modPart p f).time = s.time := rfl
@[simp] theorem State.modPart_groups (p : Nat) (f : Partition → Partition) : (s.modPart p f).groups = s.groups := rfl
@[simp] theorem State.modPart_gangs (p : Nat) (f : Partition → Partition) : (s.modPart p f).gangs = s.gangs := rfl
@[simp] theorem State.modPart_crews (p : Nat) (f : Partition → Partition) : (s.modPart p f).crews = s.crews := rfl
@[simp] theorem State.modPart_cores (p : Nat) (f : Partition → Partition) : (s.modPart p f).cores = s.cores := rfl
@[simp] theorem State.modPart_clusters (p : Nat) (f : Partition → Partition) : (s.modPart p f).clusters = s.clusters := rfl
@[simp] theorem State.modPart_dies (p : Nat) (f : Partition → Partition) : (s.modPart p f).dies = s.dies := rfl
@[simp] theorem State.modPart_parts (p : Nat) (f : Partition → Partition) : (s.modPart p f).parts = s.parts.set p (f (s.partn p)) := rfl
@[simp] theorem State.modPart_launches (p : Nat) (f : Partition → Partition) : (s.modPart p f).launches = s.launches := rfl
@[simp] theorem State.modPart_ops (p : Nat) (f : Partition → Partition) : (s.modPart p f).ops = s.ops := rfl
@[simp] theorem State.modPart_copies (p : Nat) (f : Partition → Partition) : (s.modPart p f).copies = s.copies := rfl
@[simp] theorem State.modPart_mem (p : Nat) (f : Partition → Partition) : (s.modPart p f).mem = s.mem := rfl
@[simp] theorem State.modPart_sectors (p : Nat) (f : Partition → Partition) : (s.modPart p f).sectors = s.sectors := rfl
@[simp] theorem State.modPart_hostCache (p : Nat) (f : Partition → Partition) : (s.modPart p f).hostCache = s.hostCache := rfl
@[simp] theorem State.modPart_span (p : Nat) (f : Partition → Partition) : (s.modPart p f).span = s.span := rfl
@[simp] theorem State.modPart_hosts (p : Nat) (f : Partition → Partition) : (s.modPart p f).hosts = s.hosts := rfl
@[simp] theorem State.modPart_homemap (p : Nat) (f : Partition → Partition) : (s.modPart p f).homemap = s.homemap := rfl
@[simp] theorem State.modPart_rels (p : Nat) (f : Partition → Partition) : (s.modPart p f).rels = s.rels := rfl
@[simp] theorem State.modPart_lostHomes (p : Nat) (f : Partition → Partition) : (s.modPart p f).lostHomes = s.lostHomes := rfl
@[simp] theorem State.modPart_pwr (p : Nat) (f : Partition → Partition) : (s.modPart p f).pwr = s.pwr := rfl
@[simp] theorem State.modPart_boot (p : Nat) (f : Partition → Partition) : (s.modPart p f).boot = s.boot := rfl
@[simp] theorem State.modPart_pkg (p : Nat) (f : Partition → Partition) : (s.modPart p f).pkg = s.pkg := rfl
@[simp] theorem State.modPart_msgs (p : Nat) (f : Partition → Partition) : (s.modPart p f).msgs = s.msgs := rfl

/-! ### State.modLaunch -/

@[simp] theorem State.modLaunch_agenda (l : Nat) (f : Launch → Launch) : (s.modLaunch l f).agenda = s.agenda := rfl
@[simp] theorem State.modLaunch_cur (l : Nat) (f : Launch → Launch) : (s.modLaunch l f).cur = s.cur := rfl
@[simp] theorem State.modLaunch_free (l : Nat) (f : Launch → Launch) : (s.modLaunch l f).free = s.free := rfl
@[simp] theorem State.modLaunch_nextId (l : Nat) (f : Launch → Launch) : (s.modLaunch l f).nextId = s.nextId := rfl
@[simp] theorem State.modLaunch_time (l : Nat) (f : Launch → Launch) : (s.modLaunch l f).time = s.time := rfl
@[simp] theorem State.modLaunch_groups (l : Nat) (f : Launch → Launch) : (s.modLaunch l f).groups = s.groups := rfl
@[simp] theorem State.modLaunch_gangs (l : Nat) (f : Launch → Launch) : (s.modLaunch l f).gangs = s.gangs := rfl
@[simp] theorem State.modLaunch_crews (l : Nat) (f : Launch → Launch) : (s.modLaunch l f).crews = s.crews := rfl
@[simp] theorem State.modLaunch_cores (l : Nat) (f : Launch → Launch) : (s.modLaunch l f).cores = s.cores := rfl
@[simp] theorem State.modLaunch_clusters (l : Nat) (f : Launch → Launch) : (s.modLaunch l f).clusters = s.clusters := rfl
@[simp] theorem State.modLaunch_dies (l : Nat) (f : Launch → Launch) : (s.modLaunch l f).dies = s.dies := rfl
@[simp] theorem State.modLaunch_parts (l : Nat) (f : Launch → Launch) : (s.modLaunch l f).parts = s.parts := rfl
@[simp] theorem State.modLaunch_launches (l : Nat) (f : Launch → Launch) : (s.modLaunch l f).launches = s.launches.modify l f := rfl
@[simp] theorem State.modLaunch_ops (l : Nat) (f : Launch → Launch) : (s.modLaunch l f).ops = s.ops := rfl
@[simp] theorem State.modLaunch_copies (l : Nat) (f : Launch → Launch) : (s.modLaunch l f).copies = s.copies := rfl
@[simp] theorem State.modLaunch_mem (l : Nat) (f : Launch → Launch) : (s.modLaunch l f).mem = s.mem := rfl
@[simp] theorem State.modLaunch_sectors (l : Nat) (f : Launch → Launch) : (s.modLaunch l f).sectors = s.sectors := rfl
@[simp] theorem State.modLaunch_hostCache (l : Nat) (f : Launch → Launch) : (s.modLaunch l f).hostCache = s.hostCache := rfl
@[simp] theorem State.modLaunch_span (l : Nat) (f : Launch → Launch) : (s.modLaunch l f).span = s.span := rfl
@[simp] theorem State.modLaunch_hosts (l : Nat) (f : Launch → Launch) : (s.modLaunch l f).hosts = s.hosts := rfl
@[simp] theorem State.modLaunch_homemap (l : Nat) (f : Launch → Launch) : (s.modLaunch l f).homemap = s.homemap := rfl
@[simp] theorem State.modLaunch_rels (l : Nat) (f : Launch → Launch) : (s.modLaunch l f).rels = s.rels := rfl
@[simp] theorem State.modLaunch_lostHomes (l : Nat) (f : Launch → Launch) : (s.modLaunch l f).lostHomes = s.lostHomes := rfl
@[simp] theorem State.modLaunch_pwr (l : Nat) (f : Launch → Launch) : (s.modLaunch l f).pwr = s.pwr := rfl
@[simp] theorem State.modLaunch_boot (l : Nat) (f : Launch → Launch) : (s.modLaunch l f).boot = s.boot := rfl
@[simp] theorem State.modLaunch_pkg (l : Nat) (f : Launch → Launch) : (s.modLaunch l f).pkg = s.pkg := rfl
@[simp] theorem State.modLaunch_msgs (l : Nat) (f : Launch → Launch) : (s.modLaunch l f).msgs = s.msgs := rfl

/-! ### State.setSector -/

@[simp] theorem State.setSector_agenda (n : Nat) (x : Sector) : (s.setSector n x).agenda = s.agenda := rfl
@[simp] theorem State.setSector_cur (n : Nat) (x : Sector) : (s.setSector n x).cur = s.cur := rfl
@[simp] theorem State.setSector_free (n : Nat) (x : Sector) : (s.setSector n x).free = s.free := rfl
@[simp] theorem State.setSector_nextId (n : Nat) (x : Sector) : (s.setSector n x).nextId = s.nextId := rfl
@[simp] theorem State.setSector_time (n : Nat) (x : Sector) : (s.setSector n x).time = s.time := rfl
@[simp] theorem State.setSector_groups (n : Nat) (x : Sector) : (s.setSector n x).groups = s.groups := rfl
@[simp] theorem State.setSector_gangs (n : Nat) (x : Sector) : (s.setSector n x).gangs = s.gangs := rfl
@[simp] theorem State.setSector_crews (n : Nat) (x : Sector) : (s.setSector n x).crews = s.crews := rfl
@[simp] theorem State.setSector_cores (n : Nat) (x : Sector) : (s.setSector n x).cores = s.cores := rfl
@[simp] theorem State.setSector_clusters (n : Nat) (x : Sector) : (s.setSector n x).clusters = s.clusters := rfl
@[simp] theorem State.setSector_dies (n : Nat) (x : Sector) : (s.setSector n x).dies = s.dies := rfl
@[simp] theorem State.setSector_parts (n : Nat) (x : Sector) : (s.setSector n x).parts = s.parts := rfl
@[simp] theorem State.setSector_launches (n : Nat) (x : Sector) : (s.setSector n x).launches = s.launches := rfl
@[simp] theorem State.setSector_ops (n : Nat) (x : Sector) : (s.setSector n x).ops = s.ops := rfl
@[simp] theorem State.setSector_copies (n : Nat) (x : Sector) : (s.setSector n x).copies = s.copies := rfl
@[simp] theorem State.setSector_mem (n : Nat) (x : Sector) : (s.setSector n x).mem = s.mem := rfl
@[simp] theorem State.setSector_hostCache (n : Nat) (x : Sector) : (s.setSector n x).hostCache = s.hostCache := rfl
@[simp] theorem State.setSector_span (n : Nat) (x : Sector) : (s.setSector n x).span = s.span := rfl
@[simp] theorem State.setSector_hosts (n : Nat) (x : Sector) : (s.setSector n x).hosts = s.hosts := rfl
@[simp] theorem State.setSector_homemap (n : Nat) (x : Sector) : (s.setSector n x).homemap = s.homemap := rfl
@[simp] theorem State.setSector_rels (n : Nat) (x : Sector) : (s.setSector n x).rels = s.rels := rfl
@[simp] theorem State.setSector_lostHomes (n : Nat) (x : Sector) : (s.setSector n x).lostHomes = s.lostHomes := rfl
@[simp] theorem State.setSector_pwr (n : Nat) (x : Sector) : (s.setSector n x).pwr = s.pwr := rfl
@[simp] theorem State.setSector_boot (n : Nat) (x : Sector) : (s.setSector n x).boot = s.boot := rfl
@[simp] theorem State.setSector_pkg (n : Nat) (x : Sector) : (s.setSector n x).pkg = s.pkg := rfl
@[simp] theorem State.setSector_msgs (n : Nat) (x : Sector) : (s.setSector n x).msgs = s.msgs := rfl

/-! ### State.modSector -/

@[simp] theorem State.modSector_agenda (n : Nat) (f : Sector → Sector) : (s.modSector n f).agenda = s.agenda := rfl
@[simp] theorem State.modSector_cur (n : Nat) (f : Sector → Sector) : (s.modSector n f).cur = s.cur := rfl
@[simp] theorem State.modSector_free (n : Nat) (f : Sector → Sector) : (s.modSector n f).free = s.free := rfl
@[simp] theorem State.modSector_nextId (n : Nat) (f : Sector → Sector) : (s.modSector n f).nextId = s.nextId := rfl
@[simp] theorem State.modSector_time (n : Nat) (f : Sector → Sector) : (s.modSector n f).time = s.time := rfl
@[simp] theorem State.modSector_groups (n : Nat) (f : Sector → Sector) : (s.modSector n f).groups = s.groups := rfl
@[simp] theorem State.modSector_gangs (n : Nat) (f : Sector → Sector) : (s.modSector n f).gangs = s.gangs := rfl
@[simp] theorem State.modSector_crews (n : Nat) (f : Sector → Sector) : (s.modSector n f).crews = s.crews := rfl
@[simp] theorem State.modSector_cores (n : Nat) (f : Sector → Sector) : (s.modSector n f).cores = s.cores := rfl
@[simp] theorem State.modSector_clusters (n : Nat) (f : Sector → Sector) : (s.modSector n f).clusters = s.clusters := rfl
@[simp] theorem State.modSector_dies (n : Nat) (f : Sector → Sector) : (s.modSector n f).dies = s.dies := rfl
@[simp] theorem State.modSector_parts (n : Nat) (f : Sector → Sector) : (s.modSector n f).parts = s.parts := rfl
@[simp] theorem State.modSector_launches (n : Nat) (f : Sector → Sector) : (s.modSector n f).launches = s.launches := rfl
@[simp] theorem State.modSector_ops (n : Nat) (f : Sector → Sector) : (s.modSector n f).ops = s.ops := rfl
@[simp] theorem State.modSector_copies (n : Nat) (f : Sector → Sector) : (s.modSector n f).copies = s.copies := rfl
@[simp] theorem State.modSector_mem (n : Nat) (f : Sector → Sector) : (s.modSector n f).mem = s.mem := rfl
@[simp] theorem State.modSector_hostCache (n : Nat) (f : Sector → Sector) : (s.modSector n f).hostCache = s.hostCache := rfl
@[simp] theorem State.modSector_span (n : Nat) (f : Sector → Sector) : (s.modSector n f).span = s.span := rfl
@[simp] theorem State.modSector_hosts (n : Nat) (f : Sector → Sector) : (s.modSector n f).hosts = s.hosts := rfl
@[simp] theorem State.modSector_homemap (n : Nat) (f : Sector → Sector) : (s.modSector n f).homemap = s.homemap := rfl
@[simp] theorem State.modSector_rels (n : Nat) (f : Sector → Sector) : (s.modSector n f).rels = s.rels := rfl
@[simp] theorem State.modSector_lostHomes (n : Nat) (f : Sector → Sector) : (s.modSector n f).lostHomes = s.lostHomes := rfl
@[simp] theorem State.modSector_pwr (n : Nat) (f : Sector → Sector) : (s.modSector n f).pwr = s.pwr := rfl
@[simp] theorem State.modSector_boot (n : Nat) (f : Sector → Sector) : (s.modSector n f).boot = s.boot := rfl
@[simp] theorem State.modSector_pkg (n : Nat) (f : Sector → Sector) : (s.modSector n f).pkg = s.pkg := rfl
@[simp] theorem State.modSector_msgs (n : Nat) (f : Sector → Sector) : (s.modSector n f).msgs = s.msgs := rfl

/-! ### State.modSpan -/

@[simp] theorem State.modSpan_agenda (n : Nat) (f : SpanPort → SpanPort) : (s.modSpan n f).agenda = s.agenda := rfl
@[simp] theorem State.modSpan_cur (n : Nat) (f : SpanPort → SpanPort) : (s.modSpan n f).cur = s.cur := rfl
@[simp] theorem State.modSpan_free (n : Nat) (f : SpanPort → SpanPort) : (s.modSpan n f).free = s.free := rfl
@[simp] theorem State.modSpan_nextId (n : Nat) (f : SpanPort → SpanPort) : (s.modSpan n f).nextId = s.nextId := rfl
@[simp] theorem State.modSpan_time (n : Nat) (f : SpanPort → SpanPort) : (s.modSpan n f).time = s.time := rfl
@[simp] theorem State.modSpan_groups (n : Nat) (f : SpanPort → SpanPort) : (s.modSpan n f).groups = s.groups := rfl
@[simp] theorem State.modSpan_gangs (n : Nat) (f : SpanPort → SpanPort) : (s.modSpan n f).gangs = s.gangs := rfl
@[simp] theorem State.modSpan_crews (n : Nat) (f : SpanPort → SpanPort) : (s.modSpan n f).crews = s.crews := rfl
@[simp] theorem State.modSpan_cores (n : Nat) (f : SpanPort → SpanPort) : (s.modSpan n f).cores = s.cores := rfl
@[simp] theorem State.modSpan_clusters (n : Nat) (f : SpanPort → SpanPort) : (s.modSpan n f).clusters = s.clusters := rfl
@[simp] theorem State.modSpan_dies (n : Nat) (f : SpanPort → SpanPort) : (s.modSpan n f).dies = s.dies := rfl
@[simp] theorem State.modSpan_parts (n : Nat) (f : SpanPort → SpanPort) : (s.modSpan n f).parts = s.parts := rfl
@[simp] theorem State.modSpan_launches (n : Nat) (f : SpanPort → SpanPort) : (s.modSpan n f).launches = s.launches := rfl
@[simp] theorem State.modSpan_ops (n : Nat) (f : SpanPort → SpanPort) : (s.modSpan n f).ops = s.ops := rfl
@[simp] theorem State.modSpan_copies (n : Nat) (f : SpanPort → SpanPort) : (s.modSpan n f).copies = s.copies := rfl
@[simp] theorem State.modSpan_mem (n : Nat) (f : SpanPort → SpanPort) : (s.modSpan n f).mem = s.mem := rfl
@[simp] theorem State.modSpan_sectors (n : Nat) (f : SpanPort → SpanPort) : (s.modSpan n f).sectors = s.sectors := rfl
@[simp] theorem State.modSpan_hostCache (n : Nat) (f : SpanPort → SpanPort) : (s.modSpan n f).hostCache = s.hostCache := rfl
@[simp] theorem State.modSpan_span (n : Nat) (f : SpanPort → SpanPort) : (s.modSpan n f).span = s.span.set n (f (s.spanPort n)) := rfl
@[simp] theorem State.modSpan_hosts (n : Nat) (f : SpanPort → SpanPort) : (s.modSpan n f).hosts = s.hosts := rfl
@[simp] theorem State.modSpan_homemap (n : Nat) (f : SpanPort → SpanPort) : (s.modSpan n f).homemap = s.homemap := rfl
@[simp] theorem State.modSpan_rels (n : Nat) (f : SpanPort → SpanPort) : (s.modSpan n f).rels = s.rels := rfl
@[simp] theorem State.modSpan_lostHomes (n : Nat) (f : SpanPort → SpanPort) : (s.modSpan n f).lostHomes = s.lostHomes := rfl
@[simp] theorem State.modSpan_pwr (n : Nat) (f : SpanPort → SpanPort) : (s.modSpan n f).pwr = s.pwr := rfl
@[simp] theorem State.modSpan_boot (n : Nat) (f : SpanPort → SpanPort) : (s.modSpan n f).boot = s.boot := rfl
@[simp] theorem State.modSpan_pkg (n : Nat) (f : SpanPort → SpanPort) : (s.modSpan n f).pkg = s.pkg := rfl
@[simp] theorem State.modSpan_msgs (n : Nat) (f : SpanPort → SpanPort) : (s.modSpan n f).msgs = s.msgs := rfl

/-! ### State.modHost -/

@[simp] theorem State.modHost_agenda (n : Nat) (f : HostPort → HostPort) : (s.modHost n f).agenda = s.agenda := rfl
@[simp] theorem State.modHost_cur (n : Nat) (f : HostPort → HostPort) : (s.modHost n f).cur = s.cur := rfl
@[simp] theorem State.modHost_free (n : Nat) (f : HostPort → HostPort) : (s.modHost n f).free = s.free := rfl
@[simp] theorem State.modHost_nextId (n : Nat) (f : HostPort → HostPort) : (s.modHost n f).nextId = s.nextId := rfl
@[simp] theorem State.modHost_time (n : Nat) (f : HostPort → HostPort) : (s.modHost n f).time = s.time := rfl
@[simp] theorem State.modHost_groups (n : Nat) (f : HostPort → HostPort) : (s.modHost n f).groups = s.groups := rfl
@[simp] theorem State.modHost_gangs (n : Nat) (f : HostPort → HostPort) : (s.modHost n f).gangs = s.gangs := rfl
@[simp] theorem State.modHost_crews (n : Nat) (f : HostPort → HostPort) : (s.modHost n f).crews = s.crews := rfl
@[simp] theorem State.modHost_cores (n : Nat) (f : HostPort → HostPort) : (s.modHost n f).cores = s.cores := rfl
@[simp] theorem State.modHost_clusters (n : Nat) (f : HostPort → HostPort) : (s.modHost n f).clusters = s.clusters := rfl
@[simp] theorem State.modHost_dies (n : Nat) (f : HostPort → HostPort) : (s.modHost n f).dies = s.dies := rfl
@[simp] theorem State.modHost_parts (n : Nat) (f : HostPort → HostPort) : (s.modHost n f).parts = s.parts := rfl
@[simp] theorem State.modHost_launches (n : Nat) (f : HostPort → HostPort) : (s.modHost n f).launches = s.launches := rfl
@[simp] theorem State.modHost_ops (n : Nat) (f : HostPort → HostPort) : (s.modHost n f).ops = s.ops := rfl
@[simp] theorem State.modHost_copies (n : Nat) (f : HostPort → HostPort) : (s.modHost n f).copies = s.copies := rfl
@[simp] theorem State.modHost_mem (n : Nat) (f : HostPort → HostPort) : (s.modHost n f).mem = s.mem := rfl
@[simp] theorem State.modHost_sectors (n : Nat) (f : HostPort → HostPort) : (s.modHost n f).sectors = s.sectors := rfl
@[simp] theorem State.modHost_hostCache (n : Nat) (f : HostPort → HostPort) : (s.modHost n f).hostCache = s.hostCache := rfl
@[simp] theorem State.modHost_span (n : Nat) (f : HostPort → HostPort) : (s.modHost n f).span = s.span := rfl
@[simp] theorem State.modHost_hosts (n : Nat) (f : HostPort → HostPort) : (s.modHost n f).hosts = s.hosts.set n (f (s.hostPort n)) := rfl
@[simp] theorem State.modHost_homemap (n : Nat) (f : HostPort → HostPort) : (s.modHost n f).homemap = s.homemap := rfl
@[simp] theorem State.modHost_rels (n : Nat) (f : HostPort → HostPort) : (s.modHost n f).rels = s.rels := rfl
@[simp] theorem State.modHost_lostHomes (n : Nat) (f : HostPort → HostPort) : (s.modHost n f).lostHomes = s.lostHomes := rfl
@[simp] theorem State.modHost_pwr (n : Nat) (f : HostPort → HostPort) : (s.modHost n f).pwr = s.pwr := rfl
@[simp] theorem State.modHost_boot (n : Nat) (f : HostPort → HostPort) : (s.modHost n f).boot = s.boot := rfl
@[simp] theorem State.modHost_pkg (n : Nat) (f : HostPort → HostPort) : (s.modHost n f).pkg = s.pkg := rfl
@[simp] theorem State.modHost_msgs (n : Nat) (f : HostPort → HostPort) : (s.modHost n f).msgs = s.msgs := rfl

/-! ### State.used -/

@[simp] theorem State.used_agenda (n : Nat) : (s.used n).agenda = s.agenda := rfl
@[simp] theorem State.used_cur (n : Nat) : (s.used n).cur = s.cur := rfl
@[simp] theorem State.used_free (n : Nat) : (s.used n).free = s.free + n := rfl
@[simp] theorem State.used_nextId (n : Nat) : (s.used n).nextId = s.nextId := rfl
@[simp] theorem State.used_time (n : Nat) : (s.used n).time = s.time := rfl
@[simp] theorem State.used_groups (n : Nat) : (s.used n).groups = s.groups := rfl
@[simp] theorem State.used_gangs (n : Nat) : (s.used n).gangs = s.gangs := rfl
@[simp] theorem State.used_crews (n : Nat) : (s.used n).crews = s.crews := rfl
@[simp] theorem State.used_cores (n : Nat) : (s.used n).cores = s.cores := rfl
@[simp] theorem State.used_clusters (n : Nat) : (s.used n).clusters = s.clusters := rfl
@[simp] theorem State.used_dies (n : Nat) : (s.used n).dies = s.dies := rfl
@[simp] theorem State.used_parts (n : Nat) : (s.used n).parts = s.parts := rfl
@[simp] theorem State.used_launches (n : Nat) : (s.used n).launches = s.launches := rfl
@[simp] theorem State.used_ops (n : Nat) : (s.used n).ops = s.ops := rfl
@[simp] theorem State.used_copies (n : Nat) : (s.used n).copies = s.copies := rfl
@[simp] theorem State.used_mem (n : Nat) : (s.used n).mem = s.mem := rfl
@[simp] theorem State.used_sectors (n : Nat) : (s.used n).sectors = s.sectors := rfl
@[simp] theorem State.used_hostCache (n : Nat) : (s.used n).hostCache = s.hostCache := rfl
@[simp] theorem State.used_span (n : Nat) : (s.used n).span = s.span := rfl
@[simp] theorem State.used_hosts (n : Nat) : (s.used n).hosts = s.hosts := rfl
@[simp] theorem State.used_homemap (n : Nat) : (s.used n).homemap = s.homemap := rfl
@[simp] theorem State.used_rels (n : Nat) : (s.used n).rels = s.rels := rfl
@[simp] theorem State.used_lostHomes (n : Nat) : (s.used n).lostHomes = s.lostHomes := rfl
@[simp] theorem State.used_pwr (n : Nat) : (s.used n).pwr = s.pwr := rfl
@[simp] theorem State.used_boot (n : Nat) : (s.used n).boot = s.boot := rfl
@[simp] theorem State.used_pkg (n : Nat) : (s.used n).pkg = s.pkg := rfl
@[simp] theorem State.used_msgs (n : Nat) : (s.used n).msgs = s.msgs := rfl

/-! ### State.fresh -/

@[simp] theorem State.fresh_agenda : (s.fresh).agenda = s.agenda := rfl
@[simp] theorem State.fresh_cur : (s.fresh).cur = s.cur := rfl
@[simp] theorem State.fresh_free : (s.fresh).free = s.free := rfl
@[simp] theorem State.fresh_nextId : (s.fresh).nextId = s.nextId + 1 := rfl
@[simp] theorem State.fresh_time : (s.fresh).time = s.time := rfl
@[simp] theorem State.fresh_groups : (s.fresh).groups = s.groups := rfl
@[simp] theorem State.fresh_gangs : (s.fresh).gangs = s.gangs := rfl
@[simp] theorem State.fresh_crews : (s.fresh).crews = s.crews := rfl
@[simp] theorem State.fresh_cores : (s.fresh).cores = s.cores := rfl
@[simp] theorem State.fresh_clusters : (s.fresh).clusters = s.clusters := rfl
@[simp] theorem State.fresh_dies : (s.fresh).dies = s.dies := rfl
@[simp] theorem State.fresh_parts : (s.fresh).parts = s.parts := rfl
@[simp] theorem State.fresh_launches : (s.fresh).launches = s.launches := rfl
@[simp] theorem State.fresh_ops : (s.fresh).ops = s.ops := rfl
@[simp] theorem State.fresh_copies : (s.fresh).copies = s.copies := rfl
@[simp] theorem State.fresh_mem : (s.fresh).mem = s.mem := rfl
@[simp] theorem State.fresh_sectors : (s.fresh).sectors = s.sectors := rfl
@[simp] theorem State.fresh_hostCache : (s.fresh).hostCache = s.hostCache := rfl
@[simp] theorem State.fresh_span : (s.fresh).span = s.span := rfl
@[simp] theorem State.fresh_hosts : (s.fresh).hosts = s.hosts := rfl
@[simp] theorem State.fresh_homemap : (s.fresh).homemap = s.homemap := rfl
@[simp] theorem State.fresh_rels : (s.fresh).rels = s.rels := rfl
@[simp] theorem State.fresh_lostHomes : (s.fresh).lostHomes = s.lostHomes := rfl
@[simp] theorem State.fresh_pwr : (s.fresh).pwr = s.pwr := rfl
@[simp] theorem State.fresh_boot : (s.fresh).boot = s.boot := rfl
@[simp] theorem State.fresh_pkg : (s.fresh).pkg = s.pkg := rfl
@[simp] theorem State.fresh_msgs : (s.fresh).msgs = s.msgs := rfl

/-! ### State.modThread -/

@[simp] theorem State.modThread_agenda (l : Lane) (f : Thread → Thread) : (s.modThread l f).agenda = s.agenda := rfl
@[simp] theorem State.modThread_cur (l : Lane) (f : Thread → Thread) : (s.modThread l f).cur = s.cur := rfl
@[simp] theorem State.modThread_free (l : Lane) (f : Thread → Thread) : (s.modThread l f).free = s.free := rfl
@[simp] theorem State.modThread_nextId (l : Lane) (f : Thread → Thread) : (s.modThread l f).nextId = s.nextId := rfl
@[simp] theorem State.modThread_time (l : Lane) (f : Thread → Thread) : (s.modThread l f).time = s.time := rfl
@[simp] theorem State.modThread_groups (l : Lane) (f : Thread → Thread) : (s.modThread l f).groups = s.groups.modify l.g (fun g => g.modThread l.key f) := rfl
@[simp] theorem State.modThread_gangs (l : Lane) (f : Thread → Thread) : (s.modThread l f).gangs = s.gangs := rfl
@[simp] theorem State.modThread_crews (l : Lane) (f : Thread → Thread) : (s.modThread l f).crews = s.crews := rfl
@[simp] theorem State.modThread_cores (l : Lane) (f : Thread → Thread) : (s.modThread l f).cores = s.cores := rfl
@[simp] theorem State.modThread_clusters (l : Lane) (f : Thread → Thread) : (s.modThread l f).clusters = s.clusters := rfl
@[simp] theorem State.modThread_dies (l : Lane) (f : Thread → Thread) : (s.modThread l f).dies = s.dies := rfl
@[simp] theorem State.modThread_parts (l : Lane) (f : Thread → Thread) : (s.modThread l f).parts = s.parts := rfl
@[simp] theorem State.modThread_launches (l : Lane) (f : Thread → Thread) : (s.modThread l f).launches = s.launches := rfl
@[simp] theorem State.modThread_ops (l : Lane) (f : Thread → Thread) : (s.modThread l f).ops = s.ops := rfl
@[simp] theorem State.modThread_copies (l : Lane) (f : Thread → Thread) : (s.modThread l f).copies = s.copies := rfl
@[simp] theorem State.modThread_mem (l : Lane) (f : Thread → Thread) : (s.modThread l f).mem = s.mem := rfl
@[simp] theorem State.modThread_sectors (l : Lane) (f : Thread → Thread) : (s.modThread l f).sectors = s.sectors := rfl
@[simp] theorem State.modThread_hostCache (l : Lane) (f : Thread → Thread) : (s.modThread l f).hostCache = s.hostCache := rfl
@[simp] theorem State.modThread_span (l : Lane) (f : Thread → Thread) : (s.modThread l f).span = s.span := rfl
@[simp] theorem State.modThread_hosts (l : Lane) (f : Thread → Thread) : (s.modThread l f).hosts = s.hosts := rfl
@[simp] theorem State.modThread_homemap (l : Lane) (f : Thread → Thread) : (s.modThread l f).homemap = s.homemap := rfl
@[simp] theorem State.modThread_rels (l : Lane) (f : Thread → Thread) : (s.modThread l f).rels = s.rels := rfl
@[simp] theorem State.modThread_lostHomes (l : Lane) (f : Thread → Thread) : (s.modThread l f).lostHomes = s.lostHomes := rfl
@[simp] theorem State.modThread_pwr (l : Lane) (f : Thread → Thread) : (s.modThread l f).pwr = s.pwr := rfl
@[simp] theorem State.modThread_boot (l : Lane) (f : Thread → Thread) : (s.modThread l f).boot = s.boot := rfl
@[simp] theorem State.modThread_pkg (l : Lane) (f : Thread → Thread) : (s.modThread l f).pkg = s.pkg := rfl
@[simp] theorem State.modThread_msgs (l : Lane) (f : Thread → Thread) : (s.modThread l f).msgs = s.msgs := rfl

/-! ### State.modBoth -/

@[simp] theorem State.modBoth_agenda (l : Lane) (f : Thread → Thread) : (s.modBoth l f).agenda = s.agenda := rfl
@[simp] theorem State.modBoth_cur (l : Lane) (f : Thread → Thread) : (s.modBoth l f).cur = s.cur := rfl
@[simp] theorem State.modBoth_free (l : Lane) (f : Thread → Thread) : (s.modBoth l f).free = s.free := rfl
@[simp] theorem State.modBoth_nextId (l : Lane) (f : Thread → Thread) : (s.modBoth l f).nextId = s.nextId := rfl
@[simp] theorem State.modBoth_time (l : Lane) (f : Thread → Thread) : (s.modBoth l f).time = s.time := rfl
@[simp] theorem State.modBoth_gangs (l : Lane) (f : Thread → Thread) : (s.modBoth l f).gangs = s.gangs := rfl
@[simp] theorem State.modBoth_crews (l : Lane) (f : Thread → Thread) : (s.modBoth l f).crews = s.crews := rfl
@[simp] theorem State.modBoth_cores (l : Lane) (f : Thread → Thread) : (s.modBoth l f).cores = s.cores := rfl
@[simp] theorem State.modBoth_clusters (l : Lane) (f : Thread → Thread) : (s.modBoth l f).clusters = s.clusters := rfl
@[simp] theorem State.modBoth_dies (l : Lane) (f : Thread → Thread) : (s.modBoth l f).dies = s.dies := rfl
@[simp] theorem State.modBoth_parts (l : Lane) (f : Thread → Thread) : (s.modBoth l f).parts = s.parts := rfl
@[simp] theorem State.modBoth_launches (l : Lane) (f : Thread → Thread) : (s.modBoth l f).launches = s.launches := rfl
@[simp] theorem State.modBoth_ops (l : Lane) (f : Thread → Thread) : (s.modBoth l f).ops = s.ops := rfl
@[simp] theorem State.modBoth_copies (l : Lane) (f : Thread → Thread) : (s.modBoth l f).copies = s.copies := rfl
@[simp] theorem State.modBoth_mem (l : Lane) (f : Thread → Thread) : (s.modBoth l f).mem = s.mem := rfl
@[simp] theorem State.modBoth_sectors (l : Lane) (f : Thread → Thread) : (s.modBoth l f).sectors = s.sectors := rfl
@[simp] theorem State.modBoth_hostCache (l : Lane) (f : Thread → Thread) : (s.modBoth l f).hostCache = s.hostCache := rfl
@[simp] theorem State.modBoth_span (l : Lane) (f : Thread → Thread) : (s.modBoth l f).span = s.span := rfl
@[simp] theorem State.modBoth_hosts (l : Lane) (f : Thread → Thread) : (s.modBoth l f).hosts = s.hosts := rfl
@[simp] theorem State.modBoth_homemap (l : Lane) (f : Thread → Thread) : (s.modBoth l f).homemap = s.homemap := rfl
@[simp] theorem State.modBoth_rels (l : Lane) (f : Thread → Thread) : (s.modBoth l f).rels = s.rels := rfl
@[simp] theorem State.modBoth_lostHomes (l : Lane) (f : Thread → Thread) : (s.modBoth l f).lostHomes = s.lostHomes := rfl
@[simp] theorem State.modBoth_pwr (l : Lane) (f : Thread → Thread) : (s.modBoth l f).pwr = s.pwr := rfl
@[simp] theorem State.modBoth_boot (l : Lane) (f : Thread → Thread) : (s.modBoth l f).boot = s.boot := rfl
@[simp] theorem State.modBoth_pkg (l : Lane) (f : Thread → Thread) : (s.modBoth l f).pkg = s.pkg := rfl
@[simp] theorem State.modBoth_msgs (l : Lane) (f : Thread → Thread) : (s.modBoth l f).msgs = s.msgs := rfl

/-! ### Threads and groups after a change of one of them -/

theorem thread?_modThread_self (s : State) (l : Lane) (f : Thread → Thread) :
    (s.modThread l f).thread? l = (s.thread? l).map f := by
  simp only [State.thread?, State.group?, State.modThread_groups, AMap.find?_modify_self]
  rcases AMap.find? s.groups l.g with _ | g <;> simp [Group.thread?, Group.modThread]

theorem group?_modGroup_self (s : State) (g : Nat) (f : Group → Group) :
    (s.modGroup g f).group? g = (s.group? g).map f := by
  simp [State.group?]

theorem group?_modGroup_ne (s : State) {g h : Nat} (hn : h ≠ g) (f : Group → Group) :
    (s.modGroup g f).group? h = s.group? h := by
  simp [State.group?, AMap.find?_modify_ne hn]

theorem group?_modThread_ne (s : State) (l : Lane) {h : Nat} (hn : h ≠ l.g) (f : Thread → Thread) :
    (s.modThread l f).group? h = s.group? h := by
  simp [State.group?, AMap.find?_modify_ne hn]

theorem grp_modThread (s : State) (l : Lane) (f : Thread → Thread) (g : Nat) :
    (s.modThread l f).grp g = if g = l.g then (s.grp g).modThread l.key f else s.grp g := by
  by_cases h : g = l.g
  · subst h
    simp only [State.grp, State.group?, State.modThread_groups, AMap.find?_modify_self, if_true]
    rcases AMap.find? s.groups l.g with _ | x
    · rfl
    · rfl
  · simp [State.grp, group?_modThread_ne s l h, h]

theorem thread?_modThread_ne (s : State) (l m : Lane) (h : m.g ≠ l.g ∨ m.key ≠ l.key) (f : Thread → Thread) :
    (s.modThread l f).thread? m = s.thread? m := by
  by_cases hg : m.g = l.g
  · have hk : m.key ≠ l.key := by
      rcases h with h | h
      · exact absurd hg h
      · exact h
    simp only [State.thread?, State.group?, State.modThread_groups, hg, AMap.find?_modify_self]
    rcases AMap.find? s.groups l.g with _ | x
    · rfl
    · simp [Group.thread?, Group.modThread, AMap.find?_modify_ne hk]
  · simp [State.thread?, group?_modThread_ne s l hg]

theorem modThread_congr {s : State} {l : Lane} {f g : Thread → Thread} {th : Thread} (h : s.thread? l = some th)
    (hf : f th = g th) : s.modThread l f = s.modThread l g := by
  simp only [State.thread?, State.group?] at h
  rcases hg : AMap.find? s.groups l.g with _ | x
  · simp [hg] at h
  · simp only [hg, Option.bind_some, Group.thread?] at h
    have : AMap.modify l.g (fun g' => Group.modThread g' l.key f) s.groups =
        AMap.modify l.g (fun g' => Group.modThread g' l.key g) s.groups := by
      refine AMap.modify_congr hg ?_
      simp only [Group.modThread, AMap.modify_congr h hf]
    simp only [State.modThread, State.modGroup, this]

theorem modThread_modThread (s : State) (l : Lane) (f g : Thread → Thread) :
    (s.modThread l f).modThread l g = s.modThread l fun th => g (f th) := by
  simp only [State.modThread, State.modGroup, AMap.modify_modify, Group.modThread]

end Sys2Proof.Machine
end

