-- ==== Sys2Proof/Laws/Words.lean ====
section
/-! SUPPORT. What a word of the execute slice does when one plain thread stands at it: the stages before the word's own effect
change nothing, and the stages after it move the thread to its next place. -/

namespace Sys2Proof.Machine

open Sys2Proof

theorem standsAt_cases {s : State} {k : Nat} {gang : Gang} {l : Lane} {i : Instr} (h : s.standsAt k gang l i = true) :
    s.cur = .gang k ∧ s.gang? k = some gang ∧ gang.lanes = [l] ∧ l.sh = false ∧ gang.step = false ∧
    (∃ th, s.thread? l = some th) ∧ (s.thread l).live = true ∧ (s.grp l.g).prot = false ∧ encFault s gang i = none := by
  simp only [State.standsAt, Bool.and_eq_true, beq_iff_eq, Bool.not_eq_true', Option.isNone_iff_eq_none,
    Option.isSome_iff_exists] at h
  obtain ⟨⟨⟨⟨⟨⟨⟨⟨⟨h1, h2⟩, h3⟩, h4⟩, h5⟩, h6⟩, h7⟩, -⟩, h8⟩, h9⟩ := h
  exact ⟨h1, h2, h3, h4, h5, h6, h7, h8, h9⟩

theorem plainAt_cases {s : State} {k : Nat} {gang : Gang} {l : Lane} {i : Instr} (h : s.plainAt k gang l i = true) :
    s.standsAt k gang l i = true ∧ guardTrue (headPart i).guard (s.thread l) = true ∧ (s.thread l).region = none ∧
    s.laneError i (headPart i).guard l = none ∧ s.eccClean l i = true ∧
    s.laneStalls gang i l = false ∧ s.pipeFull (s.grp l.g) i = false := by
  simp only [State.plainAt, Bool.and_eq_true, Bool.not_eq_true', Option.isNone_iff_eq_none] at h
  obtain ⟨⟨⟨⟨⟨⟨h1, h2⟩, h3⟩, h4⟩, h5⟩, h6⟩, h7⟩ := h
  exact ⟨h1, h2, h3, h4, h5, h6, h7⟩

/-- Stored words without an error are not corrected. -/
theorem eccRead_clean {s : State} {l : Lane} {i : Instr} (h : s.eccClean l i = true) : s.eccRead l i = s := by
  have : s.eccReads l i = [] := by simpa [State.eccClean] using h
  simp [State.eccRead, this]

/-- The lowest lane of a list is one of it. -/
theorem lowest_mem : ∀ {ls : List Lane} {a : Lane}, lowest ls = some a → a ∈ ls
  | [], a, h => by simp [lowest] at h
  | l :: r, a, h => by
    simp only [lowest] at h
    split at h
    · simp_all
    · rename_i m hm
      split at h <;> simp only [Option.some.injEq] at h <;> subst h
      · simp
      · exact List.mem_cons_of_mem _ (lowest_mem hm)

/-- The performer of a group word in an unprotected group meets no mismatch. -/
theorem dmrStage_plain {s : State} {k : Nat} {gang : Gang} {l : Lane} {i : Instr} (c : Ctx)
    (h : s.standsAt k gang l i = true) : s.dmrStage c i (headPart i).guard [l] = s := by
  obtain ⟨-, -, -, -, -, -, -, hp, -⟩ := standsAt_cases h
  have hd : ∀ m : Lane, m.g = l.g → s.dmrDiffers i (headPart i).guard m = false := fun m hm => by
    simp [State.dmrDiffers, hm, hp]
  have : s.dmrGroups i (headPart i).guard [l] = [] := by
    unfold State.dmrGroups
    split
    · rw [List.filter_eq_nil_iff]
      intro p hp'
      have hm : p.1 ∈ [l] := by
        simp only [performers, List.mem_filterMap, Option.map_eq_some_iff] at hp'
        obtain ⟨g, -, a, ha, rfl⟩ := hp'
        have := lowest_mem ha
        simp only [lanesOf, List.mem_filter] at this
        exact this.1.1
      simp only [List.mem_singleton] at hm
      simp [hd p.1 (by rw [hm])]
    · rfl
  simp [State.dmrStage, this]

/-- No error reaches a plain thread. -/
theorem errorStage_plain {s : State} {k : Nat} {gang : Gang} {l : Lane} {i : Instr} (c : Ctx)
    (h : s.plainAt k gang l i = true) : s.errorStage c i (headPart i).guard [l] = s := by
  obtain ⟨-, hg, -, he, hr, -, -⟩ := plainAt_cases h
  simp only [State.errorStage, List.map_cons, List.map_nil, List.flatten_cons, List.flatten_nil, List.append_nil,
    List.dedup_nil, List.foldl_cons, List.foldl_nil, he, hg, if_true]
  exact eccRead_clean hr

theorem regionStage_none {s : State} (i : Instr) (ls : List Lane) (h : ∀ l ∈ ls, (s.thread l).region = none) :
    s.regionStage i ls = s := by
  have : (ls.filter fun l => !l.sh && (s.thread l).region.isSome) = [] := by
    simp only [List.filter_eq_nil_iff, Bool.and_eq_true, not_and, Bool.not_eq_true]
    intro l hl _
    simp [h l hl]
  simp only [State.regionStage, this, ite_self]

/-- The word's own effect is all that decides what a plain thread's word does. -/
theorem wordStep_plain {s : State} {k : Nat} {gang : Gang} {l : Lane} {i : Instr} (alu : Bool) (pend : Pending)
    (eff : Effect) (h : s.plainAt k gang l i = true) :
    s.wordStep k gang i alu pend eff =
      match eff (gang.ctx k) [l] (s.issued gang) with
      | none =>
        let u := stalled s (s.issued gang) (gang.ctx k) [l] pend
        if (u.lanesOfGang k).isEmpty then State.finishWord s u (gang.ctx k) gang i else u
      | some s3 =>
        let yld := (headPart i).sched == .yld || ((gang.ctx k).last && isBlocking (opcOf i))
        State.finishWord s ((State.fallThrough (s.issued gang) (gang.ctx k) [l] eff s3).modGang k
          fun g => { g with yld := g.yld || yld }) (gang.ctx k) { gang with yld := gang.yld || yld } i := by
  obtain ⟨hs, hg, hr, he, -, hst, hp⟩ := plainAt_cases h
  obtain ⟨-, hk, hl, hsh, -, -, -, -, henc⟩ := standsAt_cases hs
  have hlanes : s.lanesOfGang k = [l] := by simp [State.lanesOfGang, hk, hl]
  have hds := dmrStage_plain (gang.ctx k) hs
  have hes := errorStage_plain (gang.ctx k) h
  have hrs : s.regionStage i [l] = s := regionStage_none i [l] (by simpa using hr)
  unfold State.wordStep
  simp only [henc]
  rw [hl, hds, hlanes, hes]
  have hg' : { gang with lanes := [l] } = gang := by rw [← hl]
  simp only [hlanes, List.filter_cons, hg, if_true, List.filter_nil, hrs, hk, hl, hsh, Bool.not_false,
    Bool.or_true, Bool.and_self, List.any_cons, List.any_nil, Bool.or_false, hst, hp, Bool.false_eq_true, if_false]
  all_goals rfl

theorem runWith_plain {s : State} {k : Nat} {gang : Gang} {l : Lane} {i : Instr} (alu : Bool) (pend : Pending)
    (eff : Effect) (h : s.plainAt k gang l i = true) :
    runWith i alu pend eff s = .next (s.wordStep k gang i alu pend eff) := by
  obtain ⟨hc, hk, -⟩ := standsAt_cases (plainAt_cases h).1
  simp [runWith, hc, hk]

end Sys2Proof.Machine
end

