-- ==== Sys2Proof/Laws/Quiet.lean ====
section
/-! SUPPORT. The bookkeeping around a word (watchdogs, the register pool, tracked paths) changes nothing a program reads: it
is quiet on one group. -/

namespace Sys2Proof.Machine

open Sys2Proof

/-- Two values of a group that differ in bookkeeping only. -/
structure Group.Quiet (x y : Group) : Prop where
  threads : y.threads = x.threads
  j : y.j = x.j
  b : y.b = x.b
  bPlaced : y.bPlaced = x.bPlaced
  scratch : y.scratch = x.scratch
  scratchPoison : y.scratchPoison = x.scratchPoison
  rounds : y.rounds = x.rounds
  slice : y.slice = x.slice
  width : y.width = x.width
  core : y.core = x.core
  quad : y.quad = x.quad
  part : y.part = x.part
  launch : y.launch = x.launch
  crew : y.crew = x.crew
  prot : y.prot = x.prot
  gid : y.gid = x.gid
  fslot : y.fslot = x.fslot
  fair : y.fair = x.fair
  mirr : y.mirr = x.mirr
  idx : y.idx = x.idx
  cid : y.cid = x.cid
  base : y.base = x.base
  row : y.row = x.row
  slot : y.slot = x.slot
  vreg : ∀ sh n, y.vreg sh n = x.vreg sh n

theorem Group.Quiet.val {x y : Group} (h : Group.Quiet x y) (sh : Bool) (n : Nat) : (y.vreg sh n).val = (x.vreg sh n).val :=
  congrArg VReg.val (h.vreg sh n)

theorem Group.Quiet.refl (x : Group) : Group.Quiet x x := by constructor <;> simp

theorem Group.Quiet.trans {x y z : Group} (h : Group.Quiet x y) (h' : Group.Quiet y z) : Group.Quiet x z where
  threads := h'.threads.trans h.threads
  j := h'.j.trans h.j
  b := h'.b.trans h.b
  bPlaced := h'.bPlaced.trans h.bPlaced
  scratch := h'.scratch.trans h.scratch
  scratchPoison := h'.scratchPoison.trans h.scratchPoison
  rounds := h'.rounds.trans h.rounds
  slice := h'.slice.trans h.slice
  width := h'.width.trans h.width
  core := h'.core.trans h.core
  quad := h'.quad.trans h.quad
  part := h'.part.trans h.part
  launch := h'.launch.trans h.launch
  crew := h'.crew.trans h.crew
  prot := h'.prot.trans h.prot
  gid := h'.gid.trans h.gid
  fslot := h'.fslot.trans h.fslot
  fair := h'.fair.trans h.fair
  mirr := h'.mirr.trans h.mirr
  idx := h'.idx.trans h.idx
  cid := h'.cid.trans h.cid
  base := h'.base.trans h.base
  row := h'.row.trans h.row
  slot := h'.slot.trans h.slot
  vreg := fun sh n => (h'.vreg sh n).trans (h.vreg sh n)

/-- Two states that differ in bookkeeping of one group and in what its core counts. -/
structure Quiet (s t : State) (g : Nat) : Prop where
  group : ∀ x, s.group? g = some x → ∃ y, t.group? g = some y ∧ Group.Quiet x y
  none : s.group? g = none → t.group? g = none
  others : ∀ h, h ≠ g → t.group? h = s.group? h
  cores : ∀ c, (t.core c).uncounted = (s.core c).uncounted
  fields : t = { s with groups := t.groups, cores := t.cores }

theorem Quiet.refl (s : State) (g : Nat) : Quiet s s g :=
  ⟨fun x h => ⟨x, h, Group.Quiet.refl x⟩, id, fun _ _ => rfl, fun _ => rfl, rfl⟩

theorem Quiet.trans {s t u : State} {g : Nat} (h : Quiet s t g) (h' : Quiet t u g) : Quiet s u g := by
  refine ⟨fun x hx => ?_, fun hn => h'.none (h.none hn), fun k hk => (h'.others k hk).trans (h.others k hk),
    fun c => (h'.cores c).trans (h.cores c), ?_⟩
  · obtain ⟨y, hy, hq⟩ := h.group x hx
    obtain ⟨z, hz, hq'⟩ := h'.group y hy
    exact ⟨z, hz, Group.Quiet.trans hq hq'⟩
  · have e := h'.fields
    rw [h.fields] at e
    exact e

/-- A change of a group's bookkeeping is quiet. -/
theorem Quiet.modGroup (s : State) (g : Nat) (f : Group → Group) (h : ∀ x, s.group? g = some x → Group.Quiet x (f x)) :
    Quiet s (s.modGroup g f) g := by
  refine ⟨fun x hx => ⟨f x, ?_, h x hx⟩, fun hn => ?_, fun k hk => ?_, fun _ => rfl, rfl⟩
  · simp only [State.group?, State.modGroup_groups, AMap.find?_modify_self] at hx ⊢
    simp [hx]
  · simp only [State.group?, State.modGroup_groups, AMap.find?_modify_self] at hn ⊢
    simp [hn]
  · simp only [State.group?, State.modGroup_groups]
    exact AMap.find?_modify_ne hk f s.groups

/-- A change of what a core counts is quiet. -/
theorem Quiet.modCore (s : State) (g c : Nat) (f : Core → Core) (h : ∀ x : Core, (f x).uncounted = x.uncounted) :
    Quiet s (s.modCore c f) g := by
  refine ⟨fun x hx => ⟨x, hx, Group.Quiet.refl x⟩, id, fun _ _ => rfl, fun d => ?_, rfl⟩
  simp only [State.core, State.modCore_cores]
  by_cases hd : d = c
  · subst hd
    simp [h]
  · rw [AMap.get_set_ne hd]

theorem issued_quiet (s : State) (gang : Gang) (l : Lane) (h : gang.lanes = [l]) : Quiet s (s.issued gang) l.g := by
  have : groupsOf gang.lanes = [l.g] := by simp [h, groupsOf, AMap.set, AMap.keys]
  simp only [State.issued, this, List.foldl_cons, List.foldl_nil]
  split
  · exact Quiet.refl _ _
  exact Quiet.modGroup s l.g _ fun x _ => by constructor <;> simp [Group.vreg, Group.file]

theorem spillOne_quiet {x y : Group} {keep : List Nat} (h : x.spillOne keep = some y) : Group.Quiet x y := by
  simp only [Group.spillOne] at h
  split at h <;> cases h
  constructor <;> simp [Group.vreg, Group.file]

/-- Mirrors are bookkeeping of the pool. -/
theorem mirrorPut_quiet (s : State) (g : Nat) (keys : List PoolWord) : Quiet s (s.mirrorPut g keys) g := by
  simp only [State.mirrorPut]
  split
  · exact Quiet.refl _ _
  · exact Quiet.modCore _ _ _ _ fun _ => rfl

theorem fitMirrors_quiet (s : State) (g core : Nat) : Quiet s (s.fitMirrors core) g := by
  simp only [State.fitMirrors]
  split
  · exact Quiet.refl _ _
  · exact Quiet.modCore _ _ _ _ fun _ => rfl

theorem fitGroup_quiet (s : State) (g : Nat) (own : List Nat) : Quiet s (s.fitGroup g own) g := by
  simp only [State.fitGroup]
  generalize (State.grp s g).core = core
  generalize List.range 96 = ns
  induction ns generalizing s with
  | nil => exact Quiet.refl _ _
  | cons n r ih =>
    rw [List.foldl_cons]
    refine Quiet.trans ?_ (ih _)
    split
    · exact Quiet.refl _ _
    · split
      · rename_i x hx
        refine Quiet.trans (Quiet.modGroup s g _ fun y hy => ?_) (Quiet.modCore _ g core _ fun _ => rfl)
        have hg : s.grp g = y := by simp [State.grp, hy]
        rw [hg] at hx
        exact spillOne_quiet hx
      · exact Quiet.refl _ _

theorem useRegs_quiet (s : State) (g : Nat) (own : List Nat) : Quiet s (s.useRegs g own) g := by
  simp only [State.useRegs]
  refine Quiet.trans (mirrorPut_quiet s g _) (Quiet.trans (Quiet.modGroup _ g _ fun x _ => ?_) ((fitMirrors_quiet _ g _).trans (fitGroup_quiet _ g own)))
  constructor <;> simp [Group.vreg, Group.file]

theorem touchRegs_quiet (s0 s : State) (g : Nat) (i : Instr) (ls : List Lane) : Quiet s (s0.touchRegs s g i ls) g := by
  simp only [State.touchRegs]
  exact (mirrorPut_quiet s g _).trans (useRegs_quiet _ g _)

theorem repath_quiet (s : State) (g : Nat) : Quiet s (s.repath g) g := by
  simp only [State.repath]
  split
  · exact Quiet.refl _ _
  · rename_i x hx
    have h1 := Quiet.modGroup s g (fun _ => x.repath (s.groupPcs g)) fun y hy => by
      rw [hx] at hy
      cases hy
      constructor <;> simp [Group.repath, Group.vreg, Group.file]
    split
    · exact h1.trans (Quiet.modCore _ g _ _ fun _ => rfl)
    · exact h1

/-! ### What quiet states read alike -/

theorem Quiet.thread? {s t : State} {g : Nat} (h : Quiet s t g) (m : Lane) : t.thread? m = s.thread? m := by
  by_cases hg : m.g = g
  · subst hg
    rcases hs : s.group? m.g with _ | x
    · simp [State.thread?, hs, h.none hs]
    · obtain ⟨y, hy, hq⟩ := h.group x hs
      simp [State.thread?, hs, hy, Group.thread?, hq.threads]
  · simp [State.thread?, h.others m.g hg]

theorem Quiet.thread {s t : State} {g : Nat} (h : Quiet s t g) (m : Lane) : t.thread m = s.thread m := by
  simp [State.thread, h.thread? m]

theorem Quiet.grp {s t : State} {g : Nat} (h : Quiet s t g) : Group.Quiet (s.grp g) (t.grp g) := by
  rcases hs : s.group? g with _ | x
  · have : t.grp g = s.grp g := by simp [State.grp, hs, h.none hs]
    rw [this]
    exact Group.Quiet.refl _
  · obtain ⟨y, hy, hq⟩ := h.group x hs
    simpa [State.grp, hs, hy] using hq

theorem Quiet.vreg {s t : State} {g : Nat} (h : Quiet s t g) (sh : Bool) (n : Nat) :
    (t.grp g).vreg sh n = (s.grp g).vreg sh n := h.grp.vreg sh n

theorem Quiet.v {s t : State} {g : Nat} (h : Quiet s t g) (m : Lane) (n : Nat) : t.v m n = s.v m n := by
  by_cases hg : m.g = g
  · subst hg
    simp [State.v, Group.readV, h.vreg]
  · simp [State.v, State.grp, h.others m.g hg]

theorem Quiet.gang? {s t : State} {g : Nat} (h : Quiet s t g) (k : Nat) : t.gang? k = s.gang? k := by
  rw [h.fields]
  rfl

theorem Quiet.lanesOfGang {s t : State} {g : Nat} (h : Quiet s t g) (k : Nat) : t.lanesOfGang k = s.lanesOfGang k := by
  simp [State.lanesOfGang, h.gang? k]

end Sys2Proof.Machine
end

