-- ==== Sys2Proof/Laws/Alu.lean ====
section
/-! SUPPORT. What an ALU word does for one plain thread, said once for all of them. -/

namespace Sys2Proof.Machine

open Sys2Proof

/-! ### The end of a word that is not the last of its clause -/

theorem groupsOf_one (l : Lane) : groupsOf [l] = [l.g] := by simp [groupsOf, AMap.set, AMap.keys]

/-- A word that is not the last moves the gang to the next word; the rest is bookkeeping. -/
theorem finishWord_inside (s0 s1 : State) (c : Ctx) (g2 : Gang) (i : Instr) (l : Lane) (hlast : c.last = false)
    (hstep : g2.step = false) (hlanes : g2.lanes = [l]) (hstay : s1.lanesOfGang c.k = [l]) :
    Quiet ((s1.modThread l fun th => th.past c).modGang c.k fun g => { g with ix := g.ix + 1, wip := none })
      (State.finishWord s0 s1 c g2 i) l.g := by
  have hnext : ∀ now : Gang, now.step = false → s1.nextWord c now [l] =
      (s1.modThread l fun th => th.past c).modGang c.k fun g => { g with ix := g.ix + 1, wip := none } := by
    intro now h
    simp [State.nextWord, h, Thread.past]
  simp only [State.finishWord, hstay, hlast, Bool.false_eq_true, if_false]
  rw [hnext _ (by split <;> exact hstep)]
  simp only [hstep, hlanes, groupsOf_one, Bool.false_eq_true, if_false, List.foldl_cons, List.foldl_nil]
  exact (touchRegs_quiet _ _ l.g i _).trans (repath_quiet _ l.g)

/-! ### Operands -/

theorem pop_keeps {th th' : Thread} {n : Nat} {w : Word} (hr : th.region = none) (h : th.pop n = (.ok w, th')) :
    th' = { th with q := th'.q, pops := th'.pops } := by
  simp only [Thread.pop, hr] at h
  split at h
  · simp at h
  · split at h
    · simp at h
    · simp only [Prod.mk.injEq] at h
      obtain ⟨-, rfl⟩ := h
      simp [hr]

theorem readSrc_keeps {g : Group} {l : Lane} {th th' : Thread} {o : Src × Bool} {v : DWord} (hr : th.region = none)
    (h : readSrc g l th o = (.ok v, th')) : th' = { th with q := th'.q, pops := th'.pops } := by
  simp only [readSrc] at h
  split at h
  · simp only [Prod.mk.injEq] at h
    rw [← h.2]
  · simp only [Prod.mk.injEq] at h
    rw [← h.2]
  · split at h
    · simp at h
    · rename_i lo th1 h1
      have e1 := pop_keeps hr h1
      split at h
      · split at h
        · simp at h
        · rename_i hi th2 h2
          simp only [Prod.mk.injEq] at h
          have hr1 : th1.region = none := by rw [e1]; exact hr
          have e2 := pop_keeps hr1 h2
          rw [← h.2, e2, e1]
      · simp only [Prod.mk.injEq] at h
        rw [← h.2, e1]

/-- Reading operands changes a thread's queues and nothing else. -/
theorem readSrcs_keeps {g : Group} {l : Lane} : ∀ {os : List (Src × Bool)} {th th' : Thread} {vs : List DWord},
    th.region = none → readSrcs g l th os = (.ok vs, th') → th' = { th with q := th'.q, pops := th'.pops }
  | [], th, th', vs, _, h => by
    simp only [readSrcs, Prod.mk.injEq] at h
    rw [← h.2]
  | o :: r, th, th', vs, hr, h => by
    simp only [readSrcs] at h
    split at h
    · simp at h
    · rename_i v th1 h1
      have e1 := readSrc_keeps hr h1
      split at h
      · simp at h
      · rename_i vs2 th2 h2
        simp only [Prod.mk.injEq] at h
        have hr1 : th1.region = none := by rw [e1]; exact hr
        have e2 := readSrcs_keeps hr1 h2
        rw [← h.2, e2, e1]

theorem readSrc_group {g g' : Group} {l : Lane} (th : Thread) (o : Src × Bool)
    (h : ∀ n, (g'.vreg l.sh n).val = (g.vreg l.sh n).val) : readSrc g' l th o = readSrc g l th o := by
  have hv : ∀ n, g'.readV l n = g.readV l n := fun n => by simp [Group.readV, h n]
  simp only [readSrc, Group.readPair, hv]

/-- Operand values depend only on what the group's registers hold. -/
theorem readSrcs_group {g g' : Group} {l : Lane} (h : ∀ n, (g'.vreg l.sh n).val = (g.vreg l.sh n).val) :
    ∀ (os : List (Src × Bool)) (th : Thread), readSrcs g' l th os = readSrcs g l th os
  | [], _ => rfl
  | o :: r, th => by
    simp only [readSrcs, readSrc_group th o h]
    split
    · rfl
    · rw [readSrcs_group h r]

/-! ### Register writes -/

/-- One word written to one thread reads back. -/
theorem putLane_self (g : Group) (l : Lane) (n : Nat) (w : Word) :
    (((g.putG l.sh n [(l.t, w)]).vreg l.sh n).val).at l.t = w := by
  cases hs : l.sh <;> simp [Group.putG, Group.vreg, Group.setVreg, Group.file, VVal.at]

theorem vreg_putG_ne (g : Group) (sh : Bool) {n m : Nat} (h : m ≠ n) (ws : List (Nat × Word)) (sh' : Bool) :
    (g.putG sh n ws).vreg sh' m = g.vreg sh' m := by
  cases sh <;> cases sh' <;> simp [Group.putG, Group.vreg, Group.setVreg, Group.file, AMap.get_set_ne h]

theorem vreg_putG_sh (g : Group) {sh sh' : Bool} (h : sh' ≠ sh) (n m : Nat) (ws : List (Nat × Word)) :
    (g.putG sh n ws).vreg sh' m = g.vreg sh' m := by
  cases sh <;> cases sh' <;> simp_all [Group.putG, Group.vreg, Group.setVreg, Group.file]

theorem vreg_putV_self (g : Group) (sh : Bool) (n : Nat) (v : VVal) : ((g.putV sh n v).vreg sh n).val = v := by
  cases sh <;> simp [Group.putV, Group.vreg, Group.setVreg, Group.file]

theorem vreg_putV_ne (g : Group) (sh : Bool) {n m : Nat} (h : m ≠ n) (v : VVal) (sh' : Bool) :
    (g.putV sh n v).vreg sh' m = g.vreg sh' m := by
  cases sh <;> cases sh' <;> simp [Group.putV, Group.vreg, Group.setVreg, Group.file, AMap.get_set_ne h]

theorem vreg_putV_sh (g : Group) {sh sh' : Bool} (h : sh' ≠ sh) (n m : Nat) (v : VVal) :
    (g.putV sh n v).vreg sh' m = g.vreg sh' m := by
  cases sh <;> cases sh' <;> simp_all [Group.putV, Group.vreg, Group.setVreg, Group.file]

theorem get_map_self (f : Nat → Word) (t : Nat) : ∀ ns : List Nat, t ∈ ns →
    AMap.get 0#32 (ns.map fun n => (n, f n)) t = f t
  | [], h => by simp at h
  | n :: r, h => by
    by_cases hn : n = t
    · subst hn
      simp [AMap.get]
    · have : t ∈ r := by
        rcases List.mem_cons.mp h with h | h
        · exact absurd h.symm hn
        · exact h
      simp [AMap.get, hn, get_map_self f t r this]

/-- A register made G keeps what every thread of the group read (R124). -/
theorem words_at (v : VVal) (width t : Nat) (h : t < width) : AMap.get 0#32 (v.words width) t = v.at t := by
  cases v with
  | g ws => rfl
  | u w => exact get_map_self (fun _ => w) t _ (List.mem_range.mpr h)
  | a b s => exact get_map_self (fun t => b + BitVec.ofNat 32 t * s) t _ (List.mem_range.mpr h)

/-- A word written to one thread leaves the other threads' words. -/
theorem putG_other (g : Group) (l : Lane) (n : Nat) (w : Word) {t : Nat} (h : t ≠ l.t) (hw : t < g.width) :
    (((g.putG l.sh n [(l.t, w)]).vreg l.sh n).val).at t = ((g.vreg l.sh n).val).at t := by
  have e : (((g.putG l.sh n [(l.t, w)]).vreg l.sh n).val) =
      .g (((g.vreg l.sh n).val.words g.width).set l.t w) := by
    cases hs : l.sh <;> simp [Group.putG, Group.vreg, Group.setVreg, Group.file]
  rw [e]
  simp only [VVal.at]
  rw [AMap.get_set_ne h]
  exact words_at _ _ _ hw

/-! ### The effect on one lane -/

theorem lanesOf_one (l : Lane) : lanesOf [l] l.g = [l] := by simp [lanesOf]

theorem thread_of {s : State} {l : Lane} {th : Thread} (h : s.thread? l = some th) : s.thread l = th := by
  simp [State.thread, h]

/-- The state an ALU word's effect leaves, for one thread outside any region. -/
def aluDone (s : State) (i : Instr) (a : AluWord) (l : Lane) (th' : Thread) (o : LaneOut) : State :=
  let s1 := s.modThread l fun _ => th'
  let g := s1.grp l.g
  let shape := writeShape g false i a (g.live.all fun e => l.t == e.1) [o.val] s1.freeWord.lo
  ((s1.modGroup l.g fun g => g.commit false shape a.dst [(l.t, o.val)]).modThread l
    fun th => (th.raise o.fl).setPreds o.preds).used 1

theorem setPreds_region (ps : List (Nat × Bool)) (th : Thread) : (th.setPreds ps).region = th.region := by
  induction ps generalizing th with
  | nil => rfl
  | cons e r ih =>
    simp only [Thread.setPreds, List.foldl_cons] at ih ⊢
    rw [ih]
    simp only [Thread.setPred]
    split <;> rfl

theorem commit_threads (g : Group) (sh : Bool) (shape : Option (List VVal)) (dst : List Nat) (outs : List (Nat × DWord)) :
    (g.commit sh shape dst outs).threads = g.threads := by
  have hf : ∀ (l : List (Nat × VVal)) (g : Group), (l.foldl (fun g e => g.putV sh e.1 e.2) g).threads = g.threads := by
    intro l
    induction l with
    | nil => intro g; rfl
    | cons e r ih =>
      intro g
      rw [List.foldl_cons, ih]
      cases sh <;> rfl
  cases shape with
  | some vs => exact hf _ g
  | none =>
    rcases dst with _ | ⟨d, _ | ⟨e, r⟩⟩ <;> cases sh <;> rfl

theorem thread?_commit (s : State) (g : Nat) (sh : Bool) (shape : Option (List VVal)) (dst : List Nat)
    (outs : List (Nat × DWord)) (l : Lane) :
    (s.modGroup g fun g => g.commit sh shape dst outs).thread? l = s.thread? l := by
  by_cases h : l.g = g
  · subst h
    simp only [State.thread?, group?_modGroup_self]
    rcases s.group? l.g with _ | x
    · rfl
    · simp [Group.thread?, commit_threads]
  · simp [State.thread?, group?_modGroup_ne s h]

theorem aluEffect_one {s : State} {c : Ctx} {i : Instr} {a : AluWord} {l : Lane} {th th' : Thread} {vs : List DWord}
    {o : LaneOut} (hsh : l.sh = false) (hth : s.thread? l = some th) (hreg : th.region = none)
    (hrd : readSrcs (s.grp l.g) l th (sources i) = (.ok vs, th')) (hgang : l ∈ s.lanesOfGang c.k)
    (ho : a.f ((s.modThread l fun _ => th').grp l.g) l th' vs = o) :
    aluEffect i a c [l] s = some (aluDone s i a l th' o) := by
  have hk := readSrcs_keeps hreg hrd
  have hreg' : th'.region = none := by rw [hk]; exact hreg
  have ht := thread_of hth
  have hth1 : (s.modThread l fun _ => th').thread? l = some th' := by simp [thread?_modThread_self, hth]
  have ht1 := thread_of hth1
  have hpop : s.popOperands c i l = .ok (vs, s.modThread l fun _ => th') := by
    simp [State.popOperands, ht, hrd]
  have hcont : (s.lanesOfGang c.k).contains l = true := by simpa using hgang
  have hleft : s.shadowLeft c l = false := by simp [State.shadowLeft, hsh]
  simp only [aluEffect, groupsOf_one, List.foldl_cons, List.foldl_nil, lanesOf_one, List.filter_cons, hsh, Bool.not_false,
    if_true, List.filter_nil, Bool.false_eq_true, if_false, Option.some.injEq]
  have htr : (s.modThread l fun _ => th').trackLane i a l vs = s.modThread l fun _ => th' := by
    simp [State.trackLane, ht1, hreg']
  have hl2 : ((s.modThread l fun _ => th').lanesOfGang c.k).contains l = true := hcont
  simp only [State.aluGroup, List.isEmpty_cons, List.isEmpty_nil, Bool.false_eq_true, if_false, if_true, State.gather, hpop, hleft,
    List.map_cons, List.map_nil, ht1, ho, List.foldl_cons, List.foldl_nil, htr, List.filter_cons, hl2, List.filter_nil, List.any_cons, List.any_nil,
    Bool.or_false]
  generalize hsp : writeShape _ _ _ _ _ _ _ = shape
  have hth2 := (thread?_commit (s.modThread l fun _ => th') l.g false shape a.dst [(l.t, o.val)] l).trans hth1
  simp only [aluDone, hsp]
  congr 1
  exact modThread_congr hth2 (by simp [Thread.flagged, hreg'])

/-! ### The whole word -/

theorem fallThrough_inside (s : State) (c : Ctx) (act : List Lane) (eff : Effect) (s1 : State) (h : c.last = false) :
    State.fallThrough s c act eff s1 = s1 := by
  simp only [State.fallThrough, h, Bool.not_false, Bool.or_true, if_true]

theorem ctx_inside {gang : Gang} {k : Nat} (h : gang.inside = true) : (gang.ctx k).last = false := by
  simpa [Gang.inside, Gang.ctx] using h

/-- Where a gang goes on inside its clause. -/
def Gang.onward (i : Instr) (g : Gang) : Gang :=
  { g with ix := g.ix + 1, wip := none, yld := g.yld || (headPart i).sched == .yld }

/-- A word of one plain thread that is not its clause's last: what its effect leaves, the thread past the word, the gang at the
next word, and bookkeeping. -/
theorem runWith_inside {s s3 : State} {k : Nat} {gang g3 : Gang} {l : Lane} {i : Instr} (alu : Bool) (pend : Pending)
    (eff : Effect) (h : s.plainAt k gang l i = true) (hin : gang.inside = true)
    (he : eff (gang.ctx k) [l] (s.issued gang) = some s3) (hg : s3.gang? k = some g3) (hgl : g3.lanes = [l]) :
    ∃ t, runWith i alu pend eff s = .next t ∧
      Quiet ((s3.modThread l fun th => th.past (gang.ctx k)).modGang k (Gang.onward i)) t l.g := by
  have hlast := ctx_inside (k := k) hin
  obtain ⟨-, hk, hl, hsh, hstep, -⟩ := standsAt_cases (plainAt_cases h).1
  refine ⟨_, runWith_plain alu pend eff h, ?_⟩
  rw [wordStep_plain alu pend eff h]
  simp only [he, hlast, Bool.false_and, Bool.or_false]
  rw [fallThrough_inside _ _ _ _ _ hlast]
  have hstay : (s3.modGang k fun g => { g with yld := g.yld || (headPart i).sched == .yld }).lanesOfGang (gang.ctx k).k
      = [l] := by
    have : (gang.ctx k).k = k := rfl
    simp only [State.gang?] at hg
    simp [State.lanesOfGang, State.gang?, this, hg, hgl]
  have hq := finishWord_inside s (s3.modGang k fun g => { g with yld := g.yld || (headPart i).sched == .yld }) (gang.ctx k)
    { gang with yld := gang.yld || (headPart i).sched == .yld } i l hlast hstep hl hstay
  refine Eq.mp ?_ hq
  congr 1
  simp only [State.modGang, State.modThread, State.modGroup, State.mk.injEq, true_and, and_true]
  exact AMap.modify_modify k _ _ _

/-! ### What a commit writes -/

theorem vreg_putVs_other : ∀ (ws : List (Nat × VVal)) (g : Group) (sh sh' : Bool) (n : Nat),
    (sh' ≠ sh ∨ n ∉ ws.map Prod.fst) → (ws.foldl (fun g e => g.putV sh e.1 e.2) g).vreg sh' n = g.vreg sh' n
  | [], _, _, _, _, _ => rfl
  | e :: r, g, sh, sh', n, h => by
    rw [List.foldl_cons, vreg_putVs_other r _ sh sh' n]
    · rcases h with h | h
      · exact vreg_putV_sh g h _ _ _
      · simp only [List.map_cons, List.mem_cons, not_or] at h
        exact vreg_putV_ne g sh h.1 _ sh'
    · rcases h with h | h
      · exact .inl h
      · simp only [List.map_cons, List.mem_cons, not_or] at h
        exact .inr h.2

/-- A commit changes no register outside its destinations, and none of the other file. -/
theorem vreg_commit_other (g : Group) (sh : Bool) (shape : Option (List VVal)) (dst : List Nat) (outs : List (Nat × DWord))
    (sh' : Bool) (n : Nat) (h : sh' ≠ sh ∨ n ∉ dst) : (g.commit sh shape dst outs).vreg sh' n = g.vreg sh' n := by
  cases shape with
  | some vs =>
    refine vreg_putVs_other _ g sh sh' n ?_
    rcases h with h | h
    · exact .inl h
    · refine .inr fun hm => h ?_
      obtain ⟨e, he, rfl⟩ := List.mem_map.mp hm
      exact (List.of_mem_zip he).1
  | none =>
    rcases dst with _ | ⟨d, _ | ⟨e, r⟩⟩
    · rfl
    · rcases h with h | h
      · exact vreg_putG_sh g h _ _ _
      · exact vreg_putG_ne g sh (by simpa using h) _ sh'
    · rcases h with h | h
      · exact (vreg_putG_sh _ h _ _ _).trans (vreg_putG_sh g h _ _ _)
      · simp only [List.mem_cons, not_or] at h
        exact (vreg_putG_ne _ sh h.2.1 _ sh').trans (vreg_putG_ne g sh h.1 _ sh')

/-- The shape of one lane's result: G, or a list that reads as the value in that lane. -/
theorem writeShape_one {g : Group} {i : Instr} {a : AluWord} {whole : Bool} {val : DWord} {free : Word} {l : Lane}
    (htag : ∀ v, a.dst.length = 1 → a.tag ((allSources i).map fun o => srcShape g false o.1) = some v → v.at l.t = val.lo) :
    writeShape g false i a whole [val] free = none ∨
    (whole = true ∧ ∃ vs, writeShape g false i a whole [val] free = some vs ∧
      ((∃ d v, a.dst = [d] ∧ vs = [v] ∧ v.at l.t = val.lo) ∨
       (a.dst.length ≠ 1 ∧ vs = [.u val.lo, .u val.hi]))) := by
  cases whole with
  | false => exact .inl (by simp [writeShape])
  | true =>
    rcases hd : a.dst with _ | ⟨d, _ | ⟨e, r⟩⟩
    · simp only [writeShape, hd, Bool.not_true, Bool.false_eq_true, if_false, Option.isSome_none, List.all_nil, if_true]
      split
      · exact .inr ⟨trivial, _, rfl, .inr ⟨by simp, rfl⟩⟩
      · exact .inl rfl
    · simp only [hd, List.length_cons, List.length_nil, Nat.zero_add, true_implies] at htag
      simp only [writeShape, hd, Bool.not_true, Bool.false_eq_true, if_false, List.all_nil, if_true]
      split
      · rename_i h1
        obtain ⟨v, hv⟩ := Option.isSome_iff_exists.mp h1
        rw [hv]
        obtain ⟨w, hw, rfl⟩ := Option.map_eq_some_iff.mp hv
        exact .inr ⟨trivial, _, rfl, .inl ⟨d, w, rfl, rfl, htag w hw⟩⟩
      · split
        · exact .inr ⟨trivial, _, rfl, .inl ⟨d, _, rfl, rfl, rfl⟩⟩
        · exact .inl rfl
    · simp only [writeShape, hd, Bool.not_true, Bool.false_eq_true, if_false, Option.isSome_none, List.all_nil, if_true]
      split
      · exact .inr ⟨trivial, _, rfl, .inr ⟨by simp, rfl⟩⟩
      · exact .inl rfl

/-- What one lane's commit leaves in a destination: the lane reads the value; where the write is not of the whole group every
other thread of the group keeps its word. -/
theorem commit_dest {g : Group} {i : Instr} {a : AluWord} {whole : Bool} {val : DWord} {free : Word} {l : Lane}
    (hsh : l.sh = false)
    (htag : ∀ v, a.dst.length = 1 → a.tag ((allSources i).map fun o => srcShape g false o.1) = some v → v.at l.t = val.lo)
    (g' : Group) (hg' : g' = g.commit false (writeShape g false i a whole [val] free) a.dst [(l.t, val)]) :
    (∀ d, a.dst = [d] → g'.readV l d = val.lo) ∧
    (∀ d e, a.dst = [d, e] → d ≠ e → g'.readV l d = val.lo ∧ g'.readV l e = val.hi) ∧
    (whole = false → ∀ d ∈ a.dst, a.dst.length ≤ 2 → ∀ t, t ≠ l.t → t < g.width → (g'.vreg false d).val.at t = (g.vreg false d).val.at t) := by
  subst hg'
  have self := fun (g : Group) n w => putLane_self g l n w
  have other := fun (g : Group) n w => @putG_other g l n w
  simp only [hsh] at self other
  simp only [Group.readV, hsh]
  rcases writeShape_one (whole := whole) (free := free) htag with h | ⟨hw, vs, h, h2⟩
  · rw [h]
    refine ⟨fun d hd => ?_, fun d e hd hne => ?_, fun _ d hd hlen t ht hwid => ?_⟩
    · simp only [Group.commit, hd, List.map_cons, List.map_nil]
      exact self _ _ _
    · simp only [Group.commit, hd, List.map_cons, List.map_nil]
      rw [vreg_putG_ne _ _ hne]
      exact ⟨self _ _ _, self _ _ _⟩
    · rcases hdst : a.dst with _ | ⟨x, _ | ⟨y, _ | ⟨z, r⟩⟩⟩
      · simp [hdst] at hd
      · rw [hdst] at hd
        simp only [List.mem_cons, List.not_mem_nil, or_false] at hd
        subst hd
        exact other g d _ ht hwid
      · rw [hdst] at hd
        simp only [List.mem_cons, List.not_mem_nil, or_false] at hd
        simp only [Group.commit, List.map_cons, List.map_nil]
        by_cases hy : d = y
        · subst hy
          have hw' : t < (g.putG false x [(l.t, val.lo)]).width := hwid
          rw [other _ d _ ht hw']
          by_cases hx : d = x
          · subst hx
            exact other g d _ ht hwid
          · rw [vreg_putG_ne _ _ hx]
        · rw [vreg_putG_ne _ _ hy]
          have hx : d = x := by
            rcases hd with h | h
            · exact h
            · exact absurd h hy
          subst hx
          exact other g d _ ht hwid
      · simp [hdst] at hlen
  · rw [h]
    subst hw
    refine ⟨fun d hd => ?_, fun d e hd hne => ?_, fun h => by cases h⟩
    · rcases h2 with ⟨d', v, hd', rfl, hv⟩ | ⟨hl2, -⟩
      · rw [hd] at hd'
        cases hd'
        simp only [Group.commit, hd, List.zip_cons_cons, List.zip_nil_right, List.foldl_cons, List.foldl_nil]
        rw [vreg_putV_self]
        exact hv
      · simp [hd] at hl2
    · rcases h2 with ⟨d', v, hd', rfl, hv⟩ | ⟨hl2, rfl⟩
      · rw [hd] at hd'
        cases hd'
      · simp only [Group.commit, hd, List.zip_cons_cons, List.zip_nil_right, List.foldl_cons, List.foldl_nil]
        rw [vreg_putV_ne _ _ hne, vreg_putV_self, vreg_putV_self]
        exact ⟨rfl, rfl⟩

/-! ### The law of computing words -/

theorem setPreds_live (ps : List (Nat × Bool)) (th : Thread) : (th.setPreds ps).live = th.live := by
  induction ps generalizing th with
  | nil => rfl
  | cons e r ih =>
    simp only [Thread.setPreds, List.foldl_cons] at ih ⊢
    rw [ih]
    simp only [Thread.setPred]
    split <;> rfl

theorem commit_keeps (g : Group) (shape : Option (List VVal)) (dst : List Nat) (outs : List (Nat × DWord)) :
    g.commit false shape dst outs = { g with v := (g.commit false shape dst outs).v } := by
  have hf : ∀ (l : List (Nat × VVal)) (g : Group),
      l.foldl (fun g e => g.putV false e.1 e.2) g = { g with v := (l.foldl (fun g e => g.putV false e.1 e.2) g).v } := by
    intro l
    induction l with
    | nil => intro g; rfl
    | cons e r ih =>
      intro g
      rw [List.foldl_cons, ih]
      rfl
  cases shape with
  | some vs => exact hf _ g
  | none => rcases dst with _ | ⟨d, _ | ⟨e, r⟩⟩ <;> rfl

/-- A state that differs only in groups, gangs, cores, the turn and the counter of free values keeps the rest. -/
theorem restKept_of_fields {s t : State} {l : Lane}
    (ht : t = { s with groups := t.groups, gangs := t.gangs, cores := t.cores, free := t.free, cur := t.cur })
    (hg : ∀ g, g ≠ l.g → t.group? g = s.group? g) (hc : ∀ c, (t.core c).uncounted = (s.core c).uncounted) :
    s.restKept t l := by
  have : t.byteAt = s.byteAt := by
    funext a
    rw [ht]
    rfl
  refine ⟨fun a => by rw [this], hg, hc, ?_⟩
  rw [ht]
  simp

theorem fields_chain {s s1 s2 t : State} (h1 : s1 = { s with groups := s1.groups, cores := s1.cores })
    (h2 : s2 = { s1 with groups := s2.groups, gangs := s2.gangs, free := s2.free })
    (h3 : t = { s2 with groups := t.groups, cores := t.cores }) :
    t = { s with groups := t.groups, gangs := t.gangs, cores := t.cores, free := t.free, cur := t.cur } := by
  rcases s
  rcases s1
  rcases s2
  rcases t
  simp only [State.mk.injEq, true_and] at h1 h2 h3 ⊢
  simp_all

/-- A word whose effect changes only its group's value `X`: where the thread, the gang, the group and the rest stand after it. -/
theorem runWith_group {s s3 : State} {k : Nat} {gang : Gang} {l : Lane} {i : Instr} {X : Group} (alu : Bool) (pend : Pending)
    (eff : Effect) (h : s.plainAt k gang l i = true) (hin : gang.inside = true)
    (he : eff (gang.ctx k) [l] (s.issued gang) = some s3)
    (h3 : s3 = { s.issued gang with groups := s3.groups, free := s3.free })
    (hX : s3.group? l.g = some X) (ho : ∀ g, g ≠ l.g → s3.group? g = (s.issued gang).group? g) :
    ∃ t, runWith i alu pend eff s = .next t ∧ s.wentOn t k gang i ∧ s.restKept t l ∧
      Group.Quiet (X.modThread l.key fun th => th.past (gang.ctx k)) (t.grp l.g) ∧
      ∀ m : Lane, m.g = l.g → t.thread? m = (X.modThread l.key fun th => th.past (gang.ctx k)).thread? m.key := by
  obtain ⟨hcur, hk, hl, -⟩ := standsAt_cases (plainAt_cases h).1
  have hq := issued_quiet s gang l hl
  have hg3 : s3.gang? k = some gang := by
    rw [h3]
    exact (hq.gang? k).trans hk
  obtain ⟨t, hrun, hqt⟩ := runWith_inside alu pend eff h hin he hg3 hl
  have hgr : ((s3.modThread l fun th => th.past (gang.ctx k)).modGang k (Gang.onward i)).group? l.g =
      some (X.modThread l.key fun th => th.past (gang.ctx k)) := by
    simp only [State.group?] at hX
    simp [State.group?, hX]
  obtain ⟨y, hy, hqy⟩ := hqt.group _ hgr
  have hty : t.grp l.g = y := by simp [State.grp, hy]
  refine ⟨t, hrun, ⟨?_, ?_⟩, restKept_of_fields ?_ (fun g hg => ?_) fun c => ?_, ?_, fun m hm => ?_⟩
  · rw [hqt.fields]
    show s3.cur = s.cur
    rw [h3]
    show (s.issued gang).cur = s.cur
    rw [hq.fields]
  · rw [hqt.gang? k]
    simp only [State.gang?] at hg3
    simp only [State.gang?, State.modGang_gangs, AMap.find?_modify_self, State.modThread_gangs, hg3]
    rfl
  · refine fields_chain hq.fields (s2 := (s3.modThread l fun th => th.past (gang.ctx k)).modGang k (Gang.onward i)) ?_ hqt.fields
    rw [h3]
    rfl
  · rw [hqt.others g hg, ← hq.others g hg, ← ho g hg]
    simp [State.group?, AMap.find?_modify_ne hg]
  · rw [hqt.cores c, ← hq.cores c]
    have : ((s3.modThread l fun th => th.past (gang.ctx k)).modGang k (Gang.onward i)).cores = (s.issued gang).cores := by
      show s3.cores = _
      rw [h3]
    simp only [State.core, this]
  · rw [hty]
    exact hqy
  · rw [hqt.thread? m]
    simp only [State.thread?, hm, hgr, Option.bind_some]

/-- A computing word of one plain thread, inside its clause: it completes, and all it changes is its destination, its flags
and predicates, its queues, and the thread's place (R26, R29, R31, R52, R72). -/
theorem runAlu_computed {s : State} {k : Nat} {gang : Gang} {l : Lane} {i : Instr} {a : AluWord} {vs : List DWord}
    {th' : Thread} {o : LaneOut} (h : s.plainAt k gang l i = true) (hin : gang.inside = true)
    (hops : s.operandsOf l i = some (vs, th'))
    (hval : ∀ g : Group, (∀ sh n, (g.vreg sh n).val = ((s.grp l.g).vreg sh n).val) → g.j = (s.grp l.g).j →
      a.f g l th' vs = o)
    (htag : ∀ v, a.dst.length = 1 → a.tag ((allSources i).map fun o => srcShape (s.grp l.g) false o.1) = some v →
      v.at l.t = o.val.lo)
    (hnd : a.dst.Nodup) (hlen : a.dst.length ≤ 2) :
    ∃ t, runAlu i a s = .next t ∧ s.computed t k gang l i a.dst o.val ((th'.raise o.fl).setPreds o.preds) := by
  obtain ⟨hs, -, hreg, -⟩ := plainAt_cases h
  obtain ⟨-, hk, hl, hsh, -, ⟨th, hth⟩, -, -, -⟩ := standsAt_cases hs
  have hq := issued_quiet s gang l hl
  rw [thread_of hth] at hreg
  have hrd : readSrcs (s.grp l.g) l th (sources i) = (.ok vs, th') := by
    simp only [State.operandsOf, thread_of hth] at hops
    split at hops
    · rename_i vs' th'' he
      simp only [Option.some.injEq, Prod.mk.injEq] at hops
      rw [he, hops.1, hops.2]
    · cases hops
  have hth' : (s.issued gang).thread? l = some th := (hq.thread? l).trans hth
  rw [← readSrcs_group fun n => congrArg VReg.val (hq.vreg l.sh n)] at hrd
  obtain ⟨x, hx⟩ : ∃ x, (s.issued gang).group? l.g = some x := by
    rcases hx : (s.issued gang).group? l.g with _ | x
    · simp [State.thread?, hx] at hth'
    · exact ⟨x, rfl⟩
  have hxs : (s.issued gang).grp l.g = x := by simp [State.grp, hx]
  have hgq := hq.grp
  rw [hxs] at hgq
  have htx : AMap.find? x.threads l.key = some th := by
    simpa [State.thread?, hx, Group.thread?] using hth'
  have hg1 : ((s.issued gang).modThread l fun _ => th').grp l.g = x.modThread l.key fun _ => th' := by
    rw [grp_modThread, hxs]
    simp
  have heff := aluEffect_one (c := gang.ctx k) (a := a) (o := o) hsh hth' hreg hrd
    (by
      have : (gang.ctx k).k = k := rfl
      simp [State.lanesOfGang, this, (hq.gang? k).trans hk, hl])
    (by
      rw [hg1]
      exact hval _ hgq.val hgq.j)
  obtain ⟨sp, hsp⟩ : ∃ sp, sp = writeShape (x.modThread l.key fun _ => th') false i a
      ((x.modThread l.key fun _ => th').live.all fun e => l.t == e.1) [o.val] (s.issued gang).freeWord.lo := ⟨_, rfl⟩
  obtain ⟨C, hC⟩ : ∃ C, C = (x.modThread l.key fun _ => th').commit false sp a.dst [(l.t, o.val)] := ⟨_, rfl⟩
  have hX : (aluDone (s.issued gang) i a l th' o).group? l.g =
      some (C.modThread l.key fun th => (th.raise o.fl).setPreds o.preds) := by
    have hx' := hx
    simp only [State.group?] at hx'
    subst hC hsp
    simp only [aluDone, hg1]
    simp only [State.group?, State.modThread_groups, State.modGroup_groups, State.used_groups, AMap.find?_modify_self, hx',
      Option.map_some]
    rfl
  obtain ⟨t, hrun, hwent, hrest, hqg, hthr⟩ := runWith_group true (fun _ _ s => s) (aluEffect i a) h hin heff rfl hX
    (fun g hg => by
      simp only [aluDone, State.group?, State.modThread_groups, State.used_groups, State.modGroup_groups,
        AMap.find?_modify_ne hg])
  have hCt : C.threads = AMap.modify l.key (fun _ => th') x.threads := by
    rw [hC, commit_threads]
    rfl
  have hcd := commit_dest (i := i) (a := a) (g := x.modThread l.key fun _ => th')
    (whole := (x.modThread l.key fun _ => th').live.all fun e => l.t == e.1) (val := o.val)
    (free := (s.issued gang).freeWord.lo) hsh
    (fun v h1 h2 => htag v h1 (by
      have : ∀ q, srcShape (x.modThread l.key fun _ => th') false q = srcShape (s.grp l.g) false q := by
        intro q
        cases q with
        | v n => exact hgq.val false n
        | q n => rfl
        | zero => rfl
      simpa only [this] using h2)) C (by rw [hC, hsp])
  have hyr : ∀ (m : Lane) n, m.g = l.g → t.v m n = C.readV m n := by
    intro m n hm
    simp only [State.v, hm, Group.readV, hqg.val]
    rfl
  refine ⟨t, hrun, ?_, ?_, hwent, ?_, ?_, ?_, hrest⟩
  · rcases hd : a.dst with _ | ⟨d, _ | ⟨e, _ | ⟨f, r⟩⟩⟩
    · trivial
    · simp only [State.destHolds, hyr l _ rfl]
      exact hcd.1 d hd
    · simp only [State.destHolds, hyr l _ rfl]
      refine hcd.2.1 d e hd ?_
      rw [hd] at hnd
      simp only [List.nodup_cons, List.mem_cons, List.not_mem_nil, or_false] at hnd
      exact hnd.1
    · simp [hd] at hlen
  · rw [hthr l rfl]
    simp only [Group.thread?, Group.modThread, AMap.find?_modify_self, hCt, htx, Option.map_some]
  · intro n hn m hm
    rw [hyr m n hm, hC]
    simp only [Group.readV, State.v, hm, vreg_commit_other _ _ _ _ _ _ _ (.inr hn), ← hgq.val]
    rfl
  · intro n hn m hm hms hmt hm64 hmw hml
    have hmk : m.key ≠ l.key := by
      simp only [Lane.key, hms, hsh, b2n]
      simpa using hmt
    have hwhole : ((x.modThread l.key fun _ => th').live.all fun e => l.t == e.1) = false := by
      rcases hmt' : s.thread? m with _ | thm
      · simp [State.thread, hmt', Thread.create] at hml
      · rw [thread_of hmt'] at hml
        have hmx : AMap.find? x.threads m.key = some thm := by
          have := (hq.thread? m).trans hmt'
          simpa [State.thread?, hm, hx, Group.thread?] using this
        have hkey : m.key = m.t := by simp [Lane.key, hms, b2n]
        have hmem : (m.key, thm) ∈ (x.modThread l.key fun _ => th').threads := by
          apply AMap.mem_of_find?
          simp only [Group.modThread, AMap.find?_modify_ne hmk]
          exact hmx
        rw [hkey] at hmem
        rw [List.all_eq_false]
        refine ⟨(m.t, thm), ?_, by simpa using fun h => hmt h.symm⟩
        simp [Group.live, Group.primaries, hmem, hm64, hml]
    have := hcd.2.2 hwhole n hn hlen m.t hmt (by
      show m.t < x.width
      rw [hgq.width]
      exact hmw)
    rw [hyr m n hm]
    simp only [Group.readV, State.v, hm, hms, this, ← hgq.val]
    rfl
  · have hCk : C = { (x.modThread l.key fun _ => th') with v := C.v } := by
      rw [hC]
      exact commit_keeps _ _ _ _
    refine ⟨?_, ?_, ?_, ?_, ?_, ?_, fun m hm hne => ?_⟩
    · rw [hqg.j, ← hgq.j, hCk]; rfl
    · rw [hqg.b, ← hgq.b, hCk]; rfl
    · rw [hqg.scratch, ← hgq.scratch, hCk]; rfl
    · rw [hqg.scratchPoison, ← hgq.scratchPoison, hCk]; rfl
    · rw [hqg.rounds, ← hgq.rounds, hCk]; rfl
    · rw [hqg.slice, ← hgq.slice, hCk]; rfl
    · rw [hthr m hm, ← hq.thread? m]
      simp only [State.thread?, hm, hx, Option.bind_some, Group.thread?, Group.modThread, AMap.find?_modify_ne hne, hCt]

end Sys2Proof.Machine
end

