-- ==== Sys2Proof/Laws/Memory.lean ====
section
/-! SUPPORT. The memory's canonical form is kept by every operation that writes bytes, and a byte reads as it was last
written. -/

namespace Sys2Proof.Machine

open Sys2Proof

theorem Memory.wfFrom_mono {lo lo' : Nat} (h : lo ≤ lo') : ∀ {m : List Host.Cell}, Memory.wfFrom lo' m → Memory.wfFrom lo m
  | [], _ => rfl
  | (x, b) :: r, hm => by
    simp only [Memory.wfFrom, Bool.and_eq_true, decide_eq_true_eq] at hm ⊢
    exact ⟨⟨by omega, hm.1.2⟩, hm.2⟩

/-- Below the first listed address every byte reads 0. -/
theorem Memory.get_below {lo a : Nat} (h : a < lo) : ∀ {m : List Host.Cell}, Memory.wfFrom lo m → Memory.get m a = 0
  | [], _ => rfl
  | (x, b) :: r, hm => by
    simp only [Memory.wfFrom, Bool.and_eq_true, decide_eq_true_eq] at hm
    have h1 : ¬ x = a := by omega
    have h2 : a < x := by omega
    simp [Memory.get, h1, h2]

theorem Memory.wfFrom_set (a : Nat) (b : Byte) :
    ∀ {lo : Nat} {m : List Host.Cell}, lo ≤ a → Memory.wfFrom lo m → Memory.wfFrom lo (Memory.set a b m)
  | lo, [], ha, _ => by
    simp only [Memory.set]
    split
    · rfl
    · rename_i hb
      simp only [Memory.wfFrom, Bool.and_eq_true, decide_eq_true_eq]
      exact ⟨⟨ha, hb⟩, trivial⟩
  | lo, (x, c) :: r, ha, hm => by
    have hm' := hm
    simp only [Memory.wfFrom, Bool.and_eq_true, decide_eq_true_eq] at hm
    obtain ⟨⟨hx, hc⟩, hr⟩ := hm
    simp only [Memory.set]
    split
    · split
      · exact hm'
      · rename_i h1 h2
        simp only [Memory.wfFrom, Bool.and_eq_true, decide_eq_true_eq]
        exact ⟨⟨ha, h2⟩, ⟨by omega, hc⟩, hr⟩
    · split
      · rename_i h1 h2
        subst h2
        split
        · exact Memory.wfFrom_mono (by omega) hr
        · rename_i hb
          simp only [Memory.wfFrom, Bool.and_eq_true, decide_eq_true_eq]
          exact ⟨⟨hx, hb⟩, hr⟩
      · rename_i h1 h2
        simp only [Memory.wfFrom, Bool.and_eq_true, decide_eq_true_eq]
        exact ⟨⟨hx, hc⟩, Memory.wfFrom_set a b (by omega) hr⟩

/-- Writing a byte keeps the canonical form. -/
theorem Memory.wf_set (a : Nat) (b : Byte) {m : List Host.Cell} (h : Memory.wf m) : Memory.wf (Memory.set a b m) :=
  Memory.wfFrom_set a b (Nat.zero_le a) h

/-- A written byte reads back. -/
theorem Memory.get_set_self (a : Nat) (b : Byte) :
    ∀ {lo : Nat} {m : List Host.Cell}, Memory.wfFrom lo m → Memory.get (Memory.set a b m) a = b
  | _, [], _ => by
    simp only [Memory.set]
    split
    · rename_i hb
      exact hb.symm
    · simp [Memory.get]
  | lo, (x, c) :: r, hm => by
    simp only [Memory.wfFrom, Bool.and_eq_true, decide_eq_true_eq] at hm
    obtain ⟨⟨hx, hc⟩, hr⟩ := hm
    simp only [Memory.set]
    split
    · rename_i h1
      split
      · rename_i hb
        simp [Memory.get, h1, hb, Nat.ne_of_gt h1]
      · simp [Memory.get]
    · split
      · rename_i h1 h2
        subst h2
        split
        · rename_i hb
          rw [Memory.get_below (Nat.lt_succ_self _) hr, hb]
        · simp [Memory.get]
      · rename_i h1 h2
        simp only [Memory.get, h2, h1, if_false]
        exact Memory.get_set_self a b hr

/-- Writing a byte leaves every other byte alone. -/
theorem Memory.get_set_ne {a a' : Nat} (h : a' ≠ a) (b : Byte) :
    ∀ {lo : Nat} {m : List Host.Cell}, Memory.wfFrom lo m → Memory.get (Memory.set a b m) a' = Memory.get m a'
  | _, [], _ => by
    simp only [Memory.set]
    split
    · rfl
    · simp [Memory.get, Ne.symm h]
  | lo, (x, c) :: r, hm => by
    simp only [Memory.wfFrom, Bool.and_eq_true, decide_eq_true_eq] at hm
    obtain ⟨⟨hx, hc⟩, hr⟩ := hm
    simp only [Memory.set]
    split
    · rename_i h1
      split
      · rfl
      · simp only [Memory.get, Ne.symm h, if_false]
        split
        · rename_i h2
          simp [Nat.ne_of_gt (Nat.lt_trans h2 h1), Nat.lt_trans h2 h1]
        · rfl
    · split
      · rename_i h1 h2
        subst h2
        split
        · simp only [Memory.get, Ne.symm h, if_false]
          split
          · rename_i h3
            exact Memory.get_below (by omega) hr
          · rfl
        · simp [Memory.get, Ne.symm h]
      · simp only [Memory.get, Memory.get_set_ne h b hr]

/-- Writing a run of bytes keeps the canonical form. -/
theorem Memory.wf_write : ∀ (bs : List Byte) (a : Nat) {m : List Host.Cell}, Memory.wf m → Memory.wf (Memory.write a bs m)
  | [], _, _, h => h
  | b :: r, a, _, h => Memory.wf_write r (a + 1) (Memory.wf_set a b h)

/-- A run of bytes changes no byte outside it. -/
theorem Memory.get_write_ne : ∀ (bs : List Byte) (a : Nat) {m : List Host.Cell} {a' : Nat}, Memory.wf m →
    (a' < a ∨ a + bs.length ≤ a') → Memory.get (Memory.write a bs m) a' = Memory.get m a'
  | [], _, _, _, _, _ => rfl
  | b :: r, a, m, a', h, ho => by
    simp only [List.length_cons] at ho
    rw [Memory.write, Memory.get_write_ne r (a + 1) (Memory.wf_set a b h) (by omega)]
    exact Memory.get_set_ne (by omega) b h

/-- A run of bytes reads back. -/
theorem Memory.read_write : ∀ (bs : List Byte) (a : Nat) {m : List Host.Cell}, Memory.wf m →
    Memory.read (Memory.write a bs m) a bs.length = bs
  | [], _, _, _ => rfl
  | b :: r, a, m, h => by
    simp only [Memory.write, List.length_cons, Memory.read, List.cons.injEq]
    refine ⟨?_, Memory.read_write r (a + 1) (Memory.wf_set a b h)⟩
    rw [Memory.get_write_ne r (a + 1) (Memory.wf_set a b h) (by omega)]
    exact Memory.get_set_self a b h

theorem Memory.wfFrom_filter (p : Host.Cell → Bool) :
    ∀ {lo : Nat} {m : List Host.Cell}, Memory.wfFrom lo m → Memory.wfFrom lo (m.filter p)
  | _, [], _ => rfl
  | lo, (x, c) :: r, hm => by
    simp only [Memory.wfFrom, Bool.and_eq_true, decide_eq_true_eq] at hm
    have ih := Memory.wfFrom_filter p hm.2
    simp only [List.filter]
    split
    · simp only [Memory.wfFrom, Bool.and_eq_true, decide_eq_true_eq]
      exact ⟨hm.1, ih⟩
    · exact Memory.wfFrom_mono (by omega) ih

theorem Memory.wf_foldl_set : ∀ (l m : List Host.Cell), Memory.wf m →
    Memory.wf (l.foldl (fun m e => Memory.set e.1 e.2 m) m)
  | [], _, h => h
  | e :: r, _, h => Memory.wf_foldl_set r _ (Memory.wf_set e.1 e.2 h)

/-- Copying a range keeps the canonical form (R378, R381). -/
theorem Memory.wf_copyRange (src n dst : Nat) {m : List Host.Cell} (h : Memory.wf m) :
    Memory.wf (Memory.copyRange m src n dst) := by
  simp only [Memory.copyRange]
  exact Memory.wf_foldl_set _ _ (Memory.wfFrom_filter _ h)

/-- Memory after reset is canonical. -/
theorem reset_mem_wf : Memory.wf State.reset.mem := rfl

end Sys2Proof.Machine
end

