-- ==== Sys2Proof/Laws/Coherence.lean ====
section
/-! SUPPORT. The sector protocol moves ownership and copies and changes no byte of memory; every write
below it keeps memory's canonical form: one lemma per operation (R265 to R271, R374, R378). -/

namespace Sys2Proof.Machine

/-- A run of steps that keep memory keeps it. -/
theorem foldl_mem {α : Type} (f : State → α → State) (h : ∀ s x, (f s x).mem = s.mem) :
    ∀ (l : List α) (s : State), (l.foldl f s).mem = s.mem
  | [], _ => rfl
  | x :: r, s => (foldl_mem f h r (f s x)).trans (h s x)

@[simp] theorem State.markSec_mem (s : State) (sec : Space) (hit : Lane → Group → Bool) : (s.markSec sec hit).mem = s.mem := rfl
@[simp] theorem State.mark_mem (s : State) (sec : Nat) (hit : Lane → Group → Bool) : (s.mark sec hit).mem = s.mem := rfl

@[simp] theorem State.markCore_mem (s : State) (sec core : Nat) : (s.markCore sec core).mem = s.mem := by
  unfold State.markCore; split <;> rfl
@[simp] theorem State.markOthers_mem (s : State) (sec : Nat) (who : Lane) : (s.markOthers sec who).mem = s.mem := by
  unfold State.markOthers; split <;> rfl
@[simp] theorem State.markAll_mem (s : State) (sec : Nat) (who : Option Lane) : (s.markAll sec who).mem = s.mem := by
  unfold State.markAll; split <;> rfl
@[simp] theorem State.markPlace_mem (s : State) (sp : Space) (who : Option Lane) : (s.markPlace sp who).mem = s.mem := by
  unfold State.markPlace; split <;> rfl

@[simp] theorem State.markOwners_mem (s : State) (sec : Nat) (keep : Nat → Bool) : (s.markOwners sec keep).mem = s.mem :=
  foldl_mem _ (fun s e => by split <;> simp) _ _

@[simp] theorem State.grantOwn_mem (s : State) (core sec : Nat) : (s.grantOwn core sec).mem = s.mem := by simp [State.grantOwn]
@[simp] theorem State.grantRead_mem (s : State) (core sec : Nat) : (s.grantRead core sec).mem = s.mem := by
  unfold State.grantRead; dsimp only; split <;> simp

@[simp] theorem State.dropCopy_mem (s : State) (core sec : Nat) : (s.dropCopy core sec).mem = s.mem := by
  unfold State.dropCopy; dsimp only; split <;> simp

@[simp] theorem State.forget_mem (s : State) (sec : Nat) : (s.forget sec).mem = s.mem := by simp [State.forget]
@[simp] theorem State.mscCount_mem (s : State) (sec : Nat) : (s.mscCount sec).mem = s.mem := by
  unfold State.mscCount; split <;> rfl

@[simp] theorem State.mscDrain_mem (s : State) (line : Nat) : (s.mscDrain line).mem = s.mem := by
  unfold State.mscDrain
  split
  · rw [State.modDie_mem]; exact foldl_mem _ (fun _ _ => by simp) _ _
  · rfl

@[simp] theorem State.mscRoom_mem (s : State) (sec : Nat) (may : Bool) : (s.mscRoom sec may).mem = s.mem := by
  have out : ∀ t : State, ∀ line : Nat, ((lineSectors line).foldl (fun (s : State) k => s.modSector k fun x => { x with mscHas := false })
      ((t.used 1).mscDrain line)).mem = t.mem := fun t line => by
    rw [foldl_mem _ fun _ _ => by rfl]; exact State.mscDrain_mem _ _
  unfold State.mscRoom
  dsimp only
  split
  · exact out _ _
  · split
    · rfl
    · split
      · rfl
      · exact out _ _

@[simp] theorem State.toMsc_mem (s : State) (sec : Nat) : (s.toMsc sec).mem = s.mem := by
  unfold State.toMsc; dsimp only; split <;> simp

@[simp] theorem State.leaveL2_mem (s : State) (die sec : Nat) : (s.leaveL2 die sec).mem = s.mem := by
  unfold State.leaveL2
  dsimp only
  split <;> simp only [State.toMsc_mem, State.modSector_mem] <;> rw [foldl_mem _ fun _ _ => by simp, foldl_mem _ fun _ _ => by simp]

@[simp] theorem State.evictL2_mem (s : State) (die keep : Nat) : (s.evictL2 die keep).mem = s.mem := by
  unfold State.evictL2
  dsimp only
  split
  · rfl
  · split
    · exact foldl_mem _ (fun _ _ => by simp) _ _
    · rfl

@[simp] theorem State.takeAway_mem (s : State) (sec : Nat) (who : Option Lane) : (s.takeAway sec who).mem = s.mem := by
  unfold State.takeAway; dsimp only; split <;> simp

@[simp] theorem State.takeInside_mem (s : State) (core : Nat) (scope : Scope) (die sec : Nat) :
    (s.takeInside core scope die sec).mem = s.mem := by
  simp only [State.takeInside, State.setSector_mem]
  rw [foldl_mem _ (fun s e => by split <;> simp), foldl_mem _ (fun s e => by split <;> simp)]

@[simp] theorem State.hostKeeps_mem (s : State) (sec : Nat) : (s.hostKeeps sec).mem = s.mem := rfl
@[simp] theorem State.wake_mem (s : State) (p : Nat) : (s.wake p).mem = s.mem := by
  unfold State.wake; split <;> simp
@[simp] theorem State.wakeSector_mem (s : State) (sec : Nat) : (s.wakeSector sec).mem = s.mem := foldl_mem _ (fun _ _ => by simp) _ _
@[simp] theorem State.dirtyWindow_mem (s : State) (sec : Nat) (whole : Bool) : (s.dirtyWindow sec whole).mem = s.mem := by
  unfold State.dirtyWindow; split <;> simp
@[simp] theorem State.poisonSector_mem (s : State) (sec die src : Nat) : (s.poisonSector sec die src).mem = s.mem := by
  simp [State.poisonSector, State.uncorrAt]

@[simp] theorem State.snapDrop_mem (s : State) (l : Nat) : (s.snapDrop l).mem = s.mem := by
  unfold State.snapDrop; split <;> simp

/-! ### Writes keep the canonical form -/

theorem State.wrN_wf (s : State) (pa : Nat) (bs : List Byte) (h : Memory.wf s.mem) : Memory.wf (s.wrN pa bs).mem :=
  Memory.wf_write bs pa h

theorem State.poke_wf (s : State) (pa : Nat) (bs : List Byte) (whole : Bool) (h : Memory.wf s.mem) :
    Memory.wf (s.poke pa bs whole).mem := by
  unfold State.poke
  dsimp only
  split <;> split <;> simp [State.wrN_wf, h]

theorem State.capture_wf (s : State) (launch : Option Nat) (pa : Nat) (h : Memory.wf s.mem) : Memory.wf (s.capture launch pa).mem := by
  unfold State.capture
  split
  · exact h
  · dsimp only
    split
    · exact h
    · split
      · simpa using h
      · simpa using Memory.wf_copyRange _ _ _ h

theorem State.storeNow_wf (s : State) (launch : Option Nat) (who : Option Lane) (pa : Nat) (bs : List Byte) (whole : Bool)
    (h : Memory.wf s.mem) : Memory.wf (s.storeNow launch who pa bs whole).mem := by
  have hc := s.capture_wf launch pa h
  unfold State.storeNow
  dsimp only
  split
  · exact State.poke_wf _ _ _ _ hc
  · split <;> simpa using State.poke_wf _ _ _ _ (by simpa using hc)

theorem State.storeAt_wf (s : State) (core : Nat) (scope : Scope) (launch : Option Nat) (who : Option Lane) (pa : Nat) (bs : List Byte)
    (whole : Bool) (h : Memory.wf s.mem) : Memory.wf (s.storeAt core scope launch who pa bs whole).mem := by
  unfold State.storeAt
  dsimp only
  split
  · exact s.storeNow_wf _ _ _ _ _ h
  · simpa using State.poke_wf _ _ _ _ (by simpa using s.capture_wf launch pa h)

theorem State.ownWrite_wf (s : State) (core : Nat) (launch : Option Nat) (who : Option Lane) (pa : Nat) (bs : List Byte) (whole : Bool)
    (h : Memory.wf s.mem) : Memory.wf (s.ownWrite core launch who pa bs whole).mem := by
  have hp := State.poke_wf (s.capture launch pa) pa bs whole (s.capture_wf launch pa h)
  unfold State.ownWrite
  dsimp only
  split <;> simpa using hp

theorem State.storeRange_wf (s : State) (launch : Option Nat) (who : Option Lane) (pa : Nat) (bs : List Byte) (h : Memory.wf s.mem) :
    Memory.wf (s.storeRange launch who pa bs).mem := by
  unfold State.storeRange
  generalize pieces pa bs (bs.length + 1) = l
  induction l generalizing s with
  | nil => exact h
  | cons e r ih => exact ih _ (s.storeNow_wf _ _ _ _ _ h)

end Sys2Proof.Machine
end

