-- ==== Sys2Proof/Laws/PerInstr.lean ====
section
/-! SUPPORT. Per-instruction laws. `Fields`: an instruction word keeps its opcode and its format fields inside their bits (R81, R84 to
R86), so that no field of an encoding runs into another. -/

namespace Sys2Proof.Laws.Fields

open Sys2Proof

/-- The opcode is below 1024 and the format fields are below 2 ^ 39; an event has no word. -/
def Statement (i : Instr) : Prop :=
  match parts i with
  | some (opc, _, body) => opc < 1024 ∧ body < 2 ^ 39
  | none => True

/-! ### Each code stays below its field -/

theorem srcCode_lt (a : Src) : srcCode a < 105 := by cases a <;> simp only [srcCode] <;> omega
theorem vDestZCode_lt (a : Option (Fin 96)) : vDestZCode a < 105 := by cases a <;> simp only [vDestZCode] <;> omega
theorem scopeCode_lt (a : Scope) : scopeCode a < 7 := by cases a <;> decide
theorem ordCode_lt (a : MOrd) : ordCode a < 4 := by cases a <;> decide
theorem fmtCode_lt (a : FFmt) : fmtCode a < 4 := by cases a <;> decide
theorem specFmtCode_lt (a : FFmt) : specFmtCode a < 4 := by cases a <;> decide
theorem rmCode_lt (a : RMode) : rmCode a < 8 := by cases a <;> decide
theorem b2n_lt (a : Bool) : b2n a < 2 := by cases a <;> decide
theorem smodCode_lt (a : SrcMod) : smodCode a < 4 := by
  have h := b2n_lt a.abs
  have k := b2n_lt a.neg
  simp only [smodCode]
  omega
theorem icondCode_lt (a : ICond) : icondCode a < 8 := by cases a <;> decide
theorem fcondCode_lt (a : FCond) : fcondCode a < 8 := by cases a <;> decide
theorem kindCode_lt (a : NumKind) : kindCode a < 8 := by
  rcases a with f | _ | _ | _ | _
  · have h := fmtCode_lt f
    simp only [kindCode]
    omega
  all_goals decide
theorem redCode_lt (a : RedOp) : redCode a < 32 := by cases a <;> decide
theorem shflCode_lt (a : ShflMode) : shflCode a < 4 := by cases a <;> decide
theorem atomCode_lt (a : AtomOp) : atomCode a < 16 := by cases a <;> decide
theorem ldTyCode_lt (a : LdTy) : ldTyCode a < 7 := by cases a <;> decide
theorem stTyCode_lt (a : StTy) : stTyCode a < 5 := by cases a <;> decide
theorem sregCode_lt (a : SReg) : sregCode a < 128 := by cases a <;> decide
theorem xfCode_lt (a : XfSel) : xfCode a < 32 := by cases a <;> simp only [xfCode] <;> omega
theorem maskCode_lt (a : MaskOp) : maskCode a < 105 := by
  cases a with
  | j n => simp only [maskCode]; omega
  | pair s => exact srcCode_lt s
theorem handleNum_lt (a : Option (Fin 16)) : handleNum a < 16 := by cases a <;> simp only [handleNum] <;> omega
theorem voteD_lt (a : VoteDst) : voteD a < 96 := by cases a <;> simp only [voteD] <;> omega
theorem voteE_lt (a : VoteDst) : voteE a < 105 := by
  cases a with
  | ballot d f => exact srcCode_lt f
  | _ => simp only [voteE]; omega
theorem voteOp_lt (a : VoteDst) : voteOp a < 4 := by cases a <;> simp only [voteOp] <;> omega

end Sys2Proof.Laws.Fields

open Sys2Proof Sys2Proof.Laws.Fields

/-! ### The lemmas, one per instruction -/

theorem Sys2Proof.Laws.Fields.iadd : ∀ h x, Statement (.iadd h x) := by
  intro h x
  have h0 := srcCode_lt x.a
  have h1 := srcCode_lt x.b
  have h2 := b2n_lt x.w
  have h3 := b2n_lt x.sg
  have h4 := b2n_lt x.sat
  have h5 := x.d.isLt
  show (0x000) < 1024 ∧ kAlu2 x < 2 ^ 39
  simp only [kAlu2, modW, bodyK]
  omega
theorem Sys2Proof.Laws.Fields.isub : ∀ h x, Statement (.isub h x) := by
  intro h x
  have h0 := srcCode_lt x.a
  have h1 := srcCode_lt x.b
  have h2 := b2n_lt x.w
  have h3 := b2n_lt x.sg
  have h4 := b2n_lt x.sat
  have h5 := x.d.isLt
  show (0x001) < 1024 ∧ kAlu2 x < 2 ^ 39
  simp only [kAlu2, modW, bodyK]
  omega
theorem Sys2Proof.Laws.Fields.imul : ∀ h x, Statement (.imul h x) := by
  intro h x
  have h0 := srcCode_lt x.a
  have h1 := srcCode_lt x.b
  have h2 := b2n_lt x.w
  have h3 := b2n_lt x.sg
  have h4 := b2n_lt x.sat
  have h5 := x.d.isLt
  show (0x002) < 1024 ∧ kAlu2 x < 2 ^ 39
  simp only [kAlu2, modW, bodyK]
  omega
theorem Sys2Proof.Laws.Fields.imulh : ∀ h x, Statement (.imulh h x) := by
  intro h x
  have h0 := srcCode_lt x.a
  have h1 := srcCode_lt x.b
  have h2 := b2n_lt x.w
  have h3 := b2n_lt x.sg
  have h4 := b2n_lt x.sat
  have h5 := x.d.isLt
  show (0x003) < 1024 ∧ kAlu2 x < 2 ^ 39
  simp only [kAlu2, modW, bodyK]
  omega
theorem Sys2Proof.Laws.Fields.imad : ∀ h x, Statement (.imad h x) := by
  intro h x
  have h0 := srcCode_lt x.a
  have h1 := srcCode_lt x.b
  have h2 := srcCode_lt x.c
  have h3 := b2n_lt x.w
  have h4 := b2n_lt x.sg
  have h5 := b2n_lt false
  have h6 := x.d.isLt
  show (0x004) < 1024 ∧ kAlu3 x < 2 ^ 39
  simp only [kAlu3, modW, bodyK]
  omega
theorem Sys2Proof.Laws.Fields.imadw : ∀ h x, Statement (.imadw h x) := by
  intro h x
  have h0 := srcCode_lt x.a
  have h1 := srcCode_lt x.b
  have h2 := srcCode_lt x.c
  have h3 := b2n_lt x.w
  have h4 := b2n_lt x.sg
  have h5 := b2n_lt false
  have h6 := x.d.isLt
  show (0x005) < 1024 ∧ kAlu3 x < 2 ^ 39
  simp only [kAlu3, modW, bodyK]
  omega
theorem Sys2Proof.Laws.Fields.ineg : ∀ h x, Statement (.ineg h x) := by
  intro h x
  have h0 := srcCode_lt x.a
  have h1 := b2n_lt x.w
  have h2 := b2n_lt x.sg
  have h3 := b2n_lt x.sat
  have h4 := x.d.isLt
  show (0x006) < 1024 ∧ kAlu1 x < 2 ^ 39
  simp only [kAlu1, modW, bodyK]
  omega
theorem Sys2Proof.Laws.Fields.iabs : ∀ h x, Statement (.iabs h x) := by
  intro h x
  have h0 := srcCode_lt x.a
  have h1 := b2n_lt x.w
  have h2 := b2n_lt x.sg
  have h3 := b2n_lt x.sat
  have h4 := x.d.isLt
  show (0x007) < 1024 ∧ kAlu1 x < 2 ^ 39
  simp only [kAlu1, modW, bodyK]
  omega
theorem Sys2Proof.Laws.Fields.imin : ∀ h x, Statement (.imin h x) := by
  intro h x
  have h0 := srcCode_lt x.a
  have h1 := srcCode_lt x.b
  have h2 := b2n_lt x.w
  have h3 := b2n_lt x.sg
  have h4 := b2n_lt x.sat
  have h5 := x.d.isLt
  show (0x008) < 1024 ∧ kAlu2 x < 2 ^ 39
  simp only [kAlu2, modW, bodyK]
  omega
theorem Sys2Proof.Laws.Fields.imax : ∀ h x, Statement (.imax h x) := by
  intro h x
  have h0 := srcCode_lt x.a
  have h1 := srcCode_lt x.b
  have h2 := b2n_lt x.w
  have h3 := b2n_lt x.sg
  have h4 := b2n_lt x.sat
  have h5 := x.d.isLt
  show (0x009) < 1024 ∧ kAlu2 x < 2 ^ 39
  simp only [kAlu2, modW, bodyK]
  omega
theorem Sys2Proof.Laws.Fields.lea : ∀ h x, Statement (.lea h x) := by
  intro h x
  have h0 := srcCode_lt x.a
  have h1 := srcCode_lt x.b
  have h2 := b2n_lt x.w
  have h3 := b2n_lt x.sg
  have h4 := b2n_lt false
  have h5 := x.d.isLt
  have h6 := x.sh.isLt
  show (0x00A) < 1024 ∧ bodyK x.d.val (srcCode x.a) (srcCode x.b) 0 x.sh.val (modW x.w x.sg false) < 2 ^ 39
  simp only [modW, bodyK]
  omega
theorem Sys2Proof.Laws.Fields.and : ∀ h x, Statement (.and h x) := by
  intro h x
  have h0 := srcCode_lt x.a
  have h1 := srcCode_lt x.b
  have h2 := b2n_lt x.w
  have h3 := b2n_lt x.sg
  have h4 := b2n_lt x.sat
  have h5 := x.d.isLt
  show (0x00B) < 1024 ∧ kAlu2 x < 2 ^ 39
  simp only [kAlu2, modW, bodyK]
  omega
theorem Sys2Proof.Laws.Fields.or : ∀ h x, Statement (.or h x) := by
  intro h x
  have h0 := srcCode_lt x.a
  have h1 := srcCode_lt x.b
  have h2 := b2n_lt x.w
  have h3 := b2n_lt x.sg
  have h4 := b2n_lt x.sat
  have h5 := x.d.isLt
  show (0x00C) < 1024 ∧ kAlu2 x < 2 ^ 39
  simp only [kAlu2, modW, bodyK]
  omega
theorem Sys2Proof.Laws.Fields.xor : ∀ h x, Statement (.xor h x) := by
  intro h x
  have h0 := srcCode_lt x.a
  have h1 := srcCode_lt x.b
  have h2 := b2n_lt x.w
  have h3 := b2n_lt x.sg
  have h4 := b2n_lt x.sat
  have h5 := x.d.isLt
  show (0x00D) < 1024 ∧ kAlu2 x < 2 ^ 39
  simp only [kAlu2, modW, bodyK]
  omega
theorem Sys2Proof.Laws.Fields.andn : ∀ h x, Statement (.andn h x) := by
  intro h x
  have h0 := srcCode_lt x.a
  have h1 := srcCode_lt x.b
  have h2 := b2n_lt x.w
  have h3 := b2n_lt x.sg
  have h4 := b2n_lt x.sat
  have h5 := x.d.isLt
  show (0x00E) < 1024 ∧ kAlu2 x < 2 ^ 39
  simp only [kAlu2, modW, bodyK]
  omega
theorem Sys2Proof.Laws.Fields.bool3 : ∀ h x, Statement (.bool3 h x) := by
  intro h x
  have h0 := srcCode_lt x.a
  have h1 := srcCode_lt x.b
  have h2 := srcCode_lt x.c
  have h3 := b2n_lt x.w
  have h4 := x.d.isLt
  have h5 := x.tt.isLt
  show (0x00F) < 1024 ∧ bodyK x.d.val (srcCode x.a) (srcCode x.b) (srcCode x.c) (64 * b2n x.w + x.tt.toNat / 16) (x.tt.toNat % 16) < 2 ^ 39
  simp only [bodyK]
  omega
theorem Sys2Proof.Laws.Fields.shl : ∀ h x, Statement (.shl h x) := by
  intro h x
  have h0 := srcCode_lt x.a
  have h1 := srcCode_lt x.b
  have h2 := b2n_lt x.w
  have h3 := b2n_lt x.sg
  have h4 := b2n_lt x.sat
  have h5 := x.d.isLt
  show (0x010) < 1024 ∧ kAlu2 x < 2 ^ 39
  simp only [kAlu2, modW, bodyK]
  omega
theorem Sys2Proof.Laws.Fields.shr : ∀ h x, Statement (.shr h x) := by
  intro h x
  have h0 := srcCode_lt x.a
  have h1 := srcCode_lt x.b
  have h2 := b2n_lt x.w
  have h3 := b2n_lt x.sg
  have h4 := b2n_lt x.sat
  have h5 := x.d.isLt
  show (0x011) < 1024 ∧ kAlu2 x < 2 ^ 39
  simp only [kAlu2, modW, bodyK]
  omega
theorem Sys2Proof.Laws.Fields.rot : ∀ h x, Statement (.rot h x) := by
  intro h x
  have h0 := srcCode_lt x.a
  have h1 := srcCode_lt x.b
  have h2 := b2n_lt x.w
  have h3 := b2n_lt x.sg
  have h4 := b2n_lt x.sat
  have h5 := x.d.isLt
  show (0x012) < 1024 ∧ kAlu2 x < 2 ^ 39
  simp only [kAlu2, modW, bodyK]
  omega
theorem Sys2Proof.Laws.Fields.fshl : ∀ h x, Statement (.fshl h x) := by
  intro h x
  have h0 := srcCode_lt x.a
  have h1 := srcCode_lt x.b
  have h2 := srcCode_lt x.c
  have h3 := b2n_lt x.w
  have h4 := b2n_lt x.sg
  have h5 := b2n_lt false
  have h6 := x.d.isLt
  show (0x013) < 1024 ∧ kAlu3 x < 2 ^ 39
  simp only [kAlu3, modW, bodyK]
  omega
theorem Sys2Proof.Laws.Fields.bfx : ∀ h x, Statement (.bfx h x) := by
  intro h x
  have h0 := srcCode_lt x.a
  have h1 := srcCode_lt x.b
  have h2 := srcCode_lt x.c
  have h3 := b2n_lt x.w
  have h4 := b2n_lt x.sg
  have h5 := b2n_lt false
  have h6 := x.d.isLt
  show (0x014) < 1024 ∧ kAlu3 x < 2 ^ 39
  simp only [kAlu3, modW, bodyK]
  omega
theorem Sys2Proof.Laws.Fields.bfi : ∀ h x, Statement (.bfi h x) := by
  intro h x
  have h0 := srcCode_lt x.a
  have h1 := srcCode_lt x.b
  have h2 := srcCode_lt x.c
  have h3 := srcCode_lt x.e
  have h4 := b2n_lt x.w
  have h5 := b2n_lt false
  have h6 := x.d.isLt
  show (0x015) < 1024 ∧ bodyK x.d.val (srcCode x.a) (srcCode x.b) (srcCode x.c) (srcCode x.e) (modW x.w false false) < 2 ^ 39
  simp only [modW, bodyK]
  omega
theorem Sys2Proof.Laws.Fields.brev : ∀ h x, Statement (.brev h x) := by
  intro h x
  have h0 := srcCode_lt x.a
  have h1 := b2n_lt x.w
  have h2 := b2n_lt x.sg
  have h3 := b2n_lt x.sat
  have h4 := x.d.isLt
  show (0x016) < 1024 ∧ kAlu1 x < 2 ^ 39
  simp only [kAlu1, modW, bodyK]
  omega
theorem Sys2Proof.Laws.Fields.popc : ∀ h x, Statement (.popc h x) := by
  intro h x
  have h0 := srcCode_lt x.a
  have h1 := b2n_lt x.w
  have h2 := b2n_lt x.sg
  have h3 := b2n_lt x.sat
  have h4 := x.d.isLt
  show (0x017) < 1024 ∧ kAlu1 x < 2 ^ 39
  simp only [kAlu1, modW, bodyK]
  omega
theorem Sys2Proof.Laws.Fields.clz : ∀ h x, Statement (.clz h x) := by
  intro h x
  have h0 := srcCode_lt x.a
  have h1 := b2n_lt x.w
  have h2 := b2n_lt x.sg
  have h3 := b2n_lt x.sat
  have h4 := x.d.isLt
  show (0x018) < 1024 ∧ kAlu1 x < 2 ^ 39
  simp only [kAlu1, modW, bodyK]
  omega
theorem Sys2Proof.Laws.Fields.ctz : ∀ h x, Statement (.ctz h x) := by
  intro h x
  have h0 := srcCode_lt x.a
  have h1 := b2n_lt x.w
  have h2 := b2n_lt x.sg
  have h3 := b2n_lt x.sat
  have h4 := x.d.isLt
  show (0x019) < 1024 ∧ kAlu1 x < 2 ^ 39
  simp only [kAlu1, modW, bodyK]
  omega
theorem Sys2Proof.Laws.Fields.icmp : ∀ h x, Statement (.icmp h x) := by
  intro h x
  have h0 := srcCode_lt x.a
  have h1 := srcCode_lt x.b
  have h2 := icondCode_lt x.cond
  have h3 := b2n_lt x.w
  have h4 := x.pa.isLt
  have h5 := x.pb.isLt
  have h6 := x.pc.isLt
  show (0x01A) < 1024 ∧ bodyK x.pa.val (srcCode x.a) (srcCode x.b) x.pb.val x.pc.val (8 * b2n x.w + icondCode x.cond) < 2 ^ 39
  simp only [bodyK]
  omega
theorem Sys2Proof.Laws.Fields.isel : ∀ h x, Statement (.isel h x) := by
  intro h x
  have h0 := srcCode_lt x.a
  have h1 := srcCode_lt x.b
  have h2 := b2n_lt x.w
  have h3 := b2n_lt false
  have h4 := x.d.isLt
  have h5 := x.pc.isLt
  show (0x01B) < 1024 ∧ bodyK x.d.val (srcCode x.a) (srcCode x.b) x.pc.val 0 (modW x.w false false) < 2 ^ 39
  simp only [modW, bodyK]
  omega
theorem Sys2Proof.Laws.Fields.iaddImm : ∀ h x, Statement (.iaddImm h x) := by
  intro h x
  have h0 := srcCode_lt x.a
  have h1 := x.d.isLt
  have h2 := x.imm.isLt
  show (0x020) < 1024 ∧ kImm x < 2 ^ 39
  simp only [kImm]
  omega
theorem Sys2Proof.Laws.Fields.isubImm : ∀ h x, Statement (.isubImm h x) := by
  intro h x
  have h0 := srcCode_lt x.a
  have h1 := x.d.isLt
  have h2 := x.imm.isLt
  show (0x021) < 1024 ∧ kImm x < 2 ^ 39
  simp only [kImm]
  omega
theorem Sys2Proof.Laws.Fields.imulImm : ∀ h x, Statement (.imulImm h x) := by
  intro h x
  have h0 := srcCode_lt x.a
  have h1 := x.d.isLt
  have h2 := x.imm.isLt
  show (0x022) < 1024 ∧ kImm x < 2 ^ 39
  simp only [kImm]
  omega
theorem Sys2Proof.Laws.Fields.iminImm : ∀ h x, Statement (.iminImm h x) := by
  intro h x
  have h0 := srcCode_lt x.a
  have h1 := x.d.isLt
  have h2 := x.imm.isLt
  show (0x028) < 1024 ∧ kImm x < 2 ^ 39
  simp only [kImm]
  omega
theorem Sys2Proof.Laws.Fields.imaxImm : ∀ h x, Statement (.imaxImm h x) := by
  intro h x
  have h0 := srcCode_lt x.a
  have h1 := x.d.isLt
  have h2 := x.imm.isLt
  show (0x029) < 1024 ∧ kImm x < 2 ^ 39
  simp only [kImm]
  omega
theorem Sys2Proof.Laws.Fields.andImm : ∀ h x, Statement (.andImm h x) := by
  intro h x
  have h0 := srcCode_lt x.a
  have h1 := x.d.isLt
  have h2 := x.imm.isLt
  show (0x02B) < 1024 ∧ kImm x < 2 ^ 39
  simp only [kImm]
  omega
theorem Sys2Proof.Laws.Fields.orImm : ∀ h x, Statement (.orImm h x) := by
  intro h x
  have h0 := srcCode_lt x.a
  have h1 := x.d.isLt
  have h2 := x.imm.isLt
  show (0x02C) < 1024 ∧ kImm x < 2 ^ 39
  simp only [kImm]
  omega
theorem Sys2Proof.Laws.Fields.xorImm : ∀ h x, Statement (.xorImm h x) := by
  intro h x
  have h0 := srcCode_lt x.a
  have h1 := x.d.isLt
  have h2 := x.imm.isLt
  show (0x02D) < 1024 ∧ kImm x < 2 ^ 39
  simp only [kImm]
  omega
theorem Sys2Proof.Laws.Fields.shlImm : ∀ h x, Statement (.shlImm h x) := by
  intro h x
  have h0 := srcCode_lt x.a
  have h1 := b2n_lt x.sg
  have h2 := x.d.isLt
  have h3 := x.amt.isLt
  show (0x030) < 1024 ∧ kShift x < 2 ^ 39
  simp only [kShift]
  omega
theorem Sys2Proof.Laws.Fields.shrImm : ∀ h x, Statement (.shrImm h x) := by
  intro h x
  have h0 := srcCode_lt x.a
  have h1 := b2n_lt x.sg
  have h2 := x.d.isLt
  have h3 := x.amt.isLt
  show (0x031) < 1024 ∧ kShift x < 2 ^ 39
  simp only [kShift]
  omega
theorem Sys2Proof.Laws.Fields.rotImm : ∀ h x, Statement (.rotImm h x) := by
  intro h x
  have h0 := srcCode_lt x.a
  have h1 := b2n_lt x.sg
  have h2 := x.d.isLt
  have h3 := x.amt.isLt
  show (0x032) < 1024 ∧ kShift x < 2 ^ 39
  simp only [kShift]
  omega
theorem Sys2Proof.Laws.Fields.plog : ∀ h x, Statement (.plog h x) := by
  intro h x
  have h0 := x.pd.isLt
  have h1 := x.pa.isLt
  have h2 := x.pb.isLt
  have h3 := x.pc.isLt
  have h4 := x.tt.isLt
  show (0x040) < 1024 ∧ bodyK x.pd.val x.pa.val x.pb.val x.pc.val (x.tt.toNat / 16) (x.tt.toNat % 16) < 2 ^ 39
  simp only [bodyK]
  omega
theorem Sys2Proof.Laws.Fields.pmovGet : ∀ h d, Statement (.pmovGet h d) := by
  intro h d
  have h0 := d.isLt
  show (0x041) < 1024 ∧ bodyK d.val 0 0 0 0 0 < 2 ^ 39
  simp only [bodyK]
  omega
theorem Sys2Proof.Laws.Fields.pmovSet : ∀ h a b, Statement (.pmovSet h a b) := by
  intro h a b
  have h0 := srcCode_lt a
  have h1 := srcCode_lt b
  show (0x041) < 1024 ∧ bodyK 0 (srcCode a) (srcCode b) 0 0 1 < 2 ^ 39
  simp only [bodyK]
  omega
theorem Sys2Proof.Laws.Fields.mov : ∀ h x, Statement (.mov h x) := by
  intro h x
  have h0 := srcCode_lt x.a
  have h1 := b2n_lt x.w
  have h2 := b2n_lt false
  have h3 := x.d.isLt
  show (0x042) < 1024 ∧ bodyK x.d.val (srcCode x.a) 0 0 0 (modW x.w false false) < 2 ^ 39
  simp only [modW, bodyK]
  omega
theorem Sys2Proof.Laws.Fields.movi : ∀ h d imm, Statement (.movi h d imm) := by
  intro h d imm
  have h0 := d.isLt
  have h1 := imm.isLt
  show (0x043) < 1024 ∧ d.val * 2 ^ 32 + imm.toNat < 2 ^ 39
  omega
theorem Sys2Proof.Laws.Fields.movi32 : ∀ h d imm, Statement (.movi32 h d imm) := by
  intro h d imm
  have h0 := d.isLt
  have h1 := imm.isLt
  show (0x044) < 1024 ∧ d.val * 2 ^ 32 + imm.toNat < 2 ^ 39
  omega
theorem Sys2Proof.Laws.Fields.movs : ∀ h d r, Statement (.movs h d r) := by
  intro h d r
  have h0 := sregCode_lt r
  have h1 := d.isLt
  show (0x045) < 1024 ∧ bodyK d.val (sregCode r) 0 0 0 0 < 2 ^ 39
  simp only [bodyK]
  omega
theorem Sys2Proof.Laws.Fields.movsw : ∀ h r b, Statement (.movsw h r b) := by
  intro h r b
  have h0 := srcCode_lt b
  have h1 := sregCode_lt r
  show (0x046) < 1024 ∧ bodyK 0 (sregCode r) (srcCode b) 0 0 0 < 2 ^ 39
  simp only [bodyK]
  omega
theorem Sys2Proof.Laws.Fields.elect : ∀ h pd d, Statement (.elect h pd d) := by
  intro h pd d
  have h0 := vDestZCode_lt d
  have h1 := pd.isLt
  show (0x047) < 1024 ∧ bodyK (vDestZCode d) 0 0 pd.val 0 0 < 2 ^ 39
  simp only [bodyK]
  omega
theorem Sys2Proof.Laws.Fields.movjToJ : ∀ h j a, Statement (.movjToJ h j a) := by
  intro h j a
  have h0 := srcCode_lt a
  have h1 := j.isLt
  show (0x048) < 1024 ∧ bodyK j.val (srcCode a) 0 0 0 0 < 2 ^ 39
  simp only [bodyK]
  omega
theorem Sys2Proof.Laws.Fields.movjToV : ∀ h d j, Statement (.movjToV h d j) := by
  intro h d j
  have h0 := d.isLt
  have h1 := j.isLt
  show (0x048) < 1024 ∧ bodyK d.val j.val 0 0 0 1 < 2 ^ 39
  simp only [bodyK]
  omega
theorem Sys2Proof.Laws.Fields.bra : ∀ h off, Statement (.bra h off) := by
  intro h off
  have h0 := off.isLt
  show (0x080) < 1024 ∧ bodyJ off 0 < 2 ^ 39
  simp only [bodyJ]
  omega
theorem Sys2Proof.Laws.Fields.brx : ∀ h r, Statement (.brx h r) := by
  intro h r
  have h0 := r.isLt
  show (0x081) < 1024 ∧ bodyJ 0 r.val < 2 ^ 39
  simp only [bodyJ]
  omega
theorem Sys2Proof.Laws.Fields.call : ∀ h off, Statement (.call h off) := by
  intro h off
  have h0 := off.isLt
  show (0x082) < 1024 ∧ bodyJ off 0 < 2 ^ 39
  simp only [bodyJ]
  omega
theorem Sys2Proof.Laws.Fields.callx : ∀ h r, Statement (.callx h r) := by
  intro h r
  have h0 := r.isLt
  show (0x083) < 1024 ∧ bodyJ 0 r.val < 2 ^ 39
  simp only [bodyJ]
  omega
theorem Sys2Proof.Laws.Fields.callL : ∀ h off pad, Statement (.callL h off pad) := by
  intro h off pad
  have h0 := pad.isLt
  have h1 := off.isLt
  show (0x084) < 1024 ∧ bodyJ off pad.toNat < 2 ^ 39
  simp only [bodyJ]
  omega
theorem Sys2Proof.Laws.Fields.callxL : ∀ h r off, Statement (.callxL h r off) := by
  intro h r off
  have h0 := r.isLt
  have h1 := off.isLt
  show (0x085) < 1024 ∧ bodyJ off r.val < 2 ^ 39
  simp only [bodyJ]
  omega
theorem Sys2Proof.Laws.Fields.ret : ∀ h, Statement (.ret h) := by
  intro h
  show (0x086) < 1024 ∧ 0 < 2 ^ 39
  omega
theorem Sys2Proof.Laws.Fields.throw : ∀ h, Statement (.throw h) := by
  intro h
  show (0x087) < 1024 ∧ 0 < 2 ^ 39
  omega
theorem Sys2Proof.Laws.Fields.jarm : ∀ h j, Statement (.jarm h j) := by
  intro h j
  have h0 := j.isLt
  show (0x088) < 1024 ∧ bodyK j.val 0 0 0 0 0 < 2 ^ 39
  simp only [bodyK]
  omega
theorem Sys2Proof.Laws.Fields.waitj : ∀ h j, Statement (.waitj h j) := by
  intro h j
  have h0 := j.isLt
  show (0x089) < 1024 ∧ bodyK j.val 0 0 0 0 0 < 2 ^ 39
  simp only [bodyK]
  omega
theorem Sys2Proof.Laws.Fields.yield : ∀ h, Statement (.yield h) := by
  intro h
  show (0x08A) < 1024 ∧ 0 < 2 ^ 39
  omega
theorem Sys2Proof.Laws.Fields.exit : ∀ h, Statement (.exit h) := by
  intro h
  show (0x08B) < 1024 ∧ 0 < 2 ^ 39
  omega
theorem Sys2Proof.Laws.Fields.nop : ∀ h, Statement (.nop h) := by
  intro h
  show (0x08C) < 1024 ∧ 0 < 2 ^ 39
  omega
theorem Sys2Proof.Laws.Fields.fadd : ∀ h x, Statement (.fadd h x) := by
  intro h x
  have h0 := srcCode_lt x.a
  have h1 := srcCode_lt x.b
  have h2 := fmtCode_lt x.t
  have h3 := rmCode_lt x.rm
  have h4 := smodCode_lt x.mb
  have h5 := smodCode_lt x.ma
  have h6 := x.d.isLt
  show (0x100 + 16 * fmtCode x.t) < 1024 ∧ kFp2 x < 2 ^ 39
  simp only [kFp2, bodyK]
  omega
theorem Sys2Proof.Laws.Fields.fsub : ∀ h x, Statement (.fsub h x) := by
  intro h x
  have h0 := srcCode_lt x.a
  have h1 := srcCode_lt x.b
  have h2 := fmtCode_lt x.t
  have h3 := rmCode_lt x.rm
  have h4 := smodCode_lt x.mb
  have h5 := smodCode_lt x.ma
  have h6 := x.d.isLt
  show (0x101 + 16 * fmtCode x.t) < 1024 ∧ kFp2 x < 2 ^ 39
  simp only [kFp2, bodyK]
  omega
theorem Sys2Proof.Laws.Fields.fmul : ∀ h x, Statement (.fmul h x) := by
  intro h x
  have h0 := srcCode_lt x.a
  have h1 := srcCode_lt x.b
  have h2 := fmtCode_lt x.t
  have h3 := rmCode_lt x.rm
  have h4 := smodCode_lt x.mb
  have h5 := smodCode_lt x.ma
  have h6 := x.d.isLt
  show (0x102 + 16 * fmtCode x.t) < 1024 ∧ kFp2 x < 2 ^ 39
  simp only [kFp2, bodyK]
  omega
theorem Sys2Proof.Laws.Fields.ffma : ∀ h x, Statement (.ffma h x) := by
  intro h x
  have h0 := srcCode_lt x.a
  have h1 := srcCode_lt x.b
  have h2 := srcCode_lt x.c
  have h3 := fmtCode_lt x.t
  have h4 := rmCode_lt x.rm
  have h5 := smodCode_lt x.mc
  have h6 := smodCode_lt x.mb
  have h7 := smodCode_lt x.ma
  have h8 := x.d.isLt
  show (0x103 + 16 * fmtCode x.t) < 1024 ∧ bodyK x.d.val (srcCode x.a) (srcCode x.b) (srcCode x.c) (16 * smodCode x.mc + 4 * smodCode x.mb + smodCode x.ma) (rmCode x.rm) < 2 ^ 39
  simp only [bodyK]
  omega
theorem Sys2Proof.Laws.Fields.fmin : ∀ h x, Statement (.fmin h x) := by
  intro h x
  have h0 := srcCode_lt x.a
  have h1 := srcCode_lt x.b
  have h2 := fmtCode_lt x.t
  have h3 := smodCode_lt x.mb
  have h4 := smodCode_lt x.ma
  have h5 := b2n_lt x.num
  have h6 := x.d.isLt
  show (0x104 + 16 * fmtCode x.t) < 1024 ∧ kFpMin x < 2 ^ 39
  simp only [kFpMin, bodyK]
  omega
theorem Sys2Proof.Laws.Fields.fmax : ∀ h x, Statement (.fmax h x) := by
  intro h x
  have h0 := srcCode_lt x.a
  have h1 := srcCode_lt x.b
  have h2 := fmtCode_lt x.t
  have h3 := smodCode_lt x.mb
  have h4 := smodCode_lt x.ma
  have h5 := b2n_lt x.num
  have h6 := x.d.isLt
  show (0x105 + 16 * fmtCode x.t) < 1024 ∧ kFpMin x < 2 ^ 39
  simp only [kFpMin, bodyK]
  omega
theorem Sys2Proof.Laws.Fields.fcmp : ∀ h x, Statement (.fcmp h x) := by
  intro h x
  have h0 := srcCode_lt x.a
  have h1 := srcCode_lt x.b
  have h2 := fmtCode_lt x.t
  have h3 := fcondCode_lt x.cond
  have h4 := b2n_lt x.absB
  have h5 := b2n_lt x.absA
  have h6 := b2n_lt x.sig
  have h7 := x.pa.isLt
  have h8 := x.pb.isLt
  have h9 := x.pc.isLt
  show (0x106 + 16 * fmtCode x.t) < 1024 ∧ bodyK x.pa.val (srcCode x.a) (srcCode x.b) x.pb.val (64 * b2n x.absB + 32 * b2n x.absA + x.pc.val) (8 * b2n x.sig + fcondCode x.cond) < 2 ^ 39
  simp only [bodyK]
  omega
theorem Sys2Proof.Laws.Fields.fclass : ∀ h x, Statement (.fclass h x) := by
  intro h x
  have h0 := srcCode_lt x.a
  have h1 := fmtCode_lt x.t
  have h2 := x.d.isLt
  show (0x107 + 16 * fmtCode x.t) < 1024 ∧ bodyK x.d.val (srcCode x.a) 0 0 0 0 < 2 ^ 39
  simp only [bodyK]
  omega
theorem Sys2Proof.Laws.Fields.frnd : ∀ h x, Statement (.frnd h x) := by
  intro h x
  have h0 := srcCode_lt x.a
  have h1 := fmtCode_lt x.t
  have h2 := rmCode_lt x.rm
  have h3 := smodCode_lt x.ma
  have h4 := b2n_lt x.exact
  have h5 := x.d.isLt
  show (0x108 + 16 * fmtCode x.t) < 1024 ∧ bodyK x.d.val (srcCode x.a) 0 0 (smodCode x.ma) (8 * b2n x.exact + rmCode x.rm) < 2 ^ 39
  simp only [bodyK]
  omega
theorem Sys2Proof.Laws.Fields.fscale : ∀ h x, Statement (.fscale h x) := by
  intro h x
  have h0 := srcCode_lt x.a
  have h1 := srcCode_lt x.b
  have h2 := fmtCode_lt x.t
  have h3 := rmCode_lt x.rm
  have h4 := smodCode_lt x.ma
  have h5 := x.d.isLt
  show (0x109 + 16 * fmtCode x.t) < 1024 ∧ bodyK x.d.val (srcCode x.a) (srcCode x.b) 0 (smodCode x.ma) (rmCode x.rm) < 2 ^ 39
  simp only [bodyK]
  omega
theorem Sys2Proof.Laws.Fields.frcp : ∀ h x, Statement (.frcp h x) := by
  intro h x
  have h0 := srcCode_lt x.a
  have h1 := rmCode_lt x.rm
  have h2 := smodCode_lt x.ma
  have h3 := specFmtCode_lt x.t
  have h4 := x.d.isLt
  show (0x140 + 8 * specFmtCode x.t) < 1024 ∧ kSpec x < 2 ^ 39
  simp only [kSpec, bodyK]
  omega
theorem Sys2Proof.Laws.Fields.frsq : ∀ h x, Statement (.frsq h x) := by
  intro h x
  have h0 := srcCode_lt x.a
  have h1 := rmCode_lt x.rm
  have h2 := smodCode_lt x.ma
  have h3 := specFmtCode_lt x.t
  have h4 := x.d.isLt
  show (0x141 + 8 * specFmtCode x.t) < 1024 ∧ kSpec x < 2 ^ 39
  simp only [kSpec, bodyK]
  omega
theorem Sys2Proof.Laws.Fields.fsqrt : ∀ h x, Statement (.fsqrt h x) := by
  intro h x
  have h0 := srcCode_lt x.a
  have h1 := rmCode_lt x.rm
  have h2 := smodCode_lt x.ma
  have h3 := specFmtCode_lt x.t
  have h4 := x.d.isLt
  show (0x142 + 8 * specFmtCode x.t) < 1024 ∧ kSpec x < 2 ^ 39
  simp only [kSpec, bodyK]
  omega
theorem Sys2Proof.Laws.Fields.fexp2 : ∀ h x, Statement (.fexp2 h x) := by
  intro h x
  have h0 := srcCode_lt x.a
  have h1 := rmCode_lt x.rm
  have h2 := smodCode_lt x.ma
  have h3 := specFmtCode_lt x.t
  have h4 := x.d.isLt
  show (0x143 + 8 * specFmtCode x.t) < 1024 ∧ kSpec x < 2 ^ 39
  simp only [kSpec, bodyK]
  omega
theorem Sys2Proof.Laws.Fields.flog2 : ∀ h x, Statement (.flog2 h x) := by
  intro h x
  have h0 := srcCode_lt x.a
  have h1 := rmCode_lt x.rm
  have h2 := smodCode_lt x.ma
  have h3 := specFmtCode_lt x.t
  have h4 := x.d.isLt
  show (0x144 + 8 * specFmtCode x.t) < 1024 ∧ kSpec x < 2 ^ 39
  simp only [kSpec, bodyK]
  omega
theorem Sys2Proof.Laws.Fields.fsin : ∀ h x, Statement (.fsin h x) := by
  intro h x
  have h0 := srcCode_lt x.a
  have h1 := rmCode_lt x.rm
  have h2 := smodCode_lt x.ma
  have h3 := specFmtCode_lt x.t
  have h4 := x.d.isLt
  show (0x145 + 8 * specFmtCode x.t) < 1024 ∧ kSpec x < 2 ^ 39
  simp only [kSpec, bodyK]
  omega
theorem Sys2Proof.Laws.Fields.fcos : ∀ h x, Statement (.fcos h x) := by
  intro h x
  have h0 := srcCode_lt x.a
  have h1 := rmCode_lt x.rm
  have h2 := smodCode_lt x.ma
  have h3 := specFmtCode_lt x.t
  have h4 := x.d.isLt
  show (0x146 + 8 * specFmtCode x.t) < 1024 ∧ kSpec x < 2 ^ 39
  simp only [kSpec, bodyK]
  omega
theorem Sys2Proof.Laws.Fields.ftanh : ∀ h x, Statement (.ftanh h x) := by
  intro h x
  have h0 := srcCode_lt x.a
  have h1 := rmCode_lt x.rm
  have h2 := smodCode_lt x.ma
  have h3 := specFmtCode_lt x.t
  have h4 := x.d.isLt
  show (0x147 + 8 * specFmtCode x.t) < 1024 ∧ kSpec x < 2 ^ 39
  simp only [kSpec, bodyK]
  omega
theorem Sys2Proof.Laws.Fields.fcvt : ∀ h x, Statement (.fcvt h x) := by
  intro h x
  have h0 := srcCode_lt x.a
  have h1 := fmtCode_lt x.src
  have h2 := fmtCode_lt x.dst
  have h3 := rmCode_lt x.rm
  have h4 := smodCode_lt x.ma
  have h5 := x.d.isLt
  show (0x160) < 1024 ∧ bodyK x.d.val (srcCode x.a) (fmtCode x.src) (fmtCode x.dst) (smodCode x.ma) (rmCode x.rm) < 2 ^ 39
  simp only [bodyK]
  omega
theorem Sys2Proof.Laws.Fields.icvt : ∀ h x, Statement (.icvt h x) := by
  intro h x
  have h0 := srcCode_lt x.a
  have h1 := rmCode_lt x.rm
  have h2 := smodCode_lt x.ma
  have h3 := kindCode_lt x.src
  have h4 := kindCode_lt x.dst
  have h5 := b2n_lt x.exact
  have h6 := x.d.isLt
  show (0x161) < 1024 ∧ bodyK x.d.val (srcCode x.a) (kindCode x.src) (kindCode x.dst) (smodCode x.ma) (8 * b2n x.exact + rmCode x.rm) < 2 ^ 39
  simp only [bodyK]
  omega
theorem Sys2Proof.Laws.Fields.extp : ∀ h x, Statement (.extp h x) := by
  intro h x
  have h0 := srcCode_lt x.a
  have h1 := srcCode_lt x.b
  have h2 := srcCode_lt x.c
  have h3 := fmtCode_lt x.dst
  have h4 := rmCode_lt x.rm
  have h5 := b2n_lt x.t6
  have h6 := x.d.isLt
  show (0x162) < 1024 ∧ bodyK x.d.val (srcCode x.a) (srcCode x.b) (srcCode x.c) (fmtCode x.dst) (8 * b2n x.t6 + rmCode x.rm) < 2 ^ 39
  simp only [bodyK]
  omega
theorem Sys2Proof.Laws.Fields.packp : ∀ h x, Statement (.packp h x) := by
  intro h x
  have h0 := srcCode_lt x.a
  have h1 := srcCode_lt x.b
  have h2 := srcCode_lt x.c
  have h3 := fmtCode_lt x.src
  have h4 := b2n_lt x.t6
  have h5 := x.d.isLt
  show (0x163) < 1024 ∧ bodyK x.d.val (srcCode x.a) (srcCode x.b) (srcCode x.c) (fmtCode x.src) (8 * b2n x.t6 + 7) < 2 ^ 39
  simp only [bodyK]
  omega
theorem Sys2Proof.Laws.Fields.shfl : ∀ h x, Statement (.shfl h x) := by
  intro h x
  have h0 := srcCode_lt x.a
  have h1 := srcCode_lt x.b
  have h2 := srcCode_lt x.fill
  have h3 := shflCode_lt x.mode
  have h4 := maskCode_lt x.mask
  have h5 := b2n_lt (maskKind x.mask)
  have h6 := b2n_lt x.w
  have h7 := x.d.isLt
  show (0x180) < 1024 ∧ bodyK x.d.val (srcCode x.a) (srcCode x.b) (maskCode x.mask) (srcCode x.fill) (maskMod x.mask + 4 * b2n x.w + shflCode x.mode) < 2 ^ 39
  simp only [maskMod, bodyK]
  omega
theorem Sys2Proof.Laws.Fields.vote : ∀ h x, Statement (.vote h x) := by
  intro h x
  have h0 := maskCode_lt x.mask
  have h1 := b2n_lt (maskKind x.mask)
  have h2 := voteD_lt x.dst
  have h3 := voteE_lt x.dst
  have h4 := voteOp_lt x.dst
  have h5 := x.pa.isLt
  show (0x181) < 1024 ∧ bodyK (voteD x.dst) x.pa.val 0 (maskCode x.mask) (voteE x.dst) (maskMod x.mask + voteOp x.dst) < 2 ^ 39
  simp only [maskMod, bodyK]
  omega
theorem Sys2Proof.Laws.Fields.redx : ∀ h x, Statement (.redx h x) := by
  intro h x
  have h0 := srcCode_lt x.a
  have h1 := srcCode_lt x.fill
  have h2 := rmCode_lt x.rm
  have h3 := redCode_lt x.op
  have h4 := maskCode_lt x.mask
  have h5 := b2n_lt (maskKind x.mask)
  have h6 := x.d.isLt
  show (0x182) < 1024 ∧ bodyK x.d.val (srcCode x.a) (redCode x.op) (maskCode x.mask) (srcCode x.fill) (maskMod x.mask + rmCode x.rm) < 2 ^ 39
  simp only [maskMod, bodyK]
  omega
theorem Sys2Proof.Laws.Fields.scanx : ∀ h x, Statement (.scanx h x) := by
  intro h x
  have h0 := srcCode_lt x.a
  have h1 := srcCode_lt x.fill
  have h2 := rmCode_lt x.rm
  have h3 := redCode_lt x.op
  have h4 := maskCode_lt x.mask
  have h5 := b2n_lt x.excl
  have h6 := b2n_lt (maskKind x.mask)
  have h7 := x.d.isLt
  show (0x183) < 1024 ∧ bodyK x.d.val (srcCode x.a) (64 * b2n x.excl + redCode x.op) (maskCode x.mask) (srcCode x.fill) (maskMod x.mask + rmCode x.rm) < 2 ^ 39
  simp only [maskMod, bodyK]
  omega
theorem Sys2Proof.Laws.Fields.matchx : ∀ h x, Statement (.matchx h x) := by
  intro h x
  have h0 := srcCode_lt x.a
  have h1 := srcCode_lt x.fill
  have h2 := maskCode_lt x.mask
  have h3 := b2n_lt (maskKind x.mask)
  have h4 := b2n_lt x.w
  have h5 := b2n_lt x.all
  have h6 := x.d.isLt
  show (0x184) < 1024 ∧ bodyK x.d.val (srcCode x.a) 0 (maskCode x.mask) (srcCode x.fill) (maskMod x.mask + 4 * b2n x.w + b2n x.all) < 2 ^ 39
  simp only [maskMod, bodyK]
  omega
theorem Sys2Proof.Laws.Fields.xsnd : ∀ h x, Statement (.xsnd h x) := by
  intro h x
  have h0 := srcCode_lt x.slot
  have h1 := srcCode_lt x.data
  have h2 := maskCode_lt x.mask
  have h3 := b2n_lt (maskKind x.mask)
  have h4 := b2n_lt x.w
  show (0x185) < 1024 ∧ bodyK 104 (srcCode x.slot) (srcCode x.data) (maskCode x.mask) 104 (maskMod x.mask + 4 * b2n x.w) < 2 ^ 39
  simp only [maskMod, bodyK]
  omega
theorem Sys2Proof.Laws.Fields.xrcv : ∀ h x, Statement (.xrcv h x) := by
  intro h x
  have h0 := srcCode_lt x.slot
  have h1 := srcCode_lt x.fill
  have h2 := maskCode_lt x.mask
  have h3 := b2n_lt (maskKind x.mask)
  have h4 := b2n_lt x.w
  have h5 := x.d.isLt
  show (0x186) < 1024 ∧ bodyK x.d.val (srcCode x.slot) 104 (maskCode x.mask) (srcCode x.fill) (maskMod x.mask + 4 * b2n x.w) < 2 ^ 39
  simp only [maskMod, bodyK]
  omega
theorem Sys2Proof.Laws.Fields.shapeQ : ∀ h d a, Statement (.shapeQ h d a) := by
  intro h d a
  have h0 := srcCode_lt a
  have h1 := d.isLt
  show (0x188) < 1024 ∧ bodyK d.val (srcCode a) 0 0 0 0 < 2 ^ 39
  simp only [bodyK]
  omega
theorem Sys2Proof.Laws.Fields.shapeG : ∀ h d, Statement (.shapeG h d) := by
  intro h d
  have h0 := d.isLt
  show (0x189) < 1024 ∧ bodyK d.val 0 0 0 0 0 < 2 ^ 39
  simp only [bodyK]
  omega
theorem Sys2Proof.Laws.Fields.aff : ∀ h d a b, Statement (.aff h d a b) := by
  intro h d a b
  have h0 := srcCode_lt a
  have h1 := srcCode_lt b
  have h2 := d.isLt
  show (0x18A) < 1024 ∧ bodyK d.val (srcCode a) (srcCode b) 0 0 0 < 2 ^ 39
  simp only [bodyK]
  omega
theorem Sys2Proof.Laws.Fields.ld : ∀ h x, Statement (.ld h x) := by
  intro h x
  have h0 := vDestZCode_lt x.m.ofs
  have h1 := ldTyCode_lt x.ty
  have h2 := x.d.isLt
  have h3 := x.hint.isLt
  have h4 := x.m.br.isLt
  have h5 := x.m.imm.isLt
  have h6 := scopeCode_lt x.scope
  have h7 := ordCode_lt x.ord
  show (0x200 + ldTyCode x.ty) < 1024 ∧ mBody x.m x.d.val x.scope x.ord x.hint.val < 2 ^ 39
  simp only [mBody, bodyM]
  omega
theorem Sys2Proof.Laws.Fields.st : ∀ h x, Statement (.st h x) := by
  intro h x
  have h0 := srcCode_lt x.data
  have h1 := vDestZCode_lt x.m.ofs
  have h2 := stTyCode_lt x.ty
  have h3 := x.hint.isLt
  have h4 := x.m.br.isLt
  have h5 := x.m.imm.isLt
  have h6 := scopeCode_lt x.scope
  have h7 := ordCode_lt x.ord
  show (0x208 + stTyCode x.ty) < 1024 ∧ mBody x.m (srcCode x.data) x.scope x.ord x.hint.val < 2 ^ 39
  simp only [mBody, bodyM]
  omega
theorem Sys2Proof.Laws.Fields.bld : ∀ h x, Statement (.bld h x) := by
  intro h x
  have h0 := vDestZCode_lt x.m.ofs
  have h1 := x.bd.isLt
  have h2 := x.m.br.isLt
  have h3 := x.m.imm.isLt
  have h4 := scopeCode_lt x.scope
  have h5 := ordCode_lt x.ord
  show (0x20D) < 1024 ∧ mBody x.m x.bd.val x.scope x.ord 0 < 2 ^ 39
  simp only [mBody, bodyM]
  omega
theorem Sys2Proof.Laws.Fields.bst : ∀ h x, Statement (.bst h x) := by
  intro h x
  have h0 := srcCode_lt x.data
  have h1 := vDestZCode_lt x.m.ofs
  have h2 := x.hint.isLt
  have h3 := x.m.br.isLt
  have h4 := x.m.imm.isLt
  have h5 := scopeCode_lt x.scope
  have h6 := ordCode_lt x.ord
  show (0x20E) < 1024 ∧ mBody x.m (srcCode x.data) x.scope x.ord x.hint.val < 2 ^ 39
  simp only [mBody, bodyM]
  omega
theorem Sys2Proof.Laws.Fields.atom : ∀ h x, Statement (.atom h x) := by
  intro h x
  have h0 := vDestZCode_lt x.m.ofs
  have h1 := atomCode_lt x.op
  have h2 := x.d.isLt
  have h3 := x.hint.isLt
  have h4 := x.m.br.isLt
  have h5 := x.m.imm.isLt
  have h6 := scopeCode_lt x.scope
  have h7 := ordCode_lt x.ord
  show ((if x.w then 0x240 else 0x220) + atomCode x.op) < 1024 ∧ mBody x.m x.d.val x.scope x.ord x.hint.val < 2 ^ 39
  simp only [mBody, bodyM]
  split_ifs <;> omega
theorem Sys2Proof.Laws.Fields.atomNr : ∀ h x, Statement (.atomNr h x) := by
  intro h x
  have h0 := srcCode_lt x.data
  have h1 := vDestZCode_lt x.m.ofs
  have h2 := atomCode_lt x.op
  have h3 := x.hint.isLt
  have h4 := x.m.br.isLt
  have h5 := x.m.imm.isLt
  have h6 := scopeCode_lt x.scope
  have h7 := ordCode_lt x.ord
  show ((if x.w then 0x250 else 0x230) + atomCode x.op) < 1024 ∧ mBody x.m (srcCode x.data) x.scope x.ord x.hint.val < 2 ^ 39
  simp only [mBody, bodyM]
  split_ifs <;> omega
theorem Sys2Proof.Laws.Fields.acas : ∀ h x, Statement (.acas h x) := by
  intro h x
  have h0 := vDestZCode_lt x.m.ofs
  have h1 := x.d.isLt
  have h2 := x.hint.isLt
  have h3 := x.m.br.isLt
  have h4 := x.m.imm.isLt
  have h5 := scopeCode_lt x.scope
  have h6 := ordCode_lt x.ord
  show (if x.w then 0x261 else 0x260) < 1024 ∧ mBody x.m x.d.val x.scope x.ord x.hint.val < 2 ^ 39
  simp only [mBody, bodyM]
  split_ifs <;> omega
theorem Sys2Proof.Laws.Fields.smap : ∀ h x, Statement (.smap h x) := by
  intro h x
  have h0 := srcCode_lt x.va
  have h1 := srcCode_lt x.off
  have h2 := srcCode_lt x.len
  have h3 := b2n_lt x.coh
  have h4 := x.bd.isLt
  show (0x262) < 1024 ∧ bodyK x.bd.val (srcCode x.va) (srcCode x.off) (srcCode x.len) 0 (b2n x.coh) < 2 ^ 39
  simp only [bodyK]
  omega
theorem Sys2Proof.Laws.Fields.sunmap : ∀ h bd, Statement (.sunmap h bd) := by
  intro h bd
  have h0 := bd.isLt
  show (0x263) < 1024 ∧ bodyK bd.val 0 0 0 0 0 < 2 ^ 39
  simp only [bodyK]
  omega
theorem Sys2Proof.Laws.Fields.sflush : ∀ h bd, Statement (.sflush h bd) := by
  intro h bd
  have h0 := bd.isLt
  show (0x264) < 1024 ∧ bodyK bd.val 0 0 0 0 0 < 2 ^ 39
  simp only [bodyK]
  omega
theorem Sys2Proof.Laws.Fields.smode : ∀ h bd coh, Statement (.smode h bd coh) := by
  intro h bd coh
  have h0 := b2n_lt coh
  have h1 := bd.isLt
  show (0x265) < 1024 ∧ bodyK bd.val 0 0 0 0 (b2n coh) < 2 ^ 39
  simp only [bodyK]
  omega
theorem Sys2Proof.Laws.Fields.cflush : ∀ h x, Statement (.cflush h x) := by
  intro h x
  have h0 := srcCode_lt x.len
  have h1 := vDestZCode_lt x.m.ofs
  have h2 := x.m.br.isLt
  have h3 := x.m.imm.isLt
  have h4 := scopeCode_lt x.scope
  have h5 := ordCode_lt .rlx
  show (0x266) < 1024 ∧ mRange x < 2 ^ 39
  simp only [mRange, mBody, bodyM]
  omega
theorem Sys2Proof.Laws.Fields.cinv : ∀ h x, Statement (.cinv h x) := by
  intro h x
  have h0 := srcCode_lt x.len
  have h1 := vDestZCode_lt x.m.ofs
  have h2 := x.m.br.isLt
  have h3 := x.m.imm.isLt
  have h4 := scopeCode_lt x.scope
  have h5 := ordCode_lt .rlx
  show (0x267) < 1024 ∧ mRange x < 2 ^ 39
  simp only [mRange, mBody, bodyM]
  omega
theorem Sys2Proof.Laws.Fields.icinv : ∀ h x, Statement (.icinv h x) := by
  intro h x
  have h0 := srcCode_lt x.len
  have h1 := vDestZCode_lt x.m.ofs
  have h2 := x.m.br.isLt
  have h3 := x.m.imm.isLt
  have h4 := scopeCode_lt x.scope
  have h5 := ordCode_lt .rlx
  show (0x268) < 1024 ∧ mRange x < 2 ^ 39
  simp only [mRange, mBody, bodyM]
  omega
theorem Sys2Proof.Laws.Fields.mscfl : ∀ h s, Statement (.mscfl h s) := by
  intro h s
  have h0 := scopeCode_lt s
  show (0x269) < 1024 ∧ bodyK 0 0 (scopeCode s) 0 0 0 < 2 ^ 39
  simp only [bodyK]
  omega
theorem Sys2Proof.Laws.Fields.fence : ∀ h s k, Statement (.fence h s k) := by
  intro h s k
  have h0 := scopeCode_lt s
  have h1 := ordCode_lt k
  show (0x280) < 1024 ∧ bodyM 0 0 0 0 (scopeCode s) (ordCode k) 0 < 2 ^ 39
  simp only [bodyM]
  omega
theorem Sys2Proof.Laws.Fields.bar : ∀ h, Statement (.bar h) := by
  intro h
  show (0x281) < 1024 ∧ 0 < 2 ^ 39
  omega
theorem Sys2Proof.Laws.Fields.bara : ∀ h x, Statement (.bara h x) := by
  intro h x
  have h0 := vDestZCode_lt x.d
  have h1 := scopeCode_lt x.scope
  have h2 := x.n.isLt
  show (0x282) < 1024 ∧ bodyK (vDestZCode x.d) 0 (scopeCode x.scope) x.n.val 0 0 < 2 ^ 39
  simp only [bodyK]
  omega
theorem Sys2Proof.Laws.Fields.barw : ∀ h x, Statement (.barw h x) := by
  intro h x
  have h0 := srcCode_lt x.a
  have h1 := scopeCode_lt x.scope
  have h2 := x.n.isLt
  show (0x283) < 1024 ∧ bodyK 0 (srcCode x.a) (scopeCode x.scope) x.n.val 0 0 < 2 ^ 39
  simp only [bodyK]
  omega
theorem Sys2Proof.Laws.Fields.waitc : ∀ h x, Statement (.waitc h x) := by
  intro h x
  have h0 := x.ld.isLt
  have h1 := x.st.isLt
  have h2 := x.cp.isLt
  have h3 := x.tl.isLt
  show (0x284) < 1024 ∧ bodyK x.ld.val x.st.val x.cp.val x.tl.val 0 0 < 2 ^ 39
  simp only [bodyK]
  omega
theorem Sys2Proof.Laws.Fields.copy : ∀ h x, Statement (.copy h x) := by
  intro h x
  have h0 := srcCode_lt x.dst
  have h1 := srcCode_lt x.src
  have h2 := srcCode_lt x.len
  have h3 := scopeCode_lt x.scope
  have h4 := b2n_lt x.rel
  have h5 := x.hd.isLt
  show (0x285) < 1024 ∧ bodyK x.hd.val (srcCode x.dst) (srcCode x.src) (srcCode x.len) (scopeCode x.scope) (8 * b2n x.rel) < 2 ^ 39
  simp only [bodyK]
  omega
theorem Sys2Proof.Laws.Fields.seal : ∀ h d, Statement (.seal h d) := by
  intro h d
  have h0 := vDestZCode_lt d
  show (0x286) < 1024 ∧ bodyK (vDestZCode d) 0 0 0 0 0 < 2 ^ 39
  simp only [bodyK]
  omega
theorem Sys2Proof.Laws.Fields.waitb : ∀ h a, Statement (.waitb h a) := by
  intro h a
  have h0 := srcCode_lt a
  show (0x287) < 1024 ∧ bodyK 0 (srcCode a) 0 0 0 0 < 2 ^ 39
  simp only [bodyK]
  omega
theorem Sys2Proof.Laws.Fields.htime : ∀ h d hs, Statement (.htime h d hs) := by
  intro h d hs
  have h0 := d.isLt
  have h1 := hs.isLt
  show (0x288) < 1024 ∧ bodyK d.val hs.val 0 0 0 0 < 2 ^ 39
  simp only [bodyK]
  omega
theorem Sys2Proof.Laws.Fields.sleept : ∀ h a hs, Statement (.sleept h a hs) := by
  intro h a hs
  have h0 := srcCode_lt a
  have h1 := b2n_lt (handleBit hs)
  have h2 := handleNum_lt hs
  show (0x289) < 1024 ∧ bodyK 0 (srcCode a) 0 (handleNum hs) 0 (b2n (handleBit hs)) < 2 ^ 39
  simp only [bodyK]
  omega
theorem Sys2Proof.Laws.Fields.hwait : ∀ h hs, Statement (.hwait h hs) := by
  intro h hs
  have h0 := hs.isLt
  show (0x28A) < 1024 ∧ bodyK 0 hs.val 0 0 0 0 < 2 ^ 39
  simp only [bodyK]
  omega
theorem Sys2Proof.Laws.Fields.htest : ∀ h pa pb hs, Statement (.htest h pa pb hs) := by
  intro h pa pb hs
  have h0 := pa.isLt
  have h1 := hs.isLt
  have h2 := pb.isLt
  show (0x28B) < 1024 ∧ bodyK pa.val hs.val 0 pb.val 0 0 < 2 ^ 39
  simp only [bodyK]
  omega
theorem Sys2Proof.Laws.Fields.hcancel : ∀ h hs, Statement (.hcancel h hs) := by
  intro h hs
  have h0 := hs.isLt
  show (0x28C) < 1024 ∧ bodyK 0 hs.val 0 0 0 0 < 2 ^ 39
  simp only [bodyK]
  omega
theorem Sys2Proof.Laws.Fields.hmovToH : ∀ h hd a, Statement (.hmovToH h hd a) := by
  intro h hd a
  have h0 := srcCode_lt a
  have h1 := hd.isLt
  show (0x28D) < 1024 ∧ bodyK hd.val (srcCode a) 0 0 0 0 < 2 ^ 39
  simp only [bodyK]
  omega
theorem Sys2Proof.Laws.Fields.hmovToV : ∀ h d ha, Statement (.hmovToV h d ha) := by
  intro h d ha
  have h0 := d.isLt
  have h1 := ha.isLt
  show (0x28D) < 1024 ∧ bodyK d.val ha.val 0 0 0 1 < 2 ^ 39
  simp only [bodyK]
  omega
theorem Sys2Proof.Laws.Fields.rbegin : ∀ h s off, Statement (.rbegin h s off) := by
  intro h s off
  have h0 := scopeCode_lt s
  have h1 := off.isLt
  show (0x290) < 1024 ∧ bodyJ off (scopeCode s * 2 ^ 4) < 2 ^ 39
  simp only [bodyJ]
  omega
theorem Sys2Proof.Laws.Fields.rcommit : ∀ h, Statement (.rcommit h) := by
  intro h
  show (0x291) < 1024 ∧ 0 < 2 ^ 39
  omega
theorem Sys2Proof.Laws.Fields.rabort : ∀ h, Statement (.rabort h) := by
  intro h
  show (0x292) < 1024 ∧ 0 < 2 ^ 39
  omega
theorem Sys2Proof.Laws.Fields.tacq : ∀ h y va, Statement (.tacq h y va) := by
  intro h y va
  have h0 := srcCode_lt va
  have h1 := b2n_lt false
  have h2 := b2n_lt y
  show (0x300) < 1024 ∧ bodyT 0 (srcCode va) 0 0 false y 0 0 0 0 < 2 ^ 39
  simp only [bodyT]
  omega
theorem Sys2Proof.Laws.Fields.trel : ∀ h y va, Statement (.trel h y va) := by
  intro h y va
  have h0 := srcCode_lt va
  have h1 := b2n_lt false
  have h2 := b2n_lt y
  show (0x301) < 1024 ∧ bodyT 0 (srcCode va) 0 0 false y 0 0 0 0 < 2 ^ 39
  simp only [bodyT]
  omega
theorem Sys2Proof.Laws.Fields.tld : ∀ h x, Statement (.tld h x) := by
  intro h x
  have h0 := srcCode_lt x.vb
  have h1 := vDestZCode_lt x.va
  have h2 := scopeCode_lt x.scope
  have h3 := xfCode_lt x.xf
  have h4 := b2n_lt false
  have h5 := b2n_lt x.y
  have h6 := x.br.isLt
  have h7 := x.tn.isLt
  show (0x302) < 1024 ∧ bodyT x.br.val (vDestZCode x.va) (srcCode x.vb) 0 false x.y x.tn.val 0 (scopeCode x.scope) (xfCode x.xf) < 2 ^ 39
  simp only [bodyT]
  omega
theorem Sys2Proof.Laws.Fields.tsv : ∀ h x, Statement (.tsv h x) := by
  intro h x
  have h0 := srcCode_lt x.vb
  have h1 := vDestZCode_lt x.va
  have h2 := scopeCode_lt x.scope
  have h3 := b2n_lt false
  have h4 := x.br.isLt
  have h5 := x.tn.isLt
  show (0x303) < 1024 ∧ bodyT x.br.val (vDestZCode x.va) (srcCode x.vb) 0 false false x.tn.val 0 (scopeCode x.scope) 0 < 2 ^ 39
  simp only [bodyT]
  omega
theorem Sys2Proof.Laws.Fields.tzero : ∀ h y tn, Statement (.tzero h y tn) := by
  intro h y tn
  have h0 := b2n_lt false
  have h1 := b2n_lt y
  have h2 := tn.isLt
  show (0x304) < 1024 ∧ bodyT 0 0 0 0 false y tn.val 0 0 0 < 2 ^ 39
  simp only [bodyT]
  omega
theorem Sys2Proof.Laws.Fields.tmovGet : ∀ h x, Statement (.tmovGet h x) := by
  intro h x
  have h0 := srcCode_lt x.sel
  have h1 := b2n_lt false
  have h2 := b2n_lt x.y
  have h3 := x.d.isLt
  have h4 := x.tn.isLt
  show (0x305) < 1024 ∧ bodyT 0 x.d.val (srcCode x.sel) 0 false x.y x.tn.val 0 0 0 < 2 ^ 39
  simp only [bodyT]
  omega
theorem Sys2Proof.Laws.Fields.tmovPut : ∀ h x, Statement (.tmovPut h x) := by
  intro h x
  have h0 := srcCode_lt x.a
  have h1 := srcCode_lt x.sel
  have h2 := b2n_lt false
  have h3 := b2n_lt x.y
  have h4 := x.tn.isLt
  show (0x305) < 1024 ∧ bodyT 0 (srcCode x.a) (srcCode x.sel) 0 false x.y x.tn.val 0 0 1 < 2 ^ 39
  simp only [bodyT]
  omega
theorem Sys2Proof.Laws.Fields.mma : ∀ h x, Statement (.mma h x) := by
  intro h x
  have h0 := vDestZCode_lt x.va
  have h1 := scopeCode_lt x.scope
  have h2 := handleNum_lt x.hd
  have h3 := b2n_lt (handleBit x.hd)
  have h4 := b2n_lt false
  have h5 := x.br.isLt
  show (0x306) < 1024 ∧ bodyT x.br.val (vDestZCode x.va) 0 (handleNum x.hd) (handleBit x.hd) false 0 0 (scopeCode x.scope) 0 < 2 ^ 39
  simp only [bodyT]
  omega
theorem Sys2Proof.Laws.Fields.tsum : ∀ h x, Statement (.tsum h x) := by
  intro h x
  have h0 := srcCode_lt x.vb
  have h1 := vDestZCode_lt x.va
  have h2 := scopeCode_lt x.scope
  have h3 := b2n_lt x.sums
  have h4 := b2n_lt false
  have h5 := x.br.isLt
  have h6 := x.tn.isLt
  show (0x307) < 1024 ∧ bodyT x.br.val (vDestZCode x.va) (srcCode x.vb) 0 false false x.tn.val 0 (scopeCode x.scope) (b2n x.sums) < 2 ^ 39
  simp only [bodyT]
  omega
theorem Sys2Proof.Laws.Fields.qcv : ∀ h x, Statement (.qcv h x) := by
  intro h x
  have h0 := srcCode_lt x.vb
  have h1 := vDestZCode_lt x.va
  have h2 := scopeCode_lt x.scope
  have h3 := xfCode_lt x.xf
  have h4 := b2n_lt x.t6
  have h5 := b2n_lt false
  have h6 := x.br.isLt
  have h7 := x.tn.isLt
  show (0x308) < 1024 ∧ bodyT x.br.val (vDestZCode x.va) (srcCode x.vb) 0 false false x.tn.val (b2n x.t6) (scopeCode x.scope) (xfCode x.xf) < 2 ^ 39
  simp only [bodyT]
  omega
theorem Sys2Proof.Laws.Fields.ptld : ∀ h x, Statement (.ptld h x) := by
  intro h x
  have h0 := srcCode_lt x.vb
  have h1 := vDestZCode_lt x.va
  have h2 := scopeCode_lt x.scope
  have h3 := b2n_lt false
  have h4 := x.br.isLt
  have h5 := x.t.isLt
  show (0x309) < 1024 ∧ bodyT x.br.val (vDestZCode x.va) (srcCode x.vb) 0 false false x.t.val 0 (scopeCode x.scope) 0 < 2 ^ 39
  simp only [bodyT]
  omega
theorem Sys2Proof.Laws.Fields.smset : ∀ h x, Statement (.smset h x) := by
  intro h x
  have h0 := b2n_lt x.f32
  have h1 := x.md.isLt
  have h2 := x.rows.isLt
  have h3 := x.cols.isLt
  show (0x340) < 1024 ∧ bodyK x.md.val 0 x.rows.val x.cols.val 0 (b2n x.f32) < 2 ^ 39
  simp only [bodyK]
  omega
theorem Sys2Proof.Laws.Fields.smld : ∀ h x, Statement (.smld h x) := by
  intro h x
  have h0 := vDestZCode_lt x.m.ofs
  have h1 := x.md.isLt
  have h2 := x.hint.isLt
  have h3 := x.m.br.isLt
  have h4 := x.m.imm.isLt
  have h5 := scopeCode_lt x.scope
  have h6 := ordCode_lt x.ord
  show (0x341) < 1024 ∧ mBody x.m x.md.val x.scope x.ord x.hint.val < 2 ^ 39
  simp only [mBody, bodyM]
  omega
theorem Sys2Proof.Laws.Fields.smst : ∀ h x, Statement (.smst h x) := by
  intro h x
  have h0 := vDestZCode_lt x.m.ofs
  have h1 := x.md.isLt
  have h2 := x.hint.isLt
  have h3 := x.m.br.isLt
  have h4 := x.m.imm.isLt
  have h5 := scopeCode_lt x.scope
  have h6 := ordCode_lt x.ord
  show (0x342) < 1024 ∧ mBody x.m x.md.val x.scope x.ord x.hint.val < 2 ^ 39
  simp only [mBody, bodyM]
  omega
theorem Sys2Proof.Laws.Fields.smmov : ∀ h md ma, Statement (.smmov h md ma) := by
  intro h md ma
  have h0 := md.isLt
  have h1 := ma.isLt
  show (0x343) < 1024 ∧ bodyK md.val ma.val 0 0 0 0 < 2 ^ 39
  simp only [bodyK]
  omega
theorem Sys2Proof.Laws.Fields.smmovGet : ∀ h x, Statement (.smmovGet h x) := by
  intro h x
  have h0 := srcCode_lt x.i
  have h1 := srcCode_lt x.j
  have h2 := x.d.isLt
  have h3 := x.ma.isLt
  show (0x343) < 1024 ∧ bodyK x.d.val x.ma.val (srcCode x.i) (srcCode x.j) 0 1 < 2 ^ 39
  simp only [bodyK]
  omega
theorem Sys2Proof.Laws.Fields.smmovPut : ∀ h x, Statement (.smmovPut h x) := by
  intro h x
  have h0 := srcCode_lt x.a
  have h1 := srcCode_lt x.i
  have h2 := srcCode_lt x.j
  have h3 := x.md.isLt
  show (0x343) < 1024 ∧ bodyK x.md.val (srcCode x.a) (srcCode x.i) (srcCode x.j) 0 2 < 2 ^ 39
  simp only [bodyK]
  omega
theorem Sys2Proof.Laws.Fields.smadd : ∀ h x, Statement (.smadd h x) := by
  intro h x
  have h0 := rmCode_lt x.rm
  have h1 := x.md.isLt
  have h2 := x.ma.isLt
  have h3 := x.mb.isLt
  show (0x344) < 1024 ∧ kSm2 x < 2 ^ 39
  simp only [kSm2, bodyK]
  omega
theorem Sys2Proof.Laws.Fields.smscl : ∀ h x, Statement (.smscl h x) := by
  intro h x
  have h0 := srcCode_lt x.e
  have h1 := rmCode_lt x.rm
  have h2 := x.md.isLt
  have h3 := x.ma.isLt
  show (0x345) < 1024 ∧ bodyK x.md.val x.ma.val 0 0 (srcCode x.e) (rmCode x.rm) < 2 ^ 39
  simp only [bodyK]
  omega
theorem Sys2Proof.Laws.Fields.smtr : ∀ h md ma, Statement (.smtr h md ma) := by
  intro h md ma
  have h0 := md.isLt
  have h1 := ma.isLt
  show (0x346) < 1024 ∧ bodyK md.val ma.val 0 0 0 0 < 2 ^ 39
  simp only [bodyK]
  omega
theorem Sys2Proof.Laws.Fields.smmul : ∀ h x, Statement (.smmul h x) := by
  intro h x
  have h0 := rmCode_lt x.rm
  have h1 := x.md.isLt
  have h2 := x.ma.isLt
  have h3 := x.mb.isLt
  show (0x347) < 1024 ∧ kSm2 x < 2 ^ 39
  simp only [kSm2, bodyK]
  omega
theorem Sys2Proof.Laws.Fields.smmad : ∀ h x, Statement (.smmad h x) := by
  intro h x
  have h0 := rmCode_lt x.rm
  have h1 := x.md.isLt
  have h2 := x.ma.isLt
  have h3 := x.mb.isLt
  have h4 := x.mc.isLt
  show (0x348) < 1024 ∧ bodyK x.md.val x.ma.val x.mb.val x.mc.val 0 (rmCode x.rm) < 2 ^ 39
  simp only [bodyK]
  omega
theorem Sys2Proof.Laws.Fields.smchol : ∀ h x, Statement (.smchol h x) := by
  intro h x
  have h0 := rmCode_lt x.rm
  have h1 := x.md.isLt
  have h2 := x.ma.isLt
  show (0x349) < 1024 ∧ kSm1 x < 2 ^ 39
  simp only [kSm1, bodyK]
  omega
theorem Sys2Proof.Laws.Fields.smlu : ∀ h x, Statement (.smlu h x) := by
  intro h x
  have h0 := rmCode_lt x.rm
  have h1 := x.md.isLt
  have h2 := x.ma.isLt
  show (0x34A) < 1024 ∧ kSm1 x < 2 ^ 39
  simp only [kSm1, bodyK]
  omega
theorem Sys2Proof.Laws.Fields.smsolve : ∀ h x, Statement (.smsolve h x) := by
  intro h x
  have h0 := rmCode_lt x.rm
  have h1 := x.md.isLt
  have h2 := x.ma.isLt
  have h3 := x.mb.isLt
  show (0x34B) < 1024 ∧ kSm2 x < 2 ^ 39
  simp only [kSm2, bodyK]
  omega
theorem Sys2Proof.Laws.Fields.trap : ∀ h c, Statement (.trap h c) := by
  intro h c
  have h0 := b2n_lt false
  have h1 := c.isLt
  show (0x380) < 1024 ∧ bodyY 0 0 0 false 0 c.toNat < 2 ^ 39
  simp only [bodyY]
  omega
theorem Sys2Proof.Laws.Fields.brk : ∀ h c, Statement (.brk h c) := by
  intro h c
  have h0 := b2n_lt false
  have h1 := c.isLt
  show (0x381) < 1024 ∧ bodyY 0 0 0 false 0 c.toNat < 2 ^ 39
  simp only [bodyY]
  omega
theorem Sys2Proof.Laws.Fields.errinjZflip : ∀ h va n b, Statement (.errinjZflip h va n b) := by
  intro h va n b
  have h0 := srcCode_lt va
  have h1 := b2n_lt false
  have h2 := n.isLt
  have h3 := b.isLt
  show (0x382) < 1024 ∧ bodyY (srcCode va) 0 0 false 0 (n.val * 256 + b.val) < 2 ^ 39
  simp only [bodyY]
  omega
theorem Sys2Proof.Laws.Fields.errinjVflip1 : ∀ h va b, Statement (.errinjVflip1 h va b) := by
  intro h va b
  have h0 := b2n_lt false
  have h1 := va.isLt
  have h2 := b.isLt
  show (0x382) < 1024 ∧ bodyY va.val 0 0 false 1 b.val < 2 ^ 39
  simp only [bodyY]
  omega
theorem Sys2Proof.Laws.Fields.errinjVflip2 : ∀ h va b1 b2, Statement (.errinjVflip2 h va b1 b2) := by
  intro h va b1 b2
  have h0 := b2n_lt false
  have h1 := va.isLt
  have h2 := b2.isLt
  have h3 := b1.isLt
  show (0x382) < 1024 ∧ bodyY va.val 0 0 false 2 (b2.val * 256 + b1.val) < 2 ^ 39
  simp only [bodyY]
  omega
theorem Sys2Proof.Laws.Fields.errinjPoison : ∀ h va, Statement (.errinjPoison h va) := by
  intro h va
  have h0 := srcCode_lt va
  have h1 := b2n_lt false
  show (0x382) < 1024 ∧ bodyY (srcCode va) 0 0 false 3 0 < 2 ^ 39
  simp only [bodyY]
  omega
theorem Sys2Proof.Laws.Fields.launch : ∀ h va q hd, Statement (.launch h va q hd) := by
  intro h va q hd
  have h0 := srcCode_lt va
  have h1 := handleNum_lt hd
  have h2 := b2n_lt (handleBit hd)
  have h3 := q.isLt
  show (0x383) < 1024 ∧ bodyY (srcCode va) 0 (handleNum hd) (handleBit hd) 0 q.toNat < 2 ^ 39
  simp only [bodyY]
  omega
theorem Sys2Proof.Laws.Fields.signalSt : ∀ h va vb, Statement (.signalSt h va vb) := by
  intro h va vb
  have h0 := srcCode_lt va
  have h1 := srcCode_lt vb
  have h2 := b2n_lt false
  show (0x384) < 1024 ∧ bodyY (srcCode va) (srcCode vb) 0 false 0 0 < 2 ^ 39
  simp only [bodyY]
  omega
theorem Sys2Proof.Laws.Fields.signalAdd : ∀ h va vb, Statement (.signalAdd h va vb) := by
  intro h va vb
  have h0 := srcCode_lt va
  have h1 := srcCode_lt vb
  have h2 := b2n_lt false
  show (0x384) < 1024 ∧ bodyY (srcCode va) (srcCode vb) 0 false 1 0 < 2 ^ 39
  simp only [bodyY]
  omega
theorem Sys2Proof.Laws.Fields.irq : ∀ h v, Statement (.irq h v) := by
  intro h v
  have h0 := b2n_lt false
  have h1 := v.isLt
  show (0x385) < 1024 ∧ bodyY 0 0 0 false 0 v.toNat < 2 ^ 39
  simp only [bodyY]
  omega
theorem Sys2Proof.Laws.Fields.qld : ∀ h q m s hint, Statement (.qld h q m s hint) := by
  intro h q m s hint
  have h0 := vDestZCode_lt m.ofs
  have h1 := q.isLt
  have h2 := hint.isLt
  have h3 := m.br.isLt
  have h4 := m.imm.isLt
  have h5 := scopeCode_lt s
  have h6 := ordCode_lt .rlx
  show (0x3C0) < 1024 ∧ mBody m (96 + q.val) s .rlx hint.val < 2 ^ 39
  simp only [mBody, bodyM]
  omega
theorem Sys2Proof.Laws.Fields.qloop : ∀ h r off, Statement (.qloop h r off) := by
  intro h r off
  have h0 := r.isLt
  have h1 := off.isLt
  show (0x3C1) < 1024 ∧ bodyJ off r.val < 2 ^ 39
  simp only [bodyJ]
  omega
theorem Sys2Proof.Laws.Fields.qend : ∀ h, Statement (.qend h) := by
  intro h
  show (0x3C2) < 1024 ∧ 0 < 2 ^ 39
  omega
theorem Sys2Proof.Laws.Fields.gangIssue : ∀ a b c, Statement (.gangIssue a b c) := by
  intro a b c
  trivial
theorem Sys2Proof.Laws.Fields.clauseFetch : ∀ a b, Statement (.clauseFetch a b) := by
  intro a b
  trivial
theorem Sys2Proof.Laws.Fields.watchdog : ∀ a, Statement (.watchdog a) := by
  intro a
  trivial
theorem Sys2Proof.Laws.Fields.pathAged : ∀ a b, Statement (.pathAged a b) := by
  intro a b
  trivial
theorem Sys2Proof.Laws.Fields.loadComplete : ∀ a, Statement (.loadComplete a) := by
  intro a
  trivial
theorem Sys2Proof.Laws.Fields.storeComplete : ∀ a, Statement (.storeComplete a) := by
  intro a
  trivial
theorem Sys2Proof.Laws.Fields.requestRepresent : ∀ a, Statement (.requestRepresent a) := by
  intro a
  trivial
theorem Sys2Proof.Laws.Fields.directoryRequest : ∀ a, Statement (.directoryRequest a) := by
  intro a
  trivial
theorem Sys2Proof.Laws.Fields.forwardedRequest : ∀ a b, Statement (.forwardedRequest a b) := by
  intro a b
  trivial
theorem Sys2Proof.Laws.Fields.mscWriteback : ∀ a, Statement (.mscWriteback a) := by
  intro a
  trivial
theorem Sys2Proof.Laws.Fields.hostSnoop : ∀ a, Statement (.hostSnoop a) := by
  intro a
  trivial
theorem Sys2Proof.Laws.Fields.remoteAccess : ∀ a, Statement (.remoteAccess a) := by
  intro a
  trivial
theorem Sys2Proof.Laws.Fields.spanNack : ∀ a, Statement (.spanNack a) := by
  intro a
  trivial
theorem Sys2Proof.Laws.Fields.spanRecoveryStart : ∀ a, Statement (.spanRecoveryStart a) := by
  intro a
  trivial
theorem Sys2Proof.Laws.Fields.spanLinkDrop : ∀ a, Statement (.spanLinkDrop a) := by
  intro a
  trivial
theorem Sys2Proof.Laws.Fields.spanRecoveryEnd : ∀ a, Statement (.spanRecoveryEnd a) := by
  intro a
  trivial
theorem Sys2Proof.Laws.Fields.recoveryBound : ∀ a, Statement (.recoveryBound a) := by
  intro a
  trivial
theorem Sys2Proof.Laws.Fields.hostLinkDrop : ∀ a, Statement (.hostLinkDrop a) := by
  intro a
  trivial
theorem Sys2Proof.Laws.Fields.copyStart : ∀ a, Statement (.copyStart a) := by
  intro a
  trivial
theorem Sys2Proof.Laws.Fields.copyComplete : ∀ a, Statement (.copyComplete a) := by
  intro a
  trivial
theorem Sys2Proof.Laws.Fields.copyStop : ∀ a, Statement (.copyStop a) := by
  intro a
  trivial
theorem Sys2Proof.Laws.Fields.copyCancelStop : ∀ a, Statement (.copyCancelStop a) := by
  intro a
  trivial
theorem Sys2Proof.Laws.Fields.mmaComplete : ∀ a, Statement (.mmaComplete a) := by
  intro a
  trivial
theorem Sys2Proof.Laws.Fields.tileOpComplete : ∀ a b, Statement (.tileOpComplete a b) := by
  intro a b
  trivial
theorem Sys2Proof.Laws.Fields.tileDataFault : ∀ a b, Statement (.tileDataFault a b) := by
  intro a b
  trivial
theorem Sys2Proof.Laws.Fields.qldReturn : ∀ a b, Statement (.qldReturn a b) := by
  intro a b
  trivial
theorem Sys2Proof.Laws.Fields.commitPerform : ∀ a, Statement (.commitPerform a) := by
  intro a
  trivial
theorem Sys2Proof.Laws.Fields.sleeptWake : ∀ a, Statement (.sleeptWake a) := by
  intro a
  trivial
theorem Sys2Proof.Laws.Fields.stagedStart : ∀ a, Statement (.stagedStart a) := by
  intro a
  trivial
theorem Sys2Proof.Laws.Fields.queueTake : ∀ a b, Statement (.queueTake a b) := by
  intro a b
  trivial
theorem Sys2Proof.Laws.Fields.stampTimeout : ∀ a b, Statement (.stampTimeout a b) := by
  intro a b
  trivial
theorem Sys2Proof.Laws.Fields.launchBufferWrite : ∀ a b, Statement (.launchBufferWrite a b) := by
  intro a b
  trivial
theorem Sys2Proof.Laws.Fields.launchReady : ∀ a, Statement (.launchReady a) := by
  intro a
  trivial
theorem Sys2Proof.Laws.Fields.crewAdmit : ∀ a b, Statement (.crewAdmit a b) := by
  intro a b
  trivial
theorem Sys2Proof.Laws.Fields.launchComplete : ∀ a, Statement (.launchComplete a) := by
  intro a
  trivial
theorem Sys2Proof.Laws.Fields.replayRestore : ∀ a, Statement (.replayRestore a) := by
  intro a
  trivial
theorem Sys2Proof.Laws.Fields.pctlCreate : ∀ a, Statement (.pctlCreate a) := by
  intro a
  trivial
theorem Sys2Proof.Laws.Fields.pctlKill : ∀ a, Statement (.pctlKill a) := by
  intro a
  trivial
theorem Sys2Proof.Laws.Fields.pctlWake : ∀ a, Statement (.pctlWake a) := by
  intro a
  trivial
theorem Sys2Proof.Laws.Fields.pctlSwapout : ∀ a, Statement (.pctlSwapout a) := by
  intro a
  trivial
theorem Sys2Proof.Laws.Fields.functionLevelReset : ∀ a, Statement (.functionLevelReset a) := by
  intro a
  trivial
theorem Sys2Proof.Laws.Fields.killComplete : ∀ a, Statement (.killComplete a) := by
  intro a
  trivial
theorem Sys2Proof.Laws.Fields.tsliceExpiry : ∀ a, Statement (.tsliceExpiry a) := by
  intro a
  trivial
theorem Sys2Proof.Laws.Fields.latencyIdleExpiry : ∀ a, Statement (.latencyIdleExpiry a) := by
  intro a
  trivial
theorem Sys2Proof.Laws.Fields.saveComplete : ∀ a, Statement (.saveComplete a) := by
  intro a
  trivial
theorem Sys2Proof.Laws.Fields.swapIn : ∀ a, Statement (.swapIn a) := by
  intro a
  trivial
theorem Sys2Proof.Laws.Fields.restoreComplete : ∀ a, Statement (.restoreComplete a) := by
  intro a
  trivial
theorem Sys2Proof.Laws.Fields.tlbinvStart : ∀ a b, Statement (.tlbinvStart a b) := by
  intro a b
  trivial
theorem Sys2Proof.Laws.Fields.tlbinvDone : ∀ a, Statement (.tlbinvDone a) := by
  intro a
  trivial
theorem Sys2Proof.Laws.Fields.mbxbaseWrite : ∀ a b, Statement (.mbxbaseWrite a b) := by
  intro a b
  trivial
theorem Sys2Proof.Laws.Fields.errrecRead : ∀ a, Statement (.errrecRead a) := by
  intro a
  trivial
theorem Sys2Proof.Laws.Fields.registerWrite : ∀ a, Statement (.registerWrite a) := by
  intro a
  trivial
theorem Sys2Proof.Laws.Fields.dbgStop : ∀ a, Statement (.dbgStop a) := by
  intro a
  trivial
theorem Sys2Proof.Laws.Fields.dbgResume : ∀ a, Statement (.dbgResume a) := by
  intro a
  trivial
theorem Sys2Proof.Laws.Fields.dbgStep : ∀ a, Statement (.dbgStep a) := by
  intro a
  trivial
theorem Sys2Proof.Laws.Fields.dbgCancel : ∀ a, Statement (.dbgCancel a) := by
  intro a
  trivial
theorem Sys2Proof.Laws.Fields.clusterFrozen : ∀ a, Statement (.clusterFrozen a) := by
  intro a
  trivial
theorem Sys2Proof.Laws.Fields.heartbeatTimeout : ∀ a, Statement (.heartbeatTimeout a) := by
  intro a
  trivial
theorem Sys2Proof.Laws.Fields.rebuildComplete : Statement .rebuildComplete := by trivial
theorem Sys2Proof.Laws.Fields.zoneUpdate : ∀ a b, Statement (.zoneUpdate a b) := by
  intro a b
  trivial
theorem Sys2Proof.Laws.Fields.powerMeasure : ∀ a, Statement (.powerMeasure a) := by
  intro a
  trivial
theorem Sys2Proof.Laws.Fields.timeRecalibrate : ∀ a b c, Statement (.timeRecalibrate a b c) := by
  intro a b c
  trivial
theorem Sys2Proof.Laws.Fields.powerUp : ∀ a, Statement (.powerUp a) := by
  intro a
  trivial
theorem Sys2Proof.Laws.Fields.attestRequest : ∀ a, Statement (.attestRequest a) := by
  intro a
  trivial
theorem Sys2Proof.Laws.Fields.attestDone : Statement .attestDone := by trivial
theorem Sys2Proof.Laws.Fields.mmaLastColumn : ∀ a, Statement (.mmaLastColumn a) := by
  intro a
  trivial
theorem Sys2Proof.Laws.Fields.hostAgentUnanswered : ∀ a, Statement (.hostAgentUnanswered a) := by
  intro a
  trivial
theorem Sys2Proof.Laws.Fields.hostLinkRecoveryEnd : ∀ a, Statement (.hostLinkRecoveryEnd a) := by
  intro a
  trivial
end

