-- ==== Sys2Proof/Tests/Slice0.lean ====
section
/-! SUPPORT. The model's own tests: words of every constructor decoded, ill-formed terms refused, single steps on small states,
and a state that meets the hypotheses of each statement. -/

namespace Sys2Proof.Tests

open Sys2Proof Sys2Proof.Machine

set_option Elab.async false

/-! ### Decoding (expected words: chapters 04 to 08 of spec/, field by field) -/

/-- Each word decodes to the instruction beside it. -/
def readsAs (l : List (Nat × Instr)) : Bool := l.all fun e => decode (BitVec.ofNat 64 e.1) == .ok e.2

/-- R92, R111: K with MOD = W, SG, SAT. -/
def words_integer_arithmetic : List (Nat × Instr) := [
  -- IADD.sat.s32 V1, V2, V3
  (0x001F7C01040C0006, .iadd Head.plain { d := 1, a := .v 2, b := .v 3, w := false, sg := true, sat := true }),
  -- ISUB.n64 V4, V6, ZERO
  (0x005F7C040DA00008, .isub Head.plain { d := 4, a := .v 6, b := .zero, w := true, sg := false, sat := false }),
  -- IMUL.b32 V95, V2, V3
  (0x009F7C5F040C0000, .imul Head.plain { d := 95, a := .v 2, b := .v 3, w := false, sg := false, sat := false }),
  -- IMULH.s64 V2, V4, V6
  (0x00DF7C020818000C, .imulh Head.plain { d := 2, a := .v 4, b := .v 6, w := true, sg := true, sat := false }),
  -- IMAD.b32 V1, V2, V3, V4
  (0x011F7C01040C2000, .imad Head.plain { d := 1, a := .v 2, b := .v 3, c := .v 4, w := false, sg := false }),
  -- IMADW.s32 V2, V3, V5, V8
  (0x015F7C0206144004, .imadw Head.plain { d := 2, a := .v 3, b := .v 5, c := .v 8, w := false, sg := true }),
  -- INEG.sat.s32 V1, V2
  (0x019F7C0104000006, .ineg Head.plain { d := 1, a := .v 2, w := false, sg := true, sat := true }),
  -- IABS.s64 V2, V4
  (0x01DF7C020800000C, .iabs Head.plain { d := 2, a := .v 4, w := true, sg := true, sat := false }),
  -- IMIN.s32 V1, V2, V3
  (0x021F7C01040C0004, .imin Head.plain { d := 1, a := .v 2, b := .v 3, w := false, sg := true, sat := false }),
  -- IMAX.n32 V1, V2, V3
  (0x025F7C01040C0000, .imax Head.plain { d := 1, a := .v 2, b := .v 3, w := false, sg := false, sat := false }),
  -- LEA.s64 V2, V4, V7, 5
  (0x029F7C02081C005C, .lea Head.plain { d := 2, a := .v 4, b := .v 7, sh := 5, w := true, sg := true })]

theorem test_decodes_integer_arithmetic : readsAs words_integer_arithmetic = true := by decide +kernel

/-- R92, R112, R113: BOOL3 reads E and MOD as X11. -/
def words_logic_and_shifts : List (Nat × Instr) := [
  -- AND.b32 V1, V2, V3
  (0x02DF7C01040C0000, .and Head.plain { d := 1, a := .v 2, b := .v 3, w := false, sg := false, sat := false }),
  -- OR.b64 V2, V4, V6
  (0x031F7C0208180008, .or Head.plain { d := 2, a := .v 4, b := .v 6, w := true, sg := false, sat := false }),
  -- XOR.b32 V1, V2, V3
  (0x035F7C01040C0000, .xor Head.plain { d := 1, a := .v 2, b := .v 3, w := false, sg := false, sat := false }),
  -- ANDN.b32 V1, V2, V3
  (0x039F7C01040C0000, .andn Head.plain { d := 1, a := .v 2, b := .v 3, w := false, sg := false, sat := false }),
  -- BOOL3.b64 V2, V4, V6, V8, 0xE8
  (0x03DF7C02081844E8, .bool3 Head.plain { d := 2, a := .v 4, b := .v 6, c := .v 8, w := true, tt := 0xE8 }),
  -- SHL.b32 V1, V2, V3
  (0x041F7C01040C0000, .shl Head.plain { d := 1, a := .v 2, b := .v 3, w := false, sg := false, sat := false }),
  -- SHR.s64 V2, V4, V3
  (0x045F7C02080C000C, .shr Head.plain { d := 2, a := .v 4, b := .v 3, w := true, sg := true, sat := false }),
  -- ROT.b32 V1, V2, V3
  (0x049F7C01040C0000, .rot Head.plain { d := 1, a := .v 2, b := .v 3, w := false, sg := false, sat := false }),
  -- FSHL.b32 V1, V2, V3, V4
  (0x04DF7C01040C2000, .fshl Head.plain { d := 1, a := .v 2, b := .v 3, c := .v 4, w := false, sg := false }),
  -- BFX.s32 V1, V2, V3, V4
  (0x051F7C01040C2004, .bfx Head.plain { d := 1, a := .v 2, b := .v 3, c := .v 4, w := false, sg := true }),
  -- BFI.b32 V1, V2, V3, V4, V5
  (0x055F7C01040C2050, .bfi Head.plain { d := 1, a := .v 2, b := .v 3, c := .v 4, e := .v 5, w := false }),
  -- BREV.b32 V1, V2
  (0x059F7C0104000000, .brev Head.plain { d := 1, a := .v 2, w := false, sg := false, sat := false }),
  -- POPC.b64 V1, V2
  (0x05DF7C0104000008, .popc Head.plain { d := 1, a := .v 2, w := true, sg := false, sat := false }),
  -- CLZ.b32 V1, V2
  (0x061F7C0104000000, .clz Head.plain { d := 1, a := .v 2, w := false, sg := false, sat := false }),
  -- CTZ.b32 V1, V2
  (0x065F7C0104000000, .ctz Head.plain { d := 1, a := .v 2, w := false, sg := false, sat := false })]

theorem test_decodes_logic_and_shifts : readsAs words_logic_and_shifts = true := by decide +kernel

/-- R114 to R116: IMM25 is signed; a shift holds its amount in [4:0] and SG in [5]. -/
def words_compares_and_immediates : List (Nat × Instr) := [
  -- ICMP.lt.s32 P1, P2, V4, V5 (the word of R115)
  (0x069F7C01081411F2, .icmp Head.plain { pa := 1, pb := 2, pc := 31, a := .v 4, b := .v 5, w := false, cond := .lts }),
  -- ISEL.b32 V1, V2, V3, P4
  (0x06DF7C01040C2000, .isel Head.plain { d := 1, a := .v 2, b := .v 3, pc := 4, w := false }),
  -- IADD V1, V2, -1
  (0x081F7C0105FFFFFF, .iaddImm Head.plain { d := 1, a := .v 2, imm := 0x1FFFFFF }),
  -- ISUB V1, V2, 5
  (0x085F7C0104000005, .isubImm Head.plain { d := 1, a := .v 2, imm := 5 }),
  -- IMUL V2, V1, 4
  (0x089F7C0202000004, .imulImm Head.plain { d := 2, a := .v 1, imm := 4 }),
  -- IMIN V1, V2, 7
  (0x0A1F7C0104000007, .iminImm Head.plain { d := 1, a := .v 2, imm := 7 }),
  -- IMAX V1, V2, 7
  (0x0A5F7C0104000007, .imaxImm Head.plain { d := 1, a := .v 2, imm := 7 }),
  -- AND V1, V2, 0xFF
  (0x0ADF7C01040000FF, .andImm Head.plain { d := 1, a := .v 2, imm := 0xFF }),
  -- OR V1, V2, 0xFF
  (0x0B1F7C01040000FF, .orImm Head.plain { d := 1, a := .v 2, imm := 0xFF }),
  -- XOR V1, V2, 0xFF
  (0x0B5F7C01040000FF, .xorImm Head.plain { d := 1, a := .v 2, imm := 0xFF }),
  -- SHL V1, V2, 31
  (0x0C1F7C010400001F, .shlImm Head.plain { d := 1, a := .v 2, amt := 31, sg := false }),
  -- SHR.s32 V1, V2, 3
  (0x0C5F7C0104000023, .shrImm Head.plain { d := 1, a := .v 2, amt := 3, sg := true }),
  -- ROT V1, V2, 8
  (0x0C9F7C0104000008, .rotImm Head.plain { d := 1, a := .v 2, amt := 8, sg := false })]

theorem test_decodes_compares_and_immediates : readsAs words_compares_and_immediates = true := by decide +kernel

/-- R117 to R122: PMOV and MOVJ have their direction in MOD[0], MOVS its register number in A. -/
def words_predicates_and_moves : List (Nat × Instr) := [
  -- PLOG P4, P1, P2, P31, 0xC0
  (0x101F7C040208F8C0, .plog Head.plain { pd := 4, pa := 1, pb := 2, pc := 31, tt := 0xC0 }),
  -- PMOV.get V5
  (0x105F7C0500000000, .pmovGet Head.plain 5),
  -- PMOV.set V5, V6
  (0x105F7C000A180001, .pmovSet Head.plain (.v 5) (.v 6)),
  -- MOV.b64 V2, V4
  (0x109F7C0208000008, .mov Head.plain { d := 2, a := .v 4, w := true }),
  -- MOVI V1, -2
  (0x10DF7C0101FFFFFE, .movi Head.plain 1 0x1FFFFFE),
  -- MOVI32 V1, 0x3F800000
  (0x111F7C013F800000, .movi32 Head.plain 1 0x3F800000),
  -- MOVS V1, %tid
  (0x115F7C0100000000, .movs Head.plain 1 .tid),
  -- MOVS V2, %dclk
  (0x115F7C0212000000, .movs Head.plain 2 .dclk),
  -- MOVSW %fst, V3
  (0x119F7C00160C0000, .movsw Head.plain .fst (.v 3)),
  -- ELECT P3, V7
  (0x11DF7C0700001800, .elect Head.plain 3 (some 7)),
  -- MOVJ J3, V4
  (0x121F7C0308000000, .movjToJ Head.plain 3 (.v 4)),
  -- MOVJ V4, J3
  (0x121F7C0406000001, .movjToV Head.plain 4 3)]

theorem test_decodes_predicates_and_moves : readsAs words_predicates_and_moves = true := by decide +kernel

/-- R93, R126 to R137: OFF32 counts 8-byte words, JR holds a pair. -/
def words_control : List (Nat × Instr) := [
  -- BRA -2
  (0x201F7C7FFFFFFF00, .bra Head.plain 0xFFFFFFFE),
  -- BRX V4
  (0x205F7C0000000004, .brx Head.plain 4),
  -- CALL 16
  (0x209F7C0000000800, .call Head.plain 16),
  -- CALLX V94
  (0x20DF7C000000005E, .callx Head.plain 94),
  -- CALL.L 16, pad at ft + 2 words
  (0x211F7C0000000802, .callL Head.plain 16 2),
  -- CALLX.L V4, pad 8 words on
  (0x215F7C0000000404, .callxL Head.plain 4 8),
  -- RET
  (0x219F7C0000000000, .ret Head.plain),
  -- THROW
  (0x21DF7C0000000000, .throw Head.plain),
  -- JARM J1
  (0x221F7C0100000000, .jarm Head.plain 1),
  -- WAITJ J7
  (0x225F7C0700000000, .waitj Head.plain 7),
  -- YIELD
  (0x229F7C0000000000, .yield Head.plain),
  -- EXIT
  (0x22DF7C0000000000, .exit Head.plain),
  -- NOP
  (0x231F7C0000000000, .nop Head.plain)]

theorem test_decodes_control : readsAs words_control = true := by decide +kernel

/-- R94, R140 to R152: E holds the modifiers, MOD the rounding mode, 0b111 the dynamic one. -/
def words_float : List (Nat × Instr) := [
  -- FADD.f32 V4, |V5|, -V6
  (0x481F7C040A180067, .fadd Head.plain { t := .f32, d := 4, a := .v 5, b := .v 6, ma := { abs := true, neg := false }, mb := { abs := false, neg := true }, rm := .dyn }),
  -- FSUB.f64.rtz V4, V6, V8
  (0x4C5F7C040C200001, .fsub Head.plain { t := .f64, d := 4, a := .v 6, b := .v 8, ma := { abs := false, neg := false }, mb := { abs := false, neg := false }, rm := .rtz }),
  -- FMUL.bf16.rne V1, V2, V3
  (0x449F7C01040C0000, .fmul Head.plain { t := .bf16, d := 1, a := .v 2, b := .v 3, ma := { abs := false, neg := false }, mb := { abs := false, neg := false }, rm := .rne }),
  -- FFMA.f16.rna V1, V2, V3, -V4
  (0x40DF7C01040C2104, .ffma Head.plain { t := .f16, d := 1, a := .v 2, b := .v 3, c := .v 4, ma := { abs := false, neg := false }, mb := { abs := false, neg := false }, mc := { abs := false, neg := true }, rm := .rna }),
  -- FMIN.num.f32 V1, V2, V3
  (0x491F7C01040C0001, .fmin Head.plain { t := .f32, d := 1, a := .v 2, b := .v 3, ma := { abs := false, neg := false }, mb := { abs := false, neg := false }, num := true }),
  -- FMAX.f32 V1, V2, V3
  (0x495F7C01040C0000, .fmax Head.plain { t := .f32, d := 1, a := .v 2, b := .v 3, ma := { abs := false, neg := false }, mb := { abs := false, neg := false }, num := false }),
  -- FCMP.lt.sig.f32 P1, P2, V4, |V5|, P6
  (0x499F7C010814146A, .fcmp Head.plain { t := .f32, pa := 1, pb := 2, pc := 6, a := .v 4, b := .v 5, absA := false, absB := true, cond := .lt, sig := true }),
  -- FCLASS.f64 V1, V2
  (0x4DDF7C0104000000, .fclass Head.plain { t := .f64, d := 1, a := .v 2 }),
  -- FRND.f32.exact.rup V1, V2
  (0x4A1F7C010400000A, .frnd Head.plain { t := .f32, d := 1, a := .v 2, ma := { abs := false, neg := false }, exact := true, rm := .rup }),
  -- FSCALE.f32.rdn V1, V2, V3
  (0x4A5F7C01040C0003, .fscale Head.plain { t := .f32, d := 1, a := .v 2, b := .v 3, ma := { abs := false, neg := false }, rm := .rdn }),
  -- FRCP.f32 V1, V2
  (0x501F7C0104000007, .frcp Head.plain { t := .f32, d := 1, a := .v 2, ma := { abs := false, neg := false }, rm := .dyn }),
  -- FRSQ.f64 V2, V4
  (0x525F7C0208000007, .frsq Head.plain { t := .f64, d := 2, a := .v 4, ma := { abs := false, neg := false }, rm := .dyn }),
  -- FSQRT.f32.rne V1, -V2
  (0x509F7C0104000010, .fsqrt Head.plain { t := .f32, d := 1, a := .v 2, ma := { abs := false, neg := true }, rm := .rne }),
  -- FEXP2.f16 V1, V2
  (0x54DF7C0104000007, .fexp2 Head.plain { t := .f16, d := 1, a := .v 2, ma := { abs := false, neg := false }, rm := .dyn }),
  -- FLOG2.f32 V1, V2
  (0x511F7C0104000007, .flog2 Head.plain { t := .f32, d := 1, a := .v 2, ma := { abs := false, neg := false }, rm := .dyn }),
  -- FSIN.f32 V1, V2
  (0x515F7C0104000007, .fsin Head.plain { t := .f32, d := 1, a := .v 2, ma := { abs := false, neg := false }, rm := .dyn }),
  -- FCOS.f32 V1, V2
  (0x519F7C0104000007, .fcos Head.plain { t := .f32, d := 1, a := .v 2, ma := { abs := false, neg := false }, rm := .dyn }),
  -- FTANH.f32 V1, V2
  (0x51DF7C0104000007, .ftanh Head.plain { t := .f32, d := 1, a := .v 2, ma := { abs := false, neg := false }, rm := .dyn }),
  -- FCVT.f32.bf16 V1, V2: source 1 in B, destination 2 in C
  (0x581F7C0104041007, .fcvt Head.plain { dst := .f32, src := .bf16, d := 1, a := .v 2, ma := { abs := false, neg := false }, rm := .dyn }),
  -- ICVT.s32.f64.exact.rtz V1, V2: source 3, destination 4
  (0x585F7C01040C2009, .icvt Head.plain { dst := .s32, src := .flt .f64, d := 1, a := .v 2, ma := { abs := false, neg := false }, exact := true, rm := .rtz }),
  -- EXTP.t6.f32 V1, V2, V3, V4
  (0x589F7C01040C202F, .extp Head.plain { t6 := true, dst := .f32, d := 1, a := .v 2, b := .v 3, c := .v 4, rm := .dyn }),
  -- PACKP.t8.f16 V1, V2, V3, V4
  (0x58DF7C01040C2007, .packp Head.plain { t6 := false, src := .f16, d := 1, a := .v 2, b := .v 3, c := .v 4 })]

theorem test_decodes_float : readsAs words_float = true := by decide +kernel

/-- R95, R154 to R162, R123 to R125: MOD[3] chooses a pair of V as the mask, else C names a rejoin mask. -/
def words_cross_lane : List (Nat × Instr) := [
  -- SHFL.down V11, V7, V12, J2, V10
  (0x601F7C0B0E3010A2, .shfl Head.plain { mode := .down, w := false, d := 11, a := .v 7, b := .v 12, mask := .j 2, fill := .v 10 }),
  -- VOTE.ballot V4, P3, V6:V7, V8
  (0x605F7C040600308B, .vote Head.plain { pa := 3, mask := .pair (.v 6), dst := .ballot 4 (.v 8) }),
  -- REDX.fadd.f32 V9, V7, J2, V10 (the word of R161)
  (0x609F7C090E4010A7, .redx Head.plain { op := .fadd32, d := 9, a := .v 7, mask := .j 2, fill := .v 10, rm := .dyn }),
  -- SCANX.add.b32.excl V1, V2, J0, ZERO
  (0x60DF7C0105000687, .scanx Head.plain { op := .add32, excl := true, d := 1, a := .v 2, mask := .j 0, fill := .zero, rm := .dyn }),
  -- MATCH.any.b64 V4, V6, J1
  (0x611F7C040C000E84, .matchx Head.plain { all := false, w := true, d := 4, a := .v 6, mask := .j 1, fill := .zero }),
  -- XSND.b64 V3, V4, J1
  (0x615F7C6806100E84, .xsnd Head.plain { w := true, slot := .v 3, data := .v 4, mask := .j 1 }),
  -- XRCV V5, V3, J1, V6
  (0x619F7C0507A00860, .xrcv Head.plain { w := false, d := 5, slot := .v 3, mask := .j 1, fill := .v 6 }),
  -- SHAPE.Q V1, V2
  (0x621F7C0104000000, .shapeQ Head.plain 1 (.v 2)),
  -- SHAPE.G V1
  (0x625F7C0100000000, .shapeG Head.plain 1),
  -- AFF V1, V2, V3
  (0x629F7C01040C0000, .aff Head.plain 1 (.v 2) (.v 3))]

theorem test_decodes_cross_lane : readsAs words_cross_lane = true := by decide +kernel

/-- R96, R84: format M, REC, DAT, OFS, IMM12, SCOPE, ORD, HINT. -/
def words_memory : List (Nat × Instr) := [
  -- LD.b64.die.acq.bypl1 V6, [B3 + V8 - 4]
  (0x80DF7C0C308FFC4C, .ld Head.plain { ty := .b64, d := 6, m := { br := 3, ofs := some 8, imm := 0xFFC }, scope := .die, ord := .acq, hint := 4 }),
  -- ST.b16.pkg.rel ZERO, [B2 + 6]
  (0x825F7C0B468006B0, .st Head.plain { ty := .b16, data := .zero, m := { br := 2, ofs := none, imm := 6 }, scope := .pkg, ord := .rel, hint := 0 }),
  -- BLD.clu B5, [B3 + 32]
  (0x835F7C0C2E802020, .bld Head.plain { bd := 5, m := { br := 3, ofs := none, imm := 32 }, scope := .clu, ord := .rlx }),
  -- BST.core V16, [B3 + 64]
  (0x839F7C0C86804000, .bst Head.plain { data := .v 16, m := { br := 3, ofs := none, imm := 64 }, scope := .core, ord := .rlx, hint := 0 }),
  -- ATOM.add.b32.die.ar V6, [B2 + V8 + 8] (the word of R174)
  (0x881F7C0830800858, .atom Head.plain { op := .add, w := false, d := 6, m := { br := 2, ofs := some 8, imm := 8 }, scope := .die, ord := .ar, hint := 0 }),
  -- ATOM.inc.b64.nr.sys V4, [B3]
  (0x969F7C0C268000C0, .atomNr Head.plain { op := .inc, w := true, data := .v 4, m := { br := 3, ofs := none, imm := 0 }, scope := .sys, ord := .rlx, hint := 0 }),
  -- ACAS.b64.twr V8, [B3]
  (0x985F7C0C46800060, .acas Head.plain { w := true, d := 8, m := { br := 3, ofs := none, imm := 0 }, scope := .twr, ord := .rlx, hint := 0 }),
  -- SMAP.coh B4, V2, V5, V6
  (0x989F7C0404143001, .smap Head.plain { coh := true, bd := 4, va := .v 2, off := .v 5, len := .v 6 }),
  -- SUNMAP B4
  (0x98DF7C0400000000, .sunmap Head.plain 4),
  -- SFLUSH B4
  (0x991F7C0400000000, .sflush Head.plain 4),
  -- SMODE.coh B4
  (0x995F7C0400000001, .smode Head.plain 4 true),
  -- CFLUSH.die [B3], V5
  (0x999F7C0C2E800040, .cflush Head.plain { m := { br := 3, ofs := none, imm := 0 }, len := .v 5, scope := .die }),
  -- CINV.die [B3], V5
  (0x99DF7C0C2E800040, .cinv Head.plain { m := { br := 3, ofs := none, imm := 0 }, len := .v 5, scope := .die }),
  -- ICINV.die [B3], V5
  (0x9A1F7C0C2E800040, .icinv Head.plain { m := { br := 3, ofs := none, imm := 0 }, len := .v 5, scope := .die }),
  -- MSCFL.deck: scope 4 in B
  (0x9A5F7C0000100000, .mscfl Head.plain .deck)]

theorem test_decodes_memory : readsAs words_memory = true := by decide +kernel

/-- R97, R175 to R186, R219: K-format scopes in B or E, RBEGIN its scope in JR[6:4]. -/
def words_synchronisation : List (Nat × Instr) := [
  -- FENCE.pkg.ar
  (0xA01F7C00000000B8, .fence Head.plain .pkg .ar),
  -- BAR
  (0xA05F7C0000000000, .bar Head.plain),
  -- BARA.die V3, 2
  (0xA09F7C0300081000, .bara Head.plain { d := some 3, scope := .die, n := 2 }),
  -- BARW.die V3, 2
  (0xA0DF7C0006081000, .barw Head.plain { a := .v 3, scope := .die, n := 2 }),
  -- WAITC ld=1, st=2, cp=3, tl=4
  (0xA11F7C01040C2000, .waitc Head.plain { ld := 1, st := 2, cp := 3, tl := 4 }),
  -- COPY.die.rel H1, V2, V4, V6
  (0xA15F7C0104103028, .copy Head.plain { hd := 1, dst := .v 2, src := .v 4, len := .v 6, scope := .die, rel := true }),
  -- SEAL V5
  (0xA19F7C0500000000, .seal Head.plain (some 5)),
  -- WAITB V5
  (0xA1DF7C000A000000, .waitb Head.plain (.v 5)),
  -- HTIME V4, H3
  (0xA21F7C0406000000, .htime Head.plain 4 3),
  -- SLEEPT V4, H3
  (0xA25F7C0008001801, .sleept Head.plain (.v 4) (some 3)),
  -- HWAIT H3
  (0xA29F7C0006000000, .hwait Head.plain 3),
  -- HTEST P1, P2, H3
  (0xA2DF7C0106001000, .htest Head.plain 1 2 3),
  -- HCANCEL H3
  (0xA31F7C0006000000, .hcancel Head.plain 3),
  -- HMOV H3, V4
  (0xA35F7C0308000000, .hmovToH Head.plain 3 (.v 4)),
  -- HMOV V4, H3
  (0xA35F7C0406000001, .hmovToV Head.plain 4 3),
  -- RBEGIN.clu 4 words on
  (0xA41F7C0000000210, .rbegin Head.plain .clu 4),
  -- RCOMMIT
  (0xA45F7C0000000000, .rcommit Head.plain),
  -- RABORT
  (0xA49F7C0000000000, .rabort Head.plain)]

theorem test_decodes_synchronisation : readsAs words_synchronisation = true := by decide +kernel

/-- R98, R85, R199: TOP[1:0] is the transform, TOP[4:2] its table. -/
def words_tiles : List (Nat × Instr) := [
  -- TACQ.y V5
  (0xC01F7C0028004000, .tacq Head.plain true (.v 5)),
  -- TREL.z V5
  (0xC05F7C0028000000, .trel Head.plain false (.v 5)),
  -- TLD.perm3.die Y2, [B4 + V6], V8
  (0xC09F7C103080504E, .tld Head.plain { br := 4, va := some 6, vb := .v 8, y := true, tn := 2, xf := .perm 3, scope := .die }),
  -- TSV.die [B4 + V6], Z1, V8
  (0xC0DF7C1030800840, .tsv Head.plain { br := 4, va := some 6, vb := .v 8, tn := 1, scope := .die }),
  -- TZERO Y3
  (0xC11F7C0000005800, .tzero Head.plain true 3),
  -- TMOV.get V5, Z1, V6
  (0xC15F7C0028600800, .tmovGet Head.plain { d := 5, sel := .v 6, y := false, tn := 1 }),
  -- TMOV.put Y1, V6, V5
  (0xC15F7C0028604801, .tmovPut Head.plain { a := .v 5, sel := .v 6, y := true, tn := 1 }),
  -- MMA.die H2, [B4 + V10] (the word of R211)
  (0xC19F7C1050028040, .mma Head.plain { br := 4, va := some 10, hd := some 2, scope := .die }),
  -- TSUM.sums.die [B4], Z1, V8
  (0xC1DF7C1340800841, .tsum Head.plain { br := 4, va := none, vb := .v 8, tn := 1, sums := true, scope := .die }),
  -- QCV.t6.h16.die [B4 + V6], Z1, V8
  (0xC21F7C1030800941, .qcv Head.plain { br := 4, va := some 6, vb := .v 8, tn := 1, t6 := true, xf := .h16, scope := .die }),
  -- PTLD.die 5, [B4 + V6], V8
  (0xC25F7C1030802840, .ptld Head.plain { br := 4, va := some 6, vb := .v 8, t := 5, scope := .die })]

theorem test_decodes_tiles : readsAs words_tiles = true := by decide +kernel

/-- R98, R215: D, A, B and C name M registers; SMMOV has its direction in MOD[1:0]. -/
def words_small_matrices : List (Nat × Instr) := [
  -- SMSET.f32 M1, 3, 4
  (0xD01F7C01000C2001, .smset Head.plain { f32 := true, md := 1, rows := 3, cols := 4 }),
  -- SMLD.clu.acq M1, [B3 + 8]
  (0xD05F7C0C0E800828, .smld Head.plain { md := 1, m := { br := 3, ofs := none, imm := 8 }, scope := .clu, ord := .acq, hint := 0 }),
  -- SMST.clu.rel M1, [B3 + 8]
  (0xD09F7C0C0E800830, .smst Head.plain { md := 1, m := { br := 3, ofs := none, imm := 8 }, scope := .clu, ord := .rel, hint := 0 }),
  -- SMMOV M1, M2
  (0xD0DF7C0104000000, .smmov Head.plain 1 2),
  -- SMMOV.get V4, M2, V5, V6
  (0xD0DF7C0404143001, .smmovGet Head.plain { d := 4, ma := 2, i := .v 5, j := .v 6 }),
  -- SMMOV.put M1, V5, V6, V8
  (0xD0DF7C0110143002, .smmovPut Head.plain { md := 1, a := .v 8, i := .v 5, j := .v 6 }),
  -- SMADD.rtz M1, M2, M3
  (0xD11F7C01040C0001, .smadd Head.plain { md := 1, ma := 2, mb := 3, rm := .rtz }),
  -- SMSCL M1, M2, V4
  (0xD15F7C0104000047, .smscl Head.plain { md := 1, ma := 2, e := .v 4, rm := .dyn }),
  -- SMTR M1, M2
  (0xD19F7C0104000000, .smtr Head.plain 1 2),
  -- SMMUL M1, M2, M3
  (0xD1DF7C01040C0007, .smmul Head.plain { md := 1, ma := 2, mb := 3, rm := .dyn }),
  -- SMMAD M1, M2, M3, M4
  (0xD21F7C01040C2007, .smmad Head.plain { md := 1, ma := 2, mb := 3, mc := 4, rm := .dyn }),
  -- SMCHOL M1, M2
  (0xD25F7C0104000007, .smchol Head.plain { md := 1, ma := 2, rm := .dyn }),
  -- SMLU M1, M2
  (0xD29F7C0104000007, .smlu Head.plain { md := 1, ma := 2, rm := .dyn }),
  -- SMSOLVE M1, M2, M3
  (0xD2DF7C01040C0007, .smsolve Head.plain { md := 1, ma := 2, mb := 3, rm := .dyn })]

theorem test_decodes_small_matrices : readsAs words_small_matrices = true := by decide +kernel

/-- R99, R86, R224, R226: SUB is the kind, CODE16 the code. -/
def words_system : List (Nat × Instr) := [
  -- TRAP 7
  (0xE01F7C0000000007, .trap Head.plain 7),
  -- BRK 0xFFFF
  (0xE05F7C000000FFFF, .brk Head.plain 0xFFFF),
  -- ERRINJ.zflip Z2, V5, 9
  (0xE09F7C0500000209, .errinjZflip Head.plain (.v 5) 2 9),
  -- ERRINJ.vflip1 V5, 31
  (0xE09F7C050001001F, .errinjVflip1 Head.plain 5 31),
  -- ERRINJ.vflip2 V5, 3, 4
  (0xE09F7C0500020403, .errinjVflip2 Head.plain 5 3 4),
  -- ERRINJ.poison V4
  (0xE09F7C0400030000, .errinjPoison Head.plain (.v 4)),
  -- LAUNCH H2, V4, 200
  (0xE0DF7C04005000C8, .launch Head.plain (.v 4) 200 (some 2)),
  -- SIGNAL.st V4, V6
  (0xE11F7C040C000000, .signalSt Head.plain (.v 4) (.v 6)),
  -- SIGNAL.add V4, V6
  (0xE11F7C040C010000, .signalAdd Head.plain (.v 4) (.v 6)),
  -- IRQ 0x7FF
  (0xE15F7C00000007FF, .irq Head.plain 0x7FF)]

theorem test_decodes_system : readsAs words_system = true := by decide +kernel

/-- R99, R188, R189: QLD names its queue by its operand code in DAT. -/
def words_access_slice : List (Nat × Instr) := [
  -- QLD.b32.clu Q3, [B4 + V2 + 4]
  (0xF01F7C1318200420, .qld Head.plain 3 { br := 4, ofs := some 2, imm := 4 } .clu 0),
  -- QLOOP V5, -6 words
  (0xF05F7C7FFFFFFD05, .qloop Head.plain 5 0xFFFFFFFA),
  -- QEND
  (0xF09F7C0000000000, .qend Head.plain)]

theorem test_decodes_access_slice : readsAs words_access_slice = true := by decide +kernel
/-! ### Well-formedness: an ill-formed term for each check (R27, R88 to R90) -/

def m0 : MAddr := { br := 3, ofs := none, imm := 0 }
def sm0 : SrcMod := { abs := false, neg := false }
def al1 (d : Fin 96) (a : Src) (w sg sat : Bool) : Alu1 := { d, a, w, sg, sat }
def al2 (d : Fin 96) (a b : Src) (w sg sat : Bool) : Alu2 := { d, a, b, w, sg, sat }
def al3 (d : Fin 96) (a b c : Src) (w sg : Bool) : Alu3 := { d, a, b, c, w, sg }
def fp2 (t : FFmt) (d : Fin 96) (a b : Src) : Fp2 := { t, d, a, b, ma := sm0, mb := sm0, rm := .dyn }
def fpm (t : FFmt) (d : Fin 96) (a b : Src) : FpMin := { t, d, a, b, ma := sm0, mb := sm0, num := false }
def fsp (t : FFmt) (d : Fin 96) (a : Src) (rm : RMode) : FspecF := { t, d, a, ma := sm0, rm }
def hp : Head := Head.plain

/-- Odd registers where a pair is due, fields an integer word does not use, and registers MOVSW may not write. -/
def illInteger : List Instr := [
  .iadd hp (al2 1 (.v 2) (.v 4) true false false), .iadd hp (al2 2 (.v 3) (.v 4) true false false),
  .iadd hp (al2 2 (.v 4) (.v 5) true false false), .isub hp (al2 2 (.v 4) (.v 5) true false false),
  .imul hp (al2 1 (.v 2) (.v 3) false true false), .imulh hp (al2 1 (.v 2) (.v 3) false true true),
  .imad hp (al3 1 (.v 2) (.v 3) (.v 4) false true), .imad hp (al3 2 (.v 4) (.v 6) (.v 7) true false),
  .imadw hp (al3 2 (.v 3) (.v 4) (.v 6) true true), .imadw hp (al3 3 (.v 3) (.v 4) (.v 6) false true),
  .imadw hp (al3 2 (.v 3) (.v 4) (.v 7) false true), .ineg hp (al1 1 (.v 2) false false false),
  .iabs hp (al1 1 (.v 2) false false false), .imin hp (al2 1 (.v 2) (.v 3) false true true),
  .imax hp (al2 1 (.v 2) (.v 3) false true true), .lea hp { d := 1, a := .v 2, b := .v 3, sh := 0, w := true, sg := false },
  .lea hp { d := 2, a := .v 5, b := .v 3, sh := 0, w := true, sg := false }]

def illLogic : List Instr := [
  .and hp (al2 1 (.v 2) (.v 3) false true false), .or hp (al2 1 (.v 2) (.v 3) false false true),
  .xor hp (al2 1 (.v 2) (.v 4) true false false), .andn hp (al2 1 (.v 2) (.v 3) false true false),
  .bool3 hp { d := 2, a := .v 4, b := .v 6, c := .v 7, w := true, tt := 0 }, .shl hp (al2 1 (.v 2) (.v 3) false true false),
  .shr hp (al2 1 (.v 2) (.v 3) false false true), .rot hp (al2 1 (.v 2) (.v 3) false true false),
  .fshl hp (al3 1 (.v 2) (.v 3) (.v 4) false true), .fshl hp (al3 2 (.v 4) (.v 7) (.v 4) true false),
  .bfx hp (al3 2 (.v 3) (.v 3) (.v 4) true false), .bfi hp { d := 2, a := .v 4, b := .v 3, c := .v 3, e := .v 5, w := true },
  .brev hp (al1 1 (.v 2) false true false), .popc hp (al1 1 (.v 3) true false false), .clz hp (al1 1 (.v 2) false false true),
  .ctz hp (al1 1 (.v 2) false true false),
  .icmp hp { pa := 1, pb := 2, pc := 3, a := .v 5, b := .v 4, w := true, cond := .eq },
  .isel hp { d := 2, a := .v 4, b := .v 5, pc := 0, w := true }, .shlImm hp { d := 1, a := .v 2, amt := 1, sg := true },
  .rotImm hp { d := 1, a := .v 2, amt := 1, sg := true }, .mov hp { d := 1, a := .v 2, w := true },
  .movs hp 1 .clk, .movsw hp .tid (.v 2), .movsw hp .exc (.v 3), .movjToJ hp 0 (.v 3), .movjToV hp 3 0, .brx hp 3,
  .callx hp 3, .callxL hp 3 0]

/-- Float words: pairs for f64, no bf16 special function, a rounding mode only where the word rounds, conversions of R149, R150. -/
def illFloat : List Instr := [
  .fadd hp (fp2 .f64 1 (.v 2) (.v 4)), .fsub hp (fp2 .f64 2 (.v 3) (.v 4)), .fmul hp (fp2 .f64 2 (.v 4) (.v 5)),
  .ffma hp { t := .f64, d := 2, a := .v 4, b := .v 6, c := .v 7, ma := sm0, mb := sm0, mc := sm0, rm := .dyn },
  .fmin hp (fpm .f64 1 (.v 2) (.v 4)), .fmax hp (fpm .f64 2 (.v 4) (.v 5)),
  .fcmp hp { t := .f64, pa := 0, pb := 1, pc := 31, a := .v 3, b := .v 4, absA := false, absB := false, cond := .eq, sig := false },
  .fclass hp { t := .f64, d := 1, a := .v 3 }, .frnd hp { t := .f64, d := 3, a := .v 4, ma := sm0, exact := false, rm := .dyn },
  .fscale hp { t := .f64, d := 3, a := .v 4, b := .v 6, ma := sm0, rm := .dyn }, .frcp hp (fsp .bf16 1 (.v 2) .dyn),
  .frsq hp (fsp .f32 1 (.v 2) .rne), .fsqrt hp (fsp .f64 1 (.v 2) .rne), .fexp2 hp (fsp .f32 1 (.v 2) .rtz),
  .flog2 hp (fsp .bf16 1 (.v 2) .dyn), .fsin hp (fsp .f32 1 (.v 2) .rna), .fcos hp (fsp .f64 2 (.v 3) .dyn),
  .ftanh hp (fsp .f32 1 (.v 2) .rup), .fcvt hp { dst := .f32, src := .f32, d := 1, a := .v 2, ma := sm0, rm := .dyn },
  .fcvt hp { dst := .f64, src := .f32, d := 1, a := .v 2, ma := sm0, rm := .dyn },
  .icvt hp { dst := .s32, src := .n32, d := 1, a := .v 2, ma := sm0, exact := false, rm := .dyn },
  .icvt hp { dst := .flt .f32, src := .s32, d := 1, a := .v 2, ma := sm0, exact := true, rm := .dyn },
  .icvt hp { dst := .flt .f32, src := .s32, d := 1, a := .v 2, ma := { abs := true, neg := false }, exact := false, rm := .dyn },
  .icvt hp { dst := .s64, src := .flt .f32, d := 1, a := .v 2, ma := sm0, exact := false, rm := .dyn },
  .extp hp { t6 := false, dst := .f64, d := 1, a := .v 2, b := .v 3, c := .v 4, rm := .dyn },
  .packp hp { t6 := false, src := .f64, d := 1, a := .v 3, b := .v 3, c := .v 4 }]

def illCrossLane : List Instr := [
  .shfl hp { mode := .idx, w := true, d := 2, a := .v 4, b := .v 1, mask := .j 0, fill := .v 5 },
  .shfl hp { mode := .idx, w := false, d := 2, a := .v 4, b := .v 1, mask := .pair (.v 3), fill := .v 5 },
  .vote hp { pa := 0, mask := .j 0, dst := .ballot 3 .zero },
  .redx hp { op := .add32, d := 1, a := .v 2, mask := .j 0, fill := .zero, rm := .rne },
  .redx hp { op := .fadd64, d := 1, a := .v 2, mask := .j 0, fill := .zero, rm := .rne },
  .scanx hp { op := .xor, excl := false, d := 1, a := .v 2, mask := .j 0, fill := .zero, rm := .rtz },
  .matchx hp { all := true, w := false, d := 1, a := .v 2, mask := .j 0, fill := .zero },
  .matchx hp { all := false, w := false, d := 2, a := .v 2, mask := .j 0, fill := .v 4 },
  .xsnd hp { w := true, slot := .v 1, data := .v 3, mask := .j 0 },
  .xrcv hp { w := true, d := 3, slot := .v 1, mask := .j 0, fill := .zero }]

/-- Memory words: the DAT columns of R166 to R173, ORD of R169, records B0 to B2 (R39), scopes of R175 to R196 and R219. -/
def illMemory : List Instr := [
  .ld hp { ty := .b64, d := 3, m := m0, scope := .core, ord := .rlx, hint := 0 },
  .ld hp { ty := .b128, d := 2, m := m0, scope := .core, ord := .rlx, hint := 0 },
  .ld hp { ty := .b32, d := 2, m := m0, scope := .core, ord := .rel, hint := 0 },
  .st hp { ty := .b64, data := .v 3, m := m0, scope := .core, ord := .rlx, hint := 0 },
  .st hp { ty := .b128, data := .q 0, m := m0, scope := .core, ord := .rlx, hint := 0 },
  .st hp { ty := .b32, data := .v 3, m := m0, scope := .core, ord := .acq, hint := 0 },
  .bld hp { bd := 2, m := m0, scope := .core, ord := .rlx }, .bld hp { bd := 3, m := m0, scope := .core, ord := .ar },
  .bst hp { data := .v 8, m := m0, scope := .core, ord := .rlx, hint := 0 },
  .bst hp { data := .q 1, m := m0, scope := .core, ord := .rlx, hint := 0 },
  .bst hp { data := .v 16, m := m0, scope := .core, ord := .ar, hint := 0 },
  .atom hp { op := .fadd, w := true, d := 2, m := m0, scope := .core, ord := .rlx, hint := 0 },
  .atom hp { op := .add, w := true, d := 3, m := m0, scope := .core, ord := .rlx, hint := 0 },
  .atomNr hp { op := .fmin, w := true, data := .v 2, m := m0, scope := .core, ord := .rlx, hint := 0 },
  .atomNr hp { op := .add, w := true, data := .v 3, m := m0, scope := .core, ord := .rlx, hint := 0 },
  .acas hp { w := false, d := 3, m := m0, scope := .core, ord := .rlx, hint := 0 },
  .acas hp { w := true, d := 2, m := m0, scope := .core, ord := .rlx, hint := 0 },
  .smap hp { coh := true, bd := 1, va := .v 2, off := .v 4, len := .v 5 },
  .smap hp { coh := true, bd := 3, va := .v 3, off := .v 4, len := .v 5 }, .mscfl hp .clu, .mscfl hp .sys]

def illSync : List Instr := [
  .fence hp .core .rlx, .bara hp { d := none, scope := .sys, n := 0 }, .barw hp { a := .v 1, scope := .sys, n := 0 },
  .copy hp { hd := 0, dst := .v 3, src := .v 4, len := .zero, scope := .core, rel := false },
  .copy hp { hd := 0, dst := .v 2, src := .v 5, len := .zero, scope := .core, rel := false }, .htime hp 3 0,
  .sleept hp (.v 3) none, .hmovToH hp 0 (.v 3), .hmovToV hp 3 0, .rbegin hp .sys 0]

def illTiles : List Instr := [
  .tld hp { br := 3, va := some 5, vb := .v 1, y := true, tn := 0, xf := .none, scope := .core },
  .tld hp { br := 3, va := none, vb := .v 1, y := false, tn := 0, xf := .h16, scope := .core },
  .tsv hp { br := 3, va := some 5, vb := .v 1, tn := 0, scope := .core }, .mma hp { br := 3, va := some 5, hd := none, scope := .core },
  .tsum hp { br := 3, va := some 5, vb := .v 1, tn := 0, sums := false, scope := .core },
  .qcv hp { br := 3, va := some 5, vb := .v 1, tn := 0, t6 := false, xf := .none, scope := .core },
  .ptld hp { br := 3, va := some 5, vb := .v 1, t := 0, scope := .core }, .smset hp { f32 := false, md := 0, rows := 7, cols := 1 },
  .smset hp { f32 := false, md := 0, rows := 0, cols := 1 }, .smld hp { md := 0, m := m0, scope := .core, ord := .rel, hint := 0 },
  .smst hp { md := 0, m := m0, scope := .core, ord := .acq, hint := 0 }, .errinjVflip2 hp 3 4 4, .errinjPoison hp (.v 3),
  .launch hp (.v 3) 0 none, .signalSt hp (.v 3) (.v 4), .signalSt hp (.v 2) (.v 5), .signalAdd hp (.v 3) (.v 4),
  .gangIssue 0 0 []]

def refuses (l : List Instr) : Bool := l.all fun i => !wellFormed i

theorem test_refuses_ill_integer : refuses illInteger = true := by decide +kernel
theorem test_refuses_ill_logic : refuses illLogic = true := by decide +kernel
theorem test_refuses_ill_float : refuses illFloat = true := by decide +kernel
theorem test_refuses_ill_cross_lane : refuses illCrossLane = true := by decide +kernel
theorem test_refuses_ill_memory : refuses illMemory = true := by decide +kernel
theorem test_refuses_ill_sync : refuses illSync = true := by decide +kernel
theorem test_refuses_ill_tiles : refuses illTiles = true := by decide +kernel

/-- Words that are no instruction (R88 to R90): an unassigned opcode, SC = 11, HINT 7, MOD 101 in a rounding word, an unused field, a
reserved operand code, and an unused HD of MMA. -/
theorem test_words_refused :
    decode 0x071F7C0000000000 = .illegalOpc ∧ decode 0x22DF7D8000000000 = .illegalEnc ∧
    decode 0x809F7C0C50801047 = .illegalEnc ∧ decode 0x4803940405180005 = .illegalEnc ∧
    decode 0x22DF7C0000000001 = .illegalEnc ∧ decode 0x001F7C01D2000000 = .illegalEnc ∧
    decode 0xC19F7C1050020040 = .illegalEnc := by decide +kernel

def joined (j : Bool) : Instr :=
  .fadd { guard := { negA := false, pA := 3, negB := true, pB := 5, joinOr := j }, sched := .none } (fp2 .f32 4 (.v 5) (.v 6))

/-- The words of R90's example: FADD.f32 under (P3 & !P5) and under (P3 | !P5). -/
theorem test_words_of_the_spec :
    readsAs [(0x480394040A180007, joined false), (0x480396040A180007, joined true)] = true := by decide +kernel

/-! ### States to test on -/

/-- The thread, the gang and the state of a word placed by `State.withFetchWord`. -/
def l0 : Lane := { g := 1, t := 0, sh := false }

def gangOf (w : Nat) : Gang :=
  { quad := 0, clause := probeClause w, ix := 0, lanes := [l0], ops := [], yld := false, wip := none, step := false, issueId := 1 }

def probe (w : Nat) : State := State.reset.withFetchWord 64 w

/-- The word of an instruction placed for the next step. -/
def wordOf (i : Instr) : Nat := (encode i).toNat
def probeOf (i : Instr) : State := probe (wordOf i)
def gangFor (i : Instr) : Gang := gangOf (wordOf i)

def uReg (n : Nat) (w : Word) : Nat × VReg := (n, { VReg.init with val := .u w })

/-- A state whose group holds these uniform registers. -/
def State.withV (s : State) (vs : List (Nat × Word)) : State := s.modGroup 1 fun g => { g with v := vs.map fun e => uReg e.1 e.2 }

def stepped (s : State) : State :=
  match step s with
  | .next t => t
  | _ => s

/-- The word stands in its thread with every operand readable, inside its clause or at its end, and `f` holds of the operands. -/
def ready (w : Nat) (i : Instr) (f : List DWord → Bool) : Bool :=
  (probe w).plainAt 1 (gangOf w) l0 i && ((gangOf w).inside || endsClause (opcOf i)) && (gangOf w).wip.isNone &&
  match (probe w).operandsOf l0 i with
  | some (vs, _) => f vs
  | none => false

/-! ### Every word stands somewhere: the hypotheses `plainAt`, `inside` and `operandsOf` of the statements about words -/

def allReady (l : List (Nat × Instr)) : Bool := l.all fun e => ready e.1 e.2 fun _ => true

theorem witness_integer_words : allReady words_integer_arithmetic = true := by decide +kernel
theorem witness_logic_words : allReady words_logic_and_shifts = true := by decide +kernel
theorem witness_compare_words : allReady words_compares_and_immediates = true := by decide +kernel
theorem witness_predicate_words : allReady words_predicates_and_moves = true := by decide +kernel
theorem witness_control_words : allReady words_control = true := by decide +kernel
theorem witness_float_words : allReady words_float = true := by decide +kernel
theorem witness_cross_lane_words : allReady words_cross_lane = true := by decide +kernel
theorem witness_memory_words : allReady words_memory = true := by decide +kernel
theorem witness_synchronisation_words : allReady words_synchronisation = true := by decide +kernel
theorem witness_tile_words : allReady words_tiles = true := by decide +kernel
theorem witness_small_matrix_words : allReady words_small_matrices = true := by decide +kernel
theorem witness_system_words : allReady words_system = true := by decide +kernel

/-- MOVS of every special register, and MOVSW of those that may be written (R43). -/
theorem witness_special_registers :
    (∀ r ∈ [SReg.tid, .gid, .cid, .width, .col, .core, .clu, .die, .clk, .dclk, .gstat, .fst, .fmode, .smf, .rstat, .exc, .trap, .faddr,
      .itb, .ite, .fix], ready (wordOf (.movs hp 2 r)) (.movs hp 2 r) (fun _ => true) = true) ∧
    ∀ r ∈ [SReg.fst, .fmode, .smf, .exc], ready (wordOf (.movsw hp r (.v 2))) (.movsw hp r (.v 2)) (fun vs =>
      r.writable && decide ((vs.getD 0 0).toNat % 8 ≤ 4)) = true := by decide +kernel

/-! ### Single steps (expected values: the worked examples of spec/) -/

def iaddOf (sg sat : Bool) (a : Word) : Word :=
  (stepped (State.withV (probeOf (.iadd hp (al2 1 (.v 2) (.v 3) false sg sat))) [(2, a), (3, 0x20)])).v l0 1

/-- R111: IADD.sat.n32 of 0xFFFF_FFF0 and 0x20, IADD.sat.s32 and IADD.s32 of 0x7FFF_FFF0 and 0x20. -/
theorem test_step_iadd :
    iaddOf false true 0xFFFFFFF0 = 0xFFFFFFFF ∧ iaddOf true true 0x7FFFFFF0 = 0x7FFFFFFF ∧ iaddOf true false 0x7FFFFFF0 = 0x80000010 := by
  decide +kernel

def bfxOf (sg : Bool) : Word :=
  (stepped (State.withV (probeOf (.bfx hp (al3 1 (.v 2) (.v 3) (.v 4) false sg))) [(2, 0xF80), (3, 7), (4, 5)])).v l0 1

/-- R112: BFX of 0xF80 at position 7, length 5, signed and unsigned. -/
theorem test_step_bfx : bfxOf true = 0xFFFFFFFF ∧ bfxOf false = 0x1F := by decide +kernel

/-- R115: ICMP.lt of −1 and 1 sets P1 signed and clears it unsigned. -/
theorem test_step_icmp :
    ∀ e ∈ [(ICond.lts, true), (.ltu, false)],
      let t := stepped (State.withV (probeOf (.icmp hp { pa := 1, pb := 2, pc := 31, a := .v 4, b := .v 5, w := false, cond := e.1 }))
        [(4, 0xFFFFFFFF), (5, 1)])
      t.p l0 1 = e.2 ∧ t.p l0 2 = !e.2 := by
  decide +kernel

def bool3Of (tt : BitVec 8) : Word :=
  (stepped (State.withV (probeOf (.bool3 hp { d := 1, a := .v 2, b := .v 3, c := .v 4, w := false, tt }))
    [(2, 0xF0), (3, 0xCC), (4, 0xAA)])).v l0 1

/-- R113: majority of three is 0xE8, exclusive or 0x96. -/
theorem test_step_bool3 : bool3Of 0xE8 = 0xE8 ∧ bool3Of 0x96 = 0x96 := by decide +kernel

/-- R142: 1.0 + 2.0 in FP32, and RDN gives −0 for x − x. -/
theorem test_step_fadd :
    (stepped (State.withV (probeOf (.fadd hp (fp2 .f32 1 (.v 2) (.v 3)))) [(2, 0x3F800000), (3, 0x40000000)])).v l0 1 = 0x40400000 ∧
    (stepped (State.withV (probeOf (.fsub hp { fp2 .f32 1 (.v 2) (.v 2) with rm := .rdn })) [(2, 0x3F800000)])).v l0 1 = 0x80000000 := by
  decide +kernel

/-- R40: the address of LD.b32 [B5 + V8 + 8] in the record of its example, and the three outcomes with V9 = 64. -/
theorem test_record_address_example :
    let r (bounds : Nat) : BRec := BitVec.ofNat 256 (0x0000001000000000 + 0x4000 * 2 ^ 64 + 1 * 2 ^ 112 + bounds * 2 ^ 114 + 4 * 2 ^ 128 + 256 * 2 ^ 160)
    let at' (v9 : Nat) : DWord := BitVec.ofNat 64 (v9 * 2 ^ 32 + 5)
    recordAddress (r 1) (at' 63) 8 4 false = .at 0x1000003F1C ∧ recordAddress (r 1) (at' 64) 8 4 false = .bad 0x100000401C ∧
    recordAddress (r 2) (at' 64) 8 4 false = .outside ∧ recordAddress (r 3) (at' 64) 8 4 false = .at 0x100000001C := by
  decide +kernel

/-- R225: TRAP 7 without a handler ends its thread and its launch fails with BREAK at 0x10007. -/
theorem test_step_trap :
    (((stepped (probeOf (.trap hp 7))).launch? 1).bind (·.fault)).map (·.1) = some { cause := .brk, kind := .none, addr := 0x10007 } := by
  decide +kernel

/-- R178, R177: WAITC passes with every counter 0; BARA writes the phase and counts the arrival. -/
theorem test_step_waits :
    (stepped (probeOf (.waitc hp { ld := 0, st := 0, cp := 0, tl := 0 }))).gang? 1 ≠ none ∧
    ((stepped (probeOf (.bara hp { d := some 3, scope := .clu, n := 2 }))).crew? 1).map (fun c => c.counts.get 0 2) = some 1 := by
  decide +kernel

end Sys2Proof.Tests
end

