-- ==== Sys2Proof/Tests/WordWitness.lean ====
section
/-! SUPPORT. A concrete state that meets the hypotheses of each statement about the words, clause by clause. -/

namespace Sys2Proof.Tests

open Sys2Proof Sys2Proof.Machine

set_option Elab.async false

/-! ### Words over registers -/

/-- Each of these holds. -/
def allOf (l : List Bool) : Bool := l.all id

/-- Every word of a list stands in its thread with operands readable, inside its clause or at its end, and `f` holds of them. -/
def meets (l : List (Nat × Instr)) (f : Instr → List DWord → Bool) : Bool := l.all fun e => ready e.1 e.2 (f e.2)

/-- A word stands in a state inside its clause or at its end, and `f` holds of its operands and of the thread after their pops. -/
def stands (s : State) (i : Instr) (f : List DWord → Thread → Bool) : Bool :=
  s.plainAt 1 (gangFor i) l0 i && ((gangFor i).inside || endsClause (opcOf i)) &&
  match s.operandsOf l0 i with
  | some (vs, th) => f vs th
  | none => false

def standing (s : State) (i : Instr) : Bool := stands s i fun _ _ => true

theorem witness_integer_results : allOf [
    meets words_integer_arithmetic (fun i vs => (Spec.arithmetic i vs).isSome),
    meets (words_compares_and_immediates.drop 2 |>.take 5) (fun i vs => (Spec.arithmetic i vs).isSome),
    meets (words_predicates_and_moves.drop 3 |>.take 3) (fun i vs => (Spec.arithmetic i vs).isSome)] = true := by decide +kernel

theorem witness_logic_results : allOf [
    meets words_logic_and_shifts (fun i vs => (Spec.logic i vs).isSome || Spec.isCount i),
    meets (words_compares_and_immediates.drop 7) (fun i vs => (Spec.logic i vs).isSome)] = true := by decide +kernel

theorem witness_float_results : allOf [
    meets (words_float.take 6) (fun i vs => (Spec.float i (Thread.create 0) 0 vs).isSome),
    meets (words_float.drop 7) (fun i vs => (Spec.float i (Thread.create 0) 0 vs).isSome),
    meets (words_float.drop 6 |>.take 1) (fun _ vs => vs.length == 2)] = true := by decide +kernel

/-- Operands of each special case of the functions: NaN, infinity, zero, a negative one, a power of four, integers, a half; a root that is not exact. -/
theorem witness_special_functions : allOf [
    unpackF parF32 0x7F800001 == .nan true, unpackF parF32 0xFF800000 == .inf true, unpackF parF32 0x80000000 == .fin true 0 (-149),
    (match unpackF parF32 0xC0000000 with
    | .fin true m _ => decide (0 < m)
    | _ => false),
    [(0x3E800000, (-1 : Int)), (0x41800000, 2)].all fun e => match unpackF parF32 e.1 with
      | .fin false m x => decide (0 < m) && decide (Spec.rat false m x = 4 ^ e.2)
      | _ => false,
    [(0x40400000, (3 : Int)), (0x41800000, 16)].all fun e => match unpackF parF32 e.1 with
      | .fin false m x => decide (Spec.rat false m x = e.2) && decide (|e.2| < 65536)
      | _ => false,
    (match unpackF parF32 0x40200000 with
    | .fin false m x => decide (Spec.rat false m x = 2 + 1 / 2)
    | _ => false),
    !(rsqOf 2 0).exact && decide (0 < (rsqOf 2 0).m), (rsqOf 4 0).exact] = true := by decide +kernel

theorem witness_rounding : allOf [
    decide ((0 : Int) < 1),
    cutAt .rtz false 5 0 1 = (2, true),
    cutAt .rup false 5 0 1 = (3, true),
    cutAt .rdn false 5 0 1 = (2, true),
    cutAt .rup true 5 0 1 = (2, true),
    cutAt .rdn true 5 0 1 = (3, true),
    cutAt .rne false 5 0 1 = (2, true),
    cutAt .rne false 7 0 1 = (4, true),
    cutAt .rna false 5 0 1 = (3, true),
    cutAt .rne false 6 0 1 = (3, false)] = true := by decide +kernel

/-- A state whose group holds registers with these tags. -/
def State.withTags (s : State) (vs : List (Nat × VVal)) : State :=
  s.modGroup 1 fun g => { g with v := vs.map fun e => (e.1, { VReg.init with val := e.2 }) }

def affineAt (a b : VVal) (l : List Instr) : Bool :=
  l.all fun i => standing (State.withTags (probeOf i) [(2, a), (3, b)]) i &&
    ((State.withTags (probeOf i) [(2, a), (3, b)]).grp 1).live.all (fun e => e.1 == 0)

def ab : Alu2 := al2 1 (.v 2) (.v 3) false false false
def addI : Instr := .iadd hp ab
def faddI : Instr := .fadd hp (fp2 .f32 1 (.v 2) (.v 3))
def leaI : Instr := .lea hp { d := 1, a := .v 2, b := .v 3, sh := 3, w := false, sg := false }
def immI : List Instr := [.iaddImm hp { d := 1, a := .v 2, imm := 7 }, .isubImm hp { d := 1, a := .v 2, imm := 7 }, .imulImm hp { d := 1, a := .v 2, imm := 7 },
  .shlImm hp { d := 1, a := .v 2, amt := 5, sg := false }]
def oneI : List Instr := [.ineg hp (al1 1 (.v 2) false false false), .mov hp { d := 1, a := .v 2, w := false }]

/-- One clause after another of the affine tags: A and U (a shift below 32), U and A, A and A, A alone, ZERO for U, and MOVS of %tid. -/
theorem witness_affine_tags : allOf [
    affineAt (.u 5) (.u 6) [.iadd hp ab],
    affineAt (.a 5 4) (.u 31) [.iadd hp ab, .isub hp ab, .imul hp ab, .shl hp ab, leaI],
    affineAt (.u 5) (.a 6 4) [.iadd hp ab, .isub hp ab, .imul hp ab, leaI],
    affineAt (.a 5 4) (.a 6 4) [.iadd hp ab, .isub hp ab, leaI],
    affineAt (.a 5 4) (.u 0) (immI ++ oneI ++ [.iadd hp (al2 1 (.v 2) .zero false false false), .isub hp (al2 1 .zero (.v 2) false false false)]),
    affineAt (.u 0) (.u 0) [.movs hp 1 .tid], Spec.tagOf ((probeOf leaI).grp 1) .zero == .u 0] = true := by decide +kernel

/-- Another live member of the group that is not in the issue. -/
def besides (s : State) : State :=
  s.modGroup 1 fun g => { g with width := 2, threads := g.threads ++ [(1, Thread.create 0x4_0000_0008)] }
def tagsAt (i : Instr) (vs : List (Nat × VVal)) (part : Bool) (allU : Bool) : Bool :=
  let s := State.withTags (if part then besides (probeOf i) else probeOf i) vs
  standing s i && s.sole l0 == !part && (allSources i).all (Spec.readsU (s.grp 1)) == allU
def queueOf (s : State) : State := s.modThread l0 fun th => { th with q := [(0, [{ va := 0, scope := .core, val := some 5, fault := none }])] }
def affI (a b : Src) : Instr := .aff hp 1 a b
def pairI : Instr := .iadd hp (al2 4 (.v 2) (.v 6) true false false)
def satI : Instr := .iadd hp { ab with sat := true }
def popcI : Instr := .popc hp (al1 4 (.v 2) false false false)

/-- SHAPE of a register, of ZERO and of a queue, AFF of U sources, of others and for a part of the members; computing words whole and in part, of a
pair, a count, a float word and a saturating one with a source that is not U; special registers of both kinds. -/
theorem witness_tags : allOf [
    [Src.v 2, .zero].all fun a => standing (probeOf (.shapeQ hp 1 a)) (.shapeQ hp 1 a), standing (queueOf (probeOf (.shapeQ hp 1 (.q 0)))) (.shapeQ hp 1 (.q 0)),
    standing (besides (probeOf (.shapeQ hp 1 (.v 2)))) (.shapeQ hp 1 (.v 2)), standing (probeOf (.shapeG hp 1)) (.shapeG hp 1),
    tagsAt (affI (.v 2) (.v 3)) [(2, .u 5), (3, .u 6)] false true, tagsAt (affI (.v 2) .zero) [(2, .u 5)] false true,
    tagsAt (affI (.v 2) (.v 3)) [(2, .u 5), (3, .u 6)] true true, tagsAt (affI (.v 2) (.v 3)) [(2, .a 5 1), (3, .u 6)] false false,
    [addI, pairI, popcI, satI, faddI].all fun i => tagsAt i [(2, .u 5), (3, .u 6), (6, .u 1), (7, .u 1)] false true &&
      tagsAt i [(2, .u 5), (3, .u 6), (6, .u 1), (7, .u 1)] true true,
    [pairI, popcI, satI, faddI].all fun i => tagsAt i [(2, .a 5 4), (3, .u 6), (6, .u 1), (7, .u 1)] false false,
    [pairI, addI].all fun i => (allSources i).any fun o => o.1 == .v 2, (writes pairI).length == 2, Spec.isCount popcI, Spec.saturates satI,
    [SReg.gid, .fix, .clk, .exc].all fun r => standing (probeOf (.movs hp 4 r)) (.movs hp 4 r) && standing (besides (probeOf (.movs hp 4 r))) (.movs hp 4 r)] = true := by decide +kernel

/-- An access in flight. -/
def begunOp : MemOp :=
  { lane := l0, kind := .load false [2] none, va := 0, space := .phys 0, size := 4, off := 0, patch := [], scope := .core, ord := .rlx, hint := 0,
    word := 9, data := [], level := 0, entry := false, rejects := 0, rejected := false, fenced := false, agedAt := none, failed := none, got := none,
    core := 0, quad := 0, gid := 0, part := 0, gen := 0, launch := 1 }

def ldI : Instr := .ld hp { ty := .b32, d := 5, m := m0, scope := .core, ord := .rlx, hint := 0 }
def qI : Instr := .iadd hp (al2 1 (.q 0) (.v 3) false false false)

def plain0 (s : State) (gang : Gang) (i : Instr) : Bool :=
  isWord i && s.standsAt 1 gang l0 i && guardTrue (headPart i).guard (s.thread l0) && (s.thread l0).region.isNone &&
    (s.laneError i (headPart i).guard l0).isNone && s.eccClean l0 i

def heldGang : Gang :=
  let g := gangFor addI
  { g with clause := { g.clause with hdr := { g.clause.hdr with hold := 1 } }, ops := [{ lane := l0, op := 9 }] }

def flying (i : Instr) (o : MemOp) : State := { probeOf i with ops := [(9, o)] }
def holding : State := { flying addI begunOp with gangs := [(1, heldGang)] }
def piped : State := { probeOf ldI with ops := (List.range 32).map fun n => (n + 9, { begunOp with kind := .store, rejected := true }) }
def sliceOnQ : State := (probeOf qI).modGroup 1 fun g => { g with slice := { g.slice with running := true } }

/-- A stall of each kind: a register in flight, HOLD, a counter at 63, a queue without an entry, a full pipe. -/
theorem witness_stalls : allOf [
    plain0 (flying addI begunOp) (gangFor addI) addI, decide (2 ∈ reads addI ++ writes addI),
    plain0 holding heldGang addI, natBit heldGang.clause.hdr.hold 0, holding.opPending 0 9,
    plain0 ((probeOf ldI).modThread l0 fun th => { th with ld := 63 }) (gangFor ldI) ldI, counterOf ldI == some .ld,
    plain0 sliceOnQ (gangFor qI) qI, usesQueue qI, popWaits true (popsOf qI 0) [],
    plain0 piped (gangFor ldI) ldI, piped.pipeFull (piped.grp 1) ldI] = true := by decide +kernel

def never : Guard := { negA := true, pA := 31, negB := false, pB := 31, joinOr := false }
def unguarded (i : Instr) (s : State) : Bool :=
  isWord i && !Spec.crossLane i && s.standsAt 1 (gangFor i) l0 i && !guardTrue (headPart i).guard (s.thread l0)

def addN : Instr := .iadd { hp with guard := never } ab
def braN : Instr := .bra { hp with guard := never } 2

def outI : Instr := .errinjVflip1 hp 3 4
def gangIn (c : EngClass) (cnt : Nat) (i : Instr) : Gang :=
  let g := gangFor i
  { g with clause := { g.clause with hdr := { g.clause.hdr with eng := c, cnt } } }
def encAt (s : State) (gang : Gang) (i : Instr) : Bool :=
  isWord i && decide (s.cur = .gang 1 ∧ s.gang? 1 = some gang ∧ gang.lanes = [l0] ∧ gang.step = false) && (s.thread l0).live && (s.recOf 1).isSome
def vcnt3 (s : State) : State := s.modLaunch 1 fun x => { x with lrec := { x.lrec with vcnt := 3 } }
def probeIn (c : EngClass) (cnt : Nat) (i : Instr) : State := { probeOf i with gangs := [(1, gangIn c cnt i)] }
def exitI : Instr := .exit hp
def noDebug (i : Instr) : State := (probeOf i).modPart 0 fun p => { p with cfg := [] }

/-- A false guard inside a clause and at its end; ERRINJ outside a debug partition; a word of another class; one that ends a clause
too early; a register at VCNT. -/
theorem witness_guards_and_encoding_faults : allOf [
    unguarded addN (probeOf addN), (gangFor addN).inside, unguarded braN (probeOf braN), !(gangFor braN).inside,
    encAt (noDebug outI) (gangFor outI) outI, opcOf outI == 0x382, !((noDebug outI).partn 0).debug,
    encAt (probeIn .mem 1 faddI) (gangIn .mem 1 faddI) faddI, !admits .mem (classOfOpc (opcOf faddI)),
    encAt (probeIn .vec 1 exitI) (gangIn .vec 1 exitI) exitI, endsClause (opcOf exitI),
    encAt (vcnt3 (probeOf addI)) (gangFor addI) addI, admits .vec (classOfOpc (opcOf addI)),
    (reads addI ++ writes addI).any fun n => decide (3 ≤ n)] = true := by decide +kernel

/-! ### Branches, calls, returns and faults -/

/-- One-gigabyte pages from 0x4_0000_0000 at 0x4000_0000 and from 0x5_0000_0000 at 0x8000_0000, everything allowed, with clauses of
one word after the placed one. -/
def paged (s : State) : State :=
  ((((((s.modPart 0 fun p => { p with cfg := p.cfg.set 0 0x1000 }).wrN 0x1000 (bytesOfNat 8 0x2001)).wrN 0x2000 (bytesOfNat 8 0x3001)).wrN
    0x3080 (bytesOfNat 8 0x4000007F)).wrN 0x30A0 (bytesOfNat 8 0x8000007F)).wrN
    0x40000010 (bytesOfNat 8 0x9C00FFFF00000000)).wrN 0x40000018 (bytesOfNat 8 0x9C00FFFF00000000)

def canFetch (s : State) (i : Instr) (va : DWord) : Bool := (s.fetched (gangFor i) l0 va).isSome
def cannotFetch (s : State) (i : Instr) (va : DWord) : Bool := (s.fetchFails (gangFor i) l0 va).isSome
def ftOf (i : Instr) : DWord := ((gangFor i).ctx 1).ft
def wOf (i : Instr) : DWord := ((gangFor i).ctx 1).w

/-- The fall-through clause of a word can be fetched once the word has held its thread. -/
def holdFetches (s : State) (i : Instr) (kind : HoldKind) : Bool :=
  match (Spec.heldIn (s.issued (gangFor i)) 1 (gangFor i) l0 kind).fetchCheck 0 0 (ftOf i) with
  | (.ok _, _) => true
  | (.error _, _) => false

def fourUp : List (Nat × Word) := [(2, 0x10), (3, 4)]
def inV (i : Instr) : State := paged (State.withV (probeOf i) fourUp)
def braI : Instr := .bra hp 1
def brxI : Instr := .brx hp 2

theorem witness_branches : allOf [
    standing (inV braI) braI, canFetch (inV braI) braI (Spec.label (wOf braI) 1), cannotFetch (inV braI) braI (Spec.label (wOf braI) 5),
    standing (inV brxI) brxI, canFetch (inV brxI) brxI (Spec.pair (inV brxI) l0 2),
    cannotFetch (probeOf brxI) brxI (Spec.pair (probeOf brxI) l0 2)] = true := by decide +kernel

def framed (s : State) (fs : List Frame) : State := s.modThread l0 fun th => { th with frames := fs }
def frame (p r : DWord) : Frame := { pad := p, ret := r }
def calls : List Instr := [.call hp 1, .callx hp 2, .callL hp 1 3, .callxL hp 2 1]
def deep : List Frame := List.replicate 4 (frame 0 0x4_0000_0010)

/-- A call below its depth with a target, and one at its depth. -/
theorem witness_calls : allOf [
    calls.all fun i => standing (inV i) i && ((inV i).recOf 1).any (fun r => r.stkf == 4) && canFetch (inV i) i 0x4_0000_0010,
    calls.all fun i => standing (framed (inV i) deep) i && Spec.depth deep == 4] = true := by decide +kernel

theorem witness_pushed_frame : allOf [
    (framed (inV exitI) deep).sound, ((framed (inV exitI) deep).thread? l0).isSome, ((framed (inV exitI) deep).thread l0).frames[3]? == some (frame 0 0x4_0000_0010),
    match (framed (inV exitI) deep).resolve 1 0x5_0000_0000 16 .wr with
    | (.ok (.phys pa), _) => pa == 0x80000000 && decide (pa + 16 ≤ hbmSize)
    | _ => false] = true := by decide +kernel

def retI : Instr := .ret hp
def throwI : Instr := .throw hp

def raising (s : State) (c : Option Cause) : State :=
  s.modThread l0 fun th => { th with raised := c.map fun c => { info := { cause := c, kind := .load, addr := 0x77 }, atHeader := false, ops := [], yld := false, header := none } }

/-- RET with an ordinary frame, and with a trap frame of no fault, of one that is executed again and of one that is not; THROW past a frame without a landing pad, and each without what it needs. -/
theorem witness_returns : allOf [
    standing (framed (inV retI) [frame 0 0x4_0000_0010]) retI, canFetch (framed (inV retI) [frame 0 0x4_0000_0010]) retI 0x4_0000_0010,
    [none, some Cause.pageFault, some .shape].all fun c => standing (raising (framed (inV retI) [frame 0 0x4_0000_0011]) c) retI &&
      ((raising (framed (inV retI) [frame 0 0x4_0000_0011]) c).thread l0).raised.map (fun x => x.info.cause) == c,
    standing (inV retI) retI,
    standing (framed (inV throwI) [frame 0 0x4_0000_0018, frame 0x4_0000_0010 0x4_0000_0018]) throwI,
    canFetch (framed (inV throwI) [frame 0 0x4_0000_0018, frame 0x4_0000_0010 0x4_0000_0018]) throwI 0x4_0000_0010,
    standing (framed (inV throwI) [frame 0 0x4_0000_0018]) throwI] = true := by decide +kernel

def nopI : Instr := .nop hp
def jarmI : Instr := .jarm hp 3
def waitjI : Instr := .waitj hp 3
def yieldI : Instr := .yield hp
/-- A word that is the last of its clause, though others may follow it. -/
def lastGang (i : Instr) : Gang := gangIn (gangFor i).clause.hdr.eng 0 i
def atLast (i : Instr) : State := paged { probeOf i with gangs := [(1, lastGang i)] }
def armed (s : State) : State := s.modGroup 1 fun g => { g with j := g.j.set 3 1 }

theorem witness_rejoin_and_ends : allOf [
    standing (inV nopI) nopI, (gangFor nopI).inside, (atLast nopI).plainAt 1 (lastGang nopI) l0 nopI, !(lastGang nopI).inside,
    ((atLast nopI).fetched (lastGang nopI) l0 ((lastGang nopI).ctx 1).ft).isSome, standing (inV jarmI) jarmI, (gangFor jarmI).inside,
    standing (inV waitjI) waitjI, canFetch (inV waitjI) waitjI (ftOf waitjI), standing (armed (inV waitjI)) waitjI,
    holdFetches (armed (inV waitjI)) waitjI (.waitj 3),
    standing (inV yieldI) yieldI, canFetch (inV yieldI) yieldI (ftOf yieldI),
    standing (framed (inV exitI) deep) exitI] = true := by decide +kernel

def someFault (c : Cause) : FaultInfo := { cause := c, kind := .load, addr := 0x77 }
def handled (s : State) : State := (s.modLaunch 1 fun x => { x with lrec := { x.lrec with handler := 0x4_0000_0010 } })
def faultable (s : State) : Bool :=
  (s.thread? l0).any (fun th => th.live && th.region.isNone && th.fabric.isEmpty) && !(s.grp 1).prot && (s.recOf 1).isSome &&
  (s.launch? (s.grp 1).launch).any fun x => decide (x.state ≠ .replaying)

/-- A handler whose page is not mapped. -/
def lostHandler (s : State) : State := s.modLaunch 1 fun x => { x with lrec := { x.lrec with handler := 0x6_0000_0000 } }
def handlerAt (s : State) (va : DWord) (f : Except FaultInfo Clause → Bool) : Bool := [Cause.shape, .fabricLost].all fun c => f ((s.countError 0 c).fetchCheck 0 0 va).1
def rgn : Region :=
  { scope := .pkg, target := 0x4_0000_0010, opened := 1, v := [(5, { VReg.init with val := .u 9 })], wrote := [5], preds := 3, fst := 1, fmode := 0x2800,
    smf := 0, exc := 7, pops := [], inputs := [], stores := [], cons := [], tags := [], untrackable := false, tflags := 0, popped := [] }

/-- A handler that can be entered; one that is active, absent or out of reach, under a fault or under FABRIC_LOST; a region that is open. -/
theorem witness_faults : allOf [
    faultable (handled (inV nopI)), ((handled (inV nopI)).recOf 1).any fun r => r.handler != 0,
    handlerAt (handled (inV nopI)) 0x4_0000_0010 fun r => match r with
      | .ok _ => true
      | _ => false,
    faultable (framed (handled (inV nopI)) [frame 0 0x4_0000_0011]), faultable (inV nopI), ((inV nopI).recOf 1).any fun r => r.handler == 0,
    faultable (lostHandler (inV nopI)), handlerAt (lostHandler (inV nopI)) 0x6_0000_0000 fun r => match r with
      | .error e => e.cause != .poison
      | _ => false,
    (raising (framed (handled (inV nopI)) [frame 0 0x4_0000_0011]) (some .fabricLost)).thread l0 |>.raised |>.any fun y => y.info.cause == .fabricLost,
    ((handled (inV nopI)).modThread l0 fun th => { th with region := some rgn }).thread? l0 |>.any fun th => th.live && th.region == some rgn] = true := by decide +kernel

def snapped (s : State) (sn : SnapSt) (out : Bool) (n : Nat) : State :=
  s.modLaunch 1 fun x => { x with lrec := { x.lrec with snap := true }, snap := sn, sideEffect := out, nreplay := n }
def runs (s : State) (f : Launch → Bool) : Bool := (s.launch? (s.grp 1).launch).any fun x => decide (x.state ≠ .replaying) && f x

/-- A launch that may be replayed, and four that may not. -/
theorem witness_error_action : allOf [
    runs (snapped (inV nopI) .held false 1) fun x => x.lrec.snap && x.snap == .held && !x.sideEffect && decide (x.nreplay < 2),
    runs (inV nopI) fun x => !x.lrec.snap, runs (snapped (inV nopI) .dropped false 1) fun x => x.snap != .held,
    runs (snapped (inV nopI) .held true 0) fun x => x.sideEffect, runs (snapped (inV nopI) .held false 2) fun x => x.nreplay == 2] = true := by decide +kernel

/-! ### Memory words, fences and barriers -/

def mB0 : MAddr := { br := 0, ofs := some 2, imm := 0 }
def mB3 : MAddr := { br := 3, ofs := some 2, imm := 0 }
def ldW (m : MAddr) : Instr := .ld hp { ty := .b32, d := 5, m, scope := .core, ord := .rlx, hint := 0 }
def memWords (m : MAddr) : List Instr := [
  ldW m, .st hp { ty := .b128, data := .v 8, m, scope := .core, ord := .rel, hint := 0 },
  .bst hp { data := .v 16, m, scope := .clu, ord := .rlx, hint := 0 }, .atom hp { op := .add, w := true, d := 6, m, scope := .die, ord := .ar, hint := 0 },
  .atomNr hp { op := .minn, w := false, data := .v 6, m, scope := .pkg, ord := .rlx, hint := 0 },
  .acas hp { w := false, d := 6, m, scope := .core, ord := .acq, hint := 0 }]

/-- A state with the word, an address in V2 and V3, and a record with ZERO bounds over 64 bytes in B3. -/
def aimed (i : Instr) (lo hi : Word) : State :=
  (paged (State.withV (probeOf i) [(2, lo), (3, hi)])).modGroup 1 fun g => { g with b := [(0, flatRec), (3, mkRec 0x4_0000_0000 64 2 true false)] }

def addressing (s : State) (i : Instr) (f : Spec.Access → Addr × State → Bool) : Bool :=
  stands s i fun vs _ => match Spec.access s l0 i vs with
    | some a => f a ((s.issued (gangFor i)).address l0 a.m a.size a.size a.dir a.need)
    | none => false

def lands (a : Spec.Access) (r : Addr × State) : Bool :=
  match r.1 with
  | .at _ sp => !r.2.spacePoison sp a.size && r.2.spaceKind sp == .hbm
  | _ => false
def faultsThere (_ : Spec.Access) (r : Addr × State) : Bool :=
  match r.1 with
  | .fault _ => true
  | _ => false
def fallsOutside (_ : Spec.Access) (r : Addr × State) : Bool :=
  match r.1 with
  | .outside => true
  | _ => false
def meetsPoison (a : Spec.Access) (r : Addr × State) : Bool :=
  match r.1 with
  | .at _ sp => a.dir == .store || (r.2.spacePoison sp a.size && r.2.nowReady l0 sp a.size && r.2.spaceKind sp == .hbm)
  | _ => false

def reachesHost (a : Spec.Access) (r : Addr × State) : Bool :=
  match r.1 with
  | .at _ sp => a.dir != .atomic || (!r.2.spacePoison sp a.size && r.2.spaceKind sp == .host 0)
  | _ => false

/-- The page of 0x5_0000_0000 lies in host memory. -/
def hosted (s : State) : State := s.wrN 0x30A0 (bytesOfNat 8 0x800000000007F)

def spoiled (s : State) : State := s.modSector (0x40000100 / 64) fun x => { x with poison := true }

/-- Addresses that pass every check, one byte off, outside a record with ZERO bounds, over poison, and in host memory. -/
theorem witness_memory_words_issue : allOf [
    (memWords mB0).all fun i => addressing (aimed i 0x100 4) i lands,
    (memWords mB0).all fun i => addressing (aimed i 0x101 4) i faultsThere,
    (memWords mB3).all fun i => addressing (aimed i 0x100 0) i fallsOutside,
    (memWords mB0).all fun i => addressing (spoiled (aimed i 0x100 4)) i meetsPoison,
    (memWords mB0).all fun i => addressing (hosted (aimed i 0x100 5)) i reachesHost] = true := by decide +kernel

/-- A protected pair alone in its gang, with these registers in the shadow. -/
def pairGang (i : Instr) : Gang := { gangFor i with lanes := [l0, l0.shadow] }
def paired (s : State) (i : Instr) (vs : List (Nat × Word)) : State :=
  ({ s with gangs := [(1, pairGang i)], cur := .gang 1 } : State).modGroup 1 fun g =>
    { g with prot := true, threads := g.threads ++ g.threads.map (fun (e : Nat × Thread) => (e.1 + 64, e.2)),
             vsh := vs.foldl (fun (v : AMap VReg) (e : Nat × Word) => v.set e.1 { VReg.init with val := .u e.2 }) g.v }
def pairStands (s : State) (i : Instr) (f : List DWord → List DWord → Bool) : Bool :=
  s.cur == .gang 1 && s.gang? 1 == some (pairGang i) && ((pairGang i).inside || endsClause (opcOf i)) && (s.grp 1).prot && encFault s (pairGang i) i == none &&
    [l0, l0.shadow].all (fun m => (s.thread? m).isSome && (s.thread m).live && (s.thread m).hold.isNone && (s.thread m).region.isNone) &&
    match s.operandsOf l0 i, s.operandsOf l0.shadow i with
    | some (vs, _), some (ws, _) => f vs ws
    | _, _ => false
def pairRuns (s : State) (i : Instr) : Bool :=
  [l0, l0.shadow].all (fun m => guardTrue (headPart i).guard (s.thread m) && s.eccClean m i) && (s.laneError i (headPart i).guard l0).isNone &&
    !s.laneStalls (pairGang i) i l0 && !s.pipeFull (s.grp 1) i
def shuf : Instr := .shfl hp { mode := .idx, w := false, d := 2, a := .v 4, b := .v 6, mask := .j 0, fill := .v 5 }
def stV : Instr := .st hp { ty := .b32, data := .v 8, m := mB0, scope := .core, ord := .rlx, hint := 0 }

/-- A pair that differs at a round's source, in an address, in data and in its guard; one that agrees at a memory word and at a computing one. -/
theorem witness_protected_pairs : allOf [
    pairStands (paired (inV shuf) shuf [(4, 9)]) shuf fun vs ws => Spec.comparesSources shuf && vs != ws &&
      guardTrue (headPart shuf).guard ((paired (inV shuf) shuf [(4, 9)]).thread l0),
    pairStands (paired (aimed stV 0x100 4) stV [(2, 0x200)]) stV fun vs ws => let s := paired (aimed stV 0x100 4) stV [(2, 0x200)]
      vs == ws && recordAddress ((s.grp 1).brec 0) ((s.grp 1).offsetPair l0 (some 2)) 0 1 false !=
        recordAddress ((s.grp 1).brec 0) ((s.grp 1).offsetPair l0.shadow (some 2)) 0 1 false,
    pairStands (paired (aimed stV 0x100 4) stV [(8, 7)]) stV fun vs ws => let s := paired (aimed stV 0x100 4) stV [(8, 7)]
      match Spec.access s l0 stV vs, Spec.access s l0.shadow stV ws with
      | some a, some b => a.data != b.data
      | _, _ => false,
    (memWords mB0).all fun i => let s := paired (aimed i 0x100 4) i []
      pairStands s i (fun vs _ => match Spec.access s l0 i vs with
        | some a => lands a ((s.issued (pairGang i)).address l0 a.m a.size a.size a.dir a.need)
        | none => false) && pairRuns s i,
    pairStands (paired (inV addI) addI [(3, 7)]) addI (fun vs ws => (Spec.arithmetic addI vs).isSome && (Spec.arithmetic addI ws).isSome && vs != ws) &&
      pairRuns (paired (inV addI) addI [(3, 7)]) addI,
    pairStands (paired (handled (inV addI)) addI []) addI fun _ _ => handlerAt (paired (handled (inV addI)) addI []) 0x4_0000_0010 fun r => match r with
      | .ok _ => true
      | _ => false] = true := by decide +kernel

def fenceI (k : MOrd) : Instr := .fence hp .die k
def waitcI : Instr := .waitc hp { ld := 1, st := 0, cp := 0, tl := 0 }
def stI (i : Instr) : State := { probeOf i with ops := [(9, { begunOp with kind := .store })] }
def staleOne (i : Instr) : State := { probeOf i with sectors := [(7, { Sector.init with stale := [(3, [])] })] }

/-- FENCE due and not due of each kind, and WAITC at its limit and above it. -/
theorem witness_fences : allOf [
    [MOrd.rel, .acq, .ar].all fun k => standing (probeOf (fenceI k)) (fenceI k),
    standing (stI (fenceI .rel)) (fenceI .rel), standing (staleOne (fenceI .ar)) (fenceI .ar),
    (staleOne (fenceI .ar)).staleIn .die 0, standing (stI (fenceI .acq)) (fenceI .acq), (stI (fenceI .acq)).readsDone l0,
    standing (flying (fenceI .acq) begunOp) (fenceI .acq), !(flying (fenceI .acq) begunOp).readsDone l0,
    standing ((probeOf waitcI).modThread l0 fun th => { th with ld := 1 }) waitcI,
    standing ((probeOf waitcI).modThread l0 fun th => { th with ld := 2 }) waitcI] = true := by decide +kernel

def baraI : Instr := .bara hp { d := some 3, scope := .clu, n := 2 }
def barwI : Instr := .barw hp { a := .v 4, scope := .clu, n := 2 }
def counted (s : State) (n : Word) : State := s.modCrew 1 fun c => { c with counts := [(2, n)] }

/-- BAR, and BAR whose phase completed while its thread was saved; BARA with nothing before it; BARW of a phase the thread has arrived at, and of one
it has not. -/
theorem witness_barriers : allOf [
    standing (inV (.bar hp)) (.bar hp), holdFetches (inV (.bar hp)) (.bar hp) .bar, standing (probeOf baraI) baraI, ((probeOf baraI).crew? 1).isSome,
    standing ((inV (.bar hp)).modThread l0 fun th => { th with barAt := some (wOf (.bar hp), true) }) (.bar hp), canFetch (inV (.bar hp)) (.bar hp) (ftOf (.bar hp)),
    (probeOf baraI).ops == [] && !(probeOf baraI).staleIn .clu 0 && (probeOf baraI).observedDone l0 && (probeOf baraI).sealedBefore l0 0 == [],
    stands (counted (paged (State.withV (probeOf barwI) [(4, 6)])) 7) barwI fun vs _ => decide (((vs.getD 0 0).lo - 7).toInt < 0),
    holdFetches (counted (paged (State.withV (probeOf barwI) [(4, 6)])) 7) barwI (.barw 2 6 .clu),
    stands (counted (State.withV (probeOf barwI) [(4, 7)]) 7) barwI fun vs _ => decide (0 ≤ ((vs.getD 0 0).lo - 7).toInt)] = true := by decide +kernel

/-- An early store of another thread that this one has read, with what it rests on: an access of that thread, still under way or not. -/
def readRel (rel : Bool) : EarlyRel :=
  { lane := { g := 2, t := 0, sh := false }, core := 0, scope := .die, op := 9, rel, space := .phys 0, size := 4, last := true, readers := [(l0, .die)],
    needs := [({ g := 2, t := 0, sh := false }, 9)] }
def afterRel (i : Instr) (rel open' : Bool) : State :=
  { probeOf i with rels := [readRel rel], ops := if open' then [(8, { begunOp with lane := { g := 2, t := 0, sh := false }, kind := .store })] else [] }

/-- Fences after the release of another thread that this one has read, what that rests on under way and performed. -/
theorem witness_fences_after_reads : allOf [
    [MOrd.rel, .acq, .ar].all fun k => [true, false].all fun o => standing (afterRel (fenceI k) true o) (fenceI k),
    !(afterRel (fenceI .rel) false true).observedDone l0, (afterRel (fenceI .rel) false false).observedDone l0,
    !(afterRel (fenceI .acq) true true).relDone (readRel true), (afterRel (fenceI .acq) true false).relDone (readRel true)] = true := by decide +kernel

def heldThread (k : HoldKind) : Thread := { Thread.create 0x4_0000_0008 with hold := some { kind := k, ft := 0x4_0000_0010 } }
/-- Group 1 with these threads, rejoin mask 3 with bits 0 and 1 set. -/
def threadsAre (l : List Thread) : State :=
  (inV nopI).modGroup 1 fun g => { g with width := 8, threads := l.zipIdx.map fun e => (e.2, e.1), j := [(3, 3)] }
def settlesIn (s : State) : Bool := (s.group? 1).any fun x => AMap.sorted x.threads
def barCounts : Thread := { Thread.create 0x4_0000_0008 with barAt := some (0x4_0000_0008, false) }

/-- Groups of two threads: both at WAITJ, one of them not; both at BAR, one counting there since a save, one elsewhere; an access under way. -/
theorem witness_group_releases : allOf [
    [[heldThread (.waitj 3), heldThread (.waitj 3)], [heldThread (.waitj 3), Thread.create 0x4_0000_0008], [heldThread .bar, heldThread .bar], [heldThread .bar, barCounts],
      [heldThread .bar, Thread.create 0x4_0000_0008]].all fun l => settlesIn (threadsAre l) && ((threadsAre l).grp 1).live.length == 2,
    [0, 1].all fun t => (threadsAre [heldThread .bar, heldThread .bar]).arrived { g := 1, t, sh := false } .core,
    !({ threadsAre [heldThread .bar, heldThread .bar] with ops := [(9, begunOp)] } : State).arrived l0 .core] = true := by decide +kernel

/-! ### Copies, handles, batches and sleep -/

def copyI : Instr := .copy hp { hd := 3, dst := .v 2, src := .v 4, len := .v 6, scope := .core, rel := false }
def copyRegs (n : Word) : List (Nat × Word) := [(2, 0x100), (3, 4), (4, 0x200), (5, 4), (6, n)]
def copying (n : Word) : Bool :=
  let s := State.withV (probeOf copyI) (copyRegs n)
  stands s copyI fun vs _ =>
    let dst := vs.getD 0 0
    let src := vs.getD 1 0
    let len := (vs.getD 2 0).toNat % 2 ^ 32
    vs.length == 3 && canonical dst && canonical src && decide ((s.copiesOf 0).length < 256) &&
      (len == 0 || (decide (src.toNat + len ≤ dst.toNat ∨ dst.toNat + len ≤ src.toNat) && !s.aperBad 1 dst len && !s.aperBad 1 src len))

theorem witness_copies : allOf [copying 0, copying 1, copying 0x100] = true := by decide +kernel

def aCopy (st : CopySt) : CopyOp :=
  { die := 0, lane := l0, part := 0, gen := 0, launch := 1, scope := .core, dst := 0x4_0000_0100, src := 0x4_0000_0200, len := 0x40, rel := false, st,
    crew := 1, core := 0, gid := 0, off := 0, ahead := [], promise := 777, marked := false, batch := 0, seq := 5, cancel := false, counted := true, resumable := false }
def hOf (st : HState) (cs : CopySt) (i : Instr) : State :=
  let s := paged (probeOf i)
  ({ s with copies := [(20, aCopy cs)], dies := [(0, { Die.init with handles := [{ kind := 1, seq := 5, part := 0, gen := 0, state := st, launch := 1 }] })] } : State).modThread
    l0 fun th => { th with h := [(3, 0x1000_0000_0000_0005)] }
def hst (s : State) : HSt := s.hState 0 0x1000_0000_0000_0005
def barwOn (exited : List Nat) (n : Word) : State :=
  (threadsAre [heldThread (.barw 2 6 .clu)]).modCrew 1 fun c => { c with groups := [1], width := 1, exited, counts := [(2, n)], pending := [] }
def waitsOn (k : HoldKind) (st : HState) (cs : CopySt) : State := (hOf st cs nopI).modThread l0 fun th => { th with hold := some { kind := k, ft := 0x4_0000_0010 } }

/-- A BARW whose crew has arrived, has left, or is behind; an HWAIT, a SLEEPT and a WAITB whose copies are complete, under way, failed. -/
theorem witness_thread_releases : allOf [
    [barwOn [] 7, barwOn [0] 6, barwOn [] 6].all fun s => settlesIn s && ((s.crew? 1).any fun c => c.groups.length * c.width == 1) && (s.thread? l0).isSome,
    ((barwOn [] 7).crew? 1).any fun c => decide (0 ≤ (Spec.arrivals c 0 2 - 6 - 1).toInt), ((barwOn [] 6).crew? 1).any fun c => decide ((Spec.arrivals c 0 2 - 6 - 1).toInt < 0),
    [HoldKind.hwait 0x1000_0000_0000_0005, .sleept 9 (some 0x1000_0000_0000_0005) true].all fun k =>
      hst (waitsOn k .complete .complete) == .complete && hst (waitsOn k .pending .moving) == .pending &&
      hst (waitsOn k (.failed (someFault .bounds)) (.failed (someFault .bounds))) == .failed (someFault .bounds),
    (waitsOn .bar (.failed (someFault .bounds)) (.failed (someFault .bounds))).copies.all fun e => !e.2.resumable,
    (waitsOn .bar .complete .complete).clusters.all fun e => !e.2.stopped,
    [CopySt.complete, .moving].all fun cs => ((waitsOn (.waitb 0) .pending cs).modThread l0 fun th => { th with batch := 1 }).copies.all fun e =>
      e.2.lane == l0 && e.2.batch == 0 && e.2.st == cs] = true := by decide +kernel

def hwaitI : Instr := .hwait hp 3
def hcancelI : Instr := .hcancel hp 3
def hmovI : Instr := .hmovToH hp 3 (.v 4)
def htimeI : Instr := .htime hp 4 3

/-- Handles complete, pending and failed, with and without the copy they name. -/
theorem witness_handles : allOf [
    standing (hOf .complete .complete hwaitI) hwaitI, hst (hOf .complete .complete hwaitI) == .complete, canFetch (hOf .complete .complete hwaitI) hwaitI (ftOf hwaitI),
    standing (hOf .pending .moving hwaitI) hwaitI, hst (hOf .pending .moving hwaitI) == .pending,
    holdFetches (hOf .pending .moving hwaitI) hwaitI (.hwait 0x1000_0000_0000_0005), !((hOf .pending .moving hwaitI).thread l0).mid,
    standing (hOf (.failed (someFault .pageFault)) .complete hwaitI) hwaitI,
    hst (hOf (.failed (someFault .pageFault)) .complete hwaitI) == .failed (someFault .pageFault),
    [Instr.htest hp 4 5 3, hcancelI, hmovI, .hmovToV hp 4 3, htimeI].all fun i => standing (hOf .pending .moving i) i,
    ((hOf .pending .moving hcancelI).hCopy 0 0x1000_0000_0000_0005).isSome,
    standing (hOf .complete .complete hcancelI) hcancelI, standing (probeOf htimeI) htimeI] = true := by decide +kernel

def waitbI : Instr := .waitb hp (.v 4)
def sleeptI (n : Option (Fin 16)) : Instr := .sleept hp (.v 4) n
def batched (st : CopySt) : State := (hOf .pending st waitbI).modThread l0 fun th => { th with batch := 1 }
def atTime (s : State) (n : Nat) : State := { s with time := n * 17 }

/-- WAITB with its batches ended and with one under way, SLEEPT before its time and at it, with and without a handle. -/
theorem witness_batches : allOf [
    standing (probeOf (.seal hp (some 4))) (.seal hp (some 4)), standing (batched .complete) waitbI, canFetch (batched .complete) waitbI (ftOf waitbI),
    standing (batched .moving) waitbI, holdFetches (batched .moving) waitbI (.waitb 0), batchLe 0 1 && batchLe 0 0,
    stands (State.withV (inV (sleeptI none)) [(4, 9)]) (sleeptI none) fun vs _ => decide (0 < (vs.getD 0 0).toNat),
    holdFetches (State.withV (inV (sleeptI none)) [(4, 9)]) (sleeptI none) (.sleept 9 none false),
    stands (atTime (State.withV (inV (sleeptI none)) [(4, 9)]) 9) (sleeptI none) fun vs _ => vs == [9],
    canFetch (atTime (inV (sleeptI none)) 9) (sleeptI none) (ftOf (sleeptI none)),
    standing (atTime (hOf .complete .complete (sleeptI (some 3))) 9) (sleeptI (some 3))] = true := by decide +kernel

/-! ### Regions, breaks and injected errors -/

def opened (i : Instr) : State := (paged (probeOf i)).modThread l0 fun th => { th with region := some rgn }
def closed (s : State) : State := s.modThread l0 fun th => { th with region := none }
def rbeginI : Instr := .rbegin hp .pkg 1
def rabortI : Instr := .rabort hp
def rcommitI : Instr := .rcommit hp

theorem witness_regions : allOf [
    standing (probeOf rbeginI) rbeginI, standing (inV rabortI) rabortI, canFetch (inV rabortI) rabortI (ftOf rabortI),
    [rabortI, rcommitI].all fun i => (closed (opened i)).plainAt 1 (gangFor i) l0 i && ((opened i).thread? l0).isSome && ((opened i).thread l0).region == some rgn,
    ((opened rcommitI).core 0).commits == [], holdFetches (opened rcommitI) rcommitI .commit, standing (probeOf rcommitI) rcommitI] = true := by decide +kernel

/-- The same in a state whose thread has this region open. -/
def within (s : State) (r : Region) : State := s.modThread l0 fun th => { th with region := some r }
def openStands (s : State) (i : Instr) (r : Region) (f : List DWord → Bool) : Bool :=
  (closed s).plainAt 1 (gangFor i) l0 i && (s.thread? l0).isSome && (s.thread l0).region == some r && (gangFor i).inside &&
  match s.operandsOf l0 i with
  | some (vs, th) => th == s.thread l0 && f vs
  | none => false
def ldR (ty : LdTy) : Instr := .ld hp { ty, d := 5, m := mB0, scope := .core, ord := .rlx, hint := 0 }
def stR (ty : StTy) : Instr := .st hp { ty, data := .v 8, m := mB0, scope := .core, ord := .rlx, hint := 0 }
def reaches (s : State) (i : Instr) (n : Nat) (d : AccKind) (need : Need) : Bool :=
  match (s.issued (gangFor i)).address l0 mB0 n n d need with
  | (.at _ (.phys pa), s') => pa == 0x40000100 && s'.paKind pa == .hbm && !s'.poisoned pa n
  | _ => false
def inputAt (pa : Nat) : RInput := { va := 0x4_0000_0800, space := .phys pa, size := 4, val := 9, trackable := true, mark := false }
def storeAt' (pa n : Nat) : RStore := { va := 0x4_0000_0100, space := .phys pa, data := List.replicate n 7, sym := some { input := 0, wide := false, chain := .none } }
def inputs (n : Nat) : List RInput := (List.range n).map fun k => inputAt (0x40000800 + 4 * k)
def stores (n : Nat) : List RStore := (List.range n).map fun k => storeAt' (0x40000A00 + 4 * k) 4

/-- Loads and stores that meet no recorded access, seven inputs or fifteen stores standing; one of exactly a recorded store; one too many. -/
theorem witness_region_accesses : allOf [
    [LdTy.b8, .b16, .b32, .b64, .b128, .s8].all fun ty => let s := within (aimed (ldR ty) 0x100 4) { rgn with inputs := inputs 7, stores := stores 15 }
      openStands s (ldR ty) { rgn with inputs := inputs 7, stores := stores 15 } (fun _ => true) && reaches s (ldR ty) (Spec.loadType ty).1 .load .rd,
    (let s := within (aimed (ldR .b32) 0x100 4) { rgn with stores := [storeAt' 0x40000100 4] }
     openStands s (ldR .b32) { rgn with stores := [storeAt' 0x40000100 4] } (fun _ => true) && reaches s (ldR .b32) 4 .load .rd),
    openStands (within (aimed (ldR .b32) 0x100 4) { rgn with inputs := inputs 8 }) (ldR .b32) { rgn with inputs := inputs 8 } fun _ => true,
    [StTy.b8, .b32, .b64, .b128].all fun ty => let s := within (aimed (stR ty) 0x100 4) { rgn with stores := stores 15 }
      openStands s (stR ty) { rgn with stores := stores 15 } (fun vs => (Spec.access s l0 (stR ty) vs).isSome) && reaches s (stR ty) (Spec.storeType ty) .store .wr,
    (let r := { rgn with stores := storeAt' 0x40000100 4 :: stores 15, tags := [(8, { input := 0, wide := false, chain := .none })] }
     let s := within (aimed (stR .b32) 0x100 4) r
     openStands s (stR .b32) r (fun vs => (Spec.access s l0 (stR .b32) vs).isSome) && reaches s (stR .b32) 4 .store .wr),
    openStands (within (aimed (stR .b32) 0x100 4) { rgn with stores := stores 16 }) (stR .b32) { rgn with stores := stores 16 } fun _ => true] = true := by decide +kernel

def tracking (c : Chain) (cons : Nat) : Region :=
  { rgn with tags := [(2, { input := 0, wide := false, chain := c })],
             cons := List.replicate cons { cmp := .int .eq false, tagFirst := true, tag := { input := 0, wide := false, chain := .none }, other := 0, pc := true, outcome := true } }
def adds (n : Nat) : Chain := .flt false (List.replicate n { neg := false, val := 0x3F800000, rm := .rne })
def tracked (i : Instr) (r : Region) : Bool := openStands (within (inV i) r) i r fun vs => 2 ≤ vs.length
def icmpR : Instr := .icmp hp { pa := 1, pb := 2, pc := 31, a := .v 2, b := .v 3, w := false, cond := .lts }
def faddR : Instr := .fadd hp { t := .f32, d := 1, a := .v 2, b := .v 3, ma := { abs := false, neg := false }, mb := { abs := false, neg := false }, rm := .rne }
def iaddR : Instr := .iadd hp { d := 1, a := .v 2, b := .v 3, w := false, sg := true, sat := false }
def andR : Instr := .and hp { d := 1, a := .v 2, b := .v 3, w := false, sg := false, sat := false }

/-- Words on a tagged register: a first and a later addend of each kind, one too many; a compare with room and without; a word of another rule. -/
theorem witness_tracked_words : allOf [
    tracked iaddR (tracking .none 0), tracked iaddR (tracking (.int 5) 0), tracked andR (tracking .none 0), tracked faddR (tracking .none 0),
    tracked faddR (tracking (adds 3) 0), tracked faddR (tracking (adds 4) 0), tracked icmpR (tracking .none 7), tracked icmpR (tracking .none 8)] = true := by decide +kernel

def trapI : Instr := .trap hp 7
def brkI : Instr := .brk hp 7
def came (i : Instr) : State := (inV i).modThread l0 fun th => { th with mid := true, brkDone := true, pc := wOf i }
def armedBrk (i : Instr) : State :=
  (inV i).modCluster 0 fun c => { c with dbgctl := 0x20 }

/-- TRAP and BRK as they are met and as a handler returns to them, and BRK with break handling armed. -/
theorem witness_breaks : allOf [
    [trapI, brkI].all fun i => standing (inV i) i && standing (came i) i && canFetch (came i) i (ftOf i),
    !((inV brkI).cluster 0).dbgctl.getLsbD 5, standing (armedBrk brkI) brkI, ((armedBrk brkI).partn 0).debug,
    ((armedBrk brkI).cluster 0).dbgctl.getLsbD 5, !((armedBrk brkI).cluster 0).stopping, !((armedBrk brkI).cluster 0).stoprec.getLsbD 0,
    match (((armedBrk brkI).issued (gangFor brkI)).trigger 0 0 (wOf brkI) ((armedBrk brkI).grp 1).gid 0 0 0 4 16).fetchCheck 0 0 (ftOf brkI) with
    | (.ok _, _) => true
    | (.error _, _) => false] = true := by decide +kernel

def zflipI : Instr := .errinjZflip hp (.v 4) 3 31
def poisonI : Instr := .errinjPoison hp (.v 2)
def holdsTile (s : State) (k : Nat) : State := s.modCore 0 fun c => { c with tok := [(k, .group 1)] }

theorem witness_injected_errors : allOf [
    [Instr.errinjVflip1 hp 3 31, .errinjVflip2 hp 3 0 31].all fun i => standing (probeOf i) i,
    stands (holdsTile (State.withV (probeOf zflipI) [(4, 63 + 256 * 63)]) 3) zflipI fun vs _ => vs == [63 + 256 * 63],
    ((holdsTile (probeOf zflipI) 3).core 0).token 3 == .group 1, ((holdsTile (probeOf zflipI) 3).core 0).tops == [],
    stands (inV poisonI) poisonI fun vs th => canonical (vs.getD 0 0) && match (Spec.popped ((inV poisonI).issued (gangFor poisonI)) l0 poisonI th).resolve 1 (vs.getD 0 0) 1 .leaf with
      | (.ok (.phys _), _) => true
      | _ => false] = true := by decide +kernel

def signals : List Instr := [.signalSt hp (.v 2) (.v 4), .signalAdd hp (.v 2) (.v 4)]
def irqI : Instr := .irq hp 5
def launchI (hd : Option (Fin 16)) : Instr := .launch hp (.v 2) 0 hd
def vectors (s : State) : State := s.modPart 0 fun p => { p with msixMask := [5] }
def manyPlaces (i : Instr) : Bool :=
  let s := State.withV (inV i) [(2, 0x100), (3, 4)]
  s.sound && stands s i fun vs th => srcIsU (s.grp 1) false (.v 2, true) && canonical (vs.getD 0 0) && decide ((vs.getD 0 0).toNat % 64 = 0 ∧ th = s.thread l0) &&
    match (s.issued (gangFor i)).recordPlaces 1 (vs.getD 0 0) with
    | (.ok _, s') => decide ((s'.partn 0).lbuf.length < 64) && s'.releasable l0 .pkg && decide (((s'.partn 0).queues.get default 0).qb + 8 ≤ hbmSize)
    | _ => false

theorem witness_signals : allOf [
    signals.all fun i => stands (inV i) i fun vs th => canonical (vs.getD 0 0) && (vs.getD 0 0).toNat % 8 == 0 && aperOff (vs.getD 0 0) == none &&
      [Need.wr, .rw].all fun n => match (Spec.popped ((inV i).issued (gangFor i)) l0 i th).resolve 1 (vs.getD 0 0) 8 n with
        | (.ok sp, s') => s'.spaceKind sp == .hbm && !s'.spacePoison sp 8
        | _ => false,
    standing (probeOf irqI) irqI, (probeOf irqI).releasable l0 .sys, standing (vectors (probeOf irqI)) irqI,
    manyPlaces (launchI none), manyPlaces (launchI (some 3))] = true := by decide +kernel

/-! ### Access slices, rounds and rendezvous -/

def qendI : Instr := .qend hp
def qloopI : Instr := .qloop hp 3 0xFFFFFFFF
def qldI : Instr := .qld hp 3 { br := 0, ofs := some 2, imm := 0 } .core 0
def slicing (s : State) (f : Slice → Bool) : Bool :=
  s.cur == .slice 1 && (s.group? 1).any fun x => x.slice.clause.isSome && f x.slice
def slicedV (i : Instr) (n : Nat) (w : Word) : State := (probeOf i).modGroup 1 fun g => { g with slice := { g.slice with v := [(n, .u w)] } }

/-- QEND, QLOOP above one and at one, QLD of one thread with room in its queue. -/
theorem witness_slices : allOf [
    slicing (probeOf qendI) fun _ => true, slicing (slicedV qloopI 3 5) fun sl => sl.v.get (.u 0) 3 == .u 5,
    slicing (slicedV qloopI 3 1) fun sl => sl.v.get (.u 0) 3 == .u 1, slicing (slicedV qldI 2 0x100) fun _ => true,
    ((slicedV qldI 2 0x100).grp 1).live.all (fun e => e.1 == 0 && e.2.live && decide (e.2.occupied 3 < 16)) &&
      !((slicedV qldI 2 0x100).grp 1).live.isEmpty] = true := by decide +kernel

/-- Each word of the slices in a gang. -/
theorem witness_slice_words_in_a_gang : allOf [
    [qendI, qloopI, qldI].all fun i => (let s := ({ probeOf i with cur := .gang 1, gangs := [(1, gangIn .vec 1 i)] } : State)
      s.gang? 1 == some (gangIn .vec 1 i) && (gangIn .vec 1 i).lanes == [l0] && (s.thread l0).live && (s.recOf 1).isSome)] = true := by decide +kernel

def rounds : List (Nat × Instr) := words_cross_lane.take 5
def two (s : State) : State :=
  s.modGroup 1 fun g => { g with width := 2, threads := g.threads ++ [(1, Thread.create 0x4_0000_0008)],
                                 j := (List.range 8).map fun n => (n, 3), v := [(6, { VReg.init with val := .u 3 })] }

def xsndI : Instr := .xsnd hp { w := false, slot := .v 3, data := .v 4, mask := .j 1 }
def xrcvI : Instr := .xrcv hp { w := false, d := 5, slot := .v 3, mask := .j 1, fill := .v 6 }

/-- The fall-through clause of a waiting round or rendezvous can be fetched. -/
def holdsAfter (s : State) (i : Instr) (kind : HoldKind) : Bool :=
  match exec i s with
  | .next t => (t.thread l0).hold.any (fun h => h.kind == kind) && (t.thread l0).pc == wOf i
  | _ => false

/-- Rounds of one thread named and not named by their mask, and rounds that wait for a second thread. -/
theorem witness_rounds : allOf [
    rounds.all fun e => Spec.crossLane e.2 && standing (probe e.1) e.2 && ((probe e.1).grp 1).rounds.isEmpty && ((probe e.1).grp 1).width == 1,
    rounds.all fun e => stands ((probe e.1).modGroup 1 fun g => { g with j := (List.range 8).map fun n => (n, 1), v := [(6, { VReg.init with val := .u 1 })] })
      e.2 fun vs _ => (Spec.roundMaskOf ((probe e.1).modGroup 1 fun g => { g with j := (List.range 8).map fun n => (n, 1), v := [(6, { VReg.init with val := .u 1 })] })
        l0 e.2 vs).getLsbD 0,
    rounds.all fun e => stands (two (probe e.1)) e.2 fun vs _ => (Spec.roundMaskOf (two (probe e.1)) l0 e.2 vs).getLsbD 1 &&
      ((two (probe e.1)).thread { g := 1, t := 1, sh := false }).live &&
      ((two (probe e.1)).thread { g := 1, t := 1, sh := false }).hold == none,
    rounds.all fun e => holdsAfter (paged (two (probe e.1))) e.2 .round,
    [xsndI, xrcvI].all fun i => holdsAfter (paged (State.withV (probeOf i) [(3, 15)])) i .rendezvous] = true := by decide +kernel

/-- Both words with a legal slot, with a slot that is not uniform, and with slot 16. -/
theorem witness_rendezvous : allOf [
    [xsndI, xrcvI].all fun i => stands (State.withV (probeOf i) [(3, 15)]) i fun vs _ => decide ((vs.getD 0 0).lo.toNat < 16) &&
      srcIsU ((State.withV (probeOf i) [(3, 15)]).grp 1) false (.v 3, false) && ((probeOf i).crew? 1).isSome,
    [xsndI, xrcvI].all fun i => standing (State.withTags (probeOf i) [(3, .g [])]) i &&
      !srcIsU ((State.withTags (probeOf i) [(3, .g [])]).grp 1) false (.v 3, false),
    [xsndI, xrcvI].all fun i => standing (State.withV (probeOf i) [(3, 16)]) i &&
      srcIsU ((State.withV (probeOf i) [(3, 16)]).grp 1) false (.v 3, false)] = true := by decide +kernel

def waiting (i : Instr) : State :=
  (probeOf i).modThread l0 fun th => { th with pc := wOf i, hold := some { kind := .rendezvous, ft := ftOf i } }
def aRound (i : Instr) (g : Nat) (t : Nat) : XRound :=
  { g, pc := wOf i, round := { ins := i, mask := some 1, rm := .rne, slot := 3, declined := [],
                               joined := [(t, { a := 9, b := 3, fill := 8, p := false, pfill := false, ft := ftOf i })] } }

theorem witness_paired_rounds : allOf [
    (aRound xrcvI 1 0).round.ins == xrcvI, (aRound xsndI 2 0).g != (aRound xrcvI 1 0).g, !((waiting xrcvI).grp 1).prot,
    ((waiting xrcvI).grp 1).thread? 0 == some ((waiting xrcvI).thread l0), ((waiting xrcvI).thread l0).live,
    ((waiting xrcvI).thread l0).pc == (aRound xrcvI 1 0).pc, ((waiting xrcvI).thread l0).hold.any fun h => h.kind == .rendezvous] = true := by decide +kernel

/-- Two threads joined at a round of a word, the mask naming both, with these live and held. -/
def joinedRound (i : Instr) (second : Thread) (m : DWord) (declined : List Nat) : State :=
  (inV i).modGroup 1 fun g =>
    { g with width := 2, threads := [(0, { Thread.create (wOf i) with hold := some { kind := .round, ft := ftOf i } }), (1, second)],
             rounds := [((wOf i).toNat, { ins := i, mask := some m, rm := .rne, slot := 0, declined, joined := [
                                          (0, { a := 9, b := 1, fill := 8, p := true, pfill := false, ft := ftOf i }), (1, { a := 5, b := 0, fill := 8, p := false, pfill := true, ft := ftOf i })] })] }
def heldAtRound (i : Instr) : Thread := { Thread.create (wOf i) with hold := some { kind := .round, ft := ftOf i } }
def roundStands (s : State) (i : Instr) : Bool :=
  Spec.crossLane i && (s.group? 1).any fun x => !x.prot && AMap.sorted x.threads && ((x.rounds.find? (wOf i).toNat).any fun r => r.ins == i && AMap.sorted r.joined && r.mask.isSome)

/-- Rounds of two threads that close: both joined, one that declined, one that has ended; and one that waits. -/
theorem witness_closing_rounds : allOf [
    rounds.all fun e => [joinedRound e.2 (heldAtRound e.2) 3 [], joinedRound e.2 (heldAtRound e.2) 1 [], joinedRound e.2 (Thread.create 0) 3 [1],
      joinedRound e.2 { Thread.create 0 with live := false } 3 [], joinedRound e.2 (Thread.create 0) 3 []].all fun s => roundStands s e.2,
    Spec.roundValue (.shfl hp { mode := .idx, w := false, d := 2, a := .v 4, b := .v 6, mask := .j 0, fill := .v 5 }) .rne
      [(0, { a := 9, b := 1, fill := 8, p := true, pfill := false, ft := 0 }), (1, { a := 5, b := 0, fill := 8, p := false, pfill := true, ft := 0 })] 0
      { a := 9, b := 1, fill := 8, p := true, pfill := false, ft := 0 } == 5] = true := by decide +kernel

/-- Groups 1 and 2, the first waiting with a receiving round and the second with a sending one. -/
def pairing : State :=
  let s := waiting xrcvI
  { s with groups := s.groups ++ [(2, { s.grp 1 with threads := [(0, { (s.thread l0) with pc := wOf xsndI })] })] }

theorem witness_pairing : allOf [
    [1, 2].all fun g => (pairing.group? g).any fun x => !x.prot && AMap.sorted x.threads,
    (pairing.thread { g := 2, t := 0, sh := false }).hold.any fun h => h.kind == .rendezvous,
    (pairing.thread { g := 2, t := 0, sh := false }).pc == (aRound xsndI 2 0).pc, (aRound xsndI 2 0).round.joined.find? 0 |>.isSome,
    AMap.sorted (aRound xsndI 2 0).round.joined && AMap.sorted (aRound xrcvI 1 0).round.joined] = true := by decide +kernel

/-- Reductions over values that wrap in 32 and in 64 bits, that differ in sign, and the float tree over one value and over three. -/
theorem witness_reductions : allOf [
    (reduce .add32 .rne [(3, 0xFFFFFFFF), (5, 2)]).1 == some 1, (reduce .mins .rne [(3, 0xFFFFFFFF), (5, 2)]).1 == some 0xFFFFFFFF,
    (reduce .add64 .rne [(3, 2 ^ 64 - 1), (5, 2 ^ 32 + 2)]).1 == some (2 ^ 32 + 1), (reduce .xor .rne [(0, 5), (1, 3), (2, 1)]).1 == some 7,
    (reduce .fadd32 .rne [(3, 0x3F800000)]).1 == some 0x3F800000,
    (reduce .fadd32 .rne [(0, 0x3F800000), (1, 0x40000000), (63, 0x40400000)]).1 == some 0x40C00000] = true := by decide +kernel

/-! ### Stash windows and caches -/

def smapI : Instr := .smap hp { coh := false, bd := 4, va := .v 2, off := .v 5, len := .v 6 }
def stashed (s : State) : State := s.modCore 0 fun c => { c with carve := some { regs := 4, scr := 0, stash := 1 } }
def smapAt (lo off len : Word) : State := stashed (State.withV (probeOf smapI) [(2, lo), (3, 4), (5, off), (6, len)])
def smapOn (s : State) : Bool := standing s smapI && ((s.core 0).wins == []) && !s.recBusy [l0] 4 &&
  srcIsU (s.grp 1) false (.v 2, true) && srcIsU (s.grp 1) false (.v 5, false) && srcIsU (s.grp 1) false (.v 6, false)

/-- SMAP within the stash, misaligned, past the stash's end by one page, and with an operand that is not uniform. -/
theorem witness_stash_maps : allOf [
    smapOn (smapAt 0x1000 0xF000 0x1000), smapOn (smapAt 0x800 0 0x1000), smapOn (smapAt 0 0 0), smapOn (smapAt 0x1000 0xF000 0x2000),
    standing (stashed (State.withTags (probeOf smapI) [(2, .g [])])) smapI,
    !srcIsU ((State.withTags (probeOf smapI) [(2, .g [])]).grp 1) false (.v 2, true)] = true := by decide +kernel

def win0 (coh : Bool) (ss : AMap WSector) : Window := { g := 1, bd := 4, va := 0x4_0000_1000, off := 0, len := 0x1000, coh, sectors := ss }
def windowed (s : State) (w : Window) : State := (stashed s).modCore 0 fun c => { c with wins := [(2, w)] }
def sunmapI : Instr := .sunmap hp 4
def sflushI : Instr := .sflush hp 4
def smodeI (coh : Bool) : Instr := .smode hp 4 coh
def dirty0 : WSector := { dirty := true, bytes := List.replicate 64 7, poison := false }
/-- Two dirty sectors of one line and a clean one, the window's page known to the core. -/
def win2 : Window := win0 false [(1, dirty0), (2, { dirty0 with dirty := false }), (3, { dirty0 with bytes := List.replicate 64 9 })]
def flushing (i : Instr) (w : Window) : State := ((windowed (inV i) w).winPa 0 2 3 .wr).2
/-- Sector number `n` of a window has its own place in memory to go back to. -/
def goesBack (s : State) (w : Window) (n : Nat) : Bool :=
  match w.sectors[n]? with
  | some e => let u := Spec.turnBack s 0 2 w n
    !e.2.dirty || (e.2.bytes.length == 64 && decide (u.winPa 0 2 e.1 .wr = (.ok (0x40001000 + 64 * e.1), u)) && s.paKind (0x40001000 + 64 * e.1) == .hbm &&
      (s.sector ((0x40001000 + 64 * e.1) / 64)).win.isNone)
  | none => true
def molting : State := windowed (inV (smodeI true)) (win0 false [])

/-- The words on a record without a window and with one: a clean window, a dirty sector, the mode it has and the other one. -/
theorem witness_stash_windows : allOf [
    [sunmapI, sflushI, smodeI true].all fun i => (probeOf i).lostHomes == [] && standing (probeOf i) i && ((probeOf i).winOf 1 4).isNone && !(probeOf i).recBusy [l0] 4,
    standing (windowed (probeOf sunmapI) (win0 false [(3, { dirty0 with dirty := false })])) sunmapI,
    (windowed (probeOf sunmapI) (win0 false [])).winOf 1 4 == some (2, win0 false []),
    [sunmapI, sflushI].all fun i => let s := flushing i win2
      standing s i && s.winOf 1 4 == some (2, win2) && s.win? 0 2 == some win2 && !s.recBusy [l0] 4 && !(s.issued (gangFor i)).recWaits [l0] 4 &&
        ((s.launch? 1).all fun z => z.snap != .held) && s.sound && AMap.sorted win2.sectors && (List.range 3).all (goesBack (s.issued (gangFor i)) win2),
    [sunmapI, sflushI].all fun i => !((probeOf i).issued (gangFor i)).recWaits [l0] 4,
    standing molting (smodeI true), standing (windowed (inV (smodeI false)) (win0 false [])) (smodeI false),
    match (molting.issued (gangFor (smodeI true))).winPages 0 2 (win0 false []).pages with
    | (.ok ps, s') => !s'.winBusy 0 2 && !s'.pagesBusy ps && !s'.backWaits 0 2 && ps.all (s'.pageOpen 0)
    | _ => false] = true := by decide +kernel

def rangeF : RangeF := { m := { br := 0, ofs := some 2, imm := 0 }, len := .v 4, scope := .die }
def ranges : List Instr := [.cflush hp rangeF, .cinv hp rangeF, .icinv hp rangeF]
def ranged (i : Instr) : State := paged (State.withV (probeOf i) [(2, 0x1F0), (3, 4), (4, 0x300)])

theorem witness_cache_control : allOf [
    ranges.all fun i => stands (ranged i) i fun vs th =>
      decide (recordAddress (((ranged i).grp 1).brec 0) (((ranged i).grp 1).offsetPair l0 (some 2)) 0 0x300 false = .at 0x4_0000_01F0) &&
      (vs.getD 0 0).toNat == 0x300 && aperOff 0x4_0000_01F0 == none && aperOff 0x4_0000_04EF == none && (ranged i).lostHomes == [] &&
      match (Spec.popped ((ranged i).issued (gangFor i)) l0 i th).rangePages l0 0x4_0000_01F0 0x4_0000_0100 0x400 with
      | (.ok ps, s') => (Spec.rangeSectors 0x4_0000_01F0 0x300 ps).all fun y => s'.paKind (64 * y) == .hbm && (s'.sector y).win.isNone && (ranged i).kindOpen .hbm
      | _ => false,
    standing (probeOf (.mscfl hp .deck)) (.mscfl hp .deck)] = true := by decide +kernel

/-! ### Tiles -/

/-- A record of an element format at 0x4_0000_1000, written through, with a stride of 64. -/
def tileRec (efmt : Nat) : BRec := BitVec.ofNat 256 (0x4_0000_1000 + 2 ^ 118 + 64 * 2 ^ 128 + efmt * 2 ^ 192)
def tileState (i : Instr) (efmt : Nat) (vb : Word) : State :=
  ((paged (State.withV (probeOf i) [(8, vb)])).modGroup 1 fun g => { g with b := [(0, flatRec), (4, tileRec efmt)] }).modCore 0 fun c =>
    { c with tok := (List.range 16).map fun k => (k, .group 1) }
def freeTiles (s : State) : State := s.modCore 0 fun c => { c with tok := [] }
def idle0 (s : State) : Bool := (s.core 0).tops == [] && (s.core 0).mma == [] && (s.thread l0).tileFaults == []

def tacqI : Instr := .tacq hp true (.v 8)
def trelI : Instr := .trel hp true (.v 8)

/-- Every tile token of the core stands so. -/
def tokensAre (s : State) (x : Token) : State := s.modCore 0 fun c => { c with tok := (List.range 16).map fun k => (k, x) }
def notHeld : List Token := [.free, .group 2, .engine 1, .engine 2]

/-- TACQ of a free tile and TREL of a held one, of one the engine holds for the group and of others, tile numbers 7 and 8, and an operand that is
not uniform. -/
theorem witness_tile_tokens : allOf [
    notHeld.all fun x => stands (tokensAre (tileState trelI 4 7) x) trelI (fun vs _ => vs == [7]) && ((tokensAre (tileState trelI 4 7) x).core 0).token 15 == x &&
      idle0 (tokensAre (tileState trelI 4 7) x),
    stands (freeTiles (tileState tacqI 4 7)) tacqI fun vs _ => vs == [7], idle0 (freeTiles (tileState tacqI 4 7)),
    srcIsU ((tileState tacqI 4 7).grp 1) false (.v 8, false), ((freeTiles (tileState tacqI 4 7)).core 0).token 15 == .free,
    ((freeTiles (tileState tacqI 4 7)).core 0).tacq == [],
    stands (tileState trelI 4 7) trelI fun vs _ => vs == [7], ((tileState trelI 4 7).core 0).token 15 == .group 1,
    (tileState trelI 4 7).fenceReleases .core l0,
    standing (freeTiles (tileState trelI 4 7)) trelI,
    [tacqI, trelI].all fun i => stands (tileState i 4 8) i (fun vs _ => vs == [8]) &&
      standing (State.withTags (probeOf i) [(8, .g [])]) i && !srcIsU ((State.withTags (probeOf i) [(8, .g [])]).grp 1) false (.v 8, false)] = true := by decide +kernel

def tgetI (y : Bool) : Instr := .tmovGet hp { d := 5, sel := .v 8, y, tn := 1 }
def tputI (y : Bool) : Instr := .tmovPut hp { a := .v 5, sel := .v 8, y, tn := 1 }
def tzeroI (y : Bool) : Instr := .tzero hp y 3

/-- Both kinds of tile, held and not; the first, the last and the check entries. -/
theorem witness_tile_elements : allOf [
    notHeld.all fun x => [true, false].all fun y => [tzeroI y, tgetI y, tputI y].all fun i =>
      standing (tokensAre (tileState i 4 (63 + 256 * 63)) x) i && ((tokensAre (tileState i 4 0) x).core 0).token 9 == x,
    [true, false].all fun y => standing (tileState (tzeroI y) 4 0) (tzeroI y) && standing (freeTiles (tileState (tzeroI y) 4 0)) (tzeroI y) && idle0 (tileState (tzeroI y) 4 0),
    [true, false].all fun y => [(0 : Word), 63 + 256 * 63].all fun v => stands (tileState (tgetI y) 4 v) (tgetI y) (fun vs _ => vs == [v.zeroExtend 64]) &&
      stands (tileState (tputI y) 4 v) (tputI y) fun vs _ => vs.getD 1 0 == v.zeroExtend 64,
    [(65536 + 63 : Word), 131072 + 256 * 63].all fun v => standing (tileState (tgetI false) 4 v) (tgetI false) && standing (tileState (tputI false) 4 v) (tputI false),
    ((tileState (tgetI true) 4 0).core 0).token 9 == .group 1 && ((tileState (tgetI true) 4 0).core 0).token 1 == .group 1,
    ((tileState (tgetI true) 4 0).core 0).z == [] && ((tileState (tgetI true) 4 0).core 0).y == []] = true := by decide +kernel

/-- A transfer of each kind with its element format and operand. -/
def transfers : List (Instr × Nat × Word) := [
  (.tld hp { br := 4, va := some 6, vb := .v 8, y := false, tn := 1, xf := .none, scope := .die }, 4, 0x101),
  (.tld hp { br := 4, va := some 6, vb := .v 8, y := true, tn := 2, xf := .none, scope := .core }, 2, 0x102),
  (.tsv hp { br := 4, va := some 6, vb := .v 8, tn := 1, scope := .die }, 2, 0x101),
  (.tsum hp { br := 4, va := none, vb := .v 8, tn := 1, sums := true, scope := .die }, 4, 0x101),
  (.qcv hp { br := 4, va := some 6, vb := .v 8, tn := 1, t6 := true, xf := .none, scope := .die }, 1, 0x100),
  (.ptld hp { br := 4, va := some 6, vb := .v 8, t := 5, scope := .die }, 4, 4)]

def planned (s : State) (i : Instr) (f : TileOp → Bool) : Bool :=
  match s.tilePlan i l0 with
  | some (_, plan) => stands s i fun vs _ => f { plan (vs.getD 0 0).lo with id := s.nextId, lanes := [l0] }
  | none => false

def placesOf (s : State) (i : Instr) (o : TileOp) : Bool :=
  match (s.issued (gangFor i)).holdPlaces l0 4 (if o.writes then .store else .load) (if o.writes then .wr else .rd)
      ((o.offsets ((s.core 0).table o.tab.val)).map fun e => (o.addr e.1 e.2, e.2)) with
  | (.ok pl, s') => pl.all fun e => !(s'.spaceKind e.2.space).external
  | _ => false

theorem witness_tile_transfers : allOf [
    transfers.all fun e => planned (tileState e.1 e.2.1 e.2.2) e.1 fun o => !o.invalid && idle0 (tileState e.1 e.2.1 e.2.2) &&
      (Spec.transfer e.1).isSome && (o.objs.all fun k => decide (16 ≤ k) || ((tileState e.1 e.2.1 e.2.2).core 0).token k == .group 1) &&
      placesOf (tileState e.1 e.2.1 e.2.2) e.1 o,
    transfers.all fun e => planned (tileState e.1 e.2.1 0x41_4141) e.1 fun o => o.invalid,
    (transfers.take 5).all fun e => planned (freeTiles (tileState e.1 e.2.1 e.2.2)) e.1 fun o => !o.invalid && o.objs.any fun k => decide (k < 16)] = true := by decide +kernel

def mmaI (hd : Option (Fin 16)) : Instr := .mma hp { br := 4, va := some 10, hd, scope := .die }
def mmaAt (hd : Option (Fin 16)) : State :=
  (((tileState (mmaI hd) 2 0).wrN 0x40001000 [0, 1]).wrN 0x40001008 [64]).wrN 0x40001010 [1, 1, 1, 4, 0, 0x11]
def mmaOk (hd : Option (Fin 16)) : Bool :=
  let s := mmaAt hd
  standing s (mmaI hd) && (gangFor (mmaI hd)).wip.isNone && idle0 s && srcIsU (s.grp 1) false (.v 10, true) && ((s.grp 1).offsetPair l0 (some 10)).toNat % 64 == 0 &&
  match (s.issued (gangFor (mmaI hd))).mmaParam l0 { br := 4, va := some 10, hd, scope := .die } with
  | (.ok bs, s1) =>
    let o := { mmaOf bs (s.grp 1) with g := 1, lanes := [l0], scope := .die }
    !mmaInvalid bs o && (o.objs.all fun k => (s.core 0).token k == .group 1) && o.m == 1 && o.zt == 1 && o.yt == 2 &&
    match s1.holdPlaces l0 (mmaRecNo bs) .load .rd (o.cells.map fun e =>
        (recCheckOff o.arec (o.aAt e.1 e.2).1 (elemSize (recEfmt o.arec)) false, elemSize (recEfmt o.arec))) with
    | (.ok _, _) => true
    | _ => false
  | _ => false

theorem witness_matrix_multiply : allOf [mmaOk none, mmaOk (some 2)] = true := by decide +kernel

def mmaF : MmaF := { br := 4, va := some 10, hd := none, scope := .die }
def mmaFaults (s : State) (f : Except FaultInfo (List Byte) × State → Bool) : Bool :=
  standing s (mmaI none) && (gangFor (mmaI none)).wip.isNone && idle0 s && srcIsU (s.grp 1) false (.v 10, true) &&
    f ((s.issued (gangFor (mmaI none))).mmaParam l0 mmaF)
/-- A parameter block that R209 calls illegal in one byte after another. -/
def blockBad (bs : List Byte) (r : BRec) : Bool :=
  let b := fun (n : Nat) => (bs.getD n 0).toNat
  bs.length == 64 && (decide (b 16 < 1 ∨ 64 < b 17 ∨ 32 ≤ b 19 ∨ 128 ≤ b 21) || decide (b 20 ≠ 0 ∧ b 20 ≠ recEfmt r) || b 63 != 0)
/-- An MMA whose address pair is not uniform, whose block cannot be read, holds an illegal value, names a tile not held, or whose A does not resolve. -/
theorem witness_matrix_faults : allOf [
    standing ((mmaAt none).modGroup 1 fun g => { g with v := g.v.set 10 { VReg.init with val := .g [] } }) (mmaI none) &&
      !srcIsU (((mmaAt none).modGroup 1 fun g => { g with v := g.v.set 10 { VReg.init with val := .g [] } }).grp 1) false (.v 10, true),
    mmaFaults ((mmaAt none).modGroup 1 fun g => { g with b := [(4, mkRec 0x6_0000_0000 64 0 true false)] }) fun r =>
      (match r.1 with
      | .error _ => true
      | _ => false) && !(((mmaAt none).modGroup 1 fun g => { g with b := [(4, mkRec 0x6_0000_0000 64 0 true false)] }).issued (gangFor (mmaI none))).mmaParamWaits l0 mmaF,
    [(16, 0), (17, 65), (19, 32), (20, 3), (21, 0x80), (63, 1)].all fun e => mmaFaults ((mmaAt none).wrN (0x40001000 + e.1) [BitVec.ofNat 8 e.2]) fun r => match r.1 with
      | .ok bs => blockBad bs (((mmaAt none).grp 1).brec 4)
      | _ => false,
    notHeld.all fun x => mmaFaults (tokensAre (mmaAt none) x) fun r => (match r.1 with
      | .ok bs => bs.length == 64 && !mmaInvalid bs (mmaOf bs ((mmaAt none).grp 1))
      | _ => false) && ((tokensAre (mmaAt none) x).core 0).token 1 == x,
    mmaFaults ((mmaAt none).wrN 0x40001000 [0, 0, 0, 0, 3]) fun r => match r.1 with
      | .ok bs => let g := (mmaAt none).grp 1
        let o := { mmaOf bs g with g := 1, lanes := [l0], scope := .die }
        !mmaInvalid bs o && (match r.2.holdPlaces l0 (mmaRecNo bs) .load .rd (o.cells.map fun e =>
            (recCheckOff o.arec (o.aAt e.1 e.2).1 (elemSize (recEfmt o.arec)) false, elemSize (recEfmt o.arec))) with
        | (.error _, _) => true
        | _ => false)
      | _ => false] = true := by decide +kernel

/-! ### Small matrices -/

def fmat (f32 : Bool) (r c : Nat) (es : List Nat) : SMat :=
  { f32, rows := r, cols := c, fact := 0, perm := 0, e := (smCells r c).zip es |>.map fun e => (8 * e.1.1 + e.1.2, e.2) }
/-- The matrices 4 2 / 2 5 and 1 2 / 3 4 in FP32. -/
def spd : SMat := fmat true 2 2 [0x40800000, 0x40000000, 0x40000000, 0x40A00000]
def gen : SMat := fmat true 2 2 [0x3F800000, 0x40000000, 0x40400000, 0x40800000]
def mats (s : State) : State := ((s.putMat l0 2 spd).putMat l0 3 gen).putMat l0 4 gen
def solvable (s : State) : State := (mats s).putMat l0 2 { spd with fact := 1 }
def results : List Instr := [
  .smset hp { f32 := true, md := 1, rows := 3, cols := 4 }, .smadd hp { md := 1, ma := 2, mb := 3, rm := .rtz }, .smtr hp 1 2,
  .smmul hp { md := 1, ma := 2, mb := 3, rm := .dyn }, .smmad hp { md := 1, ma := 2, mb := 3, mc := 4, rm := .dyn },
  .smchol hp { md := 1, ma := 2, rm := .dyn }, .smlu hp { md := 1, ma := 2, rm := .dyn }]
def smsolveI : Instr := .smsolve hp { md := 1, ma := 2, mb := 3, rm := .dyn }
def smmovI : Instr := .smmov hp 1 2

theorem witness_small_matrices : allOf [
    results.all fun i => standing (mats (probeOf i)) i && (Spec.smTarget i).isSome && (Spec.smOutcome (mats (probeOf i)) l0 i).isSome,
    standing (solvable (probeOf smsolveI)) smsolveI, (Spec.smOutcome (solvable (probeOf smsolveI)) l0 smsolveI).isSome,
    standing (mats (probeOf smmovI)) smmovI, standing (probeOf smmovI) smmovI] = true := by decide +kernel

/-- Legal operands for each word, and operands it refuses. -/
theorem witness_small_matrix_operands :
    (let s := mats (probeOf smmovI)
     Spec.smLegal s l0 (.smset hp { f32 := true, md := 1, rows := 3, cols := 4 }) ∧ Spec.smLegal s l0 (.smadd hp { md := 1, ma := 2, mb := 3, rm := .rtz }) ∧
     Spec.smLegal s l0 (.smtr hp 1 2) ∧ Spec.smLegal s l0 (.smmul hp { md := 1, ma := 2, mb := 3, rm := .dyn }) ∧
     Spec.smLegal s l0 (.smmad hp { md := 1, ma := 2, mb := 3, mc := 4, rm := .dyn }) ∧ Spec.smLegal s l0 (.smchol hp { md := 1, ma := 2, rm := .dyn }) ∧
     Spec.smLegal s l0 (.smlu hp { md := 1, ma := 2, rm := .dyn }) ∧ Spec.smLegal s l0 (.smmov hp 1 2) ∧
     ¬Spec.smLegal s l0 (.smadd hp { md := 1, ma := 2, mb := 5, rm := .rtz }) ∧ ¬Spec.smLegal s l0 (.smmov hp 1 5) ∧
     ¬Spec.smLegal s l0 (.smsolve hp { md := 1, ma := 2, mb := 3, rm := .dyn })) ∧
    Spec.smLegal (solvable (probeOf smsolveI)) l0 (.smsolve hp { md := 1, ma := 2, mb := 3, rm := .dyn }) := by
  refine ⟨⟨?_, ?_, ?_, ?_, ?_, ?_, ?_, ?_, ?_, ?_, ?_⟩, ?_⟩ <;>
    simp only [Spec.smLegal, Spec.smReads, Spec.smAgree, Spec.smFit, Spec.sameShape, List.mem_cons, List.not_mem_nil, forall_eq_or_imp, or_false, forall_eq,
      false_implies, implies_true] <;> decide +kernel

/-- M2 with more rows than the launch's dimension (R35). -/
def tooTall (s : State) : State := s.putMat l0 2 { spd with rows := 7 }
/-- The words that take ILLEGAL_ENC on it, all but SMSET. -/
def refusedTall : List Instr := results.tail ++ [smsolveI, smmovI]

theorem witness_matrices_beyond_the_dimension : allOf [
    refusedTall.all fun i => standing (tooTall (probeOf i)) i && decide (2 ∈ Spec.smReads i),
    decide ((tooTall (probeOf smmovI)).smDim l0 < ((tooTall (probeOf smmovI)).mat l0 2).rows)] = true := by decide +kernel

/-- Every clause of the LU recurrence on one matrix, with its exchanges. -/
def luHolds (a : SMat) (q : List Nat) : Bool :=
  let f := a.par
  let n := a.rows
  let r := (smLu .rne 40 a).1
  let p := fun i => r.perm / 8 ^ i % 8
  let sum := fun i j m => (Spec.steps f .rne (fun k => negBits f (r.at i k)) (fun k => r.at k j) (a.at (p i) j, 0) m).1
  let mag := fun i j => (unpackF f (sum i j j)).abs
  let at' := fun j => q.getD j 0
  (smLu .rne 40 a).2.2 == 0 && a.e == (smCells n n).map (fun x => (8 * x.1 + x.2, a.at x.1 x.2)) &&
    (smCells n n).all (fun x => if x.1 ≤ x.2 then r.at x.1 x.2 == sum x.1 x.2 x.1
      else r.at x.1 x.2 == (fdivBits f .rne (sum x.1 x.2 x.2) (r.at x.2 x.2)).1) &&
    (List.range n).all (fun i => p i == Spec.rowOrder at' n i) &&
    (List.range n).all fun j => (smCells n n).all fun e =>
      !(decide (j ≤ e.1) && e.1 != at' j && p e.2 == Spec.rowOrder at' j e.1) ||
        (cmpVal (mag e.2 j) (mag j j) != .gt && (!decide (e.1 < at' j) || cmpVal (mag e.2 j) (mag j j) == .lt))

/-- The matrix 1 4 2 / -3 1 5 / 3 2 8 in FP32: a tie in column 0, the lower row taken, and an exchange at step 1. -/
def gen3 : SMat := fmat true 3 3 [0x3F800000, 0x40800000, 0x40000000, 0xC0400000, 0x3F800000, 0x40A00000, 0x40400000, 0x40000000, 0x41000000]

theorem witness_lu : allOf [luHolds gen [1, 1], luHolds gen3 [1, 1, 2], luHolds spd [0, 1]] = true := by decide +kernel

/-- The clause of a solution, column by column, with its intermediate y. -/
def solveHolds (m b : SMat) : Bool :=
  let f := m.par
  let n := m.rows
  let r := (smSolve .rne m b).1
  let up := fun i k => if m.fact = 1 then m.at k i else m.at i k
  let good := (List.range n).all fun i => !(unpackF f (m.at i i)).isNan && !(unpackF f (m.at i i)).isZero
  decide (m.rows ≤ 7 ∧ b.rows = m.rows ∧ b.cols ≤ 7 ∧ (m.fact = 1 ∨ m.fact = 2)) && good &&
    (List.range b.cols).all fun c =>
      let y := (List.range n).foldl (fun (y : List Nat) i =>
        let t := (Spec.steps f .rne (fun k => negBits f (m.at i k)) (fun k => y.getD k 0)
          (b.at (if m.fact = 1 then i else natField m.perm (3 * i) 3) c, 0) i).1
        y ++ [if m.fact = 1 then (fdivBits f .rne t (m.at i i)).1 else t]) []
      (List.range n).all fun i => r.at i c == (fdivBits f .rne
        (Spec.steps f .rne (fun k => negBits f (up i (i + 1 + k))) (fun k => r.at (i + 1 + k) c) (y.getD i 0, 0) (n - i - 1)).1 (up i i)).1

/-- A diagonal with a zero. -/
def solveBad (m b : SMat) : Bool :=
  decide (m.rows ≤ 7 ∧ b.rows = m.rows ∧ b.cols ≤ 7 ∧ (m.fact = 1 ∨ m.fact = 2)) &&
    ((List.range m.rows).any fun i => (unpackF m.par (m.at i i)).isZero) && (smSolve .rne m b).2.2 != 0

theorem witness_solve : allOf [
    solveHolds (smChol .rne 40 spd).1 gen, solveHolds (smLu .rne 40 gen).1 spd, solveHolds (smLu .rne 40 gen3).1 gen3,
    solveBad { gen with fact := 1, e := [(0, 0x3F800000), (1, 0), (8, 0), (9, 0)] } spd,
    solveBad { gen with fact := 2, perm := 8, e := [(0, 0), (1, 0), (8, 0), (9, 0x3F800000)] } spd] = true := by decide +kernel

def sgetI : Instr := .smmovGet hp { d := 4, ma := 2, i := .v 5, j := .v 6 }
/-- FP64 into an odd register. -/
def sgetOddI : Instr := .smmovGet hp { d := 5, ma := 2, i := .v 7, j := .v 8 }
def sputI : Instr := .smmovPut hp { md := 2, a := .v 8, i := .v 5, j := .v 6 }
def ssclI : Instr := .smscl hp { md := 1, ma := 2, e := .v 8, rm := .dyn }
def indexed (s : State) (i j : Word) : State := mats (State.withV s [(5, i), (6, j)])
def wide (s : State) : State := s.putMat l0 2 (fmat false 2 2 [1, 2, 3, 4])
def scalarsRead (s : State) (ops : List (Src × Bool)) : Bool :=
  match readSrcs (s.grp 1) l0 (s.thread l0) ops with
  | (.ok _, _) => true
  | _ => false

/-- The last element and one past it, in FP32 and in FP64; a scalar of an empty matrix, and an FP64 scalar in an odd register. -/
theorem witness_small_matrix_scalars : allOf [
    stands (indexed (probeOf sgetI) 1 1) sgetI fun vs _ => vs == [1, 1] && ((indexed (probeOf sgetI) 1 1).mat l0 2).rows == 2,
    stands (wide (indexed (probeOf sgetI) 1 1)) sgetI fun _ _ => !(wide (indexed (probeOf sgetI) 1 1)).smBusy l0 [5] && (wide (probeOf sgetI)).smPairOk l0 4,
    standing (indexed (probeOf sgetI) 2 0) sgetI, standing (indexed (probeOf sgetI) 0 2) sgetI,
    standing (indexed (probeOf sputI) 1 1) sputI, scalarsRead (indexed (probeOf sputI) 1 1) [(.v 8, false), (.v 5, false), (.v 6, false)],
    !(indexed (probeOf sputI) 1 1).smScalarWaits l0 true (.v 8) [(.v 5, false), (.v 6, false)], (indexed (probeOf sputI) 1 1).smScalarOk l0 true (.v 8),
    standing (wide (indexed (probeOf sputI) 1 1)) sputI, (wide (indexed (probeOf sputI) 1 1)).smScalarOk l0 false (.v 8),
    !(wide (probeOf sputI)).smScalarOk l0 false (.v 9), standing (indexed (probeOf sputI) 2 0) sputI,
    standing (mats (probeOf ssclI)) ssclI, scalarsRead (mats (probeOf ssclI)) [(.v 8, false)], !(mats (probeOf ssclI)).smScalarWaits l0 true (.v 8) [],
    (mats (probeOf ssclI)).smScalarOk l0 true (.v 8), standing (probeOf ssclI) ssclI,
    stands (wide (probeOf sgetOddI)) sgetOddI fun vs _ => vs.length == 2 && !(wide (probeOf sgetOddI)).smBusy l0 [6] && !(wide (probeOf sgetOddI)).smPairOk l0 5,
    [sgetI, sputI, ssclI].all fun i => standing (tooTall (indexed (probeOf i) 0 0)) i && decide (((tooTall (indexed (probeOf i) 0 0)).mat l0 2).rows > 6)] = true := by decide +kernel

def bldI : Instr := .bld hp { bd := 5, m := mB0, scope := .core, ord := .rlx }
def smldI : Instr := .smld hp { md := 2, m := mB0, scope := .core, ord := .rlx, hint := 0 }
def smstI : Instr := .smst hp { md := 2, m := mB0, scope := .core, ord := .rlx, hint := 0 }
def smAim (i : Instr) : State := (aimed i 0x100 4).putMat l0 2 spd

theorem witness_waiting_words_begin : allOf [
    (gangFor bldI).wip.isNone, standing (aimed bldI 0x100 4) bldI,
    match (aimed bldI 0x100 4).address l0 mB0 32 32 .load .rd with
    | (.at _ sp, s') => !s'.spacePoison sp 32
    | _ => false,
    [(smldI, AccKind.load, Need.rd), (smstI, .store, .wr)].all fun e => standing (smAim e.1) e.1 && ((smAim e.1).mat l0 2).rows == 2 &&
      match (smAim e.1).smPlaces l0 mB0 ((smAim e.1).mat l0 2) e.2.1 e.2.2 with
      | (.ok ps, _) => ps.length == 4
      | _ => false,
    match (aimed bldI 0x100 9).address l0 mB0 32 32 .load .rd with
    | (.fault _, _) => standing (aimed bldI 0x100 9) bldI
    | _ => false,
    [(smldI, AccKind.load, Need.rd), (smstI, .store, .wr)].all fun e => let s := (aimed e.1 0x100 9).putMat l0 2 spd
      standing s e.1 && (match s.smPlaces l0 mB0 (s.mat l0 2) e.2.1 e.2.2 with
      | (.error _, _) => true
      | _ => false),
    [smldI, smstI].all fun i => standing (tooTall (smAim i)) i, standing ((smAim smstI).putMat l0 2 (fmat true 0 0 [])) smstI] = true := by decide +kernel

def wipGang (i : Instr) : Gang := { gangFor i with wip := some [{ lane := l0, op := 9 }] }
def wipState (i : Instr) (k : OpKind) (got : Option (List Byte)) : State :=
  { smAim i with gangs := [(1, wipGang i)], ops := [(9, { begunOp with kind := k, size := 32, got })] }
def wipStands (s : State) (i : Instr) (live : Bool) : Bool :=
  s.plainAt 1 (wipGang i) l0 i && (wipGang i).inside && (s.ops.find? 9).any fun o => o.live == live && o.failed.isNone

/-- BLD's four units. -/
def wip4Gang : Gang := { gangFor bldI with wip := some ((List.range 4).map fun n => { lane := l0, op := n + 9 }) }
def wip4State (b : Byte) : State :=
  { smAim bldI with
    gangs := [(1, wip4Gang)]
    ops := (List.range 4).map fun n => (n + 9, { begunOp with kind := .bld [0], size := 8, got := some (List.replicate 8 b) }) }
def wip4Stands (b : Byte) (legal : Bool) : Bool :=
  (wip4State b).plainAt 1 wip4Gang l0 bldI && wip4Gang.inside &&
    ((List.range 4).all fun n => ((wip4State b).ops.find? (n + 9)).any fun o => !o.live && o.failed.isNone && o.got.isSome) &&
    recOk (BitVec.ofNat 256 (wordOfBytes ((List.range 4).map fun _ => List.replicate 8 b).flatten)) == legal

/-- Each word with its access under way and performed; BLD with a legal and an illegal record. -/
theorem witness_waiting_words_complete : allOf [
    wip4Stands 0 true, wip4Stands 0xFF false,
    wipStands (wipState bldI (.bld [0]) none) bldI true, wipStands (wipState smldI (.smld 0) none) smldI true, wipStands (wipState smstI .smst none) smstI true,
    wipStands (wipState bldI (.bld [0]) (some (List.replicate 32 0))) bldI false, recOk (BitVec.ofNat 256 (wordOfBytes (List.replicate 32 0))),
    wipStands (wipState bldI (.bld [0]) (some (List.replicate 32 0xFF))) bldI false, !recOk (BitVec.ofNat 256 (wordOfBytes (List.replicate 32 0xFF))),
    wipStands (wipState smldI (.smld 0) (some [1, 0, 0, 0])) smldI false, wipStands (wipState smstI .smst (some [])) smstI false] = true := by decide +kernel

/-- A factorisation of 4 2 / 2 5 that is not stopped: 2 0 / 1 2. -/
theorem witness_cholesky : allOf [
    (smChol .rne 40 spd).2.2 == 0, decide (spd.rows ≤ 7), (smChol .rne 40 spd).1.at 0 0 == 0x40000000, (smChol .rne 40 spd).1.at 1 0 == 0x3F800000,
    (smChol .rne 40 spd).1.at 0 1 == 0, (smChol .rne 40 spd).1.at 1 1 == 0x40000000] = true := by decide +kernel

/-! ### Encodings, steps and the stated rules -/

theorem witness_encodings : allOf [
    [exitI, addI, qldI, smsolveI].all fun i => isWord i && wellFormed i, decode 0x22DF7C0000000000 == .ok (.exit hp),
    Spec.field 0x9C00FFFF00000000 63 56 == 0x9C, (headerOf 0x9C00FFFF00000000).isSome, (headerOf 0x9C00FFFF00000001).isNone,
    headerOf 0x9C0F000000000000 == none, (headerOf 0x9C10FFFF00010000).isNone, (headerOf 0x9C10FFFF00040000).isNone,
    (headerOf 0x9C10FFFF00020000).isSome, Spec.field 0x22DF7D8000000000 40 39 == 3] = true := by decide +kernel

theorem witness_unassigned_opcodes :
    Spec.unassigned (Spec.field 0x071F7C0000000000 63 54) ∧ ¬Spec.unassigned (Spec.field 0x22DF7D8000000000 63 54) := by
  have h : Spec.field 0x071F7C0000000000 63 54 = 0x01C ∧ Spec.field 0x22DF7D8000000000 63 54 = 0x08B := by decide +kernel
  rw [h.1, h.2]
  unfold Spec.unassigned
  omega

def later (i : Instr) (m : Move) : State := { probeOf i with agenda := [{ dt := 40, move := m }] }
def noWord : Nat := 0x071F7C0000000000

/-- A gang's word, a slice's word, a gang and an event that the agenda moves, and a gang at a word that is none. -/
theorem witness_steps : allOf [
    (probeOf addI).agenda == [], (probeOf addI).cur == .gang 1, (probeOf addI).mayIssue (gangFor addI),
    (gangFor addI).clause.words[0]? == some (encode addI), decode (encode addI) == .ok addI,
    slicing (probeOf qldI) fun sl => sl.running && sl.clause.any fun c => c.words[sl.ix]? == some (encode qldI),
    (probeOf qldI).alive ((probeOf qldI).grp 1), !((probeOf qldI).cluster 0).stopped, admits .acc (classOfOpc (opcOf qldI)),
    !endsClause (opcOf qldI),
    State.mayIssue { State.tick { later addI (.gang 1) with agenda := [] } 40 with cur := .gang 1 } (gangFor addI),
    State.gang? { State.tick { later addI (.gang 1) with agenda := [] } 40 with cur := .gang 1 } 1 == some (gangFor addI),
    (later addI (.event .rebuildComplete)).agenda.length == 1, !isWord .rebuildComplete,
    (probe noWord).gang? 1 == some (gangOf noWord), (probe noWord).mayIssue (gangOf noWord), decode (BitVec.ofNat 64 noWord) == .illegalOpc,
    State.reset.sound, match step (probeOf addI) with
    | .next t => t.sound
    | _ => false] = true := by decide +kernel

def bool3I : Instr := .bool3 hp { d := 2, a := .v 4, b := .v 6, c := .v 8, w := true, tt := 0xE8 }

theorem witness_nop_and_bool3 : allOf [
    Spec.field 0x231F7C0000000000 63 54 == 0x08C, Spec.field 0x231F7C0000000000 38 0 == 0, Spec.field 0x231F7C0000000001 38 0 != 0,
    standing (probeOf nopI) nopI, Spec.field (encode bool3I) 63 54 == 0x00F, stands (probeOf bool3I) bool3I fun vs _ => vs.length == 3,
    wellFormed bool3I] = true := by decide +kernel

def aBlock : List Byte := (List.range 62).map fun n => BitVec.ofNat 8 n

theorem witness_block_checksum : allOf [
    aBlock.length == 62, (sealBlock aBlock).length == 64, blkCrcOk (sealBlock aBlock), !blkCrcOk ((sealBlock aBlock).set 5 0xFF)] = true := by decide +kernel

/-- Each bound of the offset under each BOUNDS value, a record that may not be written, and an address that is not canonical. -/
theorem witness_record_addresses : allOf [
    recordAddress (mkRec 0x1000 64 0 false false) 60 0 4 false == .at 0x103C, recordAddress (mkRec 0x1000 64 0 false false) 60 0 4 true == .bad 0x103C,
    recordAddress (mkRec 0x1000 64 1 true false) 60 0 4 true == .at 0x103C, recordAddress (mkRec 0x1000 64 1 true false) 61 0 4 true == .bad 0x103D,
    recordAddress (mkRec 0x1000 64 2 true false) 61 0 4 false == .outside, recordAddress (mkRec 0x1000 64 3 true false) 64 0 4 false == .at 0x1000,
    recordAddress (mkRec 0x1000 64 3 true false) 125 0 4 false == .bad 0x107D, recordAddress (mkRec 0x1000 0 3 true false) 0 0 4 false == .bad 0x1000,
    recordAddress (mkRec 0x0100000000000000 64 0 true false) 0 0 4 false == .bad 0x0100000000000000] = true := by decide +kernel

end Sys2Proof.Tests
end

