-- ==== Sys2Proof/Tests/EventWitness.lean ====
section
/-! SUPPORT. A concrete state that meets the hypotheses of each statement about the events, clause by clause. -/

namespace Sys2Proof.Tests

open Sys2Proof Sys2Proof.Machine

set_option Elab.async false

/-! ### Events of the picker -/

def base : State := probeOf addI
def hasNext (e : Instr) (s : State) : Bool :=
  match exec e s with
  | .next _ => true
  | _ => false

/-- The thread stands at a clause that no gang runs; its group's slot holds the clause, or not. -/
def atClause (pc : DWord) (slot : Option FetchSlot) : State :=
  ({ paged base with gangs := [], cur := .none }.modThread l0 fun th => { th with pc }).modGroup 1 fun g => { g with fslot := slot }
def clause1 : Clause := (gangFor addI).clause
def ready1 : State := atClause clause1.addr (some { clause := clause1, marked := false })
def unfetched (pc : DWord) : State := atClause pc none

/-- A second path, aged, at a clause that no fetch has shown. -/
def behindAged : State := ready1.modGroup 1 fun g =>
  { g with fair := true, width := 2, threads := g.threads ++ [(1, Thread.create 0x4_0000_0010)], paths := [{ pc := 0x4_0000_0010, cnt := 81920, aged := some 0 }] }
/-- A thread that resumes inside the clause at an address, which its slot no longer holds. -/
def midway (a : DWord) : State :=
  (unfetched (a + 8)).modThread l0 fun th => { th with mid := true, header := some (a, clause1.hdr) }
def resumesAt (a : DWord) (f : Except FaultInfo Clause → Bool) : Bool :=
  let s := midway a
  s.idleAt 1 (s.grp 1) (a + 8) == [0] && (s.grp 1).midAt 0 && s.mayStart (s.grp 1) && ((s.grp 1).slotFor true (a + 8)).isNone &&
    !s.slotKept 1 (s.grp 1) (a + 8) && s.fetchOpen 0 0 (a + 8) && (s.thread l0).clauseAddr == some a && (s.thread l0).passing.isNone && f (s.fetchCheck 0 0 a).1
def wdAt (s : State) (n : Nat) : State := s.modGroup 1 fun g => { g with wd := n }

/-- A gang that starts, one behind an aged path; a clause fetched from a good page and from none, after a word or not, and anew for a thread inside
it; a path on both sides of 4,096 clk; a watchdog below its limit and at it, with a thread that works and one that is exempt. -/
theorem witness_picker_events : allOf [
    ready1.gatherGang 0 clause1.addr [1] == some (clause1, 0, [l0]), ready1.agedReady 0 .vec == [],
    !ready1.slotKept 1 (ready1.grp 1) clause1.addr, ready1.headerFault l0 clause1.hdr == none, (ready1.thread l0).live, (ready1.thread l0).pc == clause1.addr,
    (behindAged.gatherGang 0 clause1.addr [1]).isSome, (behindAged.agedReady 0 clause1.hdr.eng).head? == some (1, 0x4_0000_0010, 0),
    [(0x4_0000_0010 : DWord), 0x6_0000_0000].all fun pc => (unfetched pc).idleAt 1 ((unfetched pc).grp 1) pc == [0] && ((unfetched pc).group? 1).isSome &&
      !((unfetched pc).grp 1).midAt 0 && (unfetched pc).mayStart ((unfetched pc).grp 1) && (((unfetched pc).grp 1).slotFor false pc).isNone &&
      !(unfetched pc).slotKept 1 ((unfetched pc).grp 1) pc && (unfetched pc).fetchOpen 0 0 pc,
    match (unfetched 0x4_0000_0010).fetchCheck 0 0 0x4_0000_0010 with
    | (.ok _, _) => true
    | _ => false,
    [none, some (0x4_0000_0008 : DWord)].all fun w => match ((unfetched 0x6_0000_0000).modThread l0 fun th => { th with passing := w }).fetchCheck 0 0 0x6_0000_0000 with
      | (.error _, _) => true
      | _ => false,
    resumesAt 0x4_0000_0010 fun r => match r with
      | .ok c => decide (1 ≤ c.hdr.cnt + 1)
      | _ => false,
    resumesAt 0x4_3FFF_FFF8 fun r => match r with
      | .error f => f.addr == 0x4_3FFF_FFF8
      | _ => false,
    (base.modGroup 1 fun g => { g with paths := [{ pc := 8, cnt := 81920, aged := none }] }).grp 1 |>.path? 8 |>.any fun p => p.aged.isNone && decide (81920 ≤ p.cnt),
    (base.modGroup 1 fun g => { g with paths := [{ pc := 8, cnt := 81919, aged := none }] }).grp 1 |>.path? 8 |>.any fun p => decide (p.cnt < 81920),
    (base.grp 1).wd == 0, (base.group? 1).isSome, !base.exempt l0, (base.thread l0).hold.isNone, (base.grp 1).live.length == 1,
    decide (2 ^ 27 * 20 ≤ ((wdAt base (2 ^ 27 * 20)).grp 1).wd), (wdAt (base.modThread l0 fun th => { th with hold := some { kind := .sleept 9 none false, ft := 0 } })
      (2 ^ 27 * 20)).exempt l0] = true := by decide +kernel

/-! ### Events of memory -/

def opAt (k : OpKind) (data : List Byte) : MemOp := { begunOp with kind := k, va := 0x4_0000_0100, space := .phys 0x40000100, data }
/-- An access in flight under number 9, and the state of its sector. -/
def opState (o : MemOp) (x : Sector) : State := { base with ops := [(9, o)], sectors := [(0x1000004, x)], nextId := 10 }
def owned : Sector := { Sector.init with l1 := [(0, .m)] }
def performs (s : State) (o : MemOp) : Bool :=
  s.sound && s.ops.find? 9 == some o && o.live && !o.rejected && s.opReady 9 o && s.relReady 9 o && s.paKind 0x40000100 == .hbm &&
  (s.sector 0x1000004).win.isNone && !s.heldFor 0x1000004 (some o.lane) && (s.group? o.lane.g).isSome && (s.thread o.lane).live &&
  decide (o.lane.t < (s.grp o.lane.g).width) && decide (opDst o.kind).Nodup
def load9 : MemOp := opAt (.load false [5] none) []
def atom9 : MemOp := opAt (.atom .add false [5]) [1, 0, 0, 0]
def store9 : MemOp := opAt .store [1, 2, 3, 4]
def stale0 : Sector := { Sector.init with stale := [(0, List.replicate 64 9)] }

/-- An atomic that its scope's directory performs, and the sector as that directory holds it. -/
def atomD : MemOp := { atom9 with scope := .clu }
def belowHeld : Sector := { Sector.init with l2own := some 0 }

def lastOnly : State := opState load9 owned
/-- A release store with an earlier load of its thread in flight. -/
def releasing (c : Scope) : MemOp := { store9 with ord := .rel, scope := c }
def overtaking (c : Scope) : State :=
  { opState (releasing c) owned with ops := [(8, { opAt (.load false [5] none) [] with word := 8, va := 0x4_0000_0800, space := .phys 0x40000800 }), (9, releasing c)] }

/-- A load with a copy, with its old bytes, with poison, with nothing; an atomic and a store with and without ownership. -/
theorem witness_performed_accesses : allOf [
    performs (opState load9 owned) load9, performs (opState load9 stale0) load9, ((opState load9 stale0).sector 0x1000004).stale.find? 0 |>.isSome,
    performs (opState load9 { owned with poison := true }) load9, (opState load9 { owned with poison := true }).poisoned 0x40000100 4,
    performs (opState load9 Sector.init) load9, performs (opState atom9 owned) atom9, performs (opState store9 owned) store9,
    !atom9.kind.plainRead && !store9.kind.plainRead, owned.clearFor .core 0, !(opState atom9 owned).poisoned 0x40000100 4,
    ((opState atom9 owned).launch? 1).all fun x => x.snap != .held,
    performs (opState store9 Sector.init) store9, !atom9.atDirectory && !store9.atDirectory && atomD.atDirectory,
    performs (opState atomD belowHeld) atomD, (opState atomD belowHeld).pocReady atomD 0x40000100, !(opState atomD belowHeld).poisoned 0x40000100 4,
    !(opState load9 Sector.init).poisoned 0x40000100 4, lastOnly.sound,
    [Scope.core, .sys].all fun c => let o := releasing c
      (overtaking c).sound && (overtaking c).ops.find? 9 == some o && o.live && !o.rejected && (overtaking c).opReady 9 o && !(overtaking c).relReady 9 o && !o.atDirectory &&
        ((overtaking c).sector 0x1000004).clearFor c 0 && !o.kind.isRead && o.kind.plainRead == false,
    performs (opState atomD Sector.init) atomD, !(opState atomD Sector.init).pocReady atomD 0x40000100] = true := by decide +kernel

def dirAt (lev : Nat) (d : DirSt) : Sector := { Sector.init with dir := [(dirKey lev 0, d)] }
def refused9 (n : Nat) (aged : Option Nat) : MemOp := { load9 with rejected := true, rejects := n, agedAt := aged }
/-- Access 8 has stood on the aged list of the same slice for longest. -/
def otherAged (aged : Option Nat) : State :=
  { opState (refused9 63 aged) Sector.init with ops := [(9, refused9 63 aged), (8, refused9 70 (some 0))] }

/-- A request stands before a directory that has not answered it. -/
def climbs (o : MemOp) (x : Sector) : Bool :=
  (opState o x).ops.find? 9 == some o && o.live && !o.rejected && !(opState o x).answered o 0x40000100 && !(opState o x).entryLost o.level o.core 0x1000004 &&
    !(opState o x).heldFor 0x1000004 (some o.lane) && decide (o.level ≤ 4) && (x.oldBelow (dirKey o.level o.core) o.core).isNone && x.stale == [] && x.l2stale == []

/-- Requests that climb and that are answered, that take a place and that are rejected again; a stale copy; a dirty line. -/
theorem witness_requests : allOf [
    [load9, store9].all fun o => o.level == 0 && performs (opState o Sector.init) o,
    (Sector.init.oldBelow (dirKey 0 0) 0).isNone && ((dirAt 0 .s).oldBelow (dirKey 0 0) 0).isNone, (dirAt 0 .x).stale == [] && (dirAt 0 .x).l2stale == [],
    ((opState load9 (dirAt 0 .s)).sector 0x1000004).dir.find? (dirKey 0 0) == some .s, ((opState store9 (dirAt 0 .x)).sector 0x1000004).dir.find? (dirKey 0 0) == some .x,
    [0, 1, 2, 3, 4].all fun k => climbs { load9 with level := k } Sector.init && climbs { store9 with level := k } Sector.init,
    [0, 1].all fun k => climbs { atomD with level := k, scope := .die } Sector.init, ({ atomD with scope := .die } : MemOp).atDirectory && decide (0 < pocLevel .die), (Sector.init.dir.find? (dirKey 1 0)).isNone,
    !(opState { load9 with level := 4 } Sector.init).pathLost 4 0 0x1000004 false, !(opState { store9 with level := 4 } Sector.init).pathLost 4 0 0x1000004 true,
    ((opState load9 { Sector.init with l2stale := [(0, List.replicate 64 9)] }).sector 0x1000004).l2stale.find? 0 |>.isSome,
    [none, some 5].all fun a => (otherAged a).ops.find? 9 == some (refused9 63 a) && (refused9 63 a).live && (refused9 63 a).rejected,
    ((opState load9 stale0).sector 0x1000004).stale.find? 0 |>.isSome,
    State.sector { base with sectors := [(5, { Sector.init with msc := some 0 })] } (4 * 1 + 1) |>.msc.isSome] = true := by decide +kernel

/-- A free entry with nobody before the request; an older request before a new one and before an aged one, wherever the slice function
puts the address. -/
theorem witness_entries : (opState (refused9 3 none) Sector.init).entryFree 0 (sliceOf 0x40000100) 9 none = true ∧
    (opState (refused9 70 (some 5)) Sector.init).entryFree 0 (sliceOf 0x40000100) 9 (some 5) = true ∧
    ∀ a ∈ [none, some 5], (otherAged a).entryFree 0 (sliceOf 0x40000100) 9 a = false := by
  refine ⟨by decide +kernel, by decide +kernel, fun a ha => ?_⟩
  have h : (otherAged a).ops.any (fun e => e.1 == 8 && e.2.live && e.2.rejected && coreDie e.2.core == 0 && e.2.agedAt == some 0 && e.2.space == .phys 0x40000100) = true := by
    simp only [List.mem_cons, List.not_mem_nil, or_false] at ha
    rcases ha with rfl | rfl <;> decide +kernel
  have : (otherAged a).agedBefore 0 (sliceOf 0x40000100) 9 a = true := by
    rw [List.any_eq_true] at h
    obtain ⟨e, he, h⟩ := h
    simp only [Bool.and_eq_true, beq_iff_eq] at h
    obtain ⟨⟨⟨⟨⟨h1, h2⟩, h3⟩, h4⟩, h5⟩, h6⟩ := h
    rw [State.agedBefore, List.any_eq_true]
    simp only [List.mem_cons, List.not_mem_nil, or_false] at ha
    refine ⟨e, he, ?_⟩
    rcases ha with rfl | rfl <;> simp [h1, h2, h3, h4, h5, h6]
  rw [State.entryFree, this]
  simp

/-! ### Outside agents and ports -/

def hpa : Nat := 0x8_0000_1000_0000
def mailbox : State := { base with hosts := [(0, { HostPort.init with mbxbase := 0x10000001 })] }
def spanUp : State := { base with span := [(3, { SpanPort.init with enabled := true })] }
def down (s : State) (t0 : Nat) : State := { s with hosts := [(0, { HostPort.init with mbxbase := 0x10000001, recovery := some t0 })] }
def farLoad : MemOp := { load9 with space := .phys hpa }

def hostHeld : State := { base with hosts := [(0, { HostPort.init with recovery := some 0 })], ops := [(9, { farLoad with level := 2 })] }
def spanHeld : State :=
  { base with span := [(3, { SpanPort.init with enabled := true, recovery := some 5 })], ops := [(9, { farLoad with space := .phys (0x4_0000_0000_0000 + 2 ^ 40), level := 2 })] }

theorem witness_outside_events : allOf [
    mailbox.sound, mailbox.lostHomes == [] && mailbox.ops == [], spanUp.lostHomes == [] && spanUp.ops == [] && spanUp.sectors == [], (mailbox.sector (hpa / 64)).win.isNone, mailbox.paKind hpa == .window 0, (mailbox.hostPort 0).recovery.isNone,
    spanUp.paKind 0x40000100 == .hbm, (spanUp.spanPort 3).enabled, (spanUp.spanPort 3).recovery.isNone,
    hpa % 64 + [(1 : Byte)].length == 1, 0x40000100 % 64 + (List.replicate 64 (1 : Byte)).length == 64, hpa % 8 == 0,
    base.paKind hpa == .host 0, base.paKind (0x4_0000_0000_0000 + 2 ^ 40) == .span, (base.hostPort 1).recovery.isNone,
    ({ spanUp with span := [(3, { SpanPort.init with enabled := true, recovery := some 5 })] } : State).spanPort 3 |>.recovery |>.isSome,
    ((down base 0).hostPort 0).recovery == some 0, decide ((down base 0).time < 50000000 * 17),
    decide (0 + 50000000 * 17 ≤ (atTime (down base 0) 50000000).time), farLoad.live && farLoad.kind.returns,
    rmwBytes farLoad.kind (List.replicate 4 0) [] == none, (down base 0).paKind hpa == .window 0,
    base.groups.all fun g => g.2.threads.all fun th => th.2.q == [],
    (hostHeld.ops.any fun e => hostHeld.flitHeld (.host 0) e.1 e.2), spanHeld.ops.any fun e => spanHeld.flitHeld .span e.1 e.2, (down base 0).ops == [] && base.parts.all fun e => e.2.ttab == 0,
    !spanHeld.spanOpen, (spanUp.spanOpen), (base.cores.all fun c => c.2.tops == [] && c.2.mma == []), !({ down base 0 with ops := [(9, farLoad)] } : State).answered farLoad hpa,
    ({ down base 0 with ops := [(9, farLoad)], cores := [] } : State).copies == [],
    ({ down base 0 with ops := [(9, farLoad)], cores := [] } : State).sector (hpa / 64) |>.l1 |>.isEmpty, !farLoad.kind.staged,
    (base.group? farLoad.lane.g).isSome && (base.thread farLoad.lane).live && !farLoad.lane.sh, opDst farLoad.kind == [5]] = true := by decide +kernel

/-! ### Copies and the tile engines -/

def copies (l : AMap CopyOp) : State :=
  { paged base with copies := l, dies := [(0, { Die.init with handles := [{ kind := 1, seq := 5, part := 0, gen := 0, state := .pending, launch := 1 }] })] }
def moving (c : CopyOp) : Bool :=
  let s := copies [(20, c)]
  s.sound && s.copies.find? 20 == some c && c.st == .moving && s.copyServed c && decide (c.off ≤ c.len) && !c.lane.sh && (s.thread? c.lane).isSome
/-- Byte `j` of the copy is at `p + j` in memory that the engine may read now. -/
def sourceAt (u : State) (c : CopyOp) (p o : Nat) : Bool :=
  let n := c.step o
  decide (u.copyResolve c (c.src + BitVec.ofNat 64 o) n .rd = (.ok (.phys (p + o)), u)) && u.paKind (p + o) == .hbm &&
    (u.sector ((p + o) / 64)).win.isNone && u.engineMay c.die false (.phys (p + o)) && !u.poisoned (p + o) n &&
    (c.rel || !(u.sector ((p + o) / 64)).dirty) && ((u.sector ((p + o) / 64)).l2stale.find? c.die).isNone
/-- The steps of a copy below an end, all of which find their source from `p` on and their destination from `q` on. -/
def carried (s : State) (c : CopyOp) (e p q : Nat) : Bool :=
  decide (p + c.len ≤ q ∨ q + c.len ≤ p) && ((s.launch? c.launch).all fun x => x.snap != .held) &&
  (Spec.copySteps c e c.off (c.len + 1)).all fun o =>
    let u := Spec.copyTurn s c o
    let v := u.engineReads c.die 0 (.phys (p + o))
    sourceAt u c p o && decide (v.copyResolve c (c.dst + BitVec.ofNat 64 o) (c.step o) .wr = (.ok (.phys (q + o)), v)) &&
      v.paKind (q + o) == .hbm && (v.sector ((q + o) / 64)).win.isNone && v.engineMay c.die true (.phys (q + o))
/-- The end does not resolve, and the failed walk leaves memory and threads alone. -/
def unresolved (u : State) (c : CopyOp) (a : DWord) (n : Nat) (need : Need) : Bool :=
  match u.copyResolve c a n need with
  | (.error _, w) => decide (w.mem = u.mem) && decide (w.groups = u.groups)
  | _ => false
/-- A copy of 72 bytes in nine steps over two sectors on each side, inside one line, its page known to the engine. -/
def longCopy : CopyOp := { aCopy .moving with scope := .pkg, src := 0x4_0000_0210, dst := 0x4_0000_0290, len := 72 }
def carrying (c : CopyOp) : State := ((copies [(20, c)]).copyResolve c 0x4_0000_0000 1 .rd).2
/-- The last source sector of the long copy is poisoned. -/
def spoiledEnd : State := (carrying longCopy).modSector (0x40000240 / 64) fun x => { x with poison := true }
/-- Copies whose source, or whose destination, ends with its page after 64 bytes. -/
def lastPage : CopyOp := { aCopy .moving with scope := .pkg, src := 0x4_3FFF_FFC0, dst := 0x4_3FFF_FF40, len := 128 }
def lastDst : CopyOp := { aCopy .moving with scope := .pkg, src := 0x4_3FFF_FF00, dst := 0x4_3FFF_FFC0, len := 128 }

/-- A queued copy with a free channel and with all eight busy; a copy at its end; copies of one step and of several, sealed and not; one
that fails at a later step at its source, at its destination, by poison; a cancelled copy at its start, inside a sector and at its end. -/
theorem witness_copy_events : allOf [
    (copies [(20, aCopy .queued)]).copyServed (aCopy .queued), (copies [(20, aCopy .queued)]).copyReady 20 (aCopy .queued),
    (copies ((20, aCopy .queued) :: (List.range 8).map fun n => (n + 30, aCopy .moving))).copies.countP (fun e => e.2.st == .moving) == 8,
    moving { aCopy .moving with off := 0x40 }, moving (aCopy .moving), moving longCopy, (carrying longCopy).sound,
    carried (carrying (aCopy .moving)) { aCopy .moving with src := 0x4_0000_0000 } 64 0x40000000 0x40000100,
    Spec.copySteps longCopy 72 0 73 == (List.range 9).map (8 * ·), Spec.copySteps lastPage 128 0 129 == [0, 64],
    [false, true].all fun rel => carried (carrying { longCopy with rel }) { longCopy with rel } 72 0x40000210 0x40000290,
    carried (carrying { longCopy with off := 64 }) { longCopy with off := 64 } 72 0x40000210 0x40000290,
    carried spoiledEnd longCopy 48 0x40000210 0x40000290] = true := by decide +kernel

theorem witness_copies_that_end_early : allOf [
    (let u := Spec.copyTurn spoiledEnd longCopy 48
     decide (u.copyResolve longCopy (longCopy.src + 48) 8 .rd = (.ok (.phys 0x40000240), u)) && u.engineMay 0 false (.phys 0x40000240) &&
       u.poisoned 0x40000240 8),
    carried (carrying lastDst) lastDst 64 0x7FFFFF00 0x7FFFFFC0,
    (let u := Spec.copyTurn (carrying lastDst) lastDst 64
     sourceAt u lastDst 0x7FFFFF00 64 && unresolved (u.engineReads 0 0 (.phys 0x7FFFFF40)) lastDst (lastDst.dst + 64) 64 .wr),
    carried (carrying lastPage) lastPage 64 0x7FFFFFC0 0x7FFFFF40,
    unresolved (Spec.copyTurn (carrying lastPage) lastPage 64) lastPage (lastPage.src + 64) 64 .rd,
    (carrying longCopy).copies.find? 20 == some longCopy && !longCopy.ended && Spec.sectorEnd longCopy == 0,
    Spec.sectorEnd { longCopy with off := 8 } == 48, Spec.sectorEnd { longCopy with off := 48 } == 48, Spec.sectorEnd { longCopy with off := 64 } == 72,
    (let c := { longCopy with off := 8, cancel := true }
     carried (carrying c) c (Spec.sectorEnd c) 0x40000210 0x40000290)] = true := by decide +kernel

/-- Eight sectors of the record of tile operations. -/
def eightPlaces : AMap TPlace :=
  (List.range 8).map fun k => (0x4_0000_1000 / 64 + k, { va := 0x4_0000_1000 + BitVec.ofNat 64 (64 * k), space := .phys (0x40001000 + 64 * k), seen := [] })
def tileOp (k : TileKind) (tn : Fin 8) (efmt : Nat) : TileOp :=
  { id := 9, kind := k, g := 1, gid := 0, launch := 1, part := 0, lanes := [l0], br := tileRec efmt + BitVec.ofNat 256 (512 * 2 ^ 64), va := 0, vb := 0x101, tn, xf := 0,
    tab := 0, scope := .core, places := eightPlaces, cap := none }
def tile1 : ZTile := { els := [(0, 0x3F800000)], poison := [] }
def engine (o : TileOp) : State :=
  ((tileState addI 4 0x101).wrN 0x40001000 [0, 0x3F]).modCore 0 fun c => { c with tops := [o], z := [(1, tile1)], tab := [(0, { len := 4, ent := [(0, 1)] })] }
/-- The sectors of an operation stand in HBM, and the core holds nothing older of them. -/
def plainB (s : State) (pl : AMap TPlace) : Bool :=
  AMap.sorted pl && pl.all fun e => match e.2.space with
    | .phys pa => pa % 64 == 0 && s.paKind pa == .hbm && (s.sector (pa / 64)).win.isNone && ((s.sector (pa / 64)).stale.find? 0).isNone &&
        ((s.sector (pa / 64)).l2stale.find? 0).isNone && (e.2.seen == [] || e.2.seen == (List.range 64).map fun j => s.byteAt (pa + j))
    | _ => false
def transferable (s : State) (o : TileOp) (f : State → Bool) : Bool :=
  (s.core 0).tops.find? (fun x => x.id == o.id) == some o && s.tileMay 0 o && !o.invalid && o.cap.isNone && o.lanes == [l0] && (s.thread? l0).isSome &&
  (s.group? o.g).isSome && plainB s o.places && f s
def wholeB (s : State) (o : TileOp) : Bool :=
  o.places.all (fun e => !Spec.badPlace s e.2) && (o.xf != 2 || o.kind == .ptld || ((s.core 0).table o.tab.val).bad == [])
def transfersOn (o : TileOp) (f : State → TileOp → Bool) : Bool := transferable (engine o) o fun s => f s o
def tab0 (s : State) (o : TileOp) : PTable := (s.core 0).table o.tab.val
/-- A block of zeros, and one whose stored check does not hold. -/
def blockOp (check : Nat) (xf : Nat) : TileOp := { tileOp .tldY 2 1 with br := (tileOp .tldY 2 1).br + BitVec.ofNat 256 (check * 2 ^ 116), xf }
def sealed (s : State) : State :=
  (List.range 8).foldl (fun s k => s.wrN (0x40001000 + 64 * k) (sealBlock (List.replicate 62 0))) s
def blocksPassB (s : State) (o : TileOp) : Bool :=
  o.places.all fun e => blkCheck (recCheck o.br) ((Spec.sectorBytes s o.places e.1).getD []) 0 0 false != .fault

/-- TLD to Z and to Y in each format, under H16 and under PERM, and PTLD: each finds its data, and each could write it. -/
theorem witness_tile_loads : allOf [
    transfersOn (tileOp .tldZ 1 4) fun s o => wholeB s o && (Spec.zLoaded s o 0 0).isSome && o.vb.toNat == Spec.window 1 1,
    [2, 3, 4].all fun e => transfersOn (tileOp .tldY 2 e) fun s o => wholeB s o && (Spec.yLoaded s o (tab0 s o) 0 0).isSome,
    transfersOn { tileOp .tldY 2 2 with xf := 2, va := 4 } fun s o => wholeB s o && Spec.yLoaded s o (tab0 s o) 0 0 == some Spec.nought,
    transfersOn { tileOp .tldY 2 2 with xf := 2, vb := 0x104 } fun s o => wholeB s o && (Spec.yLoaded s o (tab0 s o) 0 0).isSome,
    transferable (sealed (engine (blockOp 1 0))) (blockOp 1 0) fun s => wholeB s (blockOp 1 0) && blocksPassB s (blockOp 1 0) &&
      (Spec.yLoaded s (blockOp 1 0) (tab0 s (blockOp 1 0)) 0 0).isSome,
    transfersOn (blockOp 1 0) fun s o => wholeB s o && blocksPassB s o && Spec.yLoaded s o (tab0 s o) 0 0 == some (.nan false),
    transferable (sealed (engine { blockOp 2 1 with vb := 0x110 })) { blockOp 2 1 with vb := 0x110 } fun s => blocksPassB s (blockOp 2 1) &&
      (Spec.yLoaded s (blockOp 2 1) (tab0 s (blockOp 2 1)) 15 0).isSome,
    transfersOn { tileOp .ptld 1 4 with vb := 4 } fun s o => wholeB s o && Spec.entryLoaded s o 0 == some 0x3F00 && (Spec.entryLoaded s o 3).isSome] = true := by decide +kernel

def storing (o : TileOp) (f : State → List (DWord × List Byte) → Bool) : Bool :=
  transfersOn o fun s o => s.sound && o.writes && recWr o.br && ((s.launch? 1).all fun x => x.snap != .held) && ((s.core 0).ztile o.tn.val).poison == [] &&
    (o.xf != 2 || (tab0 s o).bad == []) && f s (Spec.tileStores o ((s.core 0).ztile o.tn.val) (tab0 s o))
/-- Store `n` of a transfer is still to be made. -/
def makes (o : TileOp) (l : List (DWord × List Byte)) (n : Nat) : Bool :=
  !o.early.contains n && (l[n]?).any fun e => (o.places.find? (e.1.toNat / 64)).isSome

/-- TSV in each format, TSUM of both kinds and QCV, straight and through a table; one store of a TSV already made. -/
theorem witness_tile_stores : allOf [
    [2, 3, 4].all fun e => storing (tileOp .tsv 1 e) fun _ l => l.length == 1 && makes (tileOp .tsv 1 e) l 0,
    storing { tileOp .tsv 1 4 with early := [0], vb := 0x102 } fun _ l => makes { tileOp .tsv 1 4 with early := [0], vb := 0x102 } l 1,
    [false, true].all fun b => storing (tileOp (.tsum b) 1 4) fun _ l => makes (tileOp (.tsum b) 1 4) l 0 && makes (tileOp (.tsum b) 1 4) l 127,
    [false, true].all fun b => [0, 2].all fun xf => storing { tileOp (.qcv b) 1 1 with vb := 0x100, xf } fun _ l =>
      makes { tileOp (.qcv b) 1 1 with vb := 0x100, xf } l 0 && l.length == 1,
    Spec.qcvColumn { tileOp (.qcv true) 1 1 with xf := 2 } { len := 4, ent := [(0, 1)], bad := [] } 0 0 == some 1] = true := by decide +kernel

def spoiledPlace (s : State) (k : Nat) : State := s.modSector (0x40001000 / 64 + k) fun x => { x with poison := true }
def failing (s : State) (o : TileOp) (f : State → Bool) : Bool :=
  transferable s o fun s => ((s.launch? 1).all fun x => !x.replayable && x.state != .replaying) && f s

/-- A later sector poisoned, a block that fails its check under FAULT, a poisoned tile entry, a poisoned table. -/
theorem witness_tile_failures : allOf [
    [tileOp .tldZ 1 4, { tileOp .ptld 1 4 with vb := 4 }].all fun o => failing (spoiledPlace (engine o) 1) o fun s =>
      (o.places.map fun e => Spec.badPlace s e.2) == [false, true, false, false, false, false, false, false],
    failing (engine (blockOp 2 0)) (blockOp 2 0) fun s => (blockOp 2 0).places.all (fun e => !Spec.badPlace s e.2) &&
      blkCheck (recCheck (blockOp 2 0).br) ((Spec.sectorBytes s eightPlaces (0x4_0000_1000 / 64)).getD []) 0 0 false == .fault,
    failing ((engine (tileOp .tsv 1 4)).modCore 0 fun c => { c with z := [(1, { tile1 with poison := [0] })] }) (tileOp .tsv 1 4) fun s =>
      ((s.core 0).ztile 1).poison == [0],
    failing ((engine { tileOp (.qcv true) 1 1 with vb := 0x100, xf := 2 }).modCore 0 fun c => { c with tab := [(0, { len := 4, ent := [], bad := [0] })] })
      { tileOp (.qcv true) 1 1 with vb := 0x100, xf := 2 } fun s => ((s.core 0).ztile 1).poison == [] && ((s.core 0).table 0).bad != []] = true := by decide +kernel

def matrixOp : MmaOp :=
  { mmaOf ([0, 0, 0, 0, 0, 0, 0, 0, 64, 0, 0, 0, 0, 0, 0, 0, 1, 1, 1, 4, 0, 0x11] ++ List.replicate 42 0) ((tileState addI 2 0).grp 1) with
    id := 9, g := 1, gid := 0, launch := 1, part := 0, lanes := [l0], places := eightPlaces, handle := some 0x2000_0000_0000_0005 }
def matrixOn (s : State) (o : MmaOp) : State := s.modCore 0 fun c => { c with mma := [o] }
/-- The engine streams the MMA, and it may end. -/
def multiplies (s : State) (o : MmaOp) (here : Bool) : Bool :=
  (s.core 0).mma.head? == some o && (s.core 0).mmaReady o && s.placesOpen 0 false o.places && s.tileOrder o.lanes o.id false o.places &&
  s.launchRuns o.launch && (s.thread? l0).isSome && (s.group? o.g).isSome == here && plainB s o.places && decide (o.m ≤ 64 ∧ o.n ≤ 64 ∧ 1 ≤ o.m) && o.lanes == [l0] &&
  ((s.core 0).ytile o.yt.val).poison == [] && ((s.core 0).ztile o.zt.val).poison == []
def multiplyOn (o : MmaOp) (here : Bool) : Bool :=
  multiplies (matrixOn (tileState addI 2 0) o) o here && o.places.all (fun e => !Spec.badPlace (matrixOn (tileState addI 2 0) o) e.2)

/-- MMAs of each format of A, with a Y pair, check sums, an overwrite, its group gone, its Y tiles its own; one that meets poison. -/
theorem witness_matrix_multiplies : allOf [
    matrixOp.cap.isNone, [1, 2, 3, 4].all fun e => multiplyOn { matrixOp with arec := (tileOp .tldZ 1 e).br } true, multiplyOn { matrixOp with g := 2 } false,
    [true, false].all fun b => multiplyOn { matrixOp with ypair := b, chk := b, ovw := b, cap := some ({ els := [], poison := [] }, { els := [], poison := [] }) } true,
    (matrixOn (tileState addI 2 0) { matrixOp with arec := (tileOp .tldZ 1 1).br }).mem != [] &&
      blocksPassB (matrixOn (tileState addI 2 0) matrixOp) (tileOp .tldZ 1 1),
    (let s := spoiledPlace (matrixOn (tileState addI 2 0) matrixOp) 2
     multiplies s matrixOp true && eightPlaces.map (fun e => Spec.badPlace s e.2) == [false, false, true, false, false, false, false, false] &&
       ((s.launch? 1).all fun x => !x.replayable && x.state != .replaying))] = true := by decide +kernel

def loadedAt (va : DWord) : State :=
  (paged base).modThread l0 fun th => { th with q := [(3, [{ va, scope := .core, val := none, fault := none }])] }
def loaded : State := loadedAt 0x4_0001_0100
def loadReaches (s : State) (may poison : Bool) : Bool :=
  match (s.used 1).resolve 1 0x4_0001_0100 4 .rd with
  | (.ok sp, s1) => s1.engineMay (coreDie (s1.grp 1).core) false sp == may && s1.spacePoison sp 4 == poison && decide ((s1.thread l0).q = (s.thread l0).q) &&
      (s1.thread? l0).isSome && sp == .phys 0x40010100 && s1.paKind 0x40010100 == .hbm && (s1.sector 0x1000404).win.isNone &&
      ((s1.launch? 1).all fun x => !x.replayable && x.state != .replaying) && (s1.grp 1).core == (s.grp 1).core && (s1.grp 1).launch == (s.grp 1).launch
  | _ => false
def loadFails (s : State) : Bool :=
  match (s.used 1).resolve 1 0x6_0000_0000 4 .rd with
  | (.error x, s1) => x != .poison && decide ((s1.thread l0).q = (s.thread l0).q) && (s1.thread? l0).isSome
  | _ => false
def regionStore : RStore := { va := 0x4_0000_0100, space := .phys 0x40000100, data := [1, 2, 3, 4], sym := none }
def aTag : SymTag := { input := 0, wide := false, chain := .int 3 }
def fTag : SymTag := { input := 0, wide := false, chain := .flt false [{ val := 0x3F800000, neg := true, rm := .rne }] }
/-- An input a conflict has touched. -/
def input0 : RInput := { va := 0x4_0000_0140, space := .phys 0x40000140, size := 4, val := 9, trackable := true, mark := true }
def con0 (outcome : Bool) : RCon := { cmp := .int .eq false, tagFirst := true, tag := aTag, other := 3, pc := true, outcome }
/-- Two stores that meet, the later one symbolic. -/
def rgn2 (tag : SymTag) (outcome : Bool) : Region :=
  { rgn with stores := [regionStore, { regionStore with va := 0x4_0000_0102, space := .phys 0x40000102, sym := some tag }], inputs := [input0],
             cons := [con0 outcome], tags := [(5, tag), (6, { aTag with wide := true })], tflags := 0x10 }
def committing (r : Region) : State :=
  ((paged base).modCore 0 fun c => { c with commits := [l0] }).modThread l0 fun th =>
    { th with region := some r, hold := some { kind := .commit, ft := 0x4_0000_0010 } }
def mayCommitB (s : State) (r : Region) : Bool :=
  s.sound && (s.core 0).commits == [l0] && (s.thread l0).region == some r && (s.grp 1).core == 0 && !(s.grp 1).prot && (s.thread? l0.shadow).isNone &&
    (s.thread l0).hold == some { kind := .commit, ft := 0x4_0000_0010 } && !(s.die 0).fenced && s.releasable l0 r.scope && !s.regionWaits l0 r && s.regionOpen 0 r &&
    ((s.launch? 1).all fun x => x.snap != .held) &&
    (r.inputs.map (fun i => (i.space, i.size)) ++ r.stores.map fun y => (y.space, y.data.length)).all fun e => match e.1 with
      | .phys pa => s.paKind pa == .hbm && (s.sector (pa / 64)).win.isNone && decide (pa % 64 + e.2 ≤ 64) && !s.poisoned pa e.2
      | _ => false
def sleeping (h : Option DWord) (t : Nat) : State :=
  atTime ((paged base).modThread l0 fun th => { th with hold := some { kind := .sleept 9 h false, ft := 0x4_0000_0010 } }) t

/-- A queue entry in flight, whose load reaches memory, poison, nothing open, no page; commits without a store, with two that meet, tags and a
constraint; with an input that may not be replayed, with a constraint that comes out otherwise; without a region, on a fenced die, over a lost home. -/
theorem witness_thread_engine_events : allOf [
    loaded.sound, (loaded.thread l0).q.find? 3 |>.any fun es => es == [{ va := 0x4_0001_0100, scope := .core, val := none, fault := none }],
    loadReaches loaded true false, loadReaches { loaded with lostHomes := [1] } false false, loadFails (loadedAt 0x6_0000_0000),
    loadReaches (loaded.modSector 0x1000404 fun x => { x with poison := true }) true true,
    [rgn, rgn2 aTag true, rgn2 fTag true, rgn2 aTag false, { rgn2 aTag true with untrackable := true }].all fun r => mayCommitB (committing r) r,
    Spec.constraintNow (rgn2 aTag true) (committing (rgn2 aTag true)) .eq false (con0 true), (con0 false).outcome == false,
    (rgn2 aTag true).tags.map Spec.tagDst == [[5], [6, 7]],
    Spec.storedNow (rgn2 aTag true) (committing (rgn2 aTag true)) { regionStore with sym := some aTag } == [3, 0, 0, 0],
    Spec.storedNow (rgn2 fTag true) (committing (rgn2 fTag true)) { regionStore with sym := some fTag } == [0, 0, 0x80, 0xBF],
    ((committing rgn).thread l0).region == some rgn, (closed (committing rgn)).core 0 |>.commits |> (· == [l0]),
    ({ committing rgn with dies := [(0, { Die.init with fenced := true })] } : State).die 0 |>.fenced,
    !({ committing (rgn2 aTag true) with lostHomes := [0] } : State).regionOpen 0 (rgn2 aTag true),
    [sleeping none 8, sleeping none 9, sleeping (some 0) 9].all fun s => s.alive (s.grp 1) && !(s.cluster 0).stopped,
    (sleeping none 8).dclk 0 == 8, (sleeping none 9).dclk 0 == 9, (sleeping (some 0) 9).hState 0 0 == .complete,
    ((sleeping (some 0) 9).hCopy 0 0).isNone] = true := by decide +kernel

/-- Whatever the free value, the one open entry of a queue is the one that returns. -/
theorem witness_open_entry : ∀ n : Nat, ([(({ va := 0x4_0001_0100, scope := .core, val := none, fault := none } : QEntry), 0)])[n % 1]? =
    some ({ va := 0x4_0001_0100, scope := .core, val := none, fault := none }, 0) := by
  intro n
  simp [Nat.mod_one]

/-! ### Queues and launches -/

/-- A launch record that keeps every range. -/
def goodRec : LaunchRec :=
  { entry := 0x4_0000_0000, access := 0, rtab := 0, stkbase := 0x5_0000_0000, handler := 0, itot := 0, itile := 0, crews := 2, width := 8, gpc := 1, cscope := 0,
    mcnt := 0, mdim := 1, vcnt := 8, stkf := 4, gscr := 0, cregs := 4, cscr := 0, cstash := 0, prio := 0, split := false, idem := false, snap := false, prot := false,
    fair := false, preds := [0, 0, 0, 0], crec := 0x4_0000_0400 }
/-- Its 256 bytes, with a stamp. -/
def recordOf (r : LaunchRec) (stamp : Nat) : List Byte := Spec.recordOf r ++ bytesOfNat 8 stamp

def qbase : Nat := hpa + 0x1000
def queue0 : PQueue := { qb := qbase, slots := 4, head := 0, drops := 0, lastDrop := 0, waited := 0, handles := [] }
/-- A resident partition with a mailbox window, a page table and one queue. -/
def queued (x : PQueue) : State :=
  let s := { paged base with hosts := mailbox.hosts }
  s.modPart 0 fun y => { y with queues := [(0, x)] }
def offered (r : List Byte) : State := (queued queue0).wrN (qbase + 256) r
def queueUpB (s : State) (x : PQueue) (n : Nat) : Bool := (s.partn 0).queues.find? 0 == some x && (s.partn 0).state == .resident && s.queueOpen 0 x n
def stampedB (s : State) (x : PQueue) : Bool := s.rdNat (x.slot x.head + 248) 8 == (x.head + 1) % 2 ^ 64
def placed (s : State) : Bool :=
  match (s.headOn 0 0).crecPlace 0 (parseRec (s.rdN (queue0.slot 0) 256)).crec with
  | (some _, _) => true
  | (none, _) => false
/-- The record in the slot of HEAD is ready to be taken, and holds these fields. -/
def taken (s : State) (r : LaunchRec) : Bool :=
  queueUpB s queue0 0 && stampedB s queue0 && s.engineOpen 0 true r.crec 64 && r.rtab == 0 && (s.rdN (queue0.slot 0) 256).take 248 == Spec.recordOf r &&
    parseRec (s.rdN (queue0.slot 0) 256) == r && r.preds.length == 4
def reserving (n : Nat) : List Byte := (Spec.recordOf goodRec).set n 0xFF ++ bytesOfNat 8 1

/-- A slot without its stamp, a record in a lost home; records that are dropped, and ones with a reserved bit set. -/
theorem witness_queue_takes : allOf [
    queueUpB (offered (recordOf goodRec 0)) queue0 0, !stampedB (offered (recordOf goodRec 0)) queue0,
    !({ offered (recordOf goodRec 1) with lostHomes := List.range 256 } : State).engineOpen 0 true goodRec.crec 64,
    ((queued { queue0 with handles := [(0, (0, 5))] }).partn 0).queues.find? 0 |>.any fun x => x.handles.find? x.head == some (0, 5),
    taken (offered (recordOf { goodRec with crec := 0 } 1)) { goodRec with crec := 0 } && !placed (offered (recordOf { goodRec with crec := 0 } 1)),
    [54, 55, 63, 104, 247].all fun n => let s := offered (reserving n)
      queueUpB s queue0 0 && stampedB s queue0 && s.engineOpen 0 true goodRec.crec 64 && placed s && (parseRec (s.rdN (queue0.slot 0) 256)).rtab == 0] = true := by decide +kernel

/-- One field after another out of range. -/
def outOfRange : List LaunchRec := [
  { goodRec with width := 7 }, { goodRec with gpc := 65 }, { goodRec with gpc := 0 }, { goodRec with cscope := 4 }, { goodRec with mcnt := 9 }, { goodRec with mdim := 0 },
  { goodRec with vcnt := 12 }, { goodRec with vcnt := 104 }, { goodRec with stkf := 3 }, { goodRec with gscr := 1 }, { goodRec with crews := 0 },
  { goodRec with split := true }, { goodRec with itile := 1 }, { goodRec with stkbase := 8 }]
def badCarves : List LaunchRec := [{ goodRec with cregs := 3 }, { goodRec with cregs := 11 }, { goodRec with cstash := 25 }]
def bigRecord : LaunchRec := { goodRec with width := 64, gpc := 64, vcnt := 96, mcnt := 8, mdim := 6, cscope := 3, cregs := 10, cscr := 24 }
def takes (r : LaunchRec) : Bool := let s := offered (recordOf r 1); taken s r && placed s

/-- Records out of range, of a bad carve, and good ones, the widest among them. -/
theorem witness_record_ranges : allOf [outOfRange.all takes, badCarves.all takes, takes goodRec, takes bigRecord] = true := by decide +kernel

def inWindow (s : State) (a n : Nat) : Bool := (List.range n).all fun k => s.paKind (a + k) == .window 0
def tailOn (x : PQueue) : State := (queued x).wrN qbase (bytesOfNat 8 1)
def late0 : PQueue := { queue0 with waited := 10000000 * 17 }
def buffered (n : Nat) : State :=
  (queued queue0).modPart 0 fun y => { y with lbuf := [{ q := 0, n, bytes := recordOf goodRec 0, handle := none }] }

/-- A reservation nobody wrote, before its time and at it; a buffered record with its slot free and with the queue full. -/
theorem witness_reservations : allOf [
    [{ late0 with waited := 10000000 * 17 - 1 }, late0].all fun x => queueUpB (tailOn x) x 0 && !stampedB (tailOn x) x && (tailOn x).rdNat x.qb 8 == 1 &&
      ((tailOn x).partn 0).lbuf == [], (tailOn late0).sound, late0.qb % 256 == 0, inWindow (tailOn late0) qbase 256,
    [0, 4].all fun n => ((buffered n).partn 0).lbuf.length == 1 && queueUpB (buffered n) queue0 n,
    (buffered 0).sound, inWindow (buffered 0) (queue0.slot 0) 256, (recordOf goodRec 0).length == 256] = true := by decide +kernel

/-- Launch 5 in a state, on a die with sites 0 and 1. -/
def launch5 (st : LState) (r : LaunchRec) : Launch :=
  { part := 0, queue := 0, resv := 0, lrec := r, rtab := [], state := st, reason := none, fault := none, replayFault := none, tstart := 0, tend := 0, nreplay := 0,
    crewsC := 2, dealt := [], retired := 0, mirr := false, sideEffect := false, snap := .none, caps := [], handle := none, served := none, affected := false, crecPa := 0x40000400 }
def rec5 : LaunchRec := { probeRec with width := 8, crews := 2, cregs := 4, crec := 0x4_0000_0400, mcnt := 0 }
def withLaunch (x : Launch) : State :=
  let s := queued queue0
  { s with launches := s.launches.set 5 x, dies := [(0, { Die.init with sites := 3 })], nextId := 10 }
def launchWaits (r : LaunchRec) : State := withLaunch (launch5 .waiting r)
def predRec : LaunchRec := { rec5 with preds := [0x4_0000_0800] }
def predIs (v : Nat) : State := (launchWaits predRec).wrN 0x40000800 (bytesOfNat 4 v)
def predB (s : State) (x : PredSt) : Bool := (s.predState 0 predRec.preds).1 == x
def readyToDeal (s : State) (r : LaunchRec) : Bool :=
  match s.predState 0 r.preds with
  | (.ok, s1) => s.launch? 5 == some (launch5 .waiting r) && (s.partn 0).state == .resident && !s.queueHeld 5 (launch5 .waiting r) && s.engineOpen 0 true r.crec 64 &&
      !s.servesFirst 5 (launch5 .waiting r) && s1.crewsInForce (launch5 .waiting r) == r.crews && !s1.fitFails (launch5 .waiting r)
  | _ => false
def towerRec : LaunchRec := { rec5 with fair := true, cscope := 3 }
def twoTowers : State := (launchWaits towerRec).modPart 0 fun y => { y with cfg := y.cfg.set 4 0x0800_10FF_0005 }
/-- A launch of queue 0 has its turn before one of queue 1. -/
def turned : State :=
  { launchWaits rec5 with launches := [(1, ((launchWaits rec5).launch? 1).getD default), (4, launch5 .waiting rec5), (5, { launch5 .waiting rec5 with queue := 1 })] }
def bigRec : LaunchRec := { rec5 with gpc := 64, width := 64 }

/-- A predecessor that has not ended, has failed, has ended well; a launch no unit can hold; one the tower rule refuses; one that is dealt. -/
theorem witness_launch_ready : allOf [
    !({ launchWaits rec5 with lostHomes := List.range 256 } : State).engineOpen 0 true rec5.crec 64, (launchWaits rec5).launch? 5 == some (launch5 .waiting rec5),
    predB (predIs 0) .waits, predB (predIs 3) .fails, predB (predIs 2) .ok, (predIs 0).launch? 5 == some (launch5 .waiting predRec),
    readyToDeal (predIs 2) predRec, readyToDeal (launchWaits rec5) rec5,
    ({ launchWaits rec5 with launches := (launchWaits rec5).launches.set 4 (launch5 .waiting rec5) } : State).queueHeld 5 (launch5 .waiting rec5),
    turned.engineOpen 0 true rec5.crec 64 && turned.servesFirst 5 { launch5 .waiting rec5 with queue := 1 } && !turned.queueHeld 5 { launch5 .waiting rec5 with queue := 1 },
    (turned.predState 0 rec5.preds).1 == .ok, decide (1 < (twoTowers.partn 0).towers) && towerRec.fair && towerRec.cscope == 3 && !twoTowers.queueHeld 5 (launch5 .waiting towerRec),
    !decide (1 < ((launchWaits bigRec).partn 0).towers), (launchWaits bigRec).fitFails (launch5 .waiting bigRec)] = true := by decide +kernel

def starting (d : Die) : State := { base with dies := [(0, d)] }
/-- Core 1 has the carve of the launch. -/
def admitting (st : LState) : State :=
  let x := { launch5 st rec5 with dealt := [{ unit := 0, cid := 1 }] }
  (withLaunch x).modCore 1 fun c => { c with carve := some rec5.carve }
def admitted5 : Launch := { launch5 .ready rec5 with dealt := [{ unit := 0, cid := 1 }] }
/-- A launch of another carve, served earlier, has a core still to mark, and neither finds a place. -/
def rec4 : LaunchRec := { rec5 with cregs := 8 }
def marking : State :=
  let s := withLaunch { launch5 .ready rec5 with dealt := [{ unit := 0, cid := 1 }], served := some 2 }
  let s := { s with launches := s.launches.set 4 { launch5 .ready rec4 with dealt := [{ unit := 0, cid := 0 }], served := some 1 } }
  [0, 1].foldl (fun s c => s.modCore c fun k => { k with carve := some { regs := 2, scr := 0, stash := 0 } }) s
def marking5 : Launch := { launch5 .ready rec5 with dealt := [{ unit := 0, cid := 1 }], served := some 2 }
def finishing (crec : DWord) : State := withLaunch (launch5 .finishing { rec5 with crec })
def writes (s : State) (crec : DWord) (f : Except XErr Nat → Bool) : Bool := f (s.engineXlate 0 crec .wr).1
def replaying (caps : List Capture) : State := withLaunch { launch5 .replaying rec5 with caps }

/-- Starts with room and without; a crew that fits; completion with a place, without one, and while an access is in flight; replays. -/
theorem witness_launch_events : allOf [
    ((starting { Die.init with stage := [1, 2] }).die 0).stage == [1, 2], ((starting { Die.init with stage := [1], starts := List.replicate 8 0 }).die 0).starts.length == 8,
    (admitting .ready).launch? 5 == some admitted5, admitted5.nextCrew 0 == some { unit := 0, cid := 1 }, (admitting .ready).launchAdmits admitted5,
    !(admitting .ready).outranked 5 admitted5 0, ((admitting .ready).units ((admitting .ready).partn 0) 0) == [(0, 2)],
    ((admitting .ready).crewOnUnit 5 admitted5 0 1).isSome, !(withLaunch (launch5 .waiting rec5)).launchAdmits (launch5 .waiting rec5),
    marking.launch? 5 == some marking5, marking5.nextCrew 0 == some { unit := 0, cid := 1 }, marking.launchAdmits marking5, !marking.outranked 5 marking5 0,
    (marking.units (marking.partn 0) 0).any fun u => u.1 == 0, (marking.crewOnUnit 5 marking5 0 1).isNone, marking.marksFirst 5 marking5 0,
    [0x4_0000_0400, 0x7_0000_0000].all fun c => (finishing c).engineOpen 0 true c 64 && !(finishing c).kindLost ((finishing c).paKind 0x40000400),
    !({ finishing 0x4_0000_0400 with lostHomes := List.range 256 } : State).engineOpen 0 true 0x4_0000_0400 64, (finishing 0x4_0000_0400).launchQuiet 5, (finishing 0x4_0000_0400).sound,
    writes (finishing 0x4_0000_0400) 0x4_0000_0400 fun r => match r with
      | .ok pa => pa == 0x40000400 && (finishing 0x4_0000_0400).paKind pa == .hbm
      | .error _ => false,
    writes (finishing 0x7_0000_0000) 0x7_0000_0000 fun r => match r with
      | .ok _ => false
      | .error _ => true,
    !({ finishing 0 with ops := [(9, { load9 with launch := 5 })] } : State).launchQuiet 5,
    [[], [({ granule := 0x4001, entry := 0, poison := [] } : Capture)]].all fun cs => (replaying cs).sound && !(replaying cs).rebuilding &&
      (replaying cs).replayQuiet 5 && ((replaying cs).launch? 5).any fun x => x.caps == cs && x.state == .replaying,
    ({ replaying [] with dies := [(1, { Die.init with fenced := true, fencedAt := some 0 })] } : State).rebuilding,
    !({ replaying [] with ops := [(9, { load9 with launch := 5 })] } : State).replayQuiet 5] = true := by decide +kernel

/-! ### Partitions, contexts -/

/-- A partition in a state; its die, its class and its port stand in word 4 of its configuration. -/
def partOf (st : PState) (w4 : DWord) : Partition := { Partition.init with state := st, cfg := [(4, w4)] }
/-- Partitions on die 0 of a package that is up, with nothing placed. -/
def package (ps : AMap Partition) : State :=
  { State.reset with parts := ps, boot := { State.reset.boot with step := 6 }, dies := [(0, { Die.init with sites := 3 })], time := 100000000 * 17 }
/-- Word 4: DIEMASK, QCNT 1, QOS. -/
def qosWord (qos : Nat) : DWord := BitVec.ofNat 64 (1 + 2 ^ 16 + qos * 2 ^ 30 + 0x0101_0001 * 2 ^ 32)
def one (st : PState) (qos : Nat) : State := package [(0, partOf st (qosWord qos))]
def legalPart : Partition :=
  { Partition.init with cfg := [(0, 0x1000), (1, 0x1_0000), (2, 0x1_0000), (3, BitVec.ofNat 64 hpa), (4, qosWord 1)] }
/-- A free partition whose configuration names one queue of two slots in the mailbox window. -/
def creating : State :=
  let s := { package [(0, legalPart)] with hosts := mailbox.hosts }
  s.wrN hpa (bytesOfNat 8 qbase ++ [1])
def someLaunch (st : LState) : Launch := { launch5 st rec5 with part := 0 }

/-- A configuration out of range and a legal one; partitions of each state with nothing on a core; a launch to kill. -/
theorem witness_partition_events : allOf [
    (one .free 1).createQueues 0 == none, (creating.createQueues 0).any fun qs => qs.length == 1, creating.sound, (creating.partn 0).state == .free,
    (package []).boot.step == 6 && !(package []).boot.recovery, creating.parts.all (fun e => e.2.queues == []), ((one .free 0).partn 0).state == .free,
    [PState.resident, .saving, .swapped, .restoring].all fun st => ((one st 0).partn 0).state == st && decide ((one st 0).ofPart 0 = []) &&
      (one st 0).ops == [] && (one st 0).cores == [],
    ((one .killing 0).partn 0).state == .killing,
    ({ one .killing 0 with launches := [(5, someLaunch .running)] } : State).launch? 5 |>.any fun x => x.part == 0 && x.state != .done,
    ((package [(0, { partOf .killing (qosWord 0) with resetting := true })]).partn 0).resetting] = true := by decide +kernel

def sharing (qos qos' : Nat) (since : Nat) (wake : Bool) : State :=
  package [(0, { partOf .resident (qosWord qos) with since }), (1, { partOf .swapped (qosWord qos') with wakepend := wake })]
def blocked : State := { base with clusters := [(0, { Cluster.init with stopping := true, stopped := true, stopParts := [0] })] }

/-- A swap-out that may begin and one that waits; slices over and not; an idle LATENCY partition; one that comes in, by each class. -/
theorem witness_residency_events : allOf [
    [0, 1, 2].all fun q => !(one .resident q).swapBlocked 0 && ((one .resident q).partn 0).qos == q, blocked.swapBlocked 0, (blocked.partn 0).state == .resident,
    (sharing 1 0 0 true).rival 0 (fun q => q == 0), (sharing 1 1 0 true).rival 0 (fun q => q == 1),
    decide (((sharing 1 1 0 true).partn 0).since + ((sharing 1 1 0 true).partn 0).tslice * 1000 * 17 ≤ (sharing 1 1 0 true).time),
    decide ((sharing 1 1 (99999999 * 17) true).time < 99999999 * 17 + ((sharing 1 1 0 true).partn 0).tslice * 1000 * 17),
    ({ sharing 1 1 (99999999 * 17) true with launches := [(5, someLaunch .running)] } : State).hasWork 0, !(sharing 1 1 (99999999 * 17) true).rival 0 (fun q => q == 0),
    (sharing 2 2 0 true).rival 0 (fun _ => true), (sharing 0 1 0 true).rival 0 (fun _ => true), !(sharing 0 1 0 true).hasWork 0,
    decide (((sharing 0 1 0 true).partn 0).since + 100000 * 17 ≤ (sharing 0 1 0 true).time), !(sharing 0 1 0 false).rival 0 (fun _ => true),
    !(one .swapped 2).diesTaken 0, (one .swapped 2).mayEnter 0, !(one .swapped 2).rebuilding, !(one .swapped 0).mayEnter 0,
    (package [(0, { partOf .swapped (qosWord 0) with wakepend := true })]).mayEnter 0, (sharing 1 0 0 true).diesTaken 1] = true := by decide +kernel

/-- A partition being saved with one group of one thread on a core, no gang, a Cocoon, and a table that maps nothing. -/
def saving (virt : Bool) (len : DWord) : State :=
  let s := ({ base with gangs := [], cur := .none, pkg := { base.pkg with virt }, dies := [(0, { Die.init with sites := 3 })] } : State)
  s.modPart 0 fun y => { y with state := .saving, cfg := y.cfg.set 2 len }
def roomFor (s : State) : List Bool := (Spec.contexts s 0).map fun c => c.cocoon || decide (c.size ≤ ((s.partn 0).share c.die).2)

theorem witness_saves : allOf [
    [saving true 0, saving false 0, saving false 0x10000].all fun s => s.saveReady 0 && (s.partn 0).state == .saving,
    roomFor (saving true 0) == [true], roomFor (saving false 0) == [false], roomFor (saving false 0x10000) == [true],
    !base.saveReady 0] = true := by decide +kernel

/-- The same partition being restored from the Cocoon. -/
def restoring (w : Option Nat) : State :=
  match (saving true 0).saveComplete 0 with
  | some s => s.modPart 0 fun y => { y with state := .restoring, wakeAt := w }
  | none => saving true 0

theorem witness_restores : allOf [
    ((restoring none).partn 0).state == .restoring, !(restoring none).rebuilding, (restoring none).clusters == [],
    match ((restoring none).partn 0).ctxs with
    | [c] => c.cocoon && (match c.groups with
      | [x] => c.crews == [x.group.crew] && ((restoring none).launch? x.group.launch).isSome && ((restoring none).savedKey x).isSome &&
          ((restoring none).restoreCrew 0 c.die [x]).isSome && (x.group.threads.find? 0).isSome
      | _ => false)
    | _ => false,
    ((package [(0, { partOf .restoring (qosWord 0) with wakeAt := some 0 })]).partn 0).qos == 0,
    decide (0 + 20000 * 17 < (package []).time)] = true := by decide +kernel

def invalidating : State := ({ base with launches := [] } : State).modPart 0 fun y => { y with tlbBusy := true, tlbAll := true }

/-- The same with a launch whose completion record lies in the range, on a page that stands and on one that does not. -/
def recordIn (crec : DWord) : State := { finishing crec with launches := (finishing crec).launches.filter fun e => e.1 == 5 }
def recording : State := (recordIn 0x4_0000_0400).modPart 0 fun y => { y with tlbBusy := true, tlbAll := true }
def recordLost : State := (recordIn 0x7_0000_0000).modPart 0 fun y => { y with tlbBusy := true, tlbAll := true }

/-- An invalidation that may end and one an access holds up; MBXBASE from off, from on, and on to another place. -/
theorem witness_other_context_events : allOf [
    (package []).boot.step == 6 && !(package []).boot.recovery, !((one .free 0).partn 0).tlbBusy, (one .free 0).areasOpen 0 [],
    !({ one .restoring 0 with lostHomes := List.range 256 } : State).areasOpen 0 [0],
    (invalidating.recordsIn 0).isEmpty && !(Spec.invalidated invalidating 0).recordHeld 0,
    recording.recordsIn 0 == [5] && !recording.heldIn 0 && (recording.regionsIn 0).isEmpty, !(Spec.invalidated recording 0).recordHeld 0,
    (Spec.invalidated recording 0).recordsIn 0 == [5] && ((Spec.invalidated recording 0).crecPlace 0 0x4_0000_0400).1 == some 0x40000400,
    !(recordLost.heldIn 0) && (Spec.invalidated recordLost 0).recordHeld 0,
    (invalidating.partn 0).tlbBusy, !invalidating.heldIn 0, invalidating.regionsIn 0 |>.isEmpty,
    ({ invalidating with ops := [(9, load9)] } : State).heldIn 0, (0x8000_0000_0000_0000 : DWord).getLsbD 63,
    !(base.hostPort 0).mbxbase.getLsbD 0, (mailbox.hostPort 0).mbxbase.getLsbD 0,
    ({ mailbox with sectors := [(hpa / 64, { Sector.init with l1 := [(0, .s)] })] } : State).paKind hpa == .window 0,
    ((mailbox.hostPort 0).mbxbase ||| 1) == (((0x1000_0000 : DWord) &&& 0x0003_FFFF_F000_0001#64) ||| 1),
    (starting { Die.init with fenced := true }).die 0 |>.fenced, !(base.die 0).fenced] = true := by decide +kernel

/-! ### Debugger, dies, bring-up, registers -/

/-- A partition with DEBUG on die 0 and a cluster 0. -/
def debugging (c : Cluster) : State := { base with clusters := [(0, c)], gangs := [], cur := .none }
def stoppedAt (sel : DWord) : Cluster := { Cluster.init with stopping := true, stopped := true, stoprec := 1, dbgctl := sel }
def heldAt (k : HoldKind) : State := (debugging (stoppedAt 0)).modThread l0 fun th => { th with hold := some { kind := k, ft := 0x4_0000_0010 } }
def stepReady : State :=
  let s := { paged (debugging (stoppedAt 0)) with gangs := [], cur := .none }
  ((s.wrN 0x40000000 (bytesOfNat 8 (headerWord (gangFor addI).clause.hdr))).wrN 0x40000008 (bytesOfNat 8 (wordOf addI))).modThread l0 fun th => { th with mid := true }
def withStep (s : State) : State := s.modCluster 0 fun c => { c with stepping := true }

theorem witness_debugger_events : allOf [
    (debugging Cluster.init).debugOn 0, !(debugging Cluster.init).debugOn 4, !((debugging Cluster.init).cluster 0).stoprec.getLsbD 0,
    ((debugging { Cluster.init with stopping := true }).cluster 0).stopping,
    ({ base with clusters := [(0, { Cluster.init with stopping := true })] } : State).gangs.any fun e => e.2.onCluster 0,
    ((debugging (stoppedAt 0)).cluster 0).stopped && !((debugging (stoppedAt 0)).cluster 0).stepping,
    (debugging (stoppedAt 0)).stepTarget 0 == some l0, (debugging (stoppedAt 0x1_0000)).stepTarget 0 == none,
    !(((debugging (stoppedAt 0)).modThread l0 fun th => { th with live := false }).thread l0).live,
    [HoldKind.bar, .round, .waitb 0, .commit, .waitj 2].all fun k => ((heldAt k).thread l0).hold.any fun h => h.kind == k,
    (match (stepReady.modCluster 0 fun c => { c with stepLane := some l0 }).clauseOf (stepReady.grp 1).core (stepReady.grp 1).part (stepReady.thread l0).pc (stepReady.thread l0).clauseAddr with
    | (.ok x, s1) => (s1.headerFault l0 x.hdr).isNone && (stepReady.thread l0).mid && (stepReady.thread l0).live && (stepReady.thread l0).hold.isNone
    | _ => false),
    stepReady.stepTarget 0 == some l0, (withStep (debugging (stoppedAt 0))).stepGang 0 == none,
    (match (withStep ({ debugging (stoppedAt 0) with gangs := [(1, { gangFor addI with step := true })] } : State)).stepGang 0 with
    | some (_, gang) => gang.lanes == [l0] && gang.wip.isNone
    | none => false),
    (match (withStep ({ debugging (stoppedAt 0) with gangs := [(1, { gangFor addI with step := true, wip := some [{ lane := l0, op := 9 }] })] } : State)).stepGang 0 with
    | some (_, gang) => gang.wip.isSome
    | none => false)] = true := by decide +kernel

def up2 : State := { package [(0, partOf .swapped (qosWord 0))] with dies := [(0, { Die.init with sites := 3 }), (1, { Die.init with sites := 1 })] }
def lost (x : AMap Launch) : State := { package [(0, { partOf .swapped (qosWord 0) with cfg := [(4, 0x2)] })] with launches := x, dies := [(0, { Die.init with fenced := true, fencedAt := some 0 })] }
def hurtLaunch : Launch := { someLaunch .running with affected := true }

/-- A die that may be fenced beside one that works; rebuilds with and without an affected launch; zones cool and hot; power; time. -/
theorem witness_die_events : allOf [
    !(up2.die 0).fenced, up2.boot.step == 6, decide (0 < up2.coresOf 1) && !(up2.die 1).fenced, !(package []).rebuilding,
    (lost []).parts.all (fun e => !natBit e.2.ttab.toNat 0), up2.parts.all (fun e => e.2.ttab == 0),
    (lost []).rebuilding, (lost []).parts.all fun e => decide (e.2.dies ≠ []), (lost [(5, hurtLaunch)]).rebuilding, !hurtLaunch.replayable, (lost []).crews == [],
    [(0x100 : BitVec 16), 0x555].all fun t => decide (t.toNat < 1760), decide (1760 ≤ (0x700 : BitVec 16).toNat),
    decide (up2.pwr.limit < (6000 : BitVec 16).toNat), decide ((5000 : BitVec 16).toNat ≤ up2.pwr.limit),
    (let u := up2.modDie 0 fun d => { d with toff := 0, trate := 0 }
     u.packageTime 0 (up2.dclk 0) - up2.packageTime 0 (up2.dclk 0) == 0 && (List.range 16).all fun e => u.timesAgree 0 e && u.timesAgree e 0),
    (let u := up2.modDie 0 fun d => { d with toff := 0xFFFF_FFFF_FFFF_0000, trate := 0 }
     decide (u.packageTime 0 (up2.dclk 0) - up2.packageTime 0 (up2.dclk 0) < 0))] = true := by decide +kernel

def attesting : State := { package [] with hosts := [(0, { HostPort.init with attBusy := true, nonce := List.replicate 48 7 }), (1, HostPort.init)] }

/-- Before bring-up and at readiness; flash images that are too short, and what a valid slot gives; an attestation under way; registers of each kind. -/
theorem witness_bring_up_and_registers : allOf [
    State.reset.boot.step == 1, (package []).boot.step == 6, slotOk { fw := [], cfg := [] } == false,
    !((package []).hostPort 0).attBusy, (attesting.hostPort 0).attBusy, (attesting.hostPort 0).nonce.length == 48, !(attesting.hostPort 1).attBusy,
    ((one .free 0).partn 0).state == .free, ((one .resident 0).partn 0).state != .free, !((one .resident 0).partn 0).tlbBusy, (invalidating.partn 0).tlbBusy,
    !(one .resident 0).snapBusy 0, ({ one .resident 0 with launches := [(5, { someLaunch .running with lrec := { rec5 with snap := true } })] } : State).snapBusy 0,
    !(base.inView 1), ((one .resident 0).boot.recovery == false), !(partOf .free (qosWord 0)).debug] = true := by decide +kernel

/-- Bring-up without a valid slot, and with one: the digest and the signature of an image are the vendor's, so a valid image is a premise. -/
theorem witness_boot_slots : bootSlot { slotA := { fw := [], cfg := [] }, slotB := { fw := [], cfg := [] }, sites := [], calib := [] } = none ∧
    ∀ f x, slotOk f = true → x.slotA = f → (bootSlot x).isSome = true := by
  constructor
  · decide +kernel
  · intro f x h rfl
    unfold bootSlot
    rw [h]
    cases slotOk x.slotB <;> rfl

end Sys2Proof.Tests
end

section
/-! SUPPORT. What running an event gives, by what its rule answers (log entry 1). -/

namespace Sys2Proof.EventRun

open Sys2Proof Sys2Proof.Machine

theorem runEvent_of_some {f : State → Option State} {s t : State} (h : f s = some t) : runEvent f s = .next t := by
  simp [runEvent, h]

theorem runEvent_of_none {f : State → Option State} {s : State} (h : f s = none) : runEvent f s = .next s := by
  simp [runEvent, h]

end Sys2Proof.EventRun
end

section
/-! SUPPORT. Bring-up and attestation (R403, R409 to R412; O59): the home map goes to dies that are not fenced, and every die's clock agrees with
every other's. -/

namespace Sys2Proof.BringUp

open Sys2Proof Sys2Proof.Machine Sys2Proof.EventRun

/-! ### The events -/

theorem exec_powerUp (x : BootInput) (s : State) : exec (.powerUp x) s = runEvent (fun s => s.powerUp x) s := rfl
theorem exec_attestRequest (port : Nat) (s : State) : exec (.attestRequest port) s = runEvent (fun s => s.attestRequest port) s := rfl
theorem exec_attestDone (s : State) : exec .attestDone s = runEvent (fun s => s.attestDone) s := rfl

/-! ### Dealing shares (R330, R403) -/

/-- Rounded down, shares fall short by less than one for each unit. -/
theorem mul_sum_le_shares (n T : Nat) (hT : 0 < T) (ws : List (Nat × Nat)) :
    n * (ws.map Prod.snd).sum ≤ T * ((ws.map fun e => n * e.2 / T).sum + ws.length) := by
  induction ws with
  | nil => simp
  | cons e r ih =>
    have he : n * e.2 ≤ T * (n * e.2 / T + 1) := (Nat.lt_mul_div_succ (n * e.2) hT).le
    simp only [List.map_cons, List.sum_cons, List.length_cons]
    calc n * (e.2 + (r.map Prod.snd).sum) = n * e.2 + n * (r.map Prod.snd).sum := Nat.mul_add ..
      _ ≤ T * (n * e.2 / T + 1) + T * ((r.map fun e => n * e.2 / T).sum + r.length) := Nat.add_le_add he ih
      _ = _ := by ring

theorem sum_add_b2n {α : Type} (f : α → Nat) (p : α → Bool) (l : List α) :
    (l.map fun a => f a + b2n (p a)).sum = (l.map f).sum + l.countP p := by
  induction l with
  | nil => rfl
  | cons a r ih =>
    simp only [b2n] at ih ⊢
    simp only [List.map_cons, List.sum_cons, List.countP_cons, ih]
    omega

/-- The units picked for one more count at least as many as were picked. -/
theorem le_countP_contains_take {α : Type} (f : α → Nat) (le : α → α → Bool) (k : Nat) (l : List α) (hk : k ≤ l.length) :
    k ≤ l.countP fun a => (((sortBy le l).take k).map f).contains (f a) := by
  have hperm := sortBy_perm le l
  have hlen : ((sortBy le l).take k).length = k := by simp [hperm.length_eq, hk]
  have hall : ((sortBy le l).take k).countP (fun a => (((sortBy le l).take k).map f).contains (f a)) = k :=
    (List.countP_eq_length.2 fun a ha => List.contains_iff_mem.2 (List.mem_map_of_mem ha)).trans hlen
  calc k = _ := hall.symm
    _ ≤ (sortBy le l).countP fun a => (((sortBy le l).take k).map f).contains (f a) := (List.take_sublist k _).countP_le
    _ = _ := hperm.countP_eq _

/-- What rounding down leaves of `n` things is dealt one by one to the units picked. -/
theorem le_sum_topped (n : Nat) (le : Nat × Nat × Nat → Nat × Nat × Nat → Bool) (base : List (Nat × Nat × Nat))
    (h : n ≤ (base.map fun e => e.2.1).sum + base.length) :
    n ≤ ((base.map fun e => (e.1, e.2.1 + b2n ((((sortBy le base).take (n - (base.map fun e => e.2.1).sum)).map fun e => e.1).contains
      e.1))).map Prod.snd).sum := by
  rw [List.map_map, show ∀ f : Nat × Nat × Nat → Nat, (Prod.snd ∘ fun e => (e.1, f e)) = f from fun _ => rfl, sum_add_b2n]
  have hpick := le_countP_contains_take (fun e : Nat × Nat × Nat => e.1) le (n - (base.map fun e => e.2.1).sum) base (by omega)
  omega

/-- Every one of `n` things is dealt to some unit. -/
theorem le_sum_dealShares (n : Nat) (ws : List (Nat × Nat)) (h : 0 < (ws.map Prod.snd).sum) :
    n ≤ ((dealShares n ws).map Prod.snd).sum := by
  have hshort := mul_sum_le_shares n _ h ws
  rw [Nat.mul_comm n] at hshort
  refine le_sum_topped n _ _ ?_
  simpa [Function.comp_def] using Nat.le_of_mul_le_mul_left hshort h

theorem fst_mem_of_mem_dealShares {n : Nat} {ws : List (Nat × Nat)} {e : Nat × Nat} (h : e ∈ dealShares n ws) : ∃ w, (e.1, w) ∈ ws := by
  simp only [dealShares, List.map_map, List.mem_map, Function.comp] at h
  obtain ⟨⟨u, w⟩, hw, rfl⟩ := h
  exact ⟨w, hw⟩

/-! ### The home map (R403) -/

/-- Where enough is dealt, every entry dealt names a die of the deal, and every other keeps its die. -/
theorem fillEntries_get (P : Nat → Prop) : ∀ (is : List Nat) (q : List (Nat × Nat)) (m : AMap Nat), is.length ≤ (q.map Prod.snd).sum →
    (∀ e ∈ q, P e.1) → ∀ i, i ∈ is ∨ P (m.get 0 i) → P ((fillEntries is q m).get 0 i)
  | [], _, _, _, _, i, hi => by simpa [fillEntries] using hi
  | k :: r, q, m, hlen, hq, i, hi => by
    have hsplit := List.takeWhile_append_dropWhile (p := fun e : Nat × Nat => e.2 == 0) (l := q)
    have hzero : ((q.takeWhile fun e : Nat × Nat => e.2 == 0).map Prod.snd).sum = 0 :=
      List.sum_eq_zero fun x hx => by
        obtain ⟨e, he, rfl⟩ := List.mem_map.1 hx
        simpa using List.mem_takeWhile_imp he
    rw [← hsplit, List.map_append, List.sum_append, hzero] at hlen
    rw [← hsplit] at hq
    simp only [fillEntries]
    rcases hdrop : q.dropWhile fun e : Nat × Nat => e.2 == 0 with _ | ⟨⟨d, n⟩, q'⟩
    · simp [hdrop] at hlen
    · rw [hdrop] at hq hlen
      have hd : P d := hq (d, n) (by simp)
      have hn : n ≠ 0 := by
        have := List.head_dropWhile_not (p := fun e : Nat × Nat => e.2 == 0) (l := q) (by simp [hdrop])
        simpa [hdrop] using this
      refine fillEntries_get P r _ _ ?_ ?_ i ?_
      · simp only [List.map_append, List.sum_append, hzero, List.map_cons, List.sum_cons, List.length_cons, List.map_nil,
          List.sum_nil] at hlen ⊢
        omega
      · intro e he
        simp only [List.mem_append, List.mem_singleton] at he
        rcases he with (he | he) | rfl
        · exact hq e (by simp [he])
        · exact hq e (by simp [he])
        · exact hd
      · by_cases hik : i = k
        · subst hik
          exact .inr (by simpa using hd)
        · rw [AMap.get_set_ne hik]
          exact hi.imp_left fun h => (List.mem_cons.1 h).resolve_left hik

theorem mem_dieWeights {s : State} {d w : Nat} :
    (d, w) ∈ s.dieWeights ↔ d < 16 ∧ (s.die d).fenced = false ∧ 0 < s.coresOf d ∧ w = s.coresOf d := by
  simp only [State.dieWeights, List.mem_map, List.mem_filter, List.mem_range, Bool.and_eq_true, Bool.not_eq_true', decide_eq_true_eq,
    Prod.mk.injEq]
  constructor
  · rintro ⟨a, ⟨h1, h2, h3⟩, rfl, rfl⟩
    exact ⟨h1, h2, h3, rfl⟩
  · rintro ⟨h1, h2, h3, rfl⟩
    exact ⟨d, ⟨h1, h2, h3⟩, rfl, rfl⟩

/-- Dealing all 256 entries leaves each on a die that is not fenced, if a die with cores is left. -/
theorem dealHomes_unfenced (s : State) (h : ∃ d, d < 16 ∧ (s.die d).fenced = false ∧ 0 < s.coresOf d) (i : Nat) (hi : i < 256) :
    (s.die ((s.dealHomes (List.range 256)).homemap.get 0 i)).fenced = false ∧ (s.dealHomes (List.range 256)).homemap.get 0 i < 16 := by
  obtain ⟨d, hd, hf, hc⟩ := h
  have hmem : (d, s.coresOf d) ∈ s.dieWeights := mem_dieWeights.2 ⟨hd, hf, hc, rfl⟩
  have htotal : 0 < (s.dieWeights.map Prod.snd).sum :=
    Nat.lt_of_lt_of_le hc (List.single_le_sum (by simp) _ (List.mem_map.2 ⟨_, hmem, rfl⟩))
  refine fillEntries_get (fun d => (s.die d).fenced = false ∧ d < 16) _ _ _ (le_sum_dealShares _ _ htotal) (fun e he => ?_) i
    (.inl (List.mem_range.2 hi))
  obtain ⟨w, hw⟩ := fst_mem_of_mem_dealShares he
  obtain ⟨h16, hfe, -, -⟩ := mem_dieWeights.1 hw
  exact ⟨hfe, h16⟩

/-! ### Tables listed by number -/

theorem find?_map_range {α : Type} (f : Nat → α) (a n k : Nat) (h : k < n) :
    AMap.find? (((List.range' a n).map fun d => (d, f d)) : AMap α) (a + k) = some (f (a + k)) := by
  induction n generalizing a k with
  | zero => omega
  | succ n ih =>
    simp only [List.range'_succ, List.map_cons, AMap.find?]
    rcases k with _ | k
    · simp
    · have hne : ¬a = a + (k + 1) := by omega
      rw [if_neg hne, show a + (k + 1) = a + 1 + k by omega]
      exact ih (a + 1) k (by omega)

theorem get_map_range {α : Type} (d : α) (f : Nat → α) {n k : Nat} (h : k < n) :
    AMap.get d (((List.range n).map fun i => (i, f i)) : AMap α) k = f k := by
  have := find?_map_range f 0 n k h
  rw [Nat.zero_add, ← List.range_eq_range'] at this
  simp [AMap.get_eq_find?, this]

/-! ### Time at the end of bring-up (R398 to R400) -/

/-- The rate of a counter is within a thousandth of package time's. -/
theorem rate_bounds (r : BitVec 31) : -2 ^ 30 ≤ r.toInt ∧ r.toInt < 2 ^ 30 := by
  have h1 := BitVec.le_toInt r
  have h2 := BitVec.toInt_lt (x := r)
  norm_num at h1 h2 ⊢
  exact ⟨h1, h2⟩

/-- The first reading of a counter that reaches `x`: it does, and the one before does not. -/
theorem firstTick_spec {r : Int} (hr : -2 ^ 30 ≤ r) (x : Int) :
    x * 2 ^ 40 ≤ firstTick r x * (2 ^ 40 + r) ∧ firstTick r x * (2 ^ 40 + r) < x * 2 ^ 40 + (2 ^ 40 + r) := by
  have hpos : (0 : Int) < 2 ^ 40 + r := by norm_num at hr ⊢; omega
  have h1 := Int.ediv_mul_le (-x * 2 ^ 40) hpos.ne'
  have h2 := Int.lt_ediv_add_one_mul_self (-x * 2 ^ 40) hpos
  simp only [firstTick]
  constructor <;> nlinarith

theorem firstTick_nonneg {r : Int} (hr : -2 ^ 30 ≤ r) {x : Int} (hx : 0 ≤ x) : 0 ≤ firstTick r x := by
  have hpos : (0 : Int) < 2 ^ 40 + r := by norm_num at hr ⊢; omega
  obtain ⟨h, -⟩ := firstTick_spec hr x
  by_contra hneg
  have := mul_neg_of_neg_of_pos (not_le.1 hneg) hpos
  nlinarith

/-- A reading taken at a time converts back to that time or to the next tick. -/
theorem correct_firstTick {r : Int} (hr : -2 ^ 30 ≤ r ∧ r < 2 ^ 30) (x : Int) :
    x ≤ firstTick r x + firstTick r x * r / 2 ^ 40 ∧ firstTick r x + firstTick r x * r / 2 ^ 40 ≤ x + 1 := by
  obtain ⟨h1, h2⟩ := firstTick_spec hr.1 x
  obtain ⟨-, hr2⟩ := hr
  generalize firstTick r x = v at h1 h2 ⊢
  rw [Int.mul_add] at h1 h2
  generalize v * r = p at h1 h2 ⊢
  norm_num at h1 h2 hr2 ⊢
  omega

/-- One tick more of package time is at most two readings later. -/
theorem firstTick_succ {r : Int} (hr : -2 ^ 30 ≤ r ∧ r < 2 ^ 30) {x y : Int} (h1 : x ≤ y) (h2 : y ≤ x + 1) :
    (firstTick r y - firstTick r x).natAbs ≤ 8 := by
  obtain ⟨a1, a2⟩ := firstTick_spec hr.1 x
  obtain ⟨b1, b2⟩ := firstTick_spec hr.1 y
  obtain ⟨hr1, hr2⟩ := hr
  generalize firstTick r x = u at a1 a2 ⊢
  generalize firstTick r y = v at b1 b2 ⊢
  have hlow : v - u < 3 := by
    by_contra hc
    have : 3 * (2 ^ 40 + r) ≤ (v - u) * (2 ^ 40 + r) := Int.mul_le_mul_of_nonneg_right (by omega) (by norm_num at hr1 ⊢; omega)
    norm_num at *
    nlinarith
  have hhigh : -2 < v - u := by
    by_contra hc
    have : (v - u) * (2 ^ 40 + r) ≤ -2 * (2 ^ 40 + r) := Int.mul_le_mul_of_nonneg_right (by omega) (by norm_num at hr1 ⊢; omega)
    norm_num at *
    nlinarith
  omega

theorem le_foldl_max (l : List Int) (a : Int) : a ≤ l.foldl max a ∧ ∀ y ∈ l, y ≤ l.foldl max a := by
  induction l generalizing a with
  | nil => simp
  | cons z r ih =>
    obtain ⟨hacc, hmem⟩ := ih (max a z)
    refine ⟨(le_max_left a z).trans hacc, fun y hy => ?_⟩
    rcases List.mem_cons.1 hy with rfl | hy
    · exact (le_max_right a y).trans hacc
    · exact hmem y hy

/-- Package time runs ahead by what every die's counter needs to go on from what it has counted. -/
theorem le_bootAhead (s : State) (x : BootInput) {d : Nat} (hd : d < 16) :
    bootTime (x.calib.getD d (0, 0)) s.ticks + (if (x.calib.getD d (0, 0)).2.toInt < 0 then 1 else 0) - s.ticks ≤ s.bootAhead x :=
  (le_foldl_max _ _).2 _ (List.mem_map_of_mem (List.mem_range.2 hd))

/-- No die's counter starts below 0. -/
theorem counter_nonneg (s : State) (x : BootInput) {d : Nat} (hd : d < 16) :
    0 ≤ (s.ticks : Int) + (s.bootAhead x - (x.calib.getD d (0, 0)).1.toInt) := by
  have h := le_bootAhead s x hd
  obtain ⟨hr, -⟩ := rate_bounds (x.calib.getD d (0, 0)).2
  simp only [bootTime] at h
  generalize (x.calib.getD d (0, 0)).2.toInt = r at h hr
  have hn : (0 : Int) ≤ s.ticks := Int.natCast_nonneg _
  generalize (s.ticks : Int) = n at h hn ⊢
  have hfall : -n ≤ n * r / 2 ^ 40 := Int.le_ediv_of_mul_le (by norm_num) (by norm_num at hr ⊢; nlinarith)
  split at h <;> omega

/-- The state of dies whose clocks were measured at bring-up. -/
def Timed (t : State) (x : BootInput) (ahead : Int) : Prop := ∀ d, d < 16 → 0 ≤ (t.ticks : Int) + (ahead - (x.calib.getD d (0, 0)).1.toInt) ∧
  (t.die d).toff = (x.calib.getD d (0, 0)).1 ∧ (t.die d).trate = (x.calib.getD d (0, 0)).2 ∧
  (t.die d).skew = ahead - (x.calib.getD d (0, 0)).1.toInt ∧ (t.die d).drift = (x.calib.getD d (0, 0)).2.toInt

theorem Timed.timesAgree {t : State} {x : BootInput} {ahead : Int} (h : Timed t x ahead) {d e : Nat} (hd : d < 16) (he : e < 16) :
    t.timesAgree d e = true := by
  by_cases hde : d = e
  · simp [State.timesAgree, State.convert, hde]
  obtain ⟨d0, dtoff, dtrate, dskew, ddrift⟩ := h d hd
  obtain ⟨e0, etoff, etrate, eskew, edrift⟩ := h e he
  simp only [State.timesAgree, State.convert, State.packageTime, State.dclk, hde, if_false, decide_eq_true_eq, dtoff, dtrate, dskew, ddrift,
    etoff, etrate, eskew, edrift]
  have rd := rate_bounds (x.calib.getD d (0, 0)).2
  have re := rate_bounds (x.calib.getD e (0, 0)).2
  generalize (x.calib.getD d (0, 0)).2.toInt = r at rd ⊢
  generalize (x.calib.getD e (0, 0)).2.toInt = q at re ⊢
  generalize (x.calib.getD d (0, 0)).1.toInt = o at d0 ⊢
  generalize (x.calib.getD e (0, 0)).1.toInt = p at e0 ⊢
  rw [Int.toNat_of_nonneg (firstTick_nonneg rd.1 d0), Int.toNat_of_nonneg (firstTick_nonneg re.1 e0)]
  obtain ⟨h1, h2⟩ := correct_firstTick rd (t.ticks + (ahead - o))
  exact firstTick_succ re (by omega) (by omega)

/-! ### POWER_UP (R403, R410, R411) -/

/-- The package as the self-test and the images leave it, before its home map is dealt. -/
def tested (s : State) (x : BootInput) (f : FlashSlot) (b : Bool) : State :=
  let pkg := Config.parseImage ((f.cfg.drop 256).take (byteField f.cfg 12 4))
  let dies : AMap Die := (List.range 16).map fun d => (d, bootDie x (s.bootAhead x) d)
  { s with dies, span := (List.range 48).map fun n => (n, { SpanPort.init with enabled := pkg.spanPorts.getLsbD n }), pkg,
           boot := { step := 6, slotB := b, degraded := decide ((dies.map fun e => sitesOf e.2.sites).sum < 1440), recovery := false,
                     fwDigest := (f.fw.drop 16).take 48, cfgDigest := (f.cfg.drop 16).take 48 },
           pwr := { s.pwr with limit := pkgWatts pkg } }

theorem powerUp_of_slot {s : State} {x : BootInput} {f : FlashSlot} {b : Bool} (h1 : s.boot.step = 1) (hslot : bootSlot x = some (f, b)) :
    s.powerUp x = some ((tested s x f b).dealHomes (List.range 256)) := by
  simp [State.powerUp, h1, hslot, tested]

theorem powerUp_of_no_slot {s : State} {x : BootInput} (h1 : s.boot.step = 1) (hslot : bootSlot x = none) :
    s.powerUp x = some { s with boot := { s.boot with recovery := true } } := by
  simp [State.powerUp, h1, hslot]

section
variable (s : State) (x : BootInput) (f : FlashSlot) (b : Bool)

theorem die_tested {d : Nat} (hd : d < 16) : (tested s x f b).die d = bootDie x (s.bootAhead x) d := get_map_range _ _ hd

theorem spanPort_tested {n : Nat} (hn : n < 48) :
    (tested s x f b).spanPort n = { SpanPort.init with enabled := (tested s x f b).pkg.spanPorts.getLsbD n } := get_map_range _ _ hn

theorem fenced_tested {d : Nat} (hd : d < 16) : ((tested s x f b).die d).fenced = true ↔ sitesOf (x.sites.getD d 0) < 88 := by
  simp [die_tested s x f b hd, bootDie]

theorem sites_tested {d : Nat} (hd : d < 16) (h : 88 ≤ sitesOf (x.sites.getD d 0)) : ((tested s x f b).die d).sites = x.sites.getD d 0 := by
  simp only [die_tested s x f b hd, bootDie, decide_eq_true_eq]
  exact if_neg (Nat.not_lt.2 h)

theorem timed_tested : Timed (tested s x f b) x (s.bootAhead x) := fun d hd => by
  rw [die_tested s x f b hd]
  exact ⟨counter_nonneg s x hd, rfl, rfl, rfl, rfl⟩

/-- A die that passes its self-test has cores. -/
theorem coresOf_tested_pos {d : Nat} (hd : d < 16) (h : ((tested s x f b).die d).fenced = false) : 0 < (tested s x f b).coresOf d := by
  have hsites : 88 ≤ sitesOf (x.sites.getD d 0) := Nat.not_lt.1 fun hlt => by simp [(fenced_tested s x f b hd).2 hlt] at h
  simp only [State.coresOf, State.dieCores, h, sites_tested s x f b hd hsites, List.length_map, Bool.false_eq_true, if_false]
  exact Nat.lt_of_lt_of_le (by decide) hsites

end

/-! ### Attestation (R412) -/

theorem hostPortIs_modHost (s : State) (port : Nat) (g : HostPort → HostPort) : Spec.hostPortIs s (s.modHost port g) port (g (s.hostPort port)) :=
  ⟨rfl, by simp [State.hostPort], fun _ hm => by simp [State.hostPort, AMap.get_set_ne hm]⟩

theorem attestRequest_waits {s : State} {port : Nat} (h : 2 ≤ port ∨ s.boot.step ≠ 6 ∨ (s.hostPort port).attBusy = true) :
    s.attestRequest port = none := by
  simp [State.attestRequest, or_assoc, h]

theorem attestRequest_begins {s : State} {port : Nat} (hp : port < 2) (h6 : s.boot.step = 6) (hb : (s.hostPort port).attBusy = false) :
    s.attestRequest port = some (s.modHost port fun h => { h with attBusy := true }) := by
  simp [State.attestRequest, h6, hb, hp]

theorem attestDone_idle {s : State} (h : ∀ p, p < 2 → (s.hostPort p).attBusy = false) : s.attestDone = none := by
  simp [State.attestDone, h 0, h 1]

/-- The first waiting port gets its report. -/
theorem attestDone_first {s : State} {p : Nat} (hp : p < 2) (hbusy : (s.hostPort p).attBusy = true)
    (hfirst : ∀ q, q < p → (s.hostPort q).attBusy = false) (hn : (s.hostPort p).nonce.length = 48) :
    s.attestDone = some (s.modHost p fun h => { h with attBusy := false, report := (s.boot.fwDigest ++ s.boot.cfgDigest ++
      Config.identitySign Config.identityKey (Config.sha384 (s.attested (s.hostPort p).nonce))) }) := by
  have hfind : [0, 1].find? (fun q => (s.hostPort q).attBusy) = some p := by
    rcases p with _ | _ | p
    · simp [hbusy]
    · simp [hbusy, hfirst 0]
    · omega
  simp [State.attestDone, hfind, hn]

/-! ### The statement -/

/-- R403, R410, R411: bring-up from a valid slot. -/
theorem powerUp_ready (s : State) (x : BootInput) (f : FlashSlot) (b : Bool) :
    let pkg := Config.parseImage ((f.cfg.drop 256).take (byteField f.cfg 12 4))
    let t := (tested s x f b).dealHomes (List.range 256)
    t.boot.step = 6 ∧ t.boot.recovery = false ∧ t.boot.slotB = b ∧ t.pkg = pkg ∧
      t.boot.fwDigest = (f.fw.drop 16).take 48 ∧ t.boot.cfgDigest = (f.cfg.drop 16).take 48 ∧ t.pwr.limit = pkgWatts pkg ∧
      (∀ d, d < 16 → let m := x.sites.getD d 0
        ((t.die d).fenced = true ↔ sitesOf m < 88) ∧ (88 ≤ sitesOf m → (t.die d).sites = m) ∧
        (t.die d).toff = (x.calib.getD d (0, 0)).1 ∧ (t.die d).trate = (x.calib.getD d (0, 0)).2) ∧
      (∀ d e, d < 16 → e < 16 → t.timesAgree d e = true) ∧
      (∀ n, n < 48 → (t.spanPort n).enabled = pkg.spanPorts.getLsbD n) ∧
      ((∃ d, d < 16 ∧ (t.die d).fenced = false) → ∀ i, i < 256 → (t.die (t.homemap.get 0 i)).fenced = false ∧ t.homemap.get 0 i < 16) := by
  intro pkg t
  refine ⟨rfl, rfl, rfl, rfl, rfl, rfl, rfl, fun d hd => ?_, fun d e hd he => (timed_tested s x f b).timesAgree hd he,
    fun n hn => congrArg SpanPort.enabled (spanPort_tested s x f b hn), fun ⟨d, hd, hfd⟩ i hi => ?_⟩
  · obtain ⟨-, htoff, htrate, -, -⟩ := timed_tested s x f b d hd
    exact ⟨fenced_tested s x f b hd, sites_tested s x f b hd, htoff, htrate⟩
  · exact dealHomes_unfenced (tested s x f b) ⟨d, hd, hfd, coresOf_tested_pos s x f b hd hfd⟩ i hi

/-- Settles O59: POWER_UP and the two events of attestation, each by what it answers. -/
theorem bringUpEvents : Obligations.BringUpEvents := by
  unfold Obligations.BringUpEvents
  intro s
  simp only [Spec.nothing, exec_powerUp, exec_attestRequest, exec_attestDone]
  refine ⟨fun x h1 => ?_, fun x h1 => ⟨fun hslot => ?_, fun f b hslot => ?_⟩, fun port => ⟨fun h => ?_, fun hp h6 hb => ?_⟩, fun h => ?_,
    fun p hp hbusy hfirst hn => ?_⟩
  · exact runEvent_of_none (by simp [State.powerUp, h1])
  · exact runEvent_of_some (powerUp_of_no_slot h1 hslot)
  · exact ⟨_, runEvent_of_some (powerUp_of_slot h1 hslot), powerUp_ready s x f b⟩
  · exact runEvent_of_none (attestRequest_waits h)
  · exact ⟨_, runEvent_of_some (attestRequest_begins hp h6 hb), hostPortIs_modHost s port _⟩
  · exact runEvent_of_none (attestDone_idle h)
  · exact ⟨_, runEvent_of_some (attestDone_first hp hbusy hfirst hn), hostPortIs_modHost s p _⟩

end Sys2Proof.BringUp
end

section
/-! SUPPORT. The setting a launch is dealt, admitted, completed and replayed in: the launches and copies themselves, the time, what decides where an
address leads, and of every die and partition the parts that place crews and tell the time. The operations below a launch's events leave it as it is:
one lemma per operation (O53). -/

namespace Sys2Proof.Launching

open Sys2Proof Sys2Proof.Machine

/-- Whether a die is fenced, its working sites, and its counter. -/
structure DieSetting where
  fenced : Bool
  sites : BitVec 96
  skew : Int
  drift : Int

/-- The configuration of a partition, its master and its snapshot pool. -/
structure PartSetting where
  cfg : AMap DWord
  master : Nat
  snapbase : DWord

structure Setting where
  launches : AMap Launch
  copies : AMap CopyOp
  time : Nat
  hosts : AMap HostPort
  pkg : PkgConfig
  die : Nat → DieSetting
  part : Nat → PartSetting

def dieSetting (d : Die) : DieSetting := { fenced := d.fenced, sites := d.sites, skew := d.skew, drift := d.drift }

def partSetting (p : Partition) : PartSetting := { cfg := p.cfg, master := p.master, snapbase := p.snapbase }

def setting (s : State) : Setting :=
  { launches := s.launches, copies := s.copies, time := s.time, hosts := s.hosts, pkg := s.pkg, die := fun d => dieSetting (s.die d),
    part := fun p => partSetting (s.partn p) }

/-! ### What the setting tells -/

section
variable {s t : State} (h : setting t = setting s)
include h

theorem launches_of_setting : t.launches = s.launches := congrArg Setting.launches h
theorem copies_of_setting : t.copies = s.copies := congrArg Setting.copies h
theorem time_of_setting : t.time = s.time := congrArg Setting.time h
theorem part_of_setting (p : Nat) : partSetting (t.partn p) = partSetting (s.partn p) := congrFun (congrArg Setting.part h) p
theorem die_of_setting (d : Nat) : dieSetting (t.die d) = dieSetting (s.die d) := congrFun (congrArg Setting.die h) d

theorem launch?_of_setting (l : Nat) : t.launch? l = s.launch? l := congrArg (AMap.find? · l) (launches_of_setting h)
theorem cfg_of_setting (p : Nat) : (t.partn p).cfg = (s.partn p).cfg := congrArg PartSetting.cfg (part_of_setting h p)
theorem master_of_setting (p : Nat) : (t.partn p).master = (s.partn p).master := congrArg PartSetting.master (part_of_setting h p)

theorem poolBase_of_setting (p e : Nat) : t.poolBase p e = s.poolBase p e := by
  simp only [State.poolBase, show (t.partn p).snapbase = (s.partn p).snapbase from congrArg PartSetting.snapbase (part_of_setting h p)]

theorem dclk_of_setting (d : Nat) : t.dclk d = s.dclk d := by
  have hskew : (t.die d).skew = (s.die d).skew := congrArg DieSetting.skew (die_of_setting h d)
  have hdrift : (t.die d).drift = (s.die d).drift := congrArg DieSetting.drift (die_of_setting h d)
  simp only [State.dclk, State.ticks, time_of_setting h, hskew, hdrift]

theorem paKind_of_setting (pa : Nat) : t.paKind pa = s.paKind pa := by
  have hhosts : t.hosts = s.hosts := congrArg Setting.hosts h
  have hpkg : t.pkg = s.pkg := congrArg Setting.pkg h
  unfold State.paKind State.inWindow State.hostPort
  rw [hhosts, hpkg]

theorem coresOf_of_setting (d : Nat) : t.coresOf d = s.coresOf d := by
  have hfenced : (t.die d).fenced = (s.die d).fenced := congrArg DieSetting.fenced (die_of_setting h d)
  have hsites : (t.die d).sites = (s.die d).sites := congrArg DieSetting.sites (die_of_setting h d)
  simp only [State.coresOf, State.dieCores, hfenced, hsites]

theorem dealCrews_of_setting (x : Launch) (cids : List Nat) : t.dealCrews x cids = s.dealCrews x cids := by
  have hdie : (t.partn x.part).hasDie = (s.partn x.part).hasDie := by
    funext d
    simp only [Partition.hasDie, Partition.diemask, Partition.word32, cfg_of_setting h]
  have hunits : t.units (t.partn x.part) x.lrec.cscope = s.units (s.partn x.part) x.lrec.cscope := by
    unfold State.units unitDies Partition.dies
    rw [hdie, funext (coresOf_of_setting h)]
  simp only [State.dealCrews, hunits]

end

/-! ### Updates of one part of the state -/

theorem foldl_setting {α : Type} (f : State → α → State) (h : ∀ s x, setting (f s x) = setting s) (l : List α) (s : State) :
    setting (l.foldl f s) = setting s := by
  induction l generalizing s with
  | nil => rfl
  | cons a r ih => exact (ih _).trans (h s a)

section
variable (s : State)

@[simp] theorem modCore_setting (c : Nat) (f : Core → Core) : setting (s.modCore c f) = setting s := rfl
@[simp] theorem setSector_setting (n : Nat) (x : Sector) : setting (s.setSector n x) = setting s := rfl
@[simp] theorem modSector_setting (n : Nat) (f : Sector → Sector) : setting (s.modSector n f) = setting s := rfl
@[simp] theorem used_setting (n : Nat) : setting (s.used n) = setting s := rfl

theorem modDie_setting (k : Nat) (f : Die → Die) (h : dieSetting (f (s.die k)) = dieSetting (s.die k)) :
    setting (s.modDie k f) = setting s := by
  have hd : ∀ d, dieSetting ((s.modDie k f).die d) = dieSetting (s.die d) := fun d => by
    by_cases hk : d = k
    · subst hk
      simpa [State.die] using h
    · simp [State.die, AMap.get_set_ne hk]
  exact congrArg (fun g : Nat → DieSetting => { setting s with die := g }) (funext hd)

theorem modPart_setting (k : Nat) (f : Partition → Partition) (h : partSetting (f (s.partn k)) = partSetting (s.partn k)) :
    setting (s.modPart k f) = setting s := by
  have hp : ∀ p, partSetting ((s.modPart k f).partn p) = partSetting (s.partn p) := fun p => by
    by_cases hk : p = k
    · subst hk
      simpa [State.partn] using h
    · simp [State.partn, AMap.get_set_ne hk]
  exact congrArg (fun g : Nat → PartSetting => { setting s with part := g }) (funext hp)

/-! ### The sector protocol -/

@[simp] theorem mark_setting (sec : Nat) (hit : Lane → Group → Bool) : setting (s.mark sec hit) = setting s := rfl

@[simp] theorem markAll_setting (sec : Nat) (who : Option Lane) : setting (s.markAll sec who) = setting s := by
  unfold State.markAll
  split <;> rfl

@[simp] theorem takeAway_setting (sec : Nat) (who : Option Lane) : setting (s.takeAway sec who) = setting s := by
  unfold State.takeAway
  dsimp only
  split <;> simp

@[simp] theorem forget_setting (sec : Nat) : setting (s.forget sec) = setting s := rfl

@[simp] theorem poisonSector_setting (sec die src : Nat) : setting (s.poisonSector sec die src) = setting s :=
  modDie_setting _ _ _ rfl

@[simp] theorem mscCount_setting (sec : Nat) : setting (s.mscCount sec) = setting s := by
  unfold State.mscCount
  dsimp only
  split <;> exact modDie_setting _ _ _ rfl

@[simp] theorem mscDrain_setting (line : Nat) : setting (s.mscDrain line) = setting s := by
  unfold State.mscDrain
  split
  · exact (modDie_setting _ _ _ rfl).trans (foldl_setting _ (fun _ _ => modSector_setting _ _ _) _ _)
  · rfl

@[simp] theorem mscRoom_setting (sec : Nat) (may : Bool) : setting (s.mscRoom sec may) = setting s := by
  have out : ∀ (t : State) (line : Nat), setting ((lineSectors line).foldl (fun (s : State) k => s.modSector k fun x =>
      { x with mscHas := false }) ((t.used 1).mscDrain line)) = setting t := fun t line => by
    rw [foldl_setting _ fun _ _ => modSector_setting _ _ _, mscDrain_setting, used_setting]
  unfold State.mscRoom
  dsimp only
  split
  · exact out _ _
  · split
    · rfl
    · split
      · rfl
      · exact out _ _

@[simp] theorem toMsc_setting (sec : Nat) : setting (s.toMsc sec) = setting s := by
  unfold State.toMsc
  dsimp only
  split <;> simp

@[simp] theorem wake_setting (p : Nat) : setting (s.wake p) = setting s := by
  unfold State.wake
  split
  case h_6 => rfl
  all_goals exact modPart_setting _ _ _ rfl

@[simp] theorem wakeSector_setting (sec : Nat) : setting (s.wakeSector sec) = setting s := foldl_setting _ (fun _ _ => by simp) _ _

@[simp] theorem dirtyWindow_setting (sec : Nat) (whole : Bool) : setting (s.dirtyWindow sec whole) = setting s := by
  unfold State.dirtyWindow
  split <;> simp

@[simp] theorem poke_setting (pa : Nat) (bs : List Byte) (whole : Bool) : setting (s.poke pa bs whole) = setting s := by
  have hw : setting (s.wakeSector (pa / 64)) = setting s := by simp
  unfold State.poke
  dsimp only
  split <;> split <;> exact hw

/-- A write by no launch captures nothing. -/
theorem capture_none (pa : Nat) : s.capture none pa = s := rfl

@[simp] theorem storeNow_none_setting (who : Option Lane) (pa : Nat) (bs : List Byte) (whole : Bool) :
    setting (s.storeNow none who pa bs whole) = setting s := by
  unfold State.storeNow
  rw [capture_none]
  dsimp only
  split
  · simp
  · split <;> simp

@[simp] theorem engineWrite_setting (pa : Nat) (bs : List Byte) : setting (s.engineWrite pa bs) = setting s :=
  foldl_setting _ (fun _ _ => by simp) _ _

end

/-! ### Groups and crews besides -/

section
variable (s : State)

/-- The setting, the groups and the crews are as they were. -/
def Unmoved (t : State) : Prop := setting t = setting s ∧ t.groups = s.groups ∧ t.crews = s.crews

variable {s}

theorem Unmoved.trans {t u : State} (h : Unmoved s t) (h' : Unmoved t u) : Unmoved s u := by
  obtain ⟨tset, tgroups, tcrews⟩ := h
  obtain ⟨uset, ugroups, ucrews⟩ := h'
  exact ⟨uset.trans tset, ugroups.trans tgroups, ucrews.trans tcrews⟩

variable (s)

theorem unmoved_refl : Unmoved s s := ⟨rfl, rfl, rfl⟩

end

end Sys2Proof.Launching
end

section
/-! SUPPORT. A translation by an engine reads the table: it takes free values, keeps what it found in the caches of translations, and writes one byte
of the table at most (R335 to R339; O53). -/

namespace Sys2Proof.Launching

open Sys2Proof Sys2Proof.Machine

section
variable (s : State)

/-! ### Walks take free values only -/

theorem leafPage_used (part vpn : Nat) (f : Leaf) : ∃ n, (s.leafPage part vpn f).2 = s.used n := by
  unfold State.leafPage
  dsimp only
  split
  · exact ⟨0, rfl⟩
  · split
    · exact ⟨0, rfl⟩
    · split <;> exact ⟨1, rfl⟩

theorem leafEntry_used (part vpn : Nat) (f : Leaf) : ∃ n, (s.leafEntry part vpn f).2 = s.used n := by
  unfold State.leafEntry
  split
  · exact leafPage_used s part vpn f
  · exact ⟨0, rfl⟩

theorem walkPage_used (part va vpn : Nat) : ∃ n, (s.walkPage part va vpn).2 = s.used n := by
  unfold State.walkPage
  split
  · exact ⟨0, rfl⟩
  · rename_i f ws _
    obtain ⟨n, hn⟩ := leafEntry_used s part vpn f
    refine ⟨n, ?_⟩
    split <;> simp_all

theorem walkCached_used {die part va vpn : Nat} {r} (h : s.walkCached die part va vpn = some r) : ∃ n, r.2 = s.used n := by
  simp only [State.walkCached, Option.map_eq_some_iff] at h
  obtain ⟨w, -, rfl⟩ := h
  split
  · exact ⟨0, rfl⟩
  · rename_i f ws _
    obtain ⟨n, hn⟩ := leafEntry_used s part vpn f
    refine ⟨n, ?_⟩
    split <;> simp_all

theorem used_used (m n : Nat) : (s.used m).used n = s.used (m + n) := by
  simp [State.used, Nat.add_assoc]

/-- A state whose memory and setting are as they were. -/
def Reads (t : State) : Prop := setting t = setting s ∧ t.mem = s.mem

variable {s}

theorem Reads.used {t : State} (h : Reads s t) (n : Nat) : Reads s (t.used n) := h

theorem reads_of_used {t : State} (h : ∃ n, t = s.used n) : Reads s t := by
  obtain ⟨n, rfl⟩ := h
  exact ⟨rfl, rfl⟩

theorem Reads.tlbFill {t : State} (h : Reads s t) (core : Nat) (e : TlbEntry) : Reads s (t.tlbFill core e) :=
  ⟨(modDie_setting _ _ _ rfl).trans h.1, h.2⟩

theorem Reads.modWalks {t : State} (h : Reads s t) (die : Nat) (ws : List WalkEntry) :
    Reads s (t.modDie die fun d => { d with walks := walksAdd ws d.walks }) :=
  ⟨(modDie_setting _ _ _ rfl).trans h.1, h.2⟩

theorem Reads.trans {t u : State} (h : Reads s t) (h' : Reads t u) : Reads s u := ⟨h'.1.trans h.1, h'.2.trans h.2⟩

theorem reads_ite {α : Type} {c : Prop} [Decidable c] {a b : α × State} (ha : Reads s a.2) (hb : Reads s b.2) :
    Reads s (if c then a else b).2 := by
  split
  · exact ha
  · exact hb

variable (s)

theorem walkNow_reads (core part va vpn : Nat) : Reads s (s.walkNow core part va vpn).2 := by
  have keep : ∀ r : Except XErr (TlbEntry × List WalkEntry) × State, (∃ n, r.2 = s.used n) →
      Reads s (match r with
        | (.ok (e, ws), s) => ((.ok e : Except XErr TlbEntry),
            (s.modDie (coreDie core) fun d => { d with walks := walksAdd ws d.walks }).tlbFill core e)
        | (.error x, s) => (.error x, s)).2 := by
    rintro ⟨_ | ⟨e, ws⟩, u⟩ hu
    · exact reads_of_used hu
    · exact ((reads_of_used hu).modWalks _ _).tlbFill _ _
  have hfull := walkPage_used s part va vpn
  have hagain : ∃ n, ((s.used 1).walkPage part va vpn).2 = s.used n := by
    obtain ⟨n, hn⟩ := walkPage_used (s.used 1) part va vpn
    exact ⟨1 + n, hn.trans (used_used s 1 n)⟩
  have hcached : ∃ n, (((s.used 1).walkCached (coreDie core) part va vpn).getD ((s.used 1).walkPage part va vpn)).2 = s.used n := by
    rcases hc : (s.used 1).walkCached (coreDie core) part va vpn with _ | r
    · exact hagain
    · obtain ⟨n, hn⟩ := walkCached_used _ hc
      exact ⟨1 + n, hn.trans (used_used s 1 n)⟩
  unfold State.walkNow
  dsimp only
  rcases s.walkCached (coreDie core) part va vpn with _ | old
  · exact keep _ hfull
  · exact reads_ite (keep _ hfull) (reads_ite (keep _ hcached) (keep _ hagain))

theorem lookup_reads (core part va : Nat) : Reads s (s.lookup core part va).2 := by
  have hw := reads_of_used (walkPage_used s part va (natField va 12 45))
  unfold State.lookup
  dsimp only
  split
  · exact walkNow_reads s _ _ _ _
  · split
    · rename_i s' heq
      rw [heq] at hw
      split
      · exact hw
      · split
        · exact hw.used 1
        · exact (hw.used 1).trans (walkNow_reads _ _ _ _ _)
    · rename_i s' heq
      rw [heq] at hw
      split
      · exact hw.used 1
      · exact (hw.used 1).trans (walkNow_reads _ _ _ _ _)

/-! ### The translation itself -/

theorem tlbTouched_setting (core : Nat) (e : TlbEntry) (bits : DWord) : setting (s.tlbTouched core e bits) = setting s :=
  modDie_setting _ _ _ rfl

theorem tlbTouched_mem (core : Nat) (e : TlbEntry) (bits : DWord) : (s.tlbTouched core e bits).mem = s.mem := rfl

/-- A state with the setting as it was, and memory canonical if it was. -/
def Marks (t : State) : Prop := setting t = setting s ∧ (Memory.wf s.mem = true → Memory.wf t.mem = true)

theorem xlate_marks (core part : Nat) (va : DWord) (n : Need) : Marks s (s.xlate core part va n).2 := by
  have hread : Marks s (s.lookup core part va.toNat).2 := by
    obtain ⟨hset, hmem⟩ := lookup_reads s core part va.toNat
    exact ⟨hset, fun hw => hmem ▸ hw⟩
  unfold State.xlate
  split
  · rename_i heq
    rwa [heq] at hread
  · rename_i e u heq
    rw [heq] at hread
    obtain ⟨hset, hwf⟩ := hread
    dsimp only
    generalize (if n.w = true then (0x60 : DWord) else 0x20) = bits
    split
    · exact ⟨hset, hwf⟩
    · split
      · exact ⟨hset, hwf⟩
      · split
        · exact ⟨hset, hwf⟩
        · refine ⟨(tlbTouched_setting _ _ _ _).trans ?_, fun hw => ?_⟩
          · split
            · exact (storeNow_none_setting _ _ _ _ _).trans hset
            · exact hset
          · simp only [tlbTouched_mem]
            split
            · exact State.storeNow_wf _ _ _ _ _ _ (hwf hw)
            · exact hwf hw

theorem engineXlate_marks (part : Nat) (va : DWord) (n : Need) : Marks s (s.engineXlate part va n).2 := by
  unfold State.engineXlate
  split
  · exact ⟨rfl, id⟩
  · split
    · exact ⟨rfl, id⟩
    · exact xlate_marks s _ _ _ _

end

end Sys2Proof.Launching
end

section
/-! SUPPORT. Completion (R327, R383, R384): what the engines' write of a record leaves in memory, and the launch DONE (O53). -/

namespace Sys2Proof.Launching

open Sys2Proof Sys2Proof.Machine

/-! ### Numbers and their bytes (R3) -/

@[simp] theorem length_bytesOfNat (n v : Nat) : (bytesOfNat n v).length = n := by
  induction n generalizing v with
  | zero => rfl
  | succ n ih => simp [bytesOfNat, ih]

theorem wordOfBytes_bytesOfNat (n v : Nat) : wordOfBytes (bytesOfNat n v) = v % 256 ^ n := by
  induction n generalizing v with
  | zero => simp [bytesOfNat, wordOfBytes, Nat.mod_one]
  | succ n ih => simp [bytesOfNat, wordOfBytes, ih, Nat.pow_succ', Nat.mod_mul]

theorem bytesOfNat_add (m n v : Nat) : bytesOfNat (m + n) v = bytesOfNat m v ++ bytesOfNat n (v / 256 ^ m) := by
  induction m generalizing v with
  | zero => simp [bytesOfNat]
  | succ m ih => simp [Nat.succ_add, bytesOfNat, ih, Nat.div_div_eq_div_mul, Nat.pow_succ']

theorem bytesOfNat_mod (n v : Nat) : bytesOfNat n (v % 256 ^ n) = bytesOfNat n v := by
  induction n generalizing v with
  | zero => rfl
  | succ n ih =>
    rw [bytesOfNat, bytesOfNat, ← ih (v / 256), Nat.pow_succ', Nat.mod_mul_right_div_self, Nat.mod_mul_right_mod]

/-! ### Fields of a record -/

/-- The bytes of fields, each an offset, a size and a value, one behind another. -/
def fieldBytes (fs : List (Nat × Nat × Nat)) : List Byte := (fs.map fun e => bytesOfNat e.2.1 e.2.2).flatten

/-- Each field begins where the one before it ends. -/
def Contiguous : Nat → List (Nat × Nat × Nat) → Prop
  | _, [] => True
  | o, e :: r => e.1 = o ∧ Contiguous (o + e.2.1) r

/-- Where fields stand one behind another, each is found at its offset. -/
theorem fieldBytes_slice {fs : List (Nat × Nat × Nat)} {o : Nat} (h : Contiguous o fs) {e : Nat × Nat × Nat} (he : e ∈ fs) :
    o ≤ e.1 ∧ ((fieldBytes fs).drop (e.1 - o)).take e.2.1 = bytesOfNat e.2.1 e.2.2 := by
  induction fs generalizing o with
  | nil => simp at he
  | cons f r ih =>
    obtain ⟨hf, hr⟩ := h
    rcases List.mem_cons.1 he with rfl | he
    · exact ⟨hf.ge, by simp [fieldBytes, hf]⟩
    · obtain ⟨hle, hslice⟩ := ih hr he
      refine ⟨by omega, ?_⟩
      rw [show e.1 - o = f.2.1 + (e.1 - (o + f.2.1)) by omega, ← List.drop_drop]
      simpa [fieldBytes] using hslice

theorem reasonCode_eq (r : Reason) : reasonCode r = Spec.reasons.findIdx (· == r) + 1 := by
  cases r <;> rfl

theorem recordFields_contiguous (x : Launch) (tend : Nat) : Contiguous 0 (Spec.recordFields x tend) := by
  simp [Spec.recordFields, Contiguous]

theorem bytesOfNat_halves (a b : Nat) : bytesOfNat 4 (a % 65536 + b * 65536) = bytesOfNat 2 a ++ bytesOfNat 2 b := by
  rw [bytesOfNat_add 2 2, ← bytesOfNat_mod 2 (a % 65536 + b * 65536), ← bytesOfNat_mod 2 a,
    show (a % 65536 + b * 65536) % 256 ^ 2 = a % 256 ^ 2 by omega, show (a % 65536 + b * 65536) / 256 ^ 2 = b by omega]

theorem bytesOfNat_zero (n : Nat) : bytesOfNat n 0 = List.replicate n 0 := by
  induction n with
  | zero => rfl
  | succ n ih => simp [bytesOfNat, ih, List.replicate_succ]

/-- The model's completion record holds the fields of R327, by its state: failed, completed, or completed after a replay. -/
theorem recordBytes_eq (x : Launch) (tend : Nat) : recordBytes x tend = fieldBytes (Spec.recordFields x tend) := by
  rcases hr : x.reason with _ | r
  · by_cases hn : x.nreplay = 0
    · simp [recordBytes, Spec.recordFields, Spec.recordState, fieldBytes, hr, hn, faultFields, bytesOfNat_zero, Nat.mul_comm]
    · rcases hf : x.replayFault with _ | ⟨f, gid, nest⟩ <;>
        simp [recordBytes, Spec.recordFields, Spec.recordState, fieldBytes, hr, hn, hf, faultFields, bytesOfNat_zero, bytesOfNat_halves, Nat.mul_comm]
  · rcases hf : x.fault with _ | ⟨f, gid, nest⟩ <;>
      simp [recordBytes, Spec.recordFields, Spec.recordState, fieldBytes, hr, hf, faultFields, bytesOfNat_zero, bytesOfNat_halves, reasonCode_eq, Nat.mul_comm]

/-! ### What the engines write (R293, R327) -/

theorem poke_mem (s : State) (pa : Nat) (bs : List Byte) (whole : Bool) (h : ∀ port, s.paKind pa ≠ .host port) :
    (s.poke pa bs whole).mem = Memory.write pa bs s.mem := by
  have hk : (s.wakeSector (pa / 64)).paKind pa = s.paKind pa := paKind_of_setting (wakeSector_setting s _) pa
  have hm : ((s.wakeSector (pa / 64)).wrN pa bs).mem = Memory.write pa bs s.mem := by simp [State.wrN]
  unfold State.poke
  simp only [hk]
  rcases hkind : s.paKind pa with _ | _ | port | port | _
  case host => exact absurd hkind (h port)
  all_goals
    dsimp only
    split
    · exact hm
    · exact hm

theorem storeNow_none_mem (s : State) (who : Option Lane) (pa : Nat) (bs : List Byte) (whole : Bool) (h : ∀ port, s.paKind pa ≠ .host port) :
    (s.storeNow none who pa bs whole).mem = Memory.write pa bs s.mem := by
  have htaken : ((s.takeAway (pa / 64) who).poke pa bs whole).mem = Memory.write pa bs s.mem := by
    rw [poke_mem, State.takeAway_mem]
    rwa [paKind_of_setting (takeAway_setting s _ _)]
  unfold State.storeNow
  rw [capture_none]
  dsimp only
  split
  · exact poke_mem s pa bs whole h
  · split
    · rwa [State.dirtyWindow_mem]
    · rwa [State.toMsc_mem]

/-- A record's 64 bytes lie in one sector and are written at once. -/
theorem engineWrite_mem (s : State) (pa : Nat) (bs : List Byte) (hlen : bs.length = 64) (hpa : pa % 64 = 0) (h : ∀ port, s.paKind pa ≠ .host port) :
    (s.engineWrite pa bs).mem = Memory.write pa bs s.mem := by
  have hpieces : pieces pa bs (bs.length + 1) = [(pa, bs)] := by
    have htake : bs.take 64 = bs := List.take_of_length_le hlen.le
    have hdrop : bs.drop 64 = [] := List.drop_of_length_le hlen.le
    have hne : bs.isEmpty = false := by cases bs <;> simp_all
    simp [hlen, pieces, hpa, hne, htake, hdrop]
  rw [State.engineWrite, State.storeRange, hpieces]
  exact storeNow_none_mem s none pa bs false h

theorem length_read (m : List Host.Cell) (a n : Nat) : (Memory.read m a n).length = n := by
  induction n generalizing a with
  | zero => rfl
  | succ n ih => simp [Memory.read, ih]

theorem read_add (m : List Host.Cell) (a i n : Nat) : Memory.read m a (i + n) = Memory.read m a i ++ Memory.read m (a + i) n := by
  induction i generalizing a with
  | zero => simp [Memory.read]
  | succ i ih => simp [Nat.succ_add, Memory.read, ih, Nat.add_assoc]

theorem read_slice (m : List Host.Cell) (a i n k : Nat) (h : i + n ≤ k) : Memory.read m (a + i) n = ((Memory.read m a k).drop i).take n := by
  obtain ⟨r, rfl⟩ := Nat.exists_eq_add_of_le h
  rw [read_add m a (i + n) r, read_add m a i n, List.append_assoc, List.drop_left' (length_read m a i), List.take_left' (length_read m _ n)]

/-- Fields written from an address stand there, each a number (R3, R327). -/
theorem rdNat_of_fields {t : State} {pa : Nat} {fs : List (Nat × Nat × Nat)} (hc : Contiguous 0 fs) {m : List Host.Cell} (hm : Memory.wf m)
    (ht : t.mem = Memory.write pa (fieldBytes fs) m) {e : Nat × Nat × Nat} (he : e ∈ fs) (hfit : e.1 + e.2.1 ≤ (fieldBytes fs).length) :
    t.rdNat (pa + e.1) e.2.1 = e.2.2 % 256 ^ e.2.1 := by
  obtain ⟨-, hslice⟩ := fieldBytes_slice hc he
  rw [State.rdNat, State.rdN, ht, read_slice _ _ _ _ _ hfit, Memory.read_write _ _ hm]
  rw [Nat.sub_zero] at hslice
  rw [hslice, wordOfBytes_bytesOfNat]

/-! ### DONE (R327) -/

theorem launchDone_mem (s : State) (l : Nat) (x : Launch) : (s.launchDone l x).mem = s.mem := by
  unfold State.launchDone
  rcases x.handle with _ | ⟨die, seq⟩ <;> rfl

/-- The launch as it is DONE: nothing captured, its snapshot given up. -/
def doneLaunch (x : Launch) : Launch := { x with state := .done, caps := [], snap := if x.snap == .held then .none else x.snap }

theorem launchDone_launch? (s : State) (l : Nat) (x : Launch) : (s.launchDone l x).launch? l = (s.launch? l).map doneLaunch := by
  have hmod : ((s.modLaunch l doneLaunch).launch? l) = (s.launch? l).map doneLaunch := by simp [State.launch?]
  rw [← hmod]
  unfold State.launchDone
  rcases x.handle with _ | ⟨die, seq⟩ <;> rfl

/-! ### LAUNCH_COMPLETE (R327) -/

theorem launchComplete_waits {s : State} {l : Nat} {x : Launch} (hl : s.launch? l = some x)
    (h : s.launchQuiet l = false ∨ s.engineOpen x.part true x.lrec.crec 64 = false) : s.launchComplete l = none := by
  simp only [State.launchComplete, hl]
  rcases h with h | h <;> simp [h]

theorem launchComplete_writes {s : State} {l : Nat} {x : Launch} (hl : s.launch? l = some x) (hst : x.state = .finishing)
    (hq : s.launchQuiet l = true) (ho : s.engineOpen x.part true x.lrec.crec 64 = true) : s.launchComplete l = some (s.writeRecord l) := by
  simp [State.launchComplete, hl, hst, hq, ho]

/-- Where the record goes: where CREC leads now, or where it led at taking. -/
theorem recordPlace_eq {s s1 : State} {x : Launch} {pa : Nat}
    (h : (s.engineXlate x.part x.lrec.crec .wr = (.ok pa, s1) ∧ (s1.paKind pa = .hbm ∨ ∃ port, s1.paKind pa = .window port)) ∨
      ((∃ e, s.engineXlate x.part x.lrec.crec .wr = (.error e, s1)) ∧ pa = x.crecPa)) : s.recordPlace x = (pa, s1) := by
  unfold State.recordPlace
  rcases h with ⟨hok, hbm | ⟨port, hwin⟩⟩ | ⟨⟨e, herr⟩, rfl⟩
  · simp only [hok, hbm]
  · simp only [hok, hwin]
  · simp only [herr]

theorem writeRecord_eq {s s1 : State} {l : Nat} {x : Launch} {pa : Nat} (hl : s.launch? l = some x) (hp : s.recordPlace x = (pa, s1))
    (hlost : s1.kindLost (s1.paKind pa) = false) :
    s.writeRecord l = (s1.engineWrite pa (recordBytes x (s1.dclk (s1.partn x.part).master))).launchDone l x := by
  simp [State.writeRecord, hl, hp, hlost]

theorem recordFields_fit (x : Launch) (tend : Nat) : (fieldBytes (Spec.recordFields x tend)).length = 64 ∧
    ∀ e ∈ Spec.recordFields x tend, e.1 + e.2.1 ≤ 64 := by
  simp [Spec.recordFields, fieldBytes]

/-- The record written at a place of one sector outside host memory stands there, and nothing else has changed. -/
theorem recordAt_engineWrite {s : State} {l pa tend : Nat} {x : Launch} (hs : s.sound = true) (hpa : pa % 64 = 0) (hk : ∀ port, s.paKind pa ≠ .host port) :
    let t := (s.engineWrite pa (recordBytes x tend)).launchDone l x
    Spec.recordAt t pa x tend ∧ Spec.memoryKept s t pa 64 := by
  intro t
  obtain ⟨hlen, hfit⟩ := recordFields_fit x tend
  have hm : t.mem = Memory.write pa (fieldBytes (Spec.recordFields x tend)) s.mem := by
    rw [launchDone_mem, engineWrite_mem s pa _ (by rw [recordBytes_eq, hlen]) hpa hk, recordBytes_eq]
  refine ⟨fun e he => rdNat_of_fields (recordFields_contiguous x tend) hs hm he (by rw [hlen]; exact hfit e he), fun b hb => ?_⟩
  rw [State.byteAt, hm, Memory.get_write_ne _ _ hs (by omega)]
  rfl

theorem recordPlace_marks (s : State) (x : Launch) : Marks s (s.recordPlace x).2 := by
  have hm := engineXlate_marks s x.part x.lrec.crec .wr
  unfold State.recordPlace
  split <;> rename_i heq <;> rwa [heq] at hm

/-- LAUNCH_COMPLETE ends the launch and writes its record. -/
theorem launchComplete_done {s s1 : State} {l pa : Nat} {x : Launch} (hl : s.launch? l = some x) (hst : x.state = .finishing)
    (hq : s.launchQuiet l = true) (ho : s.engineOpen x.part true x.lrec.crec 64 = true) (hplace : s.recordPlace x = (pa, s1))
    (hlost : s1.kindLost (s1.paKind pa) = false) :
    ∃ t, s.launchComplete l = some t ∧ (∃ y, t.launch? l = some y ∧ y.state = .done ∧ y.reason = x.reason) ∧
      (s.sound = true → pa % 64 = 0 → Spec.notHost s pa 64 → Spec.recordAt t pa x (s.dclk (s.partn x.part).master) ∧ Spec.memoryKept s1 t pa 64) := by
  obtain ⟨hset, hwf⟩ : Marks s s1 := by
    have := recordPlace_marks s x
    rwa [hplace] at this
  have hclock : s1.dclk (s1.partn x.part).master = s.dclk (s.partn x.part).master := by rw [master_of_setting hset, dclk_of_setting hset]
  refine ⟨_, launchComplete_writes hl hst hq ho, ?_⟩
  rw [writeRecord_eq hl hplace hlost, hclock]
  refine ⟨⟨doneLaunch x, ?_, rfl, rfl⟩, fun hsound hpa hhost => ?_⟩
  · rw [launchDone_launch?, launch?_of_setting (engineWrite_setting s1 _ _), launch?_of_setting hset, hl]
    rfl
  · exact recordAt_engineWrite (hwf hsound) hpa fun port => by
      rw [paKind_of_setting hset]
      exact hhost 0 (by decide) port

end Sys2Proof.Launching
end

section
/-! SUPPORT. Replay (R378, R381): what is left of an attempt goes without touching memory, and a captured granule takes its bytes again (O53). -/

namespace Sys2Proof.Launching

open Sys2Proof Sys2Proof.Machine

/-! ### Copying a range (R378, R381) -/

theorem get_of_not_listed {m : List Host.Cell} {a : Nat} (h : ∀ e ∈ m, e.1 ≠ a) : Memory.get m a = 0 := by
  induction m with
  | nil => rfl
  | cons e r ih =>
    simp [Memory.get, h e (by simp), ih fun e he => h e (by simp [he])]

theorem get_of_listed {lo : Nat} {m : List Host.Cell} (hm : Memory.wfFrom lo m = true) {e : Host.Cell} (he : e ∈ m) : lo ≤ e.1 ∧ Memory.get m e.1 = e.2 := by
  induction m generalizing lo with
  | nil => simp at he
  | cons f r ih =>
    simp only [Memory.wfFrom, Bool.and_eq_true, decide_eq_true_eq] at hm
    obtain ⟨⟨hlo, -⟩, hr⟩ := hm
    rcases List.mem_cons.1 he with rfl | he
    · exact ⟨hlo, by simp [Memory.get]⟩
    · obtain ⟨hle, hget⟩ := ih hr he
      have hne : f.1 ≠ e.1 := by omega
      have hlt : ¬e.1 < f.1 := by omega
      exact ⟨by omega, by simp [Memory.get, hne, hlt, hget]⟩

/-- A byte that one of the writes gives or that stood there before, where no write gives another, stands there afterwards. -/
theorem get_foldl_set (l : List Host.Cell) {m : List Host.Cell} (hm : Memory.wf m = true) {a : Nat} {b : Byte} (hfun : ∀ e ∈ l, e.1 = a → e.2 = b)
    (h : (∃ e ∈ l, e.1 = a) ∨ Memory.get m a = b) : Memory.get (l.foldl (fun m e => Memory.set e.1 e.2 m) m) a = b := by
  induction l generalizing m with
  | nil => simpa using h
  | cons f r ih =>
    refine ih (Memory.wf_set _ _ hm) (fun e he => hfun e (by simp [he])) ?_
    by_cases hf : f.1 = a
    · exact .inr (by rw [← hf, Memory.get_set_self _ _ hm]; exact hfun f (by simp) hf)
    · rw [Memory.get_set_ne (Ne.symm hf) _ hm]
      refine h.imp_left fun ⟨e, he, hea⟩ => ⟨e, (List.mem_cons.1 he).resolve_left ?_, hea⟩
      rintro rfl
      exact hf hea

theorem mem_moved {m : List Host.Cell} {lo n dst : Nat} {e : Host.Cell} :
    e ∈ Memory.moved m lo n dst ↔ ∃ f ∈ m, lo ≤ f.1 ∧ f.1 < lo + n ∧ (f.1 - lo + dst, f.2) = e := by
  simp only [Memory.moved, List.mem_map, List.mem_filter, Bool.and_eq_true, decide_eq_true_eq, and_assoc]

/-- A byte of the copied range reads as the byte it comes from. -/
theorem get_copyRange_inside {m : List Host.Cell} (hm : Memory.wf m = true) (src n dst : Nat) {j : Nat} (hj : j < n) :
    Memory.get (Memory.copyRange m src n dst) (dst + j) = Memory.get m (src + j) := by
  refine get_foldl_set _ (Memory.wfFrom_filter _ hm) (fun e he hej => ?_) ?_
  · obtain ⟨f, hf, hlo, -, rfl⟩ := mem_moved.1 he
    rw [← (get_of_listed hm hf).2]
    exact congrArg (Memory.get m) (by dsimp only at hej; omega)
  · by_cases hl : ∃ f ∈ m, f.1 = src + j
    · obtain ⟨f, hf, hfj⟩ := hl
      exact .inl ⟨_, mem_moved.2 ⟨f, hf, by omega, by omega, rfl⟩, by dsimp only; omega⟩
    · push Not at hl
      refine .inr ((get_of_not_listed fun e he => ?_).trans (get_of_not_listed hl).symm)
      intro hej
      simp [hej, hj] at he

/-- A byte outside the copied range is as it was. -/
theorem get_copyRange_outside {m : List Host.Cell} (hm : Memory.wf m = true) (src n dst : Nat) {b : Nat} (hb : b < dst ∨ dst + n ≤ b) :
    Memory.get (Memory.copyRange m src n dst) b = Memory.get m b := by
  refine get_foldl_set _ (Memory.wfFrom_filter _ hm) (fun e he hej => ?_) (.inr ?_)
  · obtain ⟨f, -, hlo, hhi, rfl⟩ := mem_moved.1 he
    dsimp only at hej
    omega
  · by_cases hl : ∃ f ∈ m, f.1 = b
    · obtain ⟨f, hf, rfl⟩ := hl
      rw [(get_of_listed hm hf).2]
      refine (get_of_listed (Memory.wfFrom_filter _ hm) (List.mem_filter.2 ⟨hf, ?_⟩)).2
      simp only [Bool.not_eq_true', Bool.and_eq_false_iff, decide_eq_false_iff_not]
      omega
    · push Not at hl
      rw [get_of_not_listed hl, get_of_not_listed fun e he => hl e (List.mem_of_mem_filter he)]

/-! ### What is left of an attempt (R381 step 2) -/

section
variable (s : State)

theorem foldl_reads {α : Type} (f : State → α → State) (h : ∀ s x, Reads s (f s x)) (l : List α) : Reads s (l.foldl f s) :=
  ⟨foldl_setting f (fun s x => (h s x).1) l s, foldl_mem f (fun s x => (h s x).2) l s⟩

theorem winDrop_reads (core w : Nat) : Reads s (s.winDrop core w) := ⟨rfl, rfl⟩

theorem foldl_winDrop_reads (core : Nat) (ws : AMap Window) : Reads s (ws.foldl (fun s e => s.winDrop core e.1) s) :=
  foldl_reads s (fun s (e : Nat × Window) => s.winDrop core e.1) (fun s e => winDrop_reads s core e.1) ws

theorem setHandleState_reads (die kind seq : Nat) (st : HState) : Reads s (s.setHandleState die kind seq st) := ⟨modDie_setting _ _ _ rfl, rfl⟩

theorem abortsOf_reads (l : Nat) : Reads s (s.abortsOf l) := by
  refine foldl_reads s _ (fun s e => ?_) _
  dsimp only
  split
  · exact ⟨rfl, rfl⟩
  · exact ⟨rfl, rfl⟩

theorem discardGroup_reads (g : Nat) : Reads s (s.discardGroup g) := by
  unfold State.discardGroup
  split
  · exact ⟨rfl, rfl⟩
  · rename_i x _
    exact (foldl_winDrop_reads { s with ops := s.ops.filter fun e => e.2.lane.g != g } x.core _).trans ⟨rfl, rfl⟩

theorem mapVals_parts_setting (f : Nat → Partition → Partition) (h : ∀ k p, partSetting (f k p) = partSetting p) :
    setting { s with parts := s.parts.mapVals f } = setting s := by
  have hp : ∀ k, partSetting ((s.parts.mapVals f).get Partition.init k) = partSetting (s.partn k) := fun k => by
    rw [State.partn, AMap.get_eq_find?, AMap.get_eq_find?, AMap.find?_mapVals]
    rcases AMap.find? s.parts k with _ | p
    · rfl
    · exact h k p
  exact congrArg (fun g : Nat → PartSetting => { setting s with part := g }) (funext hp)

theorem discardLaunch_reads (l : Nat) : Reads s (s.discardLaunch l) := by
  have hg : Reads s ((s.launchGroups l).foldl (fun s g => s.discardGroup g) s) := foldl_reads s _ (fun s g => discardGroup_reads s g) _
  have hctxs := mapVals_parts_setting ((s.launchGroups l).foldl (fun s g => s.discardGroup g) s) (fun _ p => { p with ctxs := p.ctxs.map fun c =>
    { c with groups := c.groups.filter fun x => x.group.launch != l } }) fun _ _ => rfl
  exact hg.trans ⟨hctxs, rfl⟩

/-! ### Captured granules (R378, R381 step 3) -/

theorem forgetAll_reads (ks : List Nat) :
    Reads s (ks.foldl (fun (s : State) k => if s.sector k = Sector.init then s else s.forget k) s) := by
  refine foldl_reads s _ (fun s k => ?_) ks
  split
  · exact ⟨rfl, rfl⟩
  · exact ⟨forget_setting s k, State.forget_mem s k⟩

theorem markPoison_reads (ks : List Nat) : Reads s (ks.foldl (fun (s : State) k => s.modSector k fun x => { x with poison := true }) s) :=
  foldl_reads s _ (fun s k => ⟨modSector_setting s k _, State.modSector_mem s k _⟩) ks

theorem poisonAgain_reads (from' : State → Nat) (to' pa : Nat) (ks : List Nat) :
    Reads s (ks.foldl (fun (s : State) k => if (s.sector (from' s + k)).poison then s.poisonSector (to' + k) (s.home pa) 6 else s) s) := by
  refine foldl_reads s _ (fun s k => ?_) ks
  split
  · exact ⟨poisonSector_setting s _ _ _, State.poisonSector_mem s _ _ _⟩
  · exact ⟨rfl, rfl⟩

theorem withMem_setting (m : List Host.Cell) : setting { s with mem := m } = setting s := rfl

/-- The granule takes the bytes of its pool entry; nothing else of memory or of the setting changes. -/
theorem restoreGranule_spec (p : Nat) (c : Capture) : setting (s.restoreGranule p c) = setting s ∧
    (s.restoreGranule p c).mem = Memory.copyRange s.mem (s.poolBase p c.entry) granuleBytes (c.granule * granuleBytes) := by
  unfold State.restoreGranule
  generalize rangeFrom (c.granule * 1024) 1024 = secs
  generalize List.range 1024 = ks
  dsimp only
  obtain ⟨fset, fmem⟩ := forgetAll_reads s secs
  generalize secs.foldl (fun (s : State) k => if s.sector k = Sector.init then s else s.forget k) s = u at fset fmem ⊢
  obtain ⟨mset, mmem⟩ := markPoison_reads
    { u with mem := Memory.copyRange u.mem (u.poolBase p c.entry) granuleBytes (c.granule * granuleBytes) } c.poison
  obtain ⟨pset, pmem⟩ := poisonAgain_reads (c.poison.foldl (fun (s : State) k => s.modSector k fun x => { x with poison := true })
    { u with mem := Memory.copyRange u.mem (u.poolBase p c.entry) granuleBytes (c.granule * granuleBytes) })
    (fun s => s.poolBase p c.entry / 64) (c.granule * 1024) (c.granule * granuleBytes) ks
  refine ⟨pset.trans (mset.trans ((withMem_setting u _).trans fset)), pmem.trans (mmem.trans ?_)⟩
  rw [fmem, poolBase_of_setting fset]

/-! ### The steps of a replay (R381) -/

/-- Step 2: everything of the attempt is gone. -/
def attemptEnded (l : Nat) : State :=
  let u := (s.abortsOf l).discardLaunch l
  let u := (u.copies.filter fun e => e.2.launch == l).foldl (fun (s : State) e => s.setHandleState e.2.die 1 e.2.seq .complete) u
  { u with copies := u.copies.filter fun e => e.2.launch != l }

/-- Step 3: the captured granules stand again, and their pool entries are free. -/
def granulesRestored (x : Launch) : State :=
  (x.caps.foldl (fun (s : State) c => s.restoreGranule x.part c) s).modPart x.part fun p =>
    { p with snapuse := p.snapuse.filter fun e => !x.caps.any fun c => c.entry == e }

/-- Step 4: the launch runs again from the start. -/
def redealt (dealt : List Dealt) (x : Launch) : Launch :=
  { x with state := .running, caps := [], nreplay := x.nreplay + 1, retired := 0, dealt }

theorem attemptEnded_spec (l : Nat) : (attemptEnded s l).mem = s.mem ∧
    setting (attemptEnded s l) = setting { s with copies := s.copies.filter fun e => e.2.launch != l } := by
  have hdone : ∀ (u : State) (cs : AMap CopyOp), Reads u (cs.foldl (fun (s : State) e => s.setHandleState e.2.die 1 e.2.seq .complete) u) :=
    fun u cs => foldl_reads u _ (fun s e => setHandleState_reads s _ _ _ _) cs
  obtain ⟨hset, hmem⟩ := ((abortsOf_reads s l).trans (discardLaunch_reads _ l)).trans (hdone ((s.abortsOf l).discardLaunch l)
    (((s.abortsOf l).discardLaunch l).copies.filter fun e => e.2.launch == l))
  refine ⟨hmem, ?_⟩
  exact congrArg (fun u : Setting => { u with copies := u.copies.filter fun e => e.2.launch != l }) hset

theorem restoreGranules_setting (p : Nat) (cs : List Capture) : setting (cs.foldl (fun (s : State) c => s.restoreGranule p c) s) = setting s :=
  foldl_setting _ (fun s c => (restoreGranule_spec s p c).1) cs s

theorem granulesRestored_setting (x : Launch) : setting (granulesRestored s x) = setting s :=
  (modPart_setting _ _ _ rfl).trans (restoreGranules_setting s x.part x.caps)

theorem replayRestore_eq {l : Nat} {x : Launch} (hl : s.launch? l = some x) (hst : x.state = .replaying) (hq : s.replayQuiet l = true)
    (hr : s.rebuilding = false) :
    s.replayRestore l = some ((granulesRestored (attemptEnded s l) x).modLaunch l
      (redealt ((granulesRestored (attemptEnded s l) x).dealCrews x (List.range x.crewsC)))) := by
  have hx : (attemptEnded s l).launch? l = some x := by
    have : (attemptEnded s l).launches = s.launches := congrArg Setting.launches (attemptEnded_spec s l).2
    rw [State.launch?, this]
    exact hl
  unfold State.replayRestore
  simp only [hl, hst, hq, hr]
  unfold attemptEnded at hx
  dsimp only at hx ⊢
  simp only [hx]
  rfl

/-- The state after a replay's steps 2 to 4. -/
def replayed (l : Nat) (x : Launch) : State :=
  (granulesRestored (attemptEnded s l) x).modLaunch l (redealt (s.dealCrews x (List.range x.crewsC)))

variable {s}

theorem replayRestore_some {l : Nat} {x : Launch} (hl : s.launch? l = some x) (hst : x.state = .replaying) (hq : s.replayQuiet l = true)
    (hr : s.rebuilding = false) : s.replayRestore l = some (replayed s l x) := by
  rw [replayRestore_eq s hl hst hq hr, dealCrews_of_setting ((granulesRestored_setting _ x).trans (attemptEnded_spec s l).2)]
  rfl

theorem replayed_launch? {l : Nat} {x : Launch} (hl : s.launch? l = some x) :
    (replayed s l x).launch? l = some (redealt (s.dealCrews x (List.range x.crewsC)) x) := by
  have hx : (granulesRestored (attemptEnded s l) x).launches.find? l = some x :=
    (launch?_of_setting ((granulesRestored_setting (attemptEnded s l) x).trans (attemptEnded_spec s l).2) l).trans hl
  rw [replayed, State.launch?, State.modLaunch_launches, AMap.find?_modify_self, hx, Option.map_some]

theorem replayed_copies (l : Nat) (x : Launch) : ∀ e ∈ (replayed s l x).copies, e.2.launch ≠ l := by
  have hc : (replayed s l x).copies = s.copies.filter fun e => e.2.launch != l :=
    copies_of_setting ((granulesRestored_setting (attemptEnded s l) x).trans (attemptEnded_spec s l).2)
  intro e he
  rw [hc] at he
  simpa using (List.mem_filter.1 he).2

theorem replayed_mem (l : Nat) (x : Launch) :
    (replayed s l x).mem = (x.caps.foldl (fun (s : State) c => s.restoreGranule x.part c) (attemptEnded s l)).mem := rfl

theorem replayed_sameMemory (l : Nat) {x : Launch} (h : x.caps = []) : Spec.sameMemory s (replayed s l x) := fun b => by
  rw [State.byteAt, replayed_mem, h, List.foldl_nil, (attemptEnded_spec s l).1]
  rfl

/-- With one captured granule, it takes the bytes of its pool entry, and no other byte changes. -/
theorem replayed_restores (l : Nat) {x : Launch} {c : Capture} (h : x.caps = [c]) (hs : s.sound = true) :
    (∀ j, j < granuleBytes → (replayed s l x).byteAt (c.granule * granuleBytes + j) = s.byteAt (s.poolBase x.part c.entry + j)) ∧
      Spec.memoryKept s (replayed s l x) (c.granule * granuleBytes) granuleBytes := by
  obtain ⟨hmem, hset⟩ := attemptEnded_spec s l
  have ht : (replayed s l x).mem = Memory.copyRange s.mem (s.poolBase x.part c.entry) granuleBytes (c.granule * granuleBytes) := by
    rw [replayed_mem, h, List.foldl_cons, List.foldl_nil, (restoreGranule_spec _ _ _).2, hmem, poolBase_of_setting hset]
    rfl
  refine ⟨fun j hj => ?_, fun b hb => ?_⟩
  · rw [State.byteAt, ht, get_copyRange_inside hs _ _ _ hj]
    rfl
  · rw [State.byteAt, ht, get_copyRange_outside hs _ _ _ hb]
    rfl

theorem replayRestore_waits {l : Nat} {x : Launch} (hl : s.launch? l = some x) (h : s.replayQuiet l = false ∨ s.rebuilding = true) :
    s.replayRestore l = none := by
  simp only [State.replayRestore, hl]
  rcases h with h | h <;> simp [h]

end

end Sys2Proof.Launching
end

section
/-! SUPPORT. Staged starts (R23): as many waiting cores start as the window of 100 ns has room for, in site order (O53). -/

namespace Sys2Proof.Launching

open Sys2Proof Sys2Proof.Machine

section
variable (s : State) (die : Nat)

/-- The starts of a die in the last 100 ns. -/
def recentStarts : List Nat := (s.die die).starts.filter fun t => decide (s.time < t + 100 * 17)

/-- The first waiting core of a die starts. -/
def startFirst (c : Nat) (r : List Nat) : State :=
  (s.modDie die fun d => { d with stage := r, starts := s.time :: recentStarts s die }).modCore c fun x => { x with use := .busy }

theorem stageDie_full (n : Nat) (h : (s.die die).stage = [] ∨ 8 ≤ (recentStarts s die).length) : s.stageDie die n = s := by
  cases n with
  | zero => rfl
  | succ n =>
    unfold State.stageDie
    rcases hst : (s.die die).stage with _ | ⟨c, r⟩
    · simp only [hst]
    · have hfull : 8 ≤ (recentStarts s die).length := h.resolve_left (by simp [hst])
      simp only [recentStarts] at hfull
      simp only [hst, if_pos hfull]

theorem stageDie_starts (n : Nat) {c : Nat} {r : List Nat} (hst : (s.die die).stage = c :: r) (h : (recentStarts s die).length < 8) :
    s.stageDie die (n + 1) = (startFirst s die c r).stageDie die n := by
  simp only [recentStarts] at h
  conv_lhs => unfold State.stageDie
  simp only [hst, if_neg (Nat.not_le.2 h)]
  rfl

theorem die_startFirst (c : Nat) (r : List Nat) :
    (startFirst s die c r).die die = { s.die die with stage := r, starts := s.time :: recentStarts s die } := by
  simp [startFirst, State.die, State.modCore, State.setCore]

theorem recentStarts_startFirst (c : Nat) (r : List Nat) :
    recentStarts (startFirst s die c r) die = s.time :: recentStarts s die := by
  have htime : (startFirst s die c r).time = s.time := rfl
  rw [recentStarts, die_startFirst, htime]
  simp [recentStarts, List.filter_filter]

theorem core_startFirst_self (c : Nat) (r : List Nat) : ((startFirst s die c r).core c).use = .busy := by
  simp [startFirst, State.core, State.modCore, State.setCore]

theorem core_startFirst_ne {c k : Nat} (r : List Nat) (h : k ≠ c) : (startFirst s die c r).core k = s.core k := by
  simp [startFirst, State.core, State.modCore, State.setCore, AMap.get_set_ne h]

/-- What staged starting does: the cores it starts leave the queue and are busy, and every other core is as it was. -/
theorem stageDie_spec (n : Nat) (hn : 8 - (recentStarts s die).length ≤ n) :
    let k := 8 - (recentStarts s die).length
    ((s.stageDie die n).die die).stage = (s.die die).stage.drop k ∧
    (∀ c ∈ (s.die die).stage.take k, ((s.stageDie die n).core c).use = .busy) ∧
    ∀ c, c ∉ (s.die die).stage.take k → (s.stageDie die n).core c = s.core c := by
  intro k
  induction n generalizing s with
  | zero =>
    have hk : k = 0 := Nat.le_zero.1 hn
    simp [hk, State.stageDie]
  | succ n ih =>
    rcases hst : (s.die die).stage with _ | ⟨c, r⟩
    · simp [stageDie_full s die _ (.inl hst), hst]
    · by_cases hfull : 8 ≤ (recentStarts s die).length
      · have hk : k = 0 := Nat.sub_eq_zero_of_le hfull
        simp [stageDie_full s die _ (.inr hfull), hst, hk]
      · have hrec := congrArg List.length (recentStarts_startFirst s die c r)
        rw [List.length_cons] at hrec
        obtain ⟨hstage, hbusy, hrest⟩ := ih (startFirst s die c r) (by omega)
        have hk : k = (8 - (recentStarts (startFirst s die c r) die).length) + 1 := by omega
        simp only [die_startFirst] at hstage hbusy hrest
        rw [stageDie_starts s die n hst (Nat.not_le.1 hfull), hk]
        refine ⟨by rw [hstage, List.drop_succ_cons], fun e he => ?_, fun e he => ?_⟩
        · rw [List.take_succ_cons] at he
          by_cases hin : e ∈ r.take (8 - (recentStarts (startFirst s die c r) die).length)
          · exact hbusy e hin
          · rw [hrest e hin, (List.mem_cons.1 he).resolve_right hin]
            exact core_startFirst_self s die c r
        · rw [List.take_succ_cons, List.mem_cons, not_or] at he
          rw [hrest e he.2, core_startFirst_ne s die r he.1]

theorem stagedStart_waits (h : 8 - (recentStarts s die).length = 0 ∨ (s.die die).stage = []) : s.stagedStart die = none := by
  have hsame : s.stageDie die 8 = s := stageDie_full s die 8 (h.symm.imp_right Nat.le_of_sub_eq_zero)
  simp [State.stagedStart, hsame]

theorem stagedStart_starts (hn : 0 < 8 - (recentStarts s die).length) (hst : (s.die die).stage ≠ []) :
    s.stagedStart die = some (s.stageDie die 8) := by
  obtain ⟨hstage, -, -⟩ := stageDie_spec s die 8 (Nat.sub_le _ _)
  have hpos := List.length_pos_iff.2 hst
  have hmoved : ((s.stageDie die 8).die die).stage ≠ (s.die die).stage := fun he => by
    have := congrArg List.length (hstage.symm.trans he)
    rw [List.length_drop] at this
    omega
  simp only [State.stagedStart, if_neg hmoved]

/-! ### What staged starting leaves alone -/

theorem stageDie_unmoved (n : Nat) : Unmoved s (s.stageDie die n) := by
  induction n generalizing s with
  | zero => exact unmoved_refl s
  | succ n ih =>
    rcases hst : (s.die die).stage with _ | ⟨c, r⟩
    · rw [stageDie_full s die _ (.inl hst)]
      exact unmoved_refl s
    · by_cases hfull : 8 ≤ (recentStarts s die).length
      · rw [stageDie_full s die _ (.inr hfull)]
        exact unmoved_refl s
      · rw [stageDie_starts s die n hst (Nat.not_le.1 hfull)]
        exact Unmoved.trans ⟨(modCore_setting _ _ _).trans (modDie_setting _ _ _ rfl), rfl, rfl⟩ (ih (startFirst s die c r))

end

end Sys2Proof.Launching
end

section
/-! SUPPORT. Admission (R233, R329 to R333): where a crew is placed, its crew entry and its groups stand new, and nothing of the setting changes but
its launch (O53). -/

namespace Sys2Proof.Launching

open Sys2Proof Sys2Proof.Machine

/-! ### Cores made ready (R23, R248, R391) -/

section
variable (s : State)

theorem modCore_unmoved (c : Nat) (f : Core → Core) : Unmoved s (s.modCore c f) := ⟨rfl, rfl, rfl⟩

theorem enterCore_unmoved (core part : Nat) : Unmoved s (s.enterCore core part) := by
  unfold State.enterCore
  dsimp only
  split <;> exact ⟨rfl, rfl, rfl⟩

theorem startCore_unmoved (core : Nat) : Unmoved s (s.startCore core) := by
  unfold State.startCore
  split
  · exact ⟨modDie_setting _ _ _ rfl, rfl, rfl⟩
  · exact unmoved_refl s

theorem mirrorPut_unmoved (g : Nat) (keys : List PoolWord) : Unmoved s (s.mirrorPut g keys) := by
  unfold State.mirrorPut
  dsimp only
  split <;> exact ⟨rfl, rfl, rfl⟩

theorem fitMirrors_unmoved (core : Nat) : Unmoved s (s.fitMirrors core) := by
  unfold State.fitMirrors
  dsimp only
  split <;> exact ⟨rfl, rfl, rfl⟩

theorem mirrorAll_unmoved (g : Nat) : Unmoved s (s.mirrorAll g) := by
  unfold State.mirrorAll
  split
  · exact (mirrorPut_unmoved s g _).trans (fitMirrors_unmoved _ _)
  · exact unmoved_refl s

end

/-! ### Groups on cores (R232, R233) -/

theorem mem_byRoom {s : State} {cores : List Nat} {c : Nat} (h : c ∈ s.byRoom cores) : c ∈ cores := (sortBy_perm _ _).mem_iff.1 h

/-- A group that is put somewhere stands on one of the cores it may stand on, and no other group has changed. -/
theorem putGroup_spec {s t : State} {x : Launch} {cores : List Nat} {key : Nat} {mk : Nat → Nat → Nat × Nat × Nat → Group}
    (h : s.putGroup x cores key mk = some t) :
    ∃ core ∈ cores, ∃ slot at', t.groups = s.groups.set key (mk core slot at') ∧ t.crews = s.crews ∧ setting t = setting s := by
  obtain ⟨core, hcore, h⟩ := List.exists_of_findSome?_eq_some h
  obtain ⟨at', -, rfl⟩ := Option.map_eq_some_iff.1 h
  obtain ⟨hset, hgroups, hcrews⟩ := ((enterCore_unmoved s core x.part).trans (startCore_unmoved _ core)).trans
    (modCore_unmoved _ core fun c => { c with carve := some x.lrec.carve })
  generalize ((s.enterCore core x.part).startCore core).modCore core (fun c => { c with carve := some x.lrec.carve }) = u at hset hgroups hcrews ⊢
  obtain ⟨mset, mgroups, mcrews⟩ := mirrorAll_unmoved
    { u with groups := u.groups.set key (mk core (freeSlot (u.groupsOn core)) at') } key
  exact ⟨core, mem_byRoom hcore, freeSlot (u.groupsOn core), at', mgroups.trans (by rw [hgroups]), mcrews.trans hcrews, mset.trans hset⟩

/-- One group after another is put on its core, as long as each finds one. -/
def putGroups (x : Launch) (cores : List Nat) (mk : Nat → Nat → Nat → Nat × Nat × Nat → Group) (es : List (Nat × Nat)) (s : Option State) :
    Option State :=
  es.foldl (fun (acc : Option State) e => acc.bind fun s => s.putGroup x cores e.1 (mk e.2)) s

theorem putGroups_none (x : Launch) (cores : List Nat) (mk : Nat → Nat → Nat → Nat × Nat × Nat → Group) (es : List (Nat × Nat)) :
    putGroups x cores mk es none = none := by
  induction es with
  | nil => rfl
  | cons e r ih => exact ih

/-- Every group of the list stands on one of the cores, and every other group is as it was. -/
theorem putGroups_spec {x : Launch} {cores : List Nat} {mk : Nat → Nat → Nat → Nat × Nat × Nat → Group} {es : List (Nat × Nat)}
    (hnd : (es.map Prod.fst).Nodup) {s t : State} (h : putGroups x cores mk es (some s) = some t) :
    setting t = setting s ∧ t.crews = s.crews ∧ (∀ g, g ∉ es.map Prod.fst → t.group? g = s.group? g) ∧
      ∀ e ∈ es, ∃ core ∈ cores, ∃ slot at', t.group? e.1 = some (mk e.2 core slot at') := by
  induction es generalizing s with
  | nil =>
    obtain rfl : s = t := Option.some.inj h
    simp
  | cons e r ih =>
    rw [List.map_cons, List.nodup_cons] at hnd
    rcases hput : s.putGroup x cores e.1 (mk e.2) with _ | u
    · have : putGroups x cores mk r none = some t := hput ▸ h
      simp [putGroups_none] at this
    · have hr : putGroups x cores mk r (some u) = some t := hput ▸ h
      obtain ⟨core, hcore, slot, at', hgroups, hcrews, hset⟩ := putGroup_spec hput
      obtain ⟨tset, tcrews, tother, tmem⟩ := ih hnd.2 hr
      have hself : u.group? e.1 = some (mk e.2 core slot at') := by simp [State.group?, hgroups]
      refine ⟨tset.trans hset, tcrews.trans hcrews, fun g hg => ?_, fun f hf => ?_⟩
      · rw [List.map_cons, List.mem_cons, not_or] at hg
        rw [tother g hg.2, State.group?, hgroups, AMap.find?_set_ne hg.1]
        rfl
      · rcases List.mem_cons.1 hf with rfl | hf
        · exact ⟨core, hcore, slot, at', (tother _ hnd.1).trans hself⟩
        · exact tmem f hf

/-! ### A crew on a unit (R331, R333) -/

theorem nodup_rangeFrom (a n : Nat) : (rangeFrom a n).Nodup :=
  List.nodup_range.map fun _ _ h => Nat.add_left_cancel h

/-- A placed crew has its entry, and each of its groups stands on one of the cores given. -/
theorem crewPlaced_spec {s t : State} {l cid : Nat} {x : Launch} {cores : List Nat} (h : s.crewPlaced l x cid cores = some t) :
    setting t = setting s ∧ t.crew? s.nextId = some (newCrew x l cid (rangeFrom (s.nextId + 1) x.lrec.gpc)) ∧
      ∀ i, i < x.lrec.gpc → ∃ core ∈ cores, ∃ slot at', t.group? (s.nextId + 1 + i) =
        some (newGroup x l s.nextId (newCrew x l cid (rangeFrom (s.nextId + 1) x.lrec.gpc)) i core slot at' (s.fairClass x)) := by
  have hkeys : ((rangeFrom (s.nextId + 1) x.lrec.gpc).zipIdx.map Prod.fst) = rangeFrom (s.nextId + 1) x.lrec.gpc := List.zipIdx_map_fst ..
  obtain ⟨hset, hcrews, -, hmem⟩ := putGroups_spec (x := x) (cores := cores) (es := (rangeFrom (s.nextId + 1) x.lrec.gpc).zipIdx)
    (mk := fun i core slot at' => newGroup x l s.nextId (newCrew x l cid (rangeFrom (s.nextId + 1) x.lrec.gpc)) i core slot at' (s.fairClass x))
    (by rw [hkeys]; exact nodup_rangeFrom _ _) h
  refine ⟨hset, ?_, fun i hi => ?_⟩
  · rw [State.crew?, hcrews, AMap.find?_set_self]
  · refine hmem (s.nextId + 1 + i, i) ?_
    rw [List.mk_mem_zipIdx_iff_getElem?]
    simp [rangeFrom, hi]

/-- A crew that a unit takes is placed on the cores of one co-location place of it. -/
theorem crewOnUnit_spec {s t : State} {l unit cid : Nat} {x : Launch} (h : s.crewOnUnit l x unit cid = some t) :
    ∃ cores ∈ s.instances (s.partn x.part) x.lrec.cscope unit, s.crewPlaced l x cid cores = some t := by
  obtain ⟨cores, hcores, hinto⟩ := List.exists_of_findSome?_eq_some h
  refine ⟨cores, ?_, ?_⟩
  · obtain ⟨⟨cs, i⟩, hmem, rfl⟩ := List.mem_map.1 hcores
    exact List.fst_mem_of_mem_zipIdx ((sortBy_perm _ _).mem_iff.1 hmem)
  · obtain ⟨u, hu, hfit⟩ := Option.bind_eq_some_iff.1 hinto
    split at hfit
    · rwa [Option.some.inj hfit] at hu
    · cases hfit

end Sys2Proof.Launching
end

section
/-! SUPPORT. What follows an admission: registers spill where the pool is short, cores start, and the launch runs (R23, R30, R331, R391; O53). -/

namespace Sys2Proof.Launching

open Sys2Proof Sys2Proof.Machine Sys2Proof.EventRun

/-- The setting and the crews are as they were, and so is every group but for the registers it has spilled. -/
def Spills (s t : State) : Prop := setting t = setting s ∧ t.crews = s.crews ∧
  ∀ g, ∃ sp : Group → List Nat, t.group? g = (s.group? g).map fun y => { y with spilled := sp y }

theorem Spills.trans {s t u : State} (h : Spills s t) (h' : Spills t u) : Spills s u := by
  obtain ⟨tset, tcrews, tgroups⟩ := h
  obtain ⟨uset, ucrews, ugroups⟩ := h'
  refine ⟨uset.trans tset, ucrews.trans tcrews, fun g => ?_⟩
  obtain ⟨sp, ht⟩ := tgroups g
  obtain ⟨sp', hu⟩ := ugroups g
  refine ⟨fun y => sp' { y with spilled := sp y }, ?_⟩
  rw [hu, ht, Option.map_map]
  rfl

theorem Unmoved.spills {s t : State} (h : Unmoved s t) : Spills s t := by
  obtain ⟨hset, hgroups, hcrews⟩ := h
  refine ⟨hset, hcrews, fun g => ⟨Group.spilled, ?_⟩⟩
  rw [State.group?, hgroups]
  exact Option.map_id'.symm

theorem foldl_spills {α : Type} (f : State → α → State) (h : ∀ s x, Spills s (f s x)) (l : List α) (s : State) : Spills s (l.foldl f s) := by
  induction l generalizing s with
  | nil => exact (unmoved_refl s).spills
  | cons a r ih => exact (h s a).trans (ih _)

theorem spillOne_eq {g y : Group} {keep : List Nat} (h : g.spillOne keep = some y) : ∃ sp, y = { g with spilled := sp } := by
  unfold Group.spillOne at h
  split at h
  · exact ⟨_, (Option.some.inj h).symm⟩
  · cases h

/-- Spilling one register of a group changes that group's list of spilled registers. -/
theorem spill_spills {s : State} {g core : Nat} {own : List Nat} {y : Group} (h : (s.grp g).spillOne own = some y) (f : Core → Core) :
    Spills s ((s.modGroup g fun _ => y).modCore core f) := by
  obtain ⟨sp, rfl⟩ := spillOne_eq h
  refine ⟨rfl, rfl, fun k => ?_⟩
  by_cases hk : k = g
  · subst hk
    refine ⟨fun _ => sp, (group?_modGroup_self s k _).trans ?_⟩
    rcases hg : s.group? k with _ | z
    · rfl
    · simp [State.grp, hg]
  · exact ⟨Group.spilled, (group?_modGroup_ne s hk _).trans Option.map_id'.symm⟩

theorem fitGroup_spills (s : State) (g : Nat) (own : List Nat) : Spills s (s.fitGroup g own) := by
  refine foldl_spills _ (fun s _ => ?_) _ s
  split
  · exact (unmoved_refl s).spills
  · split
    · rename_i y hy
      exact spill_spills hy _
    · exact (unmoved_refl s).spills

theorem fitPool_spills (s : State) (core : Nat) : Spills s (s.fitPool core) :=
  (fitMirrors_unmoved s core).spills.trans (foldl_spills _ (fun s g => fitGroup_spills s g []) _ _)

/-! ### The admitted crew (R329 to R333) -/

/-- A launch after one of its crews is admitted at a time; the first starts it. -/
def crewLeft (x : Launch) (d : Dealt) (now : Nat) (y : Launch) : Launch :=
  { y with dealt := y.dealt.erase d, state := .running, tstart := if x.state = .ready then now else y.tstart }

/-- An admission changes its launch, starts cores and spills registers. -/
theorem admitted_spills (s : State) (l : Nat) (x : Launch) (d : Dealt) :
    Spills (s.modLaunch l (crewLeft x d (s.dclk (s.partn x.part).master))) (s.admitted l x d) :=
  (foldl_spills _ (fun s c => fitPool_spills s c) _ _).trans
    (foldl_spills (fun (s : State) die => s.stageDie die 8) (fun s die => (stageDie_unmoved s die 8).spills) _ _)

theorem admitted_launch? {s s1 : State} (hset : setting s1 = setting s) {l : Nat} {x : Launch} (hl : s.launch? l = some x) (d : Dealt) :
    (s1.admitted l x d).launch? l = some (crewLeft x d (s.dclk (s.partn x.part).master) x) := by
  have hclock : s1.dclk (s1.partn x.part).master = s.dclk (s.partn x.part).master := by rw [master_of_setting hset, dclk_of_setting hset]
  have hl1 : s1.launches.find? l = some x := (launch?_of_setting hset l).trans hl
  rw [launch?_of_setting (admitted_spills s1 l x d).1, State.launch?, State.modLaunch_launches, AMap.find?_modify_self, hl1, hclock]
  rfl

theorem newGroup_threads (x : Launch) (l crew : Nat) (c : Crew) (idx core slot : Nat) (at' : Nat × Nat × Nat) (fair : Bool) :
    ∀ th ∈ (newGroup x l crew c idx core slot at' fair).threads, th.2 = Thread.create x.lrec.entry := by
  have hts : ∀ th ∈ (List.range x.lrec.threads).map fun t => (t, Thread.create x.lrec.entry), th.2 = Thread.create x.lrec.entry := by
    simp
  intro th hth
  simp only [newGroup, List.mem_append] at hth
  rcases hth with hth | hth
  · exact hts th hth
  · split at hth
    · obtain ⟨e, he, rfl⟩ := List.mem_map.1 hth
      exact hts e he
    · cases hth

/-- The groups of a placed crew stand on the unit after the admission, their threads at ENTRY. -/
theorem admitted_crewPlaced {s s1 : State} {l unit : Nat} {x : Launch} {d : Dealt} (h : s.crewOnUnit l x unit d.cid = some s1) :
    Spec.crewPlaced s (s1.admitted l x d) l unit x d := by
  obtain ⟨cores, hinst, hplaced⟩ := crewOnUnit_spec h
  obtain ⟨-, hcrew, hgroups⟩ := crewPlaced_spec hplaced
  obtain ⟨-, tcrews, tgroups⟩ := admitted_spills s1 l x d
  refine ⟨⟨_, (congrArg (AMap.find? · s.nextId) tcrews).trans hcrew, rfl, rfl, rfl⟩, fun i hi => ?_⟩
  obtain ⟨core, hcore, slot, at', hg⟩ := hgroups i hi
  obtain ⟨sp, ht⟩ := tgroups (s.nextId + 1 + i)
  refine ⟨_, ht.trans (congrArg (Option.map _) hg), rfl, rfl, rfl, rfl, rfl, List.mem_flatten.2 ⟨cores, hinst, hcore⟩, ?_⟩
  exact newGroup_threads x l s.nextId (newCrew x l d.cid (rangeFrom (s.nextId + 1) x.lrec.gpc)) i core slot at' (s.fairClass x)

/-! ### CREW_ADMIT (R329 to R332) -/

theorem crewAdmit_closed {s : State} {l unit : Nat} {x : Launch} (hl : s.launch? l = some x) (h : s.launchAdmits x = false) :
    s.crewAdmit l unit = none := by
  unfold State.crewAdmit
  simp only [hl]
  split
  · rfl
  · simp [h]

theorem unit_listed {us : List (Nat × Nat)} {unit : Nat} (h : ∃ w, (unit, w) ∈ us) : (us.all fun u => u.1 != unit) = false := by
  obtain ⟨w, hw⟩ := h
  exact List.all_eq_false.2 ⟨_, hw, by simp⟩

section
variable {s : State} {l unit : Nat} {x : Launch} {d : Dealt} (hl : s.launch? l = some x) (hd : x.nextCrew unit = some d)
  (ha : s.launchAdmits x = true) (ho : s.outranked l x unit = false) (hu : ∃ w, (unit, w) ∈ s.units (s.partn x.part) x.lrec.cscope)
include hl hd ha ho hu

theorem crewAdmit_places {s1 : State} (h : s.crewOnUnit l x unit d.cid = some s1) : s.crewAdmit l unit = some (s1.admitted l x d) := by
  simp [State.crewAdmit, hl, hd, ha, ho, unit_listed hu, h]

theorem crewAdmit_waits (h : s.crewOnUnit l x unit d.cid = none) (hm : s.marksFirst l x unit = true) : s.crewAdmit l unit = none := by
  simp [State.crewAdmit, hl, hd, ha, ho, unit_listed hu, h, hm]

end

/-! ### The statement -/

theorem exec_stagedStart (die : Nat) (s : State) : exec (.stagedStart die) s = runEvent (fun s => s.stagedStart die) s := rfl
theorem exec_crewAdmit (l unit : Nat) (s : State) : exec (.crewAdmit l unit) s = runEvent (fun s => s.crewAdmit l unit) s := rfl
theorem exec_launchComplete (l : Nat) (s : State) : exec (.launchComplete l) s = runEvent (fun s => s.launchComplete l) s := rfl
theorem exec_replayRestore (l : Nat) (s : State) : exec (.replayRestore l) s = runEvent (fun s => s.replayRestore l) s := rfl

/-- Settles O53: each of the four events by what it answers, in the setting that the operations below it keep. -/
theorem launchEvents : Obligations.LaunchEvents := by
  unfold Obligations.LaunchEvents
  simp only [Spec.nothing, exec_stagedStart, exec_crewAdmit, exec_launchComplete, exec_replayRestore]
  intro s
  refine ⟨fun die => ⟨fun h => ?_, fun hn hst => ?_⟩, fun l x unit d hl hd ha ho hu => ⟨fun s1 h => ?_, fun h hm => ?_⟩,
    fun l x unit hl h => ?_, fun l x hl hst => ⟨fun h => ?_, fun hq hopen pa s1 hplace hlost => ?_⟩,
    fun l x hl hst => ⟨fun h => ?_, fun hq hr => ?_⟩⟩
  · exact runEvent_of_none (stagedStart_waits s die h)
  · exact ⟨_, runEvent_of_some (stagedStart_starts s die hn hst), stageDie_spec s die 8 (Nat.sub_le _ _)⟩
  · obtain ⟨cores, -, hplaced⟩ := crewOnUnit_spec h
    exact ⟨_, runEvent_of_some (crewAdmit_places hl hd ha ho hu h), admitted_launch? (crewPlaced_spec hplaced).1 hl d, admitted_crewPlaced h⟩
  · exact runEvent_of_none (crewAdmit_waits hl hd ha ho hu h hm)
  · exact runEvent_of_none (crewAdmit_closed hl h)
  · exact runEvent_of_none (launchComplete_waits hl h)
  · obtain ⟨t, ht, hdone⟩ := launchComplete_done hl hst hq hopen (recordPlace_eq hplace) hlost
    exact ⟨t, runEvent_of_some ht, hdone⟩
  · exact runEvent_of_none (replayRestore_waits hl h)
  · exact ⟨_, runEvent_of_some (replayRestore_some hl hst hq hr), replayed_launch? hl, replayed_copies l x, replayed_sameMemory l,
      fun c hc hs => replayed_restores l hc hs⟩

end Sys2Proof.Launching
end

section
/-! SUPPORT. RecordAddress (R40; O41): the offset a record forms, and what its checks answer, clause by clause. -/

namespace Sys2Proof.Records

open Sys2Proof Sys2Proof.Machine

/-- The offset as the model adds it up, by mode. -/
def formedOffset (r : BRec) (a : DWord) (imm : BitVec 12) : DWord := BitVec.ofInt 64
  (if recMode r = 1 then a.lo.toInt * (recStride1 r).toInt + a.hi.toInt * (recStride2 r).toInt + imm.toInt
   else if recMode r = 2 then (a.lo.toNat / 48 * 64 : Nat) + imm.toInt else (a.toNat : Int) + imm.toInt)

theorem offset_eq (r : BRec) (a : DWord) (imm : BitVec 12) : Spec.offset r a imm = (formedOffset r a imm).toInt := rfl

theorem recordAddress_eq (r : BRec) (a : DWord) (imm : BitVec 12) (size : Nat) (wr : Bool) :
    recordAddress r a imm size wr = recCheckOff r (formedOffset r a imm) (if recMode r = 2 then 64 else size) wr := by
  have himm : imm.signExtend 64 + BitVec.ofNat 64 0 = BitVec.ofInt 64 imm.toInt := by
    show _ + 0#64 = _
    rw [BitVec.add_zero, BitVec.signExtend]
  simp only [recordAddress, recordAddressAt, formedOffset, himm, ← BitVec.ofInt_add]
  by_cases h1 : recMode r = 1
  · simp [h1]
  · by_cases h2 : recMode r = 2
    · rw [if_neg h1, if_pos h2, if_neg h1, if_pos h2, if_pos h2, BitVec.ofInt_add, BitVec.ofInt_natCast]
    · rw [if_neg h1, if_neg h2, if_neg h1, if_neg h2, if_neg h2, BitVec.ofInt_add, BitVec.ofInt_natCast, BitVec.ofNat_toNat,
        BitVec.setWidth_eq]

theorem basePlus_eq (r : BRec) (o : Int) : Spec.basePlus r o = recBase r + BitVec.ofInt 64 o := by
  rw [Spec.basePlus, BitVec.ofInt_add, BitVec.ofInt_natCast, BitVec.ofNat_toNat, BitVec.setWidth_eq]

theorem canonical_iff (va : DWord) : canonical va = true ↔ Spec.isCanonical va := by
  have hx : (va.extractLsb' 57 7).toNat = va.toNat / 2 ^ 57 := by
    rw [BitVec.extractLsb'_toNat, Nat.shiftRight_eq_div_pow, Nat.mod_eq_of_lt]
    have := va.isLt
    omega
  have hb : va.getLsbD 56 = decide (va.toNat / 2 ^ 56 % 2 = 1) := by
    rw [BitVec.getLsbD, Nat.testBit_eq_decide_div_mod_eq]
  have hlt := va.isLt
  unfold canonical Spec.isCanonical
  rw [beq_iff_eq, hb, BitVec.toInt_eq_toNat_cond]
  by_cases h : va.toNat / 2 ^ 56 % 2 = 1
  · simp only [h, decide_true, if_true, ← BitVec.toNat_inj, hx]
    norm_num at *
    omega
  · simp only [h, decide_false, Bool.false_eq_true, if_false, ← BitVec.toNat_inj, hx]
    norm_num at *
    omega

/-- Where a check of bounds passes, or wraps, only the canonical check is left. -/
def lastCheck (r : BRec) (off : DWord) : RecAddr :=
  if canonical (recBase r + off) then .at (recBase r + off) else .bad (recBase r + off)

theorem lastCheck_ends (r : BRec) (off : DWord) :
    (canonical (recBase r + off) = true → lastCheck r off = .at (recBase r + off)) ∧
    (¬canonical (recBase r + off) = true → lastCheck r off = .bad (recBase r + off)) :=
  ⟨fun h => if_pos h, fun h => if_neg h⟩

theorem recCheckOff_readonly {r : BRec} (off : DWord) (n : Nat) {wr : Bool} (h : wr = true ∧ recWr r = false) :
    recCheckOff r off n wr = .bad (recBase r + off) := by simp [recCheckOff, h]

theorem recCheckOff_inside {r : BRec} {off : DWord} {n : Nat} {wr : Bool} (hw : ¬(wr = true ∧ recWr r = false))
    (h : recBounds r = 0 ∨ 0 ≤ off.toInt ∧ off.toInt + n ≤ recExtent r) : recCheckOff r off n wr = lastCheck r off := by
  have hb : ¬(recBounds r != 0 && (decide (off.toInt < 0) || decide (off.toInt + n > recExtent r))) = true := by
    simp only [Bool.and_eq_true, bne_iff_ne, Bool.or_eq_true, decide_eq_true_eq]
    omega
  have hw' : ¬(wr && !recWr r) = true := by simpa using hw
  rw [recCheckOff, if_neg hw', if_neg hb]
  rfl

theorem recCheckOff_outside {r : BRec} {off : DWord} {n : Nat} {wr : Bool} (hw : ¬(wr = true ∧ recWr r = false))
    (h : ¬(recBounds r = 0 ∨ 0 ≤ off.toInt ∧ off.toInt + n ≤ recExtent r)) :
    recCheckOff r off n wr = if recBounds r = 2 then .outside
      else if recBounds r = 3 then
        if recExtent r = 0 ∨ recExtent r < off.toInt % recExtent r + n then .bad (recBase r + off)
        else lastCheck r (BitVec.ofInt 64 (off.toInt % recExtent r))
      else .bad (recBase r + off) := by
  have hb : (recBounds r != 0 && (decide (off.toInt < 0) || decide (off.toInt + n > recExtent r))) = true := by
    simp only [Bool.and_eq_true, bne_iff_ne, Bool.or_eq_true, decide_eq_true_eq]
    omega
  have hw' : ¬(wr && !recWr r) = true := by simpa using hw
  rw [recCheckOff, if_neg hw', if_pos hb, ite_or]
  rfl

/-- Settles O41: the offset is formed once, and the branches of the checks are the clauses of R40. -/
theorem recordAddress : Obligations.RecordAddress := by
  intro r a imm size isWrite
  have hn : (if recMode r = 2 then (64 : Int) else size) = (if recMode r = 2 then 64 else size : Nat) := by split <;> rfl
  simp only [recordAddress_eq, offset_eq, basePlus_eq, ← canonical_iff, hn, BitVec.ofInt_toInt]
  generalize formedOffset r a imm = off
  generalize (if recMode r = 2 then 64 else size) = n
  refine ⟨recCheckOff_readonly off n, fun hw => ⟨fun h => ?_, fun h h1 => ?_, fun h h2 => ?_, fun h h3 h0 => ?_, fun h h3 h0 hx => ?_⟩⟩
  · rw [recCheckOff_inside hw h]
    exact lastCheck_ends r off
  · rw [recCheckOff_outside hw h, h1]
    rfl
  · rw [recCheckOff_outside hw h, if_pos h2]
  · rw [recCheckOff_outside hw h, h3, if_neg (by decide), if_pos rfl, if_pos (by exact_mod_cast h0)]
  · rw [recCheckOff_outside hw h, h3, if_neg (by decide), if_pos rfl, if_neg (by omega)]
    exact lastCheck_ends r _

end Sys2Proof.Records
end

section
/-! SUPPORT. The package at power-up (R44, R248, R275, R313, R385, R398, R408, R410; O42). -/

namespace Sys2Proof.PowerUp

open Sys2Proof Sys2Proof.Machine

/-- Settles O42: every table of the state at power-up is empty, so each part reads as its initial value. -/
theorem resetState : Obligations.ResetState := by
  refine ⟨rfl, rfl, rfl, rfl, rfl, rfl, rfl, rfl, rfl, rfl, rfl, fun _ => rfl, fun _ => ⟨rfl, rfl, rfl⟩, fun d => ?_, fun c => ?_, fun c => ?_⟩
  · have : State.reset.die d = Die.init := rfl
    simp only [this]
    decide
  · have : State.reset.core c = Core.init := rfl
    simp only [this]
    decide
  · exact ⟨rfl, rfl, rfl⟩

end Sys2Proof.PowerUp
end

section
/-! SUPPORT. O28 fails: TMOV.get names its whole outcome as that of a computing word, which leaves every other thread of the group alone; it
also pops the queue operands of the shadow of its thread (R387), and nothing in the claim says that the group has no shadow. -/

namespace Sys2Proof.TileElements

open Sys2Proof Sys2Proof.Machine

/-- TMOV.get of the entry that the head of queue 0 names. -/
def queuedGet : TmovGetF := { d := 5, sel := .q 0, y := false, tn := 1 }

def queuedGetWord : Instr := .tmovGet Head.plain queuedGet

def queuedGetLane : Lane := { g := 1, t := 0, sh := false }

def queuedGetGang : Gang :=
  { quad := 0, clause := probeClause (encode queuedGetWord).toNat, ix := 0, lanes := [queuedGetLane], ops := [], yld := false,
    wip := none, step := false, issueId := 1 }

/-- A thread at the word, with one entry in queue 0 that names entry 0 of a tile. -/
def queuedGetThread : Thread :=
  { Thread.create 0x4_0000_0008 with q := [(0, [{ va := 0, scope := .core, val := some 0, fault := none }])] }

/-- A group that holds every tile's token, whose one thread stands at the word and has a shadow with the same queue. -/
def queuedGetState : State :=
  ((State.reset.withFetchWord 64 (encode queuedGetWord).toNat).modGroup 1 fun g =>
    { g with threads := [(0, queuedGetThread), (64, queuedGetThread)] }).modCore 0 fun c =>
      { c with tok := (List.range 16).map fun k => (k, .group 1) }

/-- The queue of the shadow before and after the word. -/
def shadowQueue (s : State) : Option (List QEntry) := (s.thread? queuedGetLane.shadow).map fun th => th.q.get [] 0

/-- The state the word ends in, where it passes. -/
def afterQueuedGet : State :=
  match exec queuedGetWord queuedGetState with
  | .next t => t
  | _ => queuedGetState

theorem queuedGet_stands : queuedGetState.plainAt 1 queuedGetGang queuedGetLane queuedGetWord = true := by decide +kernel

theorem queuedGet_inside : queuedGetGang.inside = true := by decide +kernel

theorem queuedGet_operands :
    queuedGetState.operandsOf queuedGetLane queuedGetWord = some ([0], (queuedGetThread.pop 0).2) := by decide +kernel

theorem queuedGet_core : (queuedGetState.grp queuedGetLane.g).core = 0 := by decide +kernel

theorem queuedGet_idle : Spec.engineIdle (queuedGetState.core 0) := by
  constructor <;> decide +kernel

theorem queuedGet_token : (queuedGetState.core 0).token (Spec.tile false 1) = .group queuedGetLane.g := by decide +kernel

theorem queuedGet_clean : ((queuedGetState.core 0).ztile 1).poison.contains 0 = false := by decide +kernel

/-- The word empties the queue of the shadow, which held one entry. -/
theorem queuedGet_pops_shadow : shadowQueue afterQueuedGet ≠ shadowQueue queuedGetState := by decide +kernel

/-- Refutes O28: TMOV.get with a queue selector also pops the queue of its thread's shadow (R387), so another thread of the group changes. -/
theorem not_tileTokensAndElements : ¬ Obligations.TileTokensAndElements := by
  intro h
  obtain ⟨-, -, hget, -⟩ := h.2 queuedGetState 1 queuedGetGang queuedGetLane Head.plain 0 queuedGet_core.symm queuedGet_idle
  obtain ⟨t, ht, hcomputed⟩ := hget queuedGet 0 (queuedGetThread.pop 0).2 0 queuedGet_stands queuedGet_inside queuedGet_operands
    ⟨0, 0, by decide, by decide, .inl ⟨rfl, rfl⟩⟩ queuedGet_token queuedGet_clean
  obtain ⟨-, -, -, -, -, hgroup, -⟩ := hcomputed
  obtain ⟨-, -, -, -, -, -, hothers⟩ := hgroup
  have hafter : afterQueuedGet = t := by
    unfold afterQueuedGet
    rw [show exec queuedGetWord queuedGetState = .next t from ht]
  have hkept : t.thread? queuedGetLane.shadow = queuedGetState.thread? queuedGetLane.shadow :=
    hothers queuedGetLane.shadow rfl (by decide)
  apply queuedGet_pops_shadow
  rw [hafter, shadowQueue, shadowQueue, hkept]

end Sys2Proof.TileElements
end

section
/-! SUPPORT. What a translation, a place and a write by no launch leave alone: all that the threads are made of, but the marks of open regions
(R308, R335 to R339). -/

namespace Sys2Proof.Steadiness

open Sys2Proof Sys2Proof.Machine

/-- Two values of a thread that differ in its open region only. -/
def RegionOnly (x y : Thread) : Prop := y = { x with region := y.region } ∧ (x.region = none → y.region = none)

/-- Two values of a group whose threads differ in open regions only. -/
def RegionsOnly (x y : Group) : Prop := y = { x with threads := y.threads } ∧ ∀ n, Option.Rel RegionOnly (x.thread? n) (y.thread? n)

/-- Two states that differ in memory, its copies and their directories, translations, queues' wake-ups, free values, and the open
regions. -/
structure Steady (s t : State) : Prop where
  fields : t = { s with free := t.free, groups := t.groups, cores := t.cores, clusters := t.clusters, dies := t.dies,
                        parts := t.parts, mem := t.mem, sectors := t.sectors, hostCache := t.hostCache }
  groups : ∀ g, Option.Rel RegionsOnly (s.group? g) (t.group? g)

/-! ### Closure -/

theorem rel_refl {α : Type} {r : α → α → Prop} (h : ∀ a, r a a) (x : Option α) : Option.Rel r x x := by
  cases x
  · exact .none
  · exact .some (h _)

theorem rel_trans {α : Type} {r : α → α → Prop} (h : ∀ a b c, r a b → r b c → r a c) {x y z : Option α} (hxy : Option.Rel r x y)
    (hyz : Option.Rel r y z) : Option.Rel r x z := by
  cases hxy with
  | none => cases hyz; exact .none
  | some hab => cases hyz with
    | some hbc => exact .some (h _ _ _ hab hbc)

theorem rel_map_self {α : Type} {r : α → α → Prop} {f : α → α} (h : ∀ a, r a (f a)) (x : Option α) : Option.Rel r x (x.map f) := by
  cases x
  · exact .none
  · exact .some (h _)

theorem RegionOnly.refl (x : Thread) : RegionOnly x x := ⟨rfl, id⟩

theorem RegionOnly.trans (x y z : Thread) (h : RegionOnly x y) (h' : RegionOnly y z) : RegionOnly x z := by
  refine ⟨?_, fun hx => h'.2 (h.2 hx)⟩
  have e := h'.1
  rw [h.1] at e
  exact e

theorem RegionsOnly.refl (x : Group) : RegionsOnly x x := ⟨rfl, fun _ => rel_refl RegionOnly.refl _⟩

theorem RegionsOnly.trans (x y z : Group) (h : RegionsOnly x y) (h' : RegionsOnly y z) : RegionsOnly x z := by
  refine ⟨?_, fun n => rel_trans RegionOnly.trans (h.2 n) (h'.2 n)⟩
  have e := h'.1
  rw [h.1] at e
  exact e

theorem groups_same {s t : State} (h : t.groups = s.groups) (g : Nat) : Option.Rel RegionsOnly (s.group? g) (t.group? g) := by
  rw [State.group?, State.group?, h]
  exact rel_refl RegionsOnly.refl _

theorem Steady.refl (s : State) : Steady s s := ⟨rfl, groups_same rfl⟩

theorem Steady.trans {s t u : State} (h : Steady s t) (h' : Steady t u) : Steady s u := by
  refine ⟨?_, fun g => rel_trans RegionsOnly.trans (h.groups g) (h'.groups g)⟩
  have e := h'.fields
  rw [h.fields] at e
  exact e

theorem foldl_steady {α : Type} (f : State → α → State) (h : ∀ s x, Steady s (f s x)) (l : List α) (s : State) : Steady s (l.foldl f s) := by
  induction l generalizing s with
  | nil => exact Steady.refl s
  | cons a r ih => exact (h s a).trans (ih _)

theorem steady_ite {s t u : State} {c : Prop} [Decidable c] (ht : Steady s t) (hu : Steady s u) : Steady s (if c then t else u) := by
  split
  · exact ht
  · exact hu

/-! ### Updates of one part of the state -/

section
variable (s : State)

theorem used_steady (n : Nat) : Steady s (s.used n) := ⟨rfl, groups_same rfl⟩
theorem modCore_steady (c : Nat) (f : Core → Core) : Steady s (s.modCore c f) := ⟨rfl, groups_same rfl⟩
theorem modCluster_steady (c : Nat) (f : Cluster → Cluster) : Steady s (s.modCluster c f) := ⟨rfl, groups_same rfl⟩
theorem modDie_steady (c : Nat) (f : Die → Die) : Steady s (s.modDie c f) := ⟨rfl, groups_same rfl⟩
theorem modPart_steady (p : Nat) (f : Partition → Partition) : Steady s (s.modPart p f) := ⟨rfl, groups_same rfl⟩
theorem setSector_steady (k : Nat) (x : Sector) : Steady s (s.setSector k x) := ⟨rfl, groups_same rfl⟩
theorem modSector_steady (k : Nat) (f : Sector → Sector) : Steady s (s.modSector k f) := ⟨rfl, groups_same rfl⟩
theorem wrN_steady (pa : Nat) (bs : List Byte) : Steady s (s.wrN pa bs) := ⟨rfl, groups_same rfl⟩
theorem modWin_steady (core w : Nat) (f : Window → Window) : Steady s (s.modWin core w f) := ⟨rfl, groups_same rfl⟩

/-! ### The sector protocol -/

/-- Marks reach open regions only. -/
theorem markSec_steady (sec : Space) (hit : Lane → Group → Bool) : Steady s (s.markSec sec hit) := by
  refine ⟨rfl, fun g => ?_⟩
  unfold State.markSec State.group?
  rw [AMap.find?_mapVals]
  refine rel_map_self (fun x => ⟨rfl, fun n => ?_⟩) _
  unfold Group.thread?
  rw [AMap.find?_mapVals]
  refine rel_map_self (fun th => ?_) _
  split
  · exact ⟨rfl, fun h => by simp [h]⟩
  · exact RegionOnly.refl th

theorem markAll_steady (sec : Nat) (who : Option Lane) : Steady s (s.markAll sec who) :=
  steady_ite (markSec_steady s _ _) (Steady.refl s)

theorem markPlace_steady (sp : Space) (who : Option Lane) : Steady s (s.markPlace sp who) :=
  steady_ite (markSec_steady s _ _) (Steady.refl s)

theorem takeAway_steady (sec : Nat) (who : Option Lane) : Steady s (s.takeAway sec who) :=
  steady_ite (markAll_steady s _ _) ((setSector_steady s _ _).trans (markAll_steady _ _ _))

theorem mscCount_steady (sec : Nat) : Steady s (s.mscCount sec) := by
  unfold State.mscCount
  exact steady_ite (modDie_steady s _ _) (modDie_steady s _ _)

theorem mscDrain_steady (line : Nat) : Steady s (s.mscDrain line) :=
  steady_ite ((foldl_steady _ (fun s k => modSector_steady s k _) _ _).trans (modDie_steady _ _ _)) (Steady.refl s)

theorem mscRoom_steady (sec : Nat) (may : Bool) : Steady s (s.mscRoom sec may) := by
  have out : ∀ (t : State) (line : Nat), Steady t ((lineSectors line).foldl (fun (s : State) k => s.modSector k fun x =>
      { x with mscHas := false }) ((t.used 1).mscDrain line)) := fun t line =>
    ((used_steady t 1).trans (mscDrain_steady _ line)).trans (foldl_steady _ (fun s k => modSector_steady s k _) _ _)
  unfold State.mscRoom
  exact steady_ite (out s _) (steady_ite (Steady.refl s) (steady_ite (used_steady s 1) ((used_steady s 1).trans (out _ _))))

theorem mscTake_steady (sec hint : Nat) : Steady s (s.mscTake sec hint) :=
  steady_ite (Steady.refl s) ((modSector_steady s _ _).trans (mscRoom_steady _ _ _))

theorem toMsc_steady (sec : Nat) : Steady s (s.toMsc sec) := by
  unfold State.toMsc
  exact steady_ite (((mscCount_steady s sec).trans (modSector_steady _ _ _)).trans (mscRoom_steady _ _ _)) (modSector_steady s _ _)

theorem fromHome_steady (sec hint : Nat) : Steady s (s.fromHome sec hint) := by
  unfold State.fromHome
  exact steady_ite (Steady.refl s) (steady_ite (mscCount_steady s sec) ((mscCount_steady s sec).trans (mscTake_steady _ _ _)))

theorem shareOut_steady (sec top : Nat) : Steady s (s.shareOut sec top) := steady_ite (Steady.refl s) (modSector_steady s _ _)

theorem readPhys_steady (die hint pa : Nat) : Steady s (s.readPhys die hint pa) :=
  steady_ite ((fromHome_steady s _ _).trans (shareOut_steady _ _ _)) (Steady.refl s)

theorem wakeSector_steady (sec : Nat) : Steady s (s.wakeSector sec) := by
  refine foldl_steady _ (fun s p => ?_) _ _
  unfold State.wake
  split
  case h_6 => exact Steady.refl s
  all_goals exact modPart_steady s _ _

theorem dirtyWindow_steady (sec : Nat) (whole : Bool) : Steady s (s.dirtyWindow sec whole) := by
  unfold State.dirtyWindow
  split
  · exact Steady.refl s
  · exact modCore_steady s _ _

theorem hostSector_steady (sec : Nat) : Steady s (s.hostSector sec).2 := by
  unfold State.hostSector
  dsimp only
  split
  · exact Steady.refl s
  · split
    · exact Steady.refl s
    · exact used_steady s 1

theorem peek_steady (pa n : Nat) : Steady s (s.peek pa n).2 := by
  unfold State.peek
  split
  · exact hostSector_steady s _
  · exact Steady.refl s

theorem poke_steady (pa : Nat) (bs : List Byte) (whole : Bool) : Steady s (s.poke pa bs whole) := by
  have hput : ∀ t : State, Steady t (match t.paKind pa with
      | .host _ =>
        let h := t.hostCache.get { olds := [], own := [] } (pa / 64)
        let own := (List.zip (rangeFrom (pa % 64) bs.length) bs).foldl (fun m e => m.set e.1 e.2) h.own
        { t with hostCache := t.hostCache.set (pa / 64) { h with own } }
      | .hbm | .span | .window _ | .none => t.wrN pa bs) := fun t => by
    split
    · exact ⟨rfl, groups_same rfl⟩
    all_goals exact wrN_steady t _ _
  unfold State.poke
  exact steady_ite (((wakeSector_steady s _).trans (hput _)).trans (modSector_steady _ _ _)) ((wakeSector_steady s _).trans (hput _))

theorem storeNow_steady (who : Option Lane) (pa : Nat) (bs : List Byte) (whole : Bool) : Steady s (s.storeNow none who pa bs whole) := by
  have ht : Steady s ((s.takeAway (pa / 64) who).poke pa bs whole) := (takeAway_steady s _ _).trans (poke_steady _ _ _ _)
  unfold State.storeNow
  exact steady_ite (poke_steady s _ _ _) (steady_ite (ht.trans (dirtyWindow_steady _ _ _)) (ht.trans (toMsc_steady _ _)))

/-! ### Translation -/

theorem steady_of_used {s t : State} (h : ∃ n, t = s.used n) : Steady s t := by
  obtain ⟨n, rfl⟩ := h
  exact used_steady s n

theorem tlbFill_steady (core : Nat) (e : TlbEntry) : Steady s (s.tlbFill core e) :=
  ((modCore_steady s _ _).trans (modCluster_steady _ _ _)).trans (modDie_steady _ _ _)

theorem tlbTouched_steady (core : Nat) (e : TlbEntry) (bits : DWord) : Steady s (s.tlbTouched core e bits) := by
  unfold State.tlbTouched
  exact ((modCore_steady s _ _).trans (modCluster_steady _ _ _)).trans (modDie_steady _ _ _)

theorem steady_snd_ite {s : State} {α : Type} {c : Prop} [Decidable c] {a b : α × State} (ha : Steady s a.2) (hb : Steady s b.2) :
    Steady s (if c then a else b).2 := by
  split
  · exact ha
  · exact hb

theorem walkNow_steady (core part va vpn : Nat) : Steady s (s.walkNow core part va vpn).2 := by
  have keep : ∀ r : Except XErr (TlbEntry × List WalkEntry) × State, (∃ n, r.2 = s.used n) →
      Steady s (match r with
        | (.ok (e, ws), s) => ((.ok e : Except XErr TlbEntry),
            (s.modDie (coreDie core) fun d => { d with walks := walksAdd ws d.walks }).tlbFill core e)
        | (.error x, s) => (.error x, s)).2 := by
    rintro ⟨_ | ⟨e, ws⟩, u⟩ hu
    · exact steady_of_used hu
    · exact ((steady_of_used hu).trans (modDie_steady _ _ _)).trans (tlbFill_steady _ _ _)
  have hfull := Launching.walkPage_used s part va vpn
  have hagain : ∃ n, ((s.used 1).walkPage part va vpn).2 = s.used n := by
    obtain ⟨n, hn⟩ := Launching.walkPage_used (s.used 1) part va vpn
    exact ⟨1 + n, hn.trans (Launching.used_used s 1 n)⟩
  have hcached : ∃ n, (((s.used 1).walkCached (coreDie core) part va vpn).getD ((s.used 1).walkPage part va vpn)).2 = s.used n := by
    rcases hc : (s.used 1).walkCached (coreDie core) part va vpn with _ | r
    · exact hagain
    · obtain ⟨n, hn⟩ := Launching.walkCached_used _ hc
      exact ⟨1 + n, hn.trans (Launching.used_used s 1 n)⟩
  unfold State.walkNow
  dsimp only
  rcases s.walkCached (coreDie core) part va vpn with _ | old
  · exact keep _ hfull
  · exact steady_snd_ite (keep _ hfull) (steady_snd_ite (keep _ hcached) (keep _ hagain))

theorem lookup_steady (core part va : Nat) : Steady s (s.lookup core part va).2 := by
  have hw := steady_of_used (Launching.walkPage_used s part va (natField va 12 45))
  unfold State.lookup
  dsimp only
  split
  · exact walkNow_steady s _ _ _ _
  · split
    · rename_i s' heq
      rw [heq] at hw
      split
      · exact hw
      · exact steady_snd_ite (hw.trans (used_steady _ 1)) ((hw.trans (used_steady _ 1)).trans (walkNow_steady _ _ _ _ _))
    · rename_i s' heq
      rw [heq] at hw
      exact steady_snd_ite (hw.trans (used_steady _ 1)) ((hw.trans (used_steady _ 1)).trans (walkNow_steady _ _ _ _ _))

theorem xlate_steady (core part : Nat) (va : DWord) (n : Need) : Steady s (s.xlate core part va n).2 := by
  have hread := lookup_steady s core part va.toNat
  unfold State.xlate
  split
  · rename_i heq
    rwa [heq] at hread
  · rename_i e u heq
    rw [heq] at hread
    dsimp only
    refine steady_snd_ite hread (steady_snd_ite hread (steady_snd_ite hread ?_))
    exact hread.trans ((steady_ite (storeNow_steady u _ _ _ _) (Steady.refl u)).trans (tlbTouched_steady _ _ _ _))

/-! ### Places (R253, R257, R335) -/

theorem winPa_steady (core w k : Nat) (n : Need) : Steady s (s.winPa core w k n).2 := by
  unfold State.winPa
  split
  · exact Steady.refl s
  · exact xlate_steady s _ _ _ _

theorem winFill_steady (core w k : Nat) (n : Need) : Steady s (s.winFill core w k n).2 := by
  have hpa := winPa_steady s core w k n
  unfold State.winFill
  split
  · exact Steady.refl s
  · rename_i x _
    split
    · rename_i heq
      rwa [heq] at hpa
    · rename_i pa u heq
      rw [heq] at hpa
      refine steady_snd_ite hpa (hpa.trans ?_)
      have hread : Steady u ((u.readPhys (coreDie core) 0 pa).peek pa 64).2 := (readPhys_steady u _ _ _).trans (peek_steady _ _ _)
      exact (hread.trans (steady_ite ((takeAway_steady _ _ _).trans (modSector_steady _ _ _)) (Steady.refl _))).trans
        ((modCore_steady _ _ _).trans (modWin_steady _ _ _ _))

theorem fillPlace_steady (sp : Space) : Steady s (s.fillPlace sp) := by
  unfold State.fillPlace
  split
  · exact Steady.refl s
  · exact Steady.refl s
  · exact winFill_steady s _ _ _ _

theorem resolve_steady (g : Nat) (va : DWord) (size : Nat) (n : Need) : Steady s (s.resolve g va size n).2 := by
  have hx := xlate_steady s (s.grp g).core (s.grp g).part va n
  unfold State.resolve
  split
  · split <;> exact Steady.refl s
  · split
    all_goals
      rename_i heq
      rwa [heq] at hx

theorem place_steady (l : Lane) (bd : Nat) (va : DWord) (size : Nat) (n : Need) : Steady s (s.place l bd va size n).2 := by
  unfold State.place
  dsimp only
  split
  · rename_i w x _
    have hpa := winPa_steady s (s.grp l.g).core w ((va - x.va).toNat / 64) n
    split
    all_goals
      rename_i heq
      rw [heq] at hpa
    · exact hpa
    · exact hpa.trans (steady_ite (fillPlace_steady _ _) (Steady.refl _))
  · exact resolve_steady s _ _ _ _

theorem addressAt_steady (l : Lane) (m : MAddr) (extra size align : Nat) (k : AccKind) (n : Need) :
    Steady s (s.addressAt l m extra size align k n).2 := by
  unfold State.addressAt
  refine steady_snd_ite (used_steady s 1) ?_
  split
  · exact Steady.refl s
  · exact Steady.refl s
  · rename_i va _
    refine steady_snd_ite (Steady.refl s) ?_
    have hp := place_steady s l m.br.val va size n
    split
    all_goals
      rename_i heq
      rwa [heq] at hp

end

/-! ### What steady states read alike -/

section
variable {s t : State} (h : Steady s t)
include h

theorem Steady.gangs : t.gangs = s.gangs := by rw [h.fields]
theorem Steady.cur : t.cur = s.cur := by rw [h.fields]
theorem Steady.gang? (k : Nat) : t.gang? k = s.gang? k := by rw [State.gang?, h.gangs, State.gang?]
theorem Steady.lanesOfGang (k : Nat) : t.lanesOfGang k = s.lanesOfGang k := by rw [State.lanesOfGang, h.gang? k, State.lanesOfGang]

theorem Steady.grp (g : Nat) : RegionsOnly (s.grp g) (t.grp g) := by
  have hg := h.groups g
  unfold State.grp
  revert hg
  generalize s.group? g = x
  generalize t.group? g = y
  rintro (hxy | _)
  · assumption
  · exact RegionsOnly.refl _

theorem Steady.grp_with (g : Nat) : ∃ ts, t.grp g = { s.grp g with threads := ts } := ⟨_, (h.grp g).1⟩

theorem Steady.vreg (g : Nat) (sh : Bool) (n : Nat) : (t.grp g).vreg sh n = (s.grp g).vreg sh n := by
  obtain ⟨ts, e⟩ := h.grp_with g
  rw [e]
  rfl

theorem Steady.v (m : Lane) (n : Nat) : t.v m n = s.v m n := by simp only [State.v, Group.readV, h.vreg]

theorem Steady.prot (g : Nat) : (t.grp g).prot = (s.grp g).prot := by
  obtain ⟨ts, e⟩ := h.grp_with g
  rw [e]

/-- A thread without an open region is as it was. -/
theorem Steady.thread? {m : Lane} {th : Thread} (hs : s.thread? m = some th) (hr : th.region = none) : t.thread? m = some th := by
  have hg := h.groups m.g
  simp only [State.thread?, Option.bind_eq_some_iff] at hs ⊢
  obtain ⟨x, hx, hth⟩ := hs
  rw [hx] at hg
  generalize t.group? m.g = o at hg
  rcases hg with ⟨hxy⟩ | _
  rename_i y
  refine ⟨y, rfl, ?_⟩
  have ht := hxy.2 m.key
  rw [hth] at ht
  generalize y.thread? m.key = o at ht
  rcases ht with ⟨hth'⟩ | _
  rename_i z
  rw [hth'.1, hth'.2 hr, ← hr]

end

end Sys2Proof.Steadiness
end

section
/-! SUPPORT. A word of one plain thread as the claims about memory and matrix words name it: passed, with the gang at the next word, or left by the
one lane that takes a fault (R79, R237). -/

namespace Sys2Proof.PlainWords

open Sys2Proof Sys2Proof.Machine Sys2Proof.Steadiness

/-! ### States alike up to bookkeeping -/

theorem group_alike_refl (x : Group) : x.alike x := ⟨rfl, fun _ _ => rfl⟩

theorem group_alike_trans (x y z : Group) (h : x.alike y) (h' : y.alike z) : x.alike z := by
  refine ⟨?_, fun sh n => (h'.2 sh n).trans (h.2 sh n)⟩
  have e := h'.1
  rw [h.1] at e
  exact e

/-- What `State.alike` says of the group, as a relation of two options. -/
theorem alike_iff {u t : State} {g : Nat} : u.alike t g ↔
    t = { u with groups := t.groups, cores := t.cores, gangs := t.gangs, cur := t.cur, free := t.free } ∧
    (∀ h, h ≠ g → t.group? h = u.group? h) ∧ (∀ c, (t.core c).uncounted = (u.core c).uncounted) ∧
    Option.Rel Group.alike (u.group? g) (t.group? g) := by
  unfold State.alike
  refine and_congr_right fun _ => and_congr_right fun _ => and_congr_right fun _ => ?_
  rcases u.group? g with _ | x <;> rcases t.group? g with _ | y
  · exact iff_of_true trivial .none
  · exact iff_of_false id fun h => nomatch h
  · exact iff_of_false id fun h => nomatch h
  · refine ⟨fun h => .some h, fun h => ?_⟩
    cases h
    assumption

/-- A change of bookkeeping that leaves gangs alone: what the end of a word adds. -/
structure Tended (s t : State) (g : Nat) : Prop where
  fields : t = { s with groups := t.groups, cores := t.cores }
  others : ∀ h, h ≠ g → t.group? h = s.group? h
  cores : ∀ c, (t.core c).uncounted = (s.core c).uncounted
  group : Option.Rel Group.alike (s.group? g) (t.group? g)

theorem Tended.refl (s : State) (g : Nat) : Tended s s g := ⟨rfl, fun _ _ => rfl, fun _ => rfl, rel_refl group_alike_refl _⟩

theorem Tended.trans {s t u : State} {g : Nat} (h : Tended s t g) (h' : Tended t u g) : Tended s u g := by
  refine ⟨?_, fun k hk => (h'.others k hk).trans (h.others k hk), fun c => (h'.cores c).trans (h.cores c),
    rel_trans group_alike_trans h.group h'.group⟩
  have e := h'.fields
  rw [h.fields] at e
  exact e

theorem Tended.gang? {s t : State} {g : Nat} (h : Tended s t g) (k : Nat) : t.gang? k = s.gang? k := by
  rw [h.fields]
  rfl

theorem Tended.cur {s t : State} {g : Nat} (h : Tended s t g) : t.cur = s.cur := by
  rw [h.fields]

/-- Bookkeeping after a state that differs from another in gangs and free values. -/
theorem Tended.alike {s t : State} {g : Nat} (h : Tended s t g) {u : State} (hu : s = { u with gangs := s.gangs, cur := s.cur, free := s.free }) :
    u.alike t g := by
  have hgroups : s.groups = u.groups := by rw [hu]
  have hcores : s.cores = u.cores := by rw [hu]
  refine alike_iff.2 ⟨?_, fun k hk => (h.others k hk).trans ?_, fun c => (h.cores c).trans ?_, ?_⟩
  · have e := h.fields
    rw [hu] at e
    rw [e]
  · rw [State.group?, State.group?, hgroups]
  · rw [State.core, State.core, hcores]
  · have e : s.group? g = u.group? g := by rw [State.group?, State.group?, hgroups]
    exact e ▸ h.group

theorem tended_modGroup (s : State) (g : Nat) (f : Group → Group) (h : ∀ x, s.group? g = some x → x.alike (f x)) : Tended s (s.modGroup g f) g := by
  refine ⟨rfl, fun k hk => group?_modGroup_ne s hk f, fun _ => rfl, ?_⟩
  rw [group?_modGroup_self]
  rcases hx : s.group? g with _ | x
  · exact .none
  · exact .some (h x hx)

theorem tended_modCore (s : State) (g c : Nat) (f : Core → Core) (h : ∀ x : Core, (f x).uncounted = x.uncounted) : Tended s (s.modCore c f) g :=
  ⟨rfl, fun _ _ => rfl, (Quiet.modCore s g c f h).cores, rel_refl group_alike_refl _⟩

theorem mirrorPut_tended (s : State) (g h : Nat) (keys : List PoolWord) : Tended s (s.mirrorPut h keys) g := by
  unfold State.mirrorPut
  split
  · exact Tended.refl s g
  · exact tended_modCore s g _ _ fun _ => rfl

theorem fitMirrors_tended (s : State) (g core : Nat) : Tended s (s.fitMirrors core) g := by
  unfold State.fitMirrors
  split
  · exact Tended.refl s g
  · exact tended_modCore s g _ _ fun _ => rfl

theorem spillOne_alike {x y : Group} {keep : List Nat} (h : x.spillOne keep = some y) : x.alike y := by
  obtain ⟨sp, rfl⟩ := Launching.spillOne_eq h
  exact ⟨rfl, fun _ _ => rfl⟩

theorem fitGroup_tended (s : State) (g : Nat) (own : List Nat) : Tended s (s.fitGroup g own) g := by
  unfold State.fitGroup
  dsimp only
  generalize (State.grp s g).core = core
  generalize List.range 96 = ns
  induction ns generalizing s with
  | nil => exact Tended.refl s g
  | cons n r ih =>
    rw [List.foldl_cons]
    refine Tended.trans ?_ (ih _)
    split
    · exact Tended.refl s g
    · split
      · rename_i y hy
        refine (tended_modGroup s g _ fun x hx => ?_).trans (tended_modCore _ g _ _ fun _ => rfl)
        rw [State.grp, hx] at hy
        exact spillOne_alike hy
      · exact Tended.refl s g

theorem useRegs_tended (s : State) (g : Nat) (own : List Nat) : Tended s (s.useRegs g own) g := by
  unfold State.useRegs
  refine (mirrorPut_tended s g g _).trans ((tended_modGroup _ g _ fun x _ => ?_).trans ((fitMirrors_tended _ g _).trans (fitGroup_tended _ g own)))
  exact ⟨rfl, fun _ _ => rfl⟩

theorem touchRegs_tended (s0 s : State) (g : Nat) (i : Instr) (ls : List Lane) : Tended s (s0.touchRegs s g i ls) g :=
  (mirrorPut_tended s g g _).trans (useRegs_tended _ g _)

theorem gave_tended (s0 s : State) (g : Nat) (ls : List Lane) (ns : List Nat) : Tended s (s0.gave s g ls ns) g :=
  (mirrorPut_tended s g g _).trans (useRegs_tended _ g _)

theorem repath_tended (s : State) (g : Nat) : Tended s (s.repath g) g := by
  unfold State.repath
  split
  · exact Tended.refl s g
  · rename_i x hx
    have h1 : Tended s (s.modGroup g fun _ => x.repath (s.groupPcs g)) g := tended_modGroup s g _ fun y hy => by
      obtain rfl : x = y := Option.some.inj (hx.symm.trans hy)
      exact ⟨rfl, fun _ _ => rfl⟩
    dsimp only
    split
    · exact h1.trans (tended_modCore _ g _ _ fun _ => rfl)
    · exact h1

theorem issued_tended (s : State) (gang : Gang) (l : Lane) (h : gang.lanes = [l]) : Tended s (s.issued gang) l.g := by
  unfold State.issued
  split
  · exact Tended.refl s _
  · rw [h, groupsOf_one]
    exact tended_modGroup s l.g _ fun _ _ => ⟨rfl, fun _ _ => rfl⟩

/-- The bookkeeping at the end of a word of one lane. -/
theorem wordEnd_tended (s0 s : State) (l : Lane) (i : Instr) (ls : List Lane) : Tended s ((s0.touchRegs s l.g i ls).repath l.g) l.g :=
  (touchRegs_tended s0 s l.g i ls).trans (repath_tended _ l.g)

/-! ### What states alike read alike -/

theorem Tended.quiet {s t : State} {g : Nat} (h : Tended s t g) : Quiet s t g := by
  refine ⟨fun x hx => ?_, fun hn => ?_, h.others, h.cores, h.fields⟩
  · have hg := h.group
    rw [hx] at hg
    generalize t.group? g = o at hg ⊢
    rcases hg with ⟨hxy⟩ | _
    rename_i y
    refine ⟨y, rfl, ?_⟩
    obtain ⟨he, hv⟩ := hxy
    rw [he]
    constructor
    case vreg => exact hv
    all_goals rfl
  · have hg := h.group
    rw [hn] at hg
    generalize t.group? g = o at hg ⊢
    cases hg
    rfl

/-! ### A word that passes -/

/-- A word that has not come to its clause's end moves the gang of its one lane to the next word; the rest is bookkeeping. -/
theorem finishWord_tended (s0 s1 : State) (c : Ctx) (g2 : Gang) (i : Instr) (l : Lane) (hlast : c.last = false) (hstep : g2.step = false)
    (hlanes : g2.lanes = [l]) (hstay : s1.lanesOfGang c.k = [l]) :
    Tended ((s1.modThread l fun th => th.past c).modGang c.k fun g => { g with ix := g.ix + 1, wip := none })
      (State.finishWord s0 s1 c g2 i) l.g := by
  have hnext : ∀ now : Gang, now.step = false → s1.nextWord c now [l] =
      (s1.modThread l fun th => th.past c).modGang c.k fun g => { g with ix := g.ix + 1, wip := none } := by
    intro now h
    simp [State.nextWord, h, Thread.past]
  simp only [State.finishWord, hstay, hlast, Bool.false_eq_true, if_false]
  rw [hnext _ (by split <;> exact hstep)]
  simp only [hstep, hlanes, groupsOf_one, Bool.false_eq_true, if_false, List.foldl_cons, List.foldl_nil]
  exact wordEnd_tended s0 _ l i _

section
variable {s u s3 : State} {k : Nat} {gang : Gang} {l : Lane} {i : Instr} {alu : Bool} {pend : Pending} {eff : Effect}

/-- A plain word that is not its clause's last and acts passes. -/
theorem runWith_passed {ops : List Issued} (h : s.plainAt k gang l i = true) (hin : gang.inside = true)
    (he : eff (gang.ctx k) [l] (s.issued gang) = some s3) (hu : s3 = { u with gangs := s3.gangs, cur := s3.cur, free := s3.free })
    (hcur : s3.cur = s.cur) (hgang : s3.gang? k = some { gang with ops := ops ++ gang.ops }) (hothers : ∀ j, j ≠ k → s3.gang? j = s.gang? j) :
    ∃ t, runWith i alu pend eff s = .next t ∧ s.passed u t k gang l i ops := by
  have hlast := ctx_inside (k := k) hin
  obtain ⟨-, -, hl, -, hstep, -⟩ := standsAt_cases (plainAt_cases h).1
  refine ⟨_, runWith_plain alu pend eff h, ?_⟩
  rw [wordStep_plain alu pend eff h]
  simp only [he, hlast, Bool.false_and, Bool.or_false]
  rw [fallThrough_inside _ _ _ _ _ hlast]
  have hk : (gang.ctx k).k = k := rfl
  have hstay : (s3.modGang k fun g => { g with yld := g.yld || (headPart i).sched == .yld }).lanesOfGang (gang.ctx k).k = [l] := by
    simp only [State.gang?] at hgang
    simp [State.lanesOfGang, State.gang?, State.modGang, hk, hgang, hl]
  have hend := finishWord_tended s (s3.modGang k fun g => { g with yld := g.yld || (headPart i).sched == .yld }) (gang.ctx k)
    { gang with yld := gang.yld || (headPart i).sched == .yld } i l hlast hstep hl hstay
  have hgone : ∀ j, (State.finishWord s (s3.modGang k fun g => { g with yld := g.yld || (headPart i).sched == .yld }) (gang.ctx k)
      { gang with yld := gang.yld || (headPart i).sched == .yld } i).gang? j =
      AMap.find? (((s3.gangs.modify k fun g => { g with yld := g.yld || (headPart i).sched == .yld }).modify k
        fun g => { g with ix := g.ix + 1, wip := none })) j := fun j => hend.gang? j
  refine ⟨hend.alike ?_, ⟨hend.cur.trans hcur, ?_⟩, fun j x hj hx _ => ?_⟩
  · simp only [State.modGang, State.modThread, State.modGroup]
    rw [hu]
  · rw [hgone]
    simp only [State.gang?] at hgang
    simp [hgang]
  · rw [hgone, AMap.find?_modify_ne hj, AMap.find?_modify_ne hj]
    exact (hothers j hj).trans hx

/-! ### A word whose lane leaves the gang -/

theorem standsAt_hold (h : s.standsAt k gang l i = true) : (s.thread l).hold = none := by
  simp only [State.standsAt, Bool.and_eq_true, Option.isNone_iff_eq_none] at h
  exact h.1.1.2

/-- A change of a thread that leaves it as it is. -/
theorem modThread_self (s : State) (l : Lane) {f : Thread → Thread} (h : ∀ th, s.thread? l = some th → f th = th) : s.modThread l f = s := by
  have hg : s.groups.modify l.g (fun g => g.modThread l.key f) = s.groups := by
    rcases hx : s.group? l.g with _ | x
    · exact AMap.modify_none _ hx
    · refine AMap.modify_id hx ?_
      simp only [Group.modThread]
      rcases hth : x.thread? l.key with _ | th
      · rw [AMap.modify_none _ hth]
      · rw [AMap.modify_id hth (h th (by simp [State.thread?, hx, hth]))]
  simp only [State.modThread, State.modGroup, hg]

/-- A thread whose `behind` is put again. -/
theorem modThread_behind_self (s : State) (l : Lane) : s.modThread l (fun th => { th with behind := (s.thread l).behind }) = s :=
  modThread_self s l fun th hth => by rw [thread_of hth]

/-- A yield point of at most one lane. -/
theorem yieldPoint_one (s : State) (quad : Nat) (l : Lane) (ls : List Lane) (h : ls = [] ∨ ls = [l]) :
    ∃ b, s.yieldPoint quad ls = s.modThread l fun th => { th with behind := b } := by
  rcases h with rfl | rfl
  · exact ⟨_, (modThread_behind_self s l).symm⟩
  · refine ⟨(s.readyPaths quad [l]).filter fun p => !(p.1 == l.g && p.2 == (s.thread l).pc), ?_⟩
    simp only [State.yieldPoint, List.foldl_cons, List.foldl_nil]
    rcases hth : s.thread? l with _ | th
    · have hnone : ∀ f : Thread → Thread, s.modThread l f = s := fun f => modThread_self s l fun th h => by simp [hth] at h
      rw [hnone, hnone]
    · exact modThread_congr hth (by rw [thread_of hth])

/-- The end of a word that no lane of the gang stays at: the gang is gone, and the lane may stand behind other paths. -/
theorem finishWord_left (s0 s1 : State) (c : Ctx) (g2 : Gang) (i : Instr) (l : Lane) (hstep : g2.step = false) (hlanes : g2.lanes = [l])
    (hempty : s1.lanesOfGang c.k = []) :
    ∃ b s2, s2 = { s1.modThread l (fun th => { th with behind := b }) with gangs := s1.gangs.erase c.k, cur := .none } ∧
      Tended s2 (State.finishWord s0 s1 c g2 i) l.g := by
  have hthrough : s0.unfaulted s1 g2.lanes = [] ∨ s0.unfaulted s1 g2.lanes = [l] := by
    rw [hlanes]
    unfold State.unfaulted
    rw [List.filter_cons]
    split
    · exact .inr rfl
    · exact .inl rfl
  simp only [State.finishWord, hempty, hstep, hlanes, groupsOf_one, List.foldl_cons, List.foldl_nil, Bool.false_eq_true, if_false]
  split
  · obtain ⟨b, hb⟩ := yieldPoint_one s1 g2.quad l _ hthrough
    rw [hlanes] at hb
    simp only [State.endClause, List.foldl_nil, hb]
    split
    · exact ⟨b, _, rfl, wordEnd_tended s0 _ l i _⟩
    · refine ⟨(s1.thread l).behind, _, ?_, wordEnd_tended s0 _ l i _⟩
      rw [modThread_behind_self]
  · refine ⟨(s1.thread l).behind, _, ?_, wordEnd_tended s0 _ l i _⟩
    rw [modThread_behind_self]
    simp [State.nextWord]

theorem leftGang_of_finishWord {s0 s1 : State} {g2 : Gang} (hu : s1 = { u with gangs := s1.gangs, cur := s1.cur, free := s1.free })
    (hstep : g2.step = false) (hlanes : g2.lanes = [l]) (hempty : s1.lanesOfGang (gang.ctx k).k = []) :
    u.leftGang (State.finishWord s0 s1 (gang.ctx k) g2 i) k l := by
  obtain ⟨b, s2, hs2, hend⟩ := finishWord_left s0 s1 (gang.ctx k) g2 i l hstep hlanes hempty
  refine ⟨⟨b, hend.alike ?_⟩, ?_, ?_⟩
  · rw [hs2]
    simp only [State.modThread, State.modGroup]
    rw [hu]
  · rw [hend.gang? k, hs2]
    exact AMap.find?_erase_self _ _
  · rw [hend.cur, hs2]

/-- A plain word whose effect takes its lane out of the gang, holding nobody. -/
theorem runWith_left (h : s.plainAt k gang l i = true) (he : eff (gang.ctx k) [l] (s.issued gang) = some s3)
    (hu : s3 = { u with gangs := s3.gangs, cur := s3.cur, free := s3.free }) (hempty : s3.lanesOfGang k = [])
    (hhold : (s3.thread l).hold = none) : ∃ t, runWith i alu pend eff s = .next t ∧ u.leftGang t k l := by
  obtain ⟨-, hk, hl, -, hstep, -⟩ := standsAt_cases (plainAt_cases h).1
  refine ⟨_, runWith_plain alu pend eff h, ?_⟩
  have hlanes : (s.issued gang).lanesOfGang k = [l] := by
    rw [(issued_quiet s gang l hl).lanesOfGang, State.lanesOfGang, hk]
    exact hl
  have hstay : State.fallThrough (s.issued gang) (gang.ctx k) [l] eff s3 = s3 := by
    have hck : (gang.ctx k).k = k := rfl
    simp [State.fallThrough, hck, hempty, State.nowHeld, hlanes, hhold]
  rw [wordStep_plain alu pend eff h]
  simp only [he, hstay]
  refine leftGang_of_finishWord ?_ hstep hl ?_
  · simp only [State.modGang]
    rw [hu]
  · have hck : (gang.ctx k).k = k := rfl
    rw [hck]
    simp only [State.lanesOfGang, State.gang?, State.modGang, AMap.find?_modify_self] at hempty ⊢
    rcases hg : s3.gangs.find? k with _ | g
    · rfl
    · rw [hg] at hempty
      exact hempty

end

end Sys2Proof.PlainWords
end

section
/-! SUPPORT. A thread that takes a fault leaves its gang and is held nowhere (R10, R45, R79). -/

namespace Sys2Proof.FaultTaking

open Sys2Proof Sys2Proof.Machine Sys2Proof.Steadiness Sys2Proof.PlainWords

/-- No gang has gained a lane or gone, and a lane that nothing held is still not held. -/
structure Fading (s t : State) (l : Lane) : Prop where
  lanes : ∀ k m, m ∈ t.lanesOfGang k → m ∈ s.lanesOfGang k
  stay : ∀ k, (s.gang? k).isSome = true → (t.gang? k).isSome = true
  hold : (s.thread l).hold = none → (t.thread l).hold = none

section
variable {s t u : State} {l : Lane}

theorem Fading.refl (s : State) (l : Lane) : Fading s s l := ⟨fun _ _ => id, fun _ => id, id⟩

theorem Fading.trans (h : Fading s t l) (h' : Fading t u l) : Fading s u l :=
  ⟨fun k m hm => h.lanes k m (h'.lanes k m hm), fun k hk => h'.stay k (h.stay k hk), fun hn => h'.hold (h.hold hn)⟩

theorem fading_modLaunch (s : State) (x : Nat) (f : Launch → Launch) (l : Lane) : Fading s (s.modLaunch x f) l := ⟨fun _ _ => id, fun _ => id, id⟩
theorem fading_modDie (s : State) (d : Nat) (f : Die → Die) (l : Lane) : Fading s (s.modDie d f) l := ⟨fun _ _ => id, fun _ => id, id⟩
theorem fading_modCrew (s : State) (c : Nat) (f : Crew → Crew) (l : Lane) : Fading s (s.modCrew c f) l := ⟨fun _ _ => id, fun _ => id, id⟩

theorem Steady.hold (h : Steady s t) (m : Lane) : (t.thread m).hold = (s.thread m).hold := by
  have hg := h.groups m.g
  simp only [State.thread, State.thread?]
  generalize s.group? m.g = x at hg ⊢
  generalize t.group? m.g = y at hg ⊢
  rcases hg with ⟨hxy⟩ | _
  · rename_i x y
    have ht := hxy.2 m.key
    simp only [Option.bind_some]
    generalize x.thread? m.key = a at ht ⊢
    generalize y.thread? m.key = b at ht ⊢
    rcases ht with ⟨hab⟩ | _
    · simp only [Option.getD_some]
      rw [hab.1]
    · rfl
  · rfl

theorem fading_of_steady (h : Steady s t) (l : Lane) : Fading s t l :=
  ⟨fun k m => by rw [h.lanesOfGang]; exact id, fun k hk => by rw [h.gang?]; exact hk, fun hn => (Steady.hold h l).trans hn⟩

theorem fading_of_tended {g : Nat} (h : Tended s t g) (l : Lane) : Fading s t l :=
  ⟨fun k m => by rw [h.quiet.lanesOfGang]; exact id, fun k hk => by rw [h.gang?]; exact hk, fun hn => by rw [h.quiet.thread]; exact hn⟩

theorem thread_hold (s : State) (l : Lane) : (s.thread l).hold = (s.thread? l).bind Thread.hold := by
  unfold State.thread
  rcases s.thread? l with _ | th <;> rfl

/-- A change of a group after which nothing holds the lane that nothing held. -/
theorem fading_modGroup (s : State) (g : Nat) (f : Group → Group) (l : Lane)
    (h : ∀ x : Group, (x.thread? l.key).bind Thread.hold = none → ((f x).thread? l.key).bind Thread.hold = none) : Fading s (s.modGroup g f) l := by
  refine ⟨fun _ _ => id, fun _ => id, fun hn => ?_⟩
  rw [thread_hold] at hn ⊢
  by_cases hg : l.g = g
  · subst hg
    simp only [State.thread?, group?_modGroup_self] at hn ⊢
    rcases hx : s.group? l.g with _ | x
    · rfl
    · rw [hx] at hn
      exact h x hn
  · simpa only [State.thread?, group?_modGroup_ne s hg f] using hn

/-- A change of a group that leaves its threads. -/
theorem fading_modGroup_threads (s : State) (g : Nat) (f : Group → Group) (l : Lane) (h : ∀ x, (f x).threads = x.threads) :
    Fading s (s.modGroup g f) l :=
  fading_modGroup s g f l fun x hx => by simpa only [Group.thread?, h x] using hx

/-- A change of a thread that does not hold it. -/
theorem fading_modThread (s : State) (m : Lane) (f : Thread → Thread) (l : Lane) (h : ∀ th, th.hold = none → (f th).hold = none) :
    Fading s (s.modThread m f) l := by
  refine fading_modGroup s m.g _ l fun x hx => ?_
  simp only [Group.thread?, Group.modThread] at hx ⊢
  by_cases hk : l.key = m.key
  · rw [hk] at hx ⊢
    rw [AMap.find?_modify_self]
    rcases hth : AMap.find? x.threads m.key with _ | th
    · rfl
    · rw [hth] at hx
      exact h th hx
  · rwa [AMap.find?_modify_ne hk]

theorem fading_modBoth (s : State) (m : Lane) (f : Thread → Thread) (l : Lane) (h : ∀ th, th.hold = none → (f th).hold = none) :
    Fading s (s.modBoth m f) l :=
  (fading_modThread s m f l h).trans (fading_modThread _ m.shadow f l h)

/-- Gangs that lose lanes. -/
theorem fading_mapVals (s : State) (p : Lane → Bool) (l : Lane) :
    Fading s { s with gangs := s.gangs.mapVals fun _ k => { k with lanes := k.lanes.filter p } } l := by
  refine ⟨fun k m hm => ?_, fun k hk => by simpa [State.gang?] using hk, id⟩
  simp only [State.lanesOfGang, State.gang?, AMap.find?_mapVals] at hm ⊢
  generalize AMap.find? s.gangs k = o at hm ⊢
  rcases o with _ | g
  · exact hm
  · exact (List.mem_filter.1 hm).1

theorem leaveGang_fades (s : State) (m l : Lane) : Fading s (s.leaveGang m) l := fading_mapVals s _ l

theorem fading_ite {c : Prop} [Decidable c] (ht : Fading s t l) (hu : Fading s u l) : Fading s (if c then t else u) l := by
  split
  · exact ht
  · exact hu

/-! ### Bytes of a control-stack frame (R36) -/

section
variable (s) (l)

theorem failLaunch_fades (x : Nat) (r : Reason) (f : Option (FaultInfo × Nat × Bool)) : Fading s (s.failLaunch x r f) l :=
  fading_modLaunch s x _ l

theorem spaceRead_steady (sp : Space) (n : Nat) : Steady s (s.spaceRead sp n).2 := by
  unfold State.spaceRead
  split
  · exact peek_steady s _ _
  · exact Steady.refl s
  · split
    · exact Steady.refl s
    · rename_i core w off _ x _
      have hpa := winPa_steady s core w (off / 64) .rd
      refine steady_snd_ite ?_ (Steady.refl s)
      split
      all_goals
        rename_i heq
        rw [heq] at hpa
      · exact hpa.trans (peek_steady _ _ _)
      · exact hpa

theorem mixBytes_steady (old new : List Byte) : Steady s (s.mixBytes old new).2 := used_steady s _

theorem spaceWrite_fades (who : Option Lane) (sp : Space) (bs : List Byte) (whole : Bool) : Fading s (s.spaceWrite none who sp bs whole) l := by
  unfold State.spaceWrite
  split
  · exact fading_of_steady (storeNow_steady s _ _ _ _) l
  · exact (fading_of_steady (markPlace_steady s _ _) l).trans (fading_modGroup_threads _ _ _ l fun _ => rfl)
  · rename_i core w off
    split
    · exact Fading.refl s l
    · rename_i x _
      dsimp only
      have hmark : Steady s (if x.coh then s else s.markPlace (.win core w off) who) := steady_ite (Steady.refl s) (markPlace_steady s _ _)
      refine fading_of_steady (Steady.trans (steady_ite ?_ hmark) (modWin_steady _ _ _ _)) l
      generalize (if x.coh then s else s.markPlace (.win core w off) who) = u at hmark
      have hpa := winPa_steady u core w (off / 64) .wr
      split
      all_goals
        rename_i heq
        rw [heq] at hpa
      · exact (hmark.trans hpa).trans (storeNow_steady _ _ _ _ _)
      · exact hmark.trans hpa

theorem spillFrame_fades (m : Lane) : Fading s (s.spillFrame m) l := by
  unfold State.spillFrame
  dsimp only
  split
  · rename_i f r _ _
    have hr := resolve_steady s m.g (frameVa r (s.grp m.g) m.t ((s.thread m).frames.length - 5)) 16 .wr
    split
    all_goals
      rename_i heq
      rw [heq] at hr
    · rename_i u
      have hmix : ∀ (sp : Space) (c : Bool) (bs : List Byte), Steady u (if c then (let (old, s) := u.spaceRead sp 16; s.mixBytes old bs) else (bs, u)).2 :=
        fun sp c bs => steady_snd_ite ((spaceRead_steady u sp 16).trans (mixBytes_steady _ _ _)) (Steady.refl u)
      exact (fading_of_steady (hr.trans (hmix _ _ _)) l).trans (spaceWrite_fades _ l _ _ _ _)
    · exact fading_of_steady hr l
  · exact Fading.refl s l

theorem pushFrame_fades (m : Lane) (f : Frame) : Fading s (s.pushFrame m f) l := by
  unfold State.pushFrame
  refine Fading.trans (Fading.trans (fading_modBoth s m _ l ?_) (fading_of_tended (mirrorPut_tended _ m.g _ _) l)) (spillFrame_fades _ l _)
  exact fun _ hn => hn

/-! ### The error action (R376) -/

theorem countError_fades (die : Nat) (c : Cause) : Fading s (s.countError die c) l := by
  unfold State.countError
  split
  case h_1 => exact fading_modDie s _ _ l
  case h_2 => exact fading_modDie s _ _ l
  case h_3 => exact fading_modDie s _ _ l
  all_goals exact Fading.refl s l

theorem replayStart_fades (x : Nat) (f : Option (FaultInfo × Nat × Bool)) : Fading s (s.replayStart x f) l := by
  unfold State.replayStart
  split
  · exact Fading.refl s l
  · exact fading_ite (Fading.refl s l) (((fading_modLaunch s x _ l).trans (fading_modDie _ _ _ l)).trans (fading_mapVals _ _ l))

theorem errorAction_fades (x : Nat) (f : Option (FaultInfo × Nat × Bool)) : Fading s (s.errorAction x f).1 l := by
  unfold State.errorAction
  split
  · exact Fading.refl s l
  · split
    · exact replayStart_fades s l x f
    · exact failLaunch_fades s l x _ f

/-! ### Taking the fault (R10, R45, R131) -/

theorem exitThread_fades : ∃ u, s.exitThread l = u.leaveGang l ∧ Fading s u l := by
  refine ⟨_, rfl, ?_⟩
  refine Fading.trans ?_ (fading_modCrew _ _ _ l)
  refine Fading.trans ?_ (fading_modBoth _ l _ l fun _ _ => rfl)
  split
  · exact Fading.refl s l
  · exact failLaunch_fades s l _ _ _

theorem nestEnd_fades (pc : DWord) (f : FaultInfo) : ∃ u, s.nestEnd l pc f = u.leaveGang l ∧ Fading s u l := by
  obtain ⟨u, hu, hf⟩ := exitThread_fades _ l
  refine ⟨u, hu, Fading.trans (Fading.trans (fading_modBoth s l _ l ?_) (failLaunch_fades _ l _ _ _)) hf⟩
  exact fun _ hn => hn

theorem fetchSector_steady (core sec : Nat) : Steady s (s.fetchSector core sec).2 := by
  have keep : ∀ (t : State) (now : List Byte), Steady t (if t.paKind (64 * sec) = .span then t else
      t.modCore core fun c => { c with icache := c.icache.set sec now }) := fun t now =>
    steady_ite (Steady.refl t) (modCore_steady t _ _)
  unfold State.fetchSector
  dsimp only
  split
  · exact keep s _
  · exact steady_snd_ite (Steady.refl s) (steady_snd_ite (used_steady s 1) ((used_steady s 1).trans (keep _ _)))

theorem fetchBytes_steady (core va n : Nat) (page : Nat → Nat) : Steady s (s.fetchBytes core va n page).2 := by
  unfold State.fetchBytes
  generalize rangeFrom (va / 64) ((va + n - 1) / 64 - va / 64 + 1) = ks
  suffices h : ∀ (ks : List Nat) (a : List Byte × State), Steady a.2 (ks.foldl (fun (acc : List Byte × State) k =>
      let pa := page (k * 64 / 4096) + k * 64 % 4096
      let (bs, s) := acc.2.fetchSector core (pa / 64)
      (acc.1 ++ bs, s)) a).2 from h ks ([], s)
  intro ks
  induction ks with
  | nil => exact fun a => Steady.refl a.2
  | cons k r ih =>
    intro a
    rw [List.foldl_cons]
    refine Steady.trans ?_ (ih _)
    exact fetchSector_steady a.2 core _

theorem fetchCheck_steady (core part : Nat) (va : DWord) : Steady s (s.fetchCheck core part va).2 := by
  have htr : ∀ (t : State) (c : Prop) [Decidable c] (a : Nat),
      Steady t (if c then (Except.ok 0, t) else t.xlate core part (BitVec.ofNat 64 a) .ex).2 := fun t c _ a =>
    steady_snd_ite (Steady.refl t) (xlate_steady t _ _ _ _)
  unfold State.fetchCheck
  dsimp only
  refine steady_snd_ite (Steady.refl s) (steady_snd_ite (Steady.refl s) ?_)
  have h0 := xlate_steady s core part (BitVec.ofNat 64 va.toNat) .ex
  split
  · rename_i heq
    rwa [heq] at h0
  · rename_i p0 s0 heq0
    rw [heq0] at h0
    have h1 := htr s0 ((va.toNat + 7) / 4096 = va.toNat / 4096) (va.toNat + 7)
    split
    · rename_i heq
      rw [heq] at h1
      exact h0.trans h1
    · rename_i p1 s1 heq1
      rw [heq1] at h1
      have hbytes := fetchBytes_steady s1 core va.toNat 8 fun k =>
        if k = va.toNat / 4096 then p0 - va.toNat % 4096 else p1 / 4096 * 4096
      have hread := (h0.trans h1).trans hbytes
      generalize State.fetchBytes s1 core va.toNat 8 _ = r at hread ⊢
      obtain ⟨hb, s2⟩ := r
      dsimp only at hread ⊢
      generalize wordOfBytes (List.take 8 (List.drop (va.toNat % 64) hb)) = hw
      generalize (if isHeader hw = true then 8 * (natField hw 52 4 + 2) else 8) = n
      have h2 := htr s2 ((va.toNat + n - 1) / 4096 = va.toNat / 4096) ((va.toNat + n - 1) / 4096 * 4096)
      split
      · rename_i heq
        rw [heq] at h2
        exact hread.trans h2
      · rename_i p2 s3 heq2
        rw [heq2] at h2
        have hall := hread.trans h2
        refine steady_snd_ite hall (steady_snd_ite hall ?_)
        split
        · exact hall
        · exact hall.trans (fetchBytes_steady s3 _ _ _ _)
theorem key_shadow (hsh : l.sh = false) : l.key ≠ l.shadow.key := by
  simp [Lane.key, Lane.shadow, hsh, b2n]

theorem foldl_putLane_threads (m : Lane) (w : Nat → Group → Word) (ns : List Nat) (g : Group) :
    (ns.foldl (fun g n => g.putLane m n (w n g)) g).threads = g.threads := by
  induction ns generalizing g with
  | nil => rfl
  | cons n r ih =>
    rw [List.foldl_cons, ih]
    unfold Group.putLane
    cases m.sh <;> rfl

theorem shadowTakes_fades (hsh : l.sh = false) : Fading s (s.shadowTakes l) l := by
  unfold State.shadowTakes
  dsimp only
  split
  · exact Fading.refl s l
  · refine Fading.trans (Fading.trans (fading_modGroup s l.g _ l fun x hx => ?_) (fading_of_tended (gave_tended _ _ _ _ _) l))
      (fading_of_tended (mirrorPut_tended _ l.g _ _) l)
    generalize (List.filter _ _) = ns
    have hth := foldl_putLane_threads l.shadow (fun n g => g.readV l n) ns x
    generalize ns.foldl (fun g n => g.putLane l.shadow n (g.readV l n)) x = y at hth
    split
    · simp only [Group.thread?, Group.modThread, AMap.find?_modify_ne (key_shadow l hsh), hth] at hx ⊢
      exact hx
    · simpa only [Group.thread?, hth] using hx

theorem trapEntry_fades (hsh : l.sh = false) (pc handler : DWord) (f : FaultInfo) : ∃ u, s.trapEntry l pc handler f = u.leaveGang l ∧ Fading s u l := by
  refine ⟨_, rfl, Fading.trans ?_ (shadowTakes_fades _ l hsh)⟩
  refine Fading.trans ?_ (fading_modGroup_threads _ _ _ l fun _ => rfl)
  refine Fading.trans ?_ (pushFrame_fades _ l _ _)
  exact fading_modBoth s l _ l fun _ _ => rfl

theorem enterFault_fades (hsh : l.sh = false) (hr : (s.thread l).region = none) (pc : DWord) (f : FaultInfo) :
    ∃ u, s.enterFault l pc f = u.leaveGang l ∧ Fading s u l := by
  unfold State.enterFault
  extract_lets g th handler
  clear_value handler
  have hth : th.region.isSome = false := by
    rw [show th.region = none from hr]
    rfl
  simp only [hth, Bool.false_eq_true, if_false]
  split
  · exact ⟨s, rfl, Fading.refl s l⟩
  · split
    · exact nestEnd_fades s l pc f
    · have hfetch := fading_of_steady (fetchCheck_steady s g.core g.part handler) l
      split
      all_goals
        rename_i heq
        rw [heq] at hfetch
      · rename_i e u
        split
        · have herr := (hfetch.trans (countError_fades u l (coreDie g.core) .poison)).trans (errorAction_fades _ l g.launch (some (u.report l e false)))
          split
          · exact ⟨_, rfl, herr⟩
          · obtain ⟨v, hv, hf⟩ := nestEnd_fades ((u.countError (coreDie g.core) .poison).errorAction g.launch (some (u.report l e false))).1 l pc f
            exact ⟨v, hv, herr.trans hf⟩
        · obtain ⟨v, hv, hf⟩ := nestEnd_fades u l pc f
          exact ⟨v, hv, hfetch.trans hf⟩
      · obtain ⟨v, hv, hf⟩ := trapEntry_fades _ l hsh pc handler f
        exact ⟨v, hv, hfetch.trans hf⟩

theorem countError_groups (die : Nat) (c : Cause) : (s.countError die c).groups = s.groups := by
  unfold State.countError
  split <;> rfl

theorem errorAction_groups (x : Nat) (f : Option (FaultInfo × Nat × Bool)) : (s.errorAction x f).1.groups = s.groups := by
  unfold State.errorAction
  split
  · rfl
  · split
    · unfold State.replayStart
      split
      · rfl
      · dsimp only
        split <;> rfl
    · rfl

theorem takeFault_fades (hsh : l.sh = false) (hr : (s.thread l).region = none) (pc : DWord) (f : FaultInfo) :
    ∃ u, s.takeFault l pc f = u.leaveGang l ∧ Fading s u l := by
  have hcount := countError_fades s l (coreDie (s.grp l.g).core) f.cause
  have hregion : ∀ t : State, t.groups = s.groups → (t.thread l).region = none := fun t ht => by
    simpa only [State.thread, State.thread?, State.group?, ht] using hr
  have henter : ∀ t : State, Fading s t l → t.groups = s.groups → ∃ u, t.enterFault l pc f = u.leaveGang l ∧ Fading s u l := fun t ht hg => by
    obtain ⟨u, hu, hf⟩ := enterFault_fades t l hsh (hregion t hg) pc f
    exact ⟨u, hu, ht.trans hf⟩
  unfold State.takeFault
  dsimp only
  generalize hc : s.countError (coreDie (s.grp l.g).core) f.cause = t at hcount
  have htg : t.groups = s.groups := hc ▸ countError_groups s _ _
  split
  · split
    · exact ⟨_, rfl, hcount.trans (errorAction_fades t l _ _)⟩
    · exact henter _ (hcount.trans (errorAction_fades t l _ _)) ((errorAction_groups t _ _).trans htg)
  · exact henter t hcount htg

end

/-- After a fault at a word its one lane stands in no gang, and nothing holds it. -/
theorem takeFault_left {s : State} {l : Lane} {k : Nat} (hsh : l.sh = false) (hr : (s.thread l).region = none) (hh : (s.thread l).hold = none)
    (hk : s.lanesOfGang k = [l]) (pc : DWord) (f : FaultInfo) :
    (s.takeFault l pc f).lanesOfGang k = [] ∧ ((s.takeFault l pc f).thread l).hold = none := by
  obtain ⟨u, hu, hf⟩ := takeFault_fades s l hsh hr pc f
  have hout := leaveGang_fades u l l
  rw [hu]
  refine ⟨List.eq_nil_iff_forall_not_mem.2 fun m hm => ?_, hout.hold (hf.hold hh)⟩
  have hml : m = l := by
    have h1 := hf.lanes k m (hout.lanes k m hm)
    rwa [hk, List.mem_singleton] at h1
  subst hml
  simp only [State.lanesOfGang, State.gang?, State.leaveGang, AMap.find?_mapVals] at hm
  generalize AMap.find? u.gangs k = o at hm
  rcases o with _ | g
  · exact absurd hm (List.not_mem_nil)
  · simp at hm

/-- Its gang, without the lane, is not gone. -/
theorem takeFault_stays {s : State} {l : Lane} {k : Nat} (hsh : l.sh = false) (hr : (s.thread l).region = none)
    (hk : (s.gang? k).isSome = true) (pc : DWord) (f : FaultInfo) : ((s.takeFault l pc f).gang? k).isSome = true := by
  obtain ⟨u, hu, hf⟩ := takeFault_fades s l hsh hr pc f
  rw [hu]
  exact (leaveGang_fades u l l).stay k (hf.stay k hk)

end

end Sys2Proof.FaultTaking
end

section
/-! SUPPORT. The checks, the flight and the zeros of a memory word (R37, R40, R165 to R168, R172 to R174; O15). -/

namespace Sys2Proof.MemoryAccess

open Sys2Proof Sys2Proof.Machine Sys2Proof.Steadiness Sys2Proof.PlainWords Sys2Proof.FaultTaking

theorem exec_ld (h : Head) (x : LdF) (s : State) : exec (.ld h x) s = execLd h x s := rfl
theorem exec_st (h : Head) (x : StF) (s : State) : exec (.st h x) s = execSt h x s := rfl
theorem exec_bst (h : Head) (x : BstF) (s : State) : exec (.bst h x) s = execBst h x s := rfl
theorem exec_atom (h : Head) (x : AtomF) (s : State) : exec (.atom h x) s = execAtom h x s := rfl
theorem exec_atomNr (h : Head) (x : AtomNrF) (s : State) : exec (.atomNr h x) s = execAtomNr h x s := rfl
theorem exec_acas (h : Head) (x : AcasF) (s : State) : exec (.acas h x) s = execAcas h x s := rfl

/-! ### A lane's effect in a word -/

/-- The one lane of a plain thread's gang performs the word. -/
theorem eachHeld_one {f : Ctx → Lane → State → State} {c : Ctx} {l : Lane} {s : State} (h : s.lanesOfGang c.k = [l]) :
    eachHeld f c [l] s = some (f c l s) := by
  simp [eachHeld, h]

section
variable {s s' : State} {k : Nat} {gang : Gang} {l : Lane} {i : Instr}

/-- A state that a plain thread's word has come to by checks and translations alone. -/
structure Checked (s s' : State) (k : Nat) (gang : Gang) (l : Lane) (i : Instr) : Prop where
  plain : s.plainAt k gang l i = true
  steady : Steady (s.issued gang) s'

theorem checked_issued (h : s.plainAt k gang l i = true) : Checked s (s.issued gang) k gang l i := ⟨h, Steady.refl _⟩

theorem checked_address (h : s.plainAt k gang l i = true) {m : MAddr} {size align : Nat} {d : AccKind} {n : Need} {r : Addr}
    (ha : (s.issued gang).address l m size align d n = (r, s')) : Checked s s' k gang l i := by
  refine ⟨h, ?_⟩
  have hs := addressAt_steady (s.issued gang) l m 0 size align d n
  rw [show (s.issued gang).addressAt l m 0 size align d n = (r, s') from ha] at hs
  exact hs

section
variable (h : Checked s s' k gang l i)
include h

theorem Checked.issued : Quiet s (s.issued gang) l.g := by
  obtain ⟨-, -, hl, -⟩ := standsAt_cases (plainAt_cases h.plain).1
  exact issued_quiet s gang l hl

theorem Checked.cur : s'.cur = s.cur := by
  rw [h.steady.cur, h.issued.fields]

theorem Checked.gangs : s'.gangs = s.gangs := by
  rw [h.steady.gangs, h.issued.fields]

theorem Checked.gang? : s'.gang? k = some gang := by
  obtain ⟨-, hk, -⟩ := standsAt_cases (plainAt_cases h.plain).1
  rw [State.gang?, h.gangs]
  exact hk

theorem Checked.lanesOfGang : s'.lanesOfGang k = [l] := by
  obtain ⟨-, -, hl, -⟩ := standsAt_cases (plainAt_cases h.plain).1
  rw [State.lanesOfGang, h.gang?]
  exact hl

theorem Checked.sh : l.sh = false := by
  obtain ⟨-, -, -, hsh, -⟩ := standsAt_cases (plainAt_cases h.plain).1
  exact hsh

theorem Checked.region : (s.thread l).region = none := by
  obtain ⟨-, -, hr, -⟩ := plainAt_cases h.plain
  exact hr

theorem Checked.thread? : s'.thread? l = s.thread? l := by
  obtain ⟨-, -, -, -, -, ⟨th, hth⟩, -⟩ := standsAt_cases (plainAt_cases h.plain).1
  have hr := h.region
  rw [thread_of hth] at hr
  rw [hth]
  exact h.steady.thread? ((h.issued.thread? l).trans hth) hr

theorem Checked.thread : s'.thread l = s.thread l := by rw [State.thread, h.thread?, State.thread]

theorem Checked.vreg (g : Nat) (sh : Bool) (n : Nat) : (s'.grp g).vreg sh n = (s.grp g).vreg sh n := by
  rw [h.steady.vreg]
  by_cases hg : g = l.g
  · rw [hg, h.issued.vreg]
  · rw [State.grp, h.issued.others g hg, State.grp]

theorem Checked.v (m : Lane) (n : Nat) : s'.v m n = s.v m n := by
  simp only [State.v, Group.readV, h.vreg]

theorem Checked.prot : (s'.grp l.g).prot = false := by
  obtain ⟨-, -, -, -, -, -, -, hp, -⟩ := standsAt_cases (plainAt_cases h.plain).1
  rw [h.steady.prot, h.issued.grp.prot, hp]

theorem Checked.launch : (s'.grp l.g).launch = (s.grp l.g).launch := by
  obtain ⟨ts, e⟩ := h.steady.grp_with l.g
  rw [e, ← h.issued.grp.launch]

/-- The operands read there are those the word stood with. -/
theorem Checked.operands {vs : List DWord} {th : Thread} (ho : s.operandsOf l i = some (vs, th)) (c : Ctx) :
    s'.operands c i l = .ok (vs, Spec.popped s' l i th) := by
  have hread : readSrcs (s'.grp l.g) l (s'.thread l) (sources i) = (.ok vs, th) := by
    rw [readSrcs_group (g := s.grp l.g) (fun n => by rw [h.vreg]) _ _, h.thread]
    unfold State.operandsOf at ho
    split at ho
    · rename_i heq
      rw [heq]
      simp only [Option.some.injEq, Prod.mk.injEq] at ho
      rw [ho.1, ho.2]
    · simp at ho
  simp only [State.operands, State.popOperands, hread, Spec.popped]

/-- A fault taken there ends the word. -/
theorem Checked.faults {f : FaultInfo} {alu : Bool} {pend : Pending} {eff : Effect}
    (he : eff (gang.ctx k) [l] (s.issued gang) = some (s'.faultAt (gang.ctx k) l f)) :
    ∃ t, runWith i alu pend eff s = .next t ∧ (s'.takeFault l (gang.ctx k).w f).leftGang t k l := by
  have hh : (s'.thread l).hold = none := by rw [h.thread, standsAt_hold (plainAt_cases h.plain).1]
  have hr : (s'.thread l).region = none := by rw [h.thread, h.region]
  obtain ⟨hempty, hhold⟩ := takeFault_left h.sh hr hh h.lanesOfGang (gang.ctx k).w f
  exact runWith_left h.plain he rfl hempty hhold

end

end

/-! ### Popping operands -/

section
variable (s : State) (l : Lane)

theorem popShadow_eq (os : List (Src × Bool)) : ∃ f, s.popShadow l os = s.modThread l.shadow f := by
  unfold State.popShadow
  split
  · exact ⟨id, (modThread_self s _ fun _ _ => rfl).symm⟩
  · split
    · exact ⟨_, rfl⟩
    · exact ⟨id, (modThread_self s _ fun _ _ => rfl).symm⟩

/-- What a word puts in flight, as the model's access. -/
def accessOf (a : Spec.Flight) : Access :=
  { va := a.va, space := a.sp, size := a.size, scope := a.scope, ord := a.ord, hint := a.hint, kind := a.kind, data := a.data }

theorem unit_accessOf (a : Spec.Flight) (word off : Nat) : s.unit l (accessOf a) word off = Spec.inFlight s l a word off := by
  obtain ⟨va, sp, size, scope, ord, hint, kind, data⟩ := a
  have hsp : sp.plus off = Spec.onward off sp := by cases sp <;> rfl
  have hscope : s.scopeAt sp scope = Spec.scopeOf s sp scope := by cases sp <;> rfl
  simp only [State.unit, Spec.inFlight, accessOf, hsp, hscope, beq_iff_eq]
  rfl

theorem putUnits_accessOf (a : Spec.Flight) : s.putUnits l (accessOf a) s.nextId = Spec.flies s l a := by
  simp only [State.putUnits, unit_accessOf]
  rfl

theorem bump_counted (c : Counter) (th : Thread) : th.bump c = Spec.counted c th := by cases c <;> rfl

theorem unitIds_eq (a : Spec.Flight) :
    (rangeFrom s.nextId (unitOffs a.size).length).map (fun id => ({ lane := l, op := id } : Issued)) = Spec.unitIds s l a.size := by
  simp only [rangeFrom, List.map_map]
  rfl

/-- An access that goes into flight, and the gang that remembers it. -/
theorem issueOp_accessOf (c : Ctx) (k : Counter) (a : Spec.Flight) : s.issueOp c l k (accessOf a) =
    (Spec.began s l k a).modGang c.k fun g => { g with ops := Spec.unitIds s l a.size ++ g.ops } := by
  have hb : (fun th : Thread => th.bump k) = Spec.counted k := funext fun th => bump_counted k th
  have hc : (accessOf a).size = a.size := rfl
  rw [State.issueOp, putUnits_accessOf, State.countOps, hb, hc, unitIds_eq]
  rfl

/-- Agents as they were. -/
def SameAgents (s t : State) : Prop := t.gangs = s.gangs ∧ t.cur = s.cur

theorem flies_agents (a : Spec.Flight) : SameAgents s (Spec.flies s l a) := by
  unfold Spec.flies
  generalize Spec.unitStarts a.size = ns
  generalize s.nextId = w
  induction ns generalizing s with
  | nil => exact ⟨rfl, rfl⟩
  | cons n r ih => exact ih _

theorem watch_agents (pc va : DWord) (kind size : Nat) (scope : Scope) : SameAgents s (s.watch l pc va kind size scope) := by
  unfold State.watch
  dsimp only
  split <;> exact ⟨rfl, rfl⟩

theorem popped_agents (i : Instr) (th : Thread) : SameAgents s (Spec.popped s l i th) := by
  obtain ⟨f, hf⟩ := popShadow_eq (s.modThread l fun _ => th) l (sources i)
  rw [Spec.popped, hf]
  exact ⟨rfl, rfl⟩

end

/-! ### A word that issues -/

theorem Checked.issues {s s' u : State} {k : Nat} {gang : Gang} {l : Lane} {i : Instr} {alu : Bool} {pend : Pending} {eff : Effect} {c : Counter}
    {a : Spec.Flight} (h : Checked s s' k gang l i) (hin : gang.inside = true) (hu : SameAgents s' u)
    (he : eff (gang.ctx k) [l] (s.issued gang) = some (u.issueOp (gang.ctx k) l c (accessOf a))) :
    ∃ t, runWith i alu pend eff s = .next t ∧ s.passed (Spec.began u l c a) t k gang l i (Spec.unitIds u l a.size) := by
  have hbegan : SameAgents s' (Spec.began u l c a) := by
    obtain ⟨h1, h2⟩ := flies_agents u l a
    exact ⟨h1.trans hu.1, h2.trans hu.2⟩
  have hk : (Spec.began u l c a).gangs = s.gangs := hbegan.1.trans h.gangs
  have hgang := h.gang?
  rw [State.gang?, h.gangs] at hgang
  rw [issueOp_accessOf] at he
  refine runWith_passed h.plain hin he rfl (hbegan.2.trans h.cur) ?_ fun j hj => ?_
  · have hck : (gang.ctx k).k = k := rfl
    simp only [State.gang?, State.modGang, hck, hk, AMap.find?_modify_self, hgang, Option.map_some]
  · have hck : (gang.ctx k).k = k := rfl
    simp only [State.gang?, State.modGang, hck, hk, AMap.find?_modify_ne hj]

/-! ### The specification's terms and the model's -/

section
variable (s : State)

theorem memKind_eq (sp : Space) : s.memKind sp = Spec.behind s sp := by
  cases sp with
  | phys pa => rfl
  | aper g off => rfl
  | win core w off =>
    simp only [State.memKind, State.memOf, Spec.behind]
    rcases (s.winPa core w (off / 64) .leaf).1 with _ | pa <;> rfl

theorem bytes_eq (n v : Nat) : Spec.bytes n v = bytesOfNat n v := by
  induction n generalizing v with
  | zero => rfl
  | succ n ih =>
    rw [bytesOfNat, ← ih, Spec.bytes, List.range_succ_eq_map, List.map_cons, List.map_map, Spec.bytes]
    congr 1
    · apply BitVec.eq_of_toNat_eq
      simp
    · refine List.map_congr_left fun j _ => ?_
      simp [Nat.pow_succ, Nat.div_div_eq_div_mul, Nat.mul_comm]

theorem registers_eq (l : Lane) (n k : Nat) : Spec.registers s l n k = (s.grp l.g).regBytes l n k := by
  simp only [Spec.registers, Group.regBytes, rangeFrom, List.map_map, bytes_eq]
  rfl

end

end Sys2Proof.MemoryAccess
end

section
/-! SUPPORT. Each memory word through its checks (R165 to R168, R172, R173; O15). -/

namespace Sys2Proof.MemoryAccess

open Sys2Proof Sys2Proof.Machine Sys2Proof.Steadiness Sys2Proof.PlainWords Sys2Proof.FaultTaking

/-! ### The state a word puts its access in flight from -/

section
variable (s : State) (l : Lane)

theorem scopeAt_eq (sp : Space) (scope : Scope) : s.scopeAt sp scope = Spec.scopeOf s sp scope := by cases sp <;> rfl

theorem popped_eq (i : Instr) (th : Thread) : ∃ f, Spec.popped s l i th = (s.modThread l fun _ => th).modThread l.shadow f :=
  popShadow_eq _ l _

theorem popped_mem (i : Instr) (th : Thread) : (Spec.popped s l i th).mem = s.mem := by
  obtain ⟨f, hf⟩ := popped_eq s l i th
  rw [hf]
  rfl

theorem popped_scopeAt (i : Instr) (th : Thread) (sp : Space) (scope : Scope) :
    (Spec.popped s l i th).scopeAt sp scope = s.scopeAt sp scope := by
  obtain ⟨f, hf⟩ := popped_eq s l i th
  rw [hf]
  rfl

theorem modThread_grp_fields (m : Lane) (f : Thread → Thread) (g : Nat) :
    ((s.modThread m f).grp g).core = (s.grp g).core ∧ ((s.modThread m f).grp g).launch = (s.grp g).launch ∧
    ((s.modThread m f).grp g).prot = (s.grp g).prot := by
  rw [grp_modThread]
  split <;> exact ⟨rfl, rfl, rfl⟩

theorem popped_grp (i : Instr) (th : Thread) (g : Nat) : ((Spec.popped s l i th).grp g).core = (s.grp g).core ∧
    ((Spec.popped s l i th).grp g).launch = (s.grp g).launch ∧ ((Spec.popped s l i th).grp g).prot = (s.grp g).prot := by
  obtain ⟨f, hf⟩ := popped_eq s l i th
  obtain ⟨h1, h2, h3⟩ := modThread_grp_fields s l (fun _ => th) g
  obtain ⟨h4, h5, h6⟩ := modThread_grp_fields (s.modThread l fun _ => th) l.shadow f g
  rw [hf]
  exact ⟨h4.trans h1, h5.trans h2, h6.trans h3⟩

theorem popped_atomKind (i : Instr) (th : Thread) (g : Nat) (sp : Space) (scope : Scope) :
    (Spec.popped s l i th).atomKind g sp scope = s.atomKind g sp scope := by
  have hcore : ∀ g, ((Spec.popped s l i th).grp g).core = (s.grp g).core := fun g => (popped_grp s l i th g).1
  have hsector : ∀ n, (Spec.popped s l i th).sector n = s.sector n := fun n => by
    obtain ⟨f, hf⟩ := popped_eq s l i th
    rw [hf]
    rfl
  have hpa : ∀ pa, (Spec.popped s l i th).paKind pa = s.paKind pa := fun pa => by
    obtain ⟨f, hf⟩ := popped_eq s l i th
    rw [hf]
    rfl
  simp only [State.atomKind, hcore, hsector, hpa]

theorem watch_groups (pc va : DWord) (kind size : Nat) (scope : Scope) : (s.watch l pc va kind size scope).groups = s.groups := by
  unfold State.watch
  dsimp only
  split <;> rfl

theorem watch_mem (pc va : DWord) (kind size : Nat) (scope : Scope) : (s.watch l pc va kind size scope).mem = s.mem := by
  unfold State.watch
  dsimp only
  split <;> rfl

/-- A word without queue operands pops nothing. -/
theorem popped_none {i : Instr} {vs : List DWord} {th : Thread} {s s' : State} {k : Nat} {gang : Gang} {l : Lane} (h : Checked s s' k gang l i)
    (hi : sources i = []) (ho : s.operandsOf l i = some (vs, th)) : vs = [] ∧ Spec.popped s' l i th = s' := by
  simp only [State.operandsOf, hi, readSrcs, Option.some.injEq, Prod.mk.injEq] at ho
  obtain ⟨rfl, rfl⟩ := ho
  refine ⟨rfl, ?_⟩
  have h1 : s'.modThread l (fun _ => s.thread l) = s' := modThread_self s' l fun th hth => by
    rw [← thread_of hth, h.thread]
  rw [Spec.popped, h1, hi, State.popShadow]
  split
  · rfl
  · rename_i th hth
    exact modThread_self s' _ fun th' hth' => by
      rw [hth] at hth'
      exact (Option.some.inj hth')

end

/-- The state from which the access of a word goes into flight. -/
def toFlight (s s' : State) (c : Ctx) (l : Lane) (i : Instr) (th : Thread) (a : Spec.Access) (va : DWord) (sp : Space) : State :=
  let u := (Spec.popped s' l i th).watch l c.w va (Spec.watchKind s' l a sp) a.size (Spec.scopeOf s' sp a.scope)
  if Spec.leaves u a sp then u.sideEffect (s.grp l.g).launch else u

section
variable {s s' : State} {k : Nat} {gang : Gang} {l : Lane} {i : Instr} (th : Thread) (a : Spec.Access) (va : DWord) (sp : Space)

theorem toFlight_agents (c : Ctx) : SameAgents s' (toFlight s s' c l i th a va sp) := by
  obtain ⟨h1, h2⟩ := popped_agents s' l i th
  obtain ⟨h3, h4⟩ := watch_agents (Spec.popped s' l i th) l c.w va (Spec.watchKind s' l a sp) a.size (Spec.scopeOf s' sp a.scope)
  unfold toFlight
  dsimp only
  split <;> exact ⟨h3.trans h1, h4.trans h2⟩

theorem toFlight_mem (c : Ctx) : (toFlight s s' c l i th a va sp).mem = s'.mem := by
  have h := (watch_mem (Spec.popped s' l i th) l c.w va (Spec.watchKind s' l a sp) a.size (Spec.scopeOf s' sp a.scope)).trans (popped_mem s' l i th)
  unfold toFlight
  dsimp only
  split <;> exact h

/-- A load leaves no mark on its launch. -/
theorem toFlight_load (c : Ctx) (hd : a.dir = .load) : toFlight s s' c l i th a va sp =
    (Spec.popped s' l i th).watch l c.w va 0 a.size (s'.scopeAt sp a.scope) := by
  have hl : ∀ u : State, Spec.leaves u a sp = false := fun u => by simp [Spec.leaves, hd]
  have hk : Spec.watchKind s' l a sp = 0 := by simp [Spec.watchKind, hd]
  simp only [toFlight, hl, hk, scopeAt_eq, Bool.false_eq_true, if_false]

/-- A store or an atomic marks its launch where it leaves the package (R380). -/
theorem toFlight_outward (h : Checked s s' k gang l i) (c : Ctx) (hd : a.dir ≠ .load) : toFlight s s' c l i th a va sp =
    ((Spec.popped s' l i th).watch l c.w va (Spec.watchKind s' l a sp) a.size (s'.scopeAt sp a.scope)).outward l sp := by
  have hlaunch : ∀ (kind size : Nat) (scope : Scope), (((Spec.popped s' l i th).watch l c.w va kind size scope).grp l.g).launch = (s.grp l.g).launch :=
    fun kind size scope => by
      rw [State.grp, State.group?, watch_groups, ← State.group?, ← State.grp, (popped_grp s' l i th l.g).2.1, h.launch]
  have hdir : (a.dir != .load) = true := by simpa using hd
  simp only [toFlight, State.outward, Spec.leaves, hdir, Bool.true_and, memKind_eq, hlaunch, scopeAt_eq]

end

/-! ### The words, one after another -/

section
variable {S s' : State} {c : Ctx} {l : Lane}

theorem poisonFirst_one {f : Ctx → Lane → State → State} {m : MAddr} {size : Nat} {d : AccKind} {n : Need} (hk : S.lanesOfGang c.k = [l])
    (h : S.poisonWaits l m size d n = false) : poisonFirst m size d n f c [l] S = some (f c l S) := by
  simp only [poisonFirst, List.any_cons, List.any_nil, h, Bool.or_false, Bool.false_eq_true, if_false]
  exact eachHeld_one hk

theorem poisonWaits_at {m : MAddr} {size : Nat} {d : AccKind} {n : Need} {va : DWord} {sp : Space} (ha : S.address l m size size d n = (.at va sp, s')) :
    S.poisonWaits l m size d n = s'.poisonOpen l sp size := by
  simp only [State.poisonWaits, ha]

theorem poisonWaits_fault {m : MAddr} {size : Nat} {d : AccKind} {n : Need} {f : FaultInfo} (ha : S.address l m size size d n = (.fault f, s')) :
    S.poisonWaits l m size d n = false := by
  simp only [State.poisonWaits, ha]

theorem poisonWaits_outside {m : MAddr} {size : Nat} {d : AccKind} {n : Need} (ha : S.address l m size size d n = (.outside, s')) :
    S.poisonWaits l m size d n = false := by
  simp only [State.poisonWaits, ha]

theorem loadType_eq (t : LdTy) : Spec.loadType t = (ldSize t, ldSigned t) := by cases t <;> rfl
theorem storeType_eq (t : StTy) : Spec.storeType t = stSize t := by cases t <;> rfl

end

/-- What a memory word does, by what the checks of its address answer. -/
structure Means (s : State) (k : Nat) (gang : Gang) (l : Lane) (i : Instr) (th : Thread) (a : Spec.Access) (eff : Effect) : Prop where
  run : exec i s = runWord i false eff s
  fault : ∀ f s', (s.issued gang).address l a.m a.size a.size a.dir a.need = (.fault f, s') →
    eff (gang.ctx k) [l] (s.issued gang) = some (s'.faultAt (gang.ctx k) l f)
  outside : ∀ s', (s.issued gang).address l a.m a.size a.size a.dir a.need = (.outside, s') →
    eff (gang.ctx k) [l] (s.issued gang) = some ((Spec.popped s' l i th).zeroLoad l (opDst a.kind))
  issue : ∀ va sp s', (s.issued gang).address l a.m a.size a.size a.dir a.need = (.at va sp, s') →
    (a.dir ≠ .store → s'.spacePoison sp a.size = false) → (a.dir = .atomic → ∀ p, Spec.behind s' sp ≠ .host p) →
    eff (gang.ctx k) [l] (s.issued gang) =
      some ((toFlight s s' (gang.ctx k) l i th a va sp).issueOp (gang.ctx k) l a.counter (accessOf (a.flight va sp)))
  poison : ∀ va sp s', (s.issued gang).address l a.m a.size a.size a.dir a.need = (.at va sp, s') → a.dir ≠ .store →
    (a.dir = .atomic → ∀ p, Spec.behind s' sp ≠ .host p) → s'.spacePoison sp a.size = true → s'.nowReady l sp a.size = true →
    eff (gang.ctx k) [l] (s.issued gang) = some (s'.faultAt (gang.ctx k) l { cause := .poison, kind := a.dir, addr := va })
  host : ∀ va sp s' p, (s.issued gang).address l a.m a.size a.size a.dir a.need = (.at va sp, s') → a.dir = .atomic →
    Spec.behind s' sp = .host p → s'.spacePoison sp a.size = false →
    eff (gang.ctx k) [l] (s.issued gang) = some (s'.faultAt (gang.ctx k) l { cause := .bounds, kind := .atomic, addr := va })

section
variable {s : State} {k : Nat} {gang : Gang} {l : Lane} {vs : List DWord} {th : Thread} {a : Spec.Access}

theorem zeroLoad_nil (s : State) (l : Lane) : s.zeroLoad l [] = s := rfl

theorem outsideUses_none {s : State} {l : Lane} (uses : Region → Bool) (h : (s.thread l).region = none) : s.outsideUses l uses = s := by
  simp only [State.outsideUses, h]

/-- The region of a checked state's thread. -/
theorem Checked.noRegion {s s' : State} {i : Instr} (h : Checked s s' k gang l i) : (s'.thread l).region = none := by
  rw [h.thread, h.region]

theorem ld_means (h : Head) (x : LdF) (hp : s.plainAt k gang l (.ld h x) = true) (ho : s.operandsOf l (.ld h x) = some (vs, th))
    (ha : Spec.access s l (.ld h x) vs = some a) :
    Means s k gang l (.ld h x) th a (poisonFirst x.m (ldSize x.ty) .load .rd fun c l s => s.load c x l) := by
  obtain rfl := Option.some.inj ha
  have hk := (checked_issued hp).lanesOfGang
  constructor
  case run => exact exec_ld h x s
  case fault =>
    intro f s' hf
    simp only [loadType_eq] at hf
    rw [poisonFirst_one hk (poisonWaits_fault hf)]
    simp only [State.load, hf]
  case outside =>
    intro s' hf
    simp only [loadType_eq] at hf
    have hc := checked_address hp hf
    rw [poisonFirst_one hk (poisonWaits_outside hf), (popped_none hc rfl ho).2]
    simp only [State.load, hf, outsideUses_none _ hc.noRegion]
    rfl
  case issue =>
    intro va sp s' hf hpoison _
    simp only [loadType_eq] at hf hpoison
    have hc := checked_address hp hf
    have hclean := hpoison (by decide)
    rw [poisonFirst_one hk (by rw [poisonWaits_at hf, State.poisonOpen, hclean, Bool.false_and])]
    rw [toFlight_load _ _ _ _ _ rfl, (popped_none hc rfl ho).2]
    simp only [State.load, hf, hclean, hc.noRegion, Bool.false_and, Bool.false_eq_true, if_false, loadType_eq]
    rfl
  case poison =>
    intro va sp s' hf _ _ hpoison hready
    simp only [loadType_eq] at hf hpoison hready
    have hc := checked_address hp hf
    rw [poisonFirst_one hk (by rw [poisonWaits_at hf, State.poisonOpen, hready]; simp)]
    simp only [State.load, hf, hpoison, State.buffered, hc.noRegion, Bool.not_false, Bool.and_self, if_true]
  case host =>
    intro va sp s' p _ hd
    exact nomatch hd

theorem withOps_ok {s : State} {c : Ctx} {i : Instr} {l : Lane} {u : State} (h : s.operands c i l = .ok (vs, u)) (f : List DWord → State → State) :
    s.withOps c i l f = f vs u := by
  simp only [State.withOps, h]

/-- What a store's registers hold once its operands are popped. -/
theorem popped_vreg (s : State) (l : Lane) (i : Instr) (th : Thread) (g : Nat) (sh : Bool) (n : Nat) :
    ((Spec.popped s l i th).grp g).vreg sh n = (s.grp g).vreg sh n := by
  have hm : ∀ (u : State) (m : Lane) (f : Thread → Thread), ((u.modThread m f).grp g).vreg sh n = (u.grp g).vreg sh n := fun u m f => by
    rw [grp_modThread]
    split <;> rfl
  obtain ⟨f, hf⟩ := popped_eq s l i th
  rw [hf, hm, hm]

theorem popped_thread? {s s' : State} {i : Instr} (h : Checked s s' k gang l i) : (Spec.popped s' l i th).thread? l = some th := by
  obtain ⟨-, -, -, -, -, ⟨th0, hth⟩, -⟩ := standsAt_cases (plainAt_cases h.plain).1
  obtain ⟨f, hf⟩ := popped_eq s' l i th
  rw [hf, thread?_modThread_ne _ l.shadow l (.inr (key_shadow l h.sh)), thread?_modThread_self, h.thread?, hth]
  rfl

/-- The operands of a thread without a region leave it without one. -/
theorem operandsOf_region {s s' : State} {i : Instr} (h : Checked s s' k gang l i) (ho : s.operandsOf l i = some (vs, th)) : th.region = none := by
  unfold State.operandsOf at ho
  split at ho
  · rename_i heq
    simp only [Option.some.injEq, Prod.mk.injEq] at ho
    obtain ⟨rfl, rfl⟩ := ho
    rw [readSrcs_keeps h.region heq]
    exact h.region
  · simp at ho

theorem popped_region {s s' : State} {i : Instr} (h : Checked s s' k gang l i) (ho : s.operandsOf l i = some (vs, th)) :
    ((Spec.popped s' l i th).thread l).region = none := by
  rw [thread_of (popped_thread? h), operandsOf_region h ho]

theorem registers_checked {s s' : State} {i : Instr} (h : Checked s s' k gang l i) (n j : Nat) : (s'.grp l.g).regBytes l n j = Spec.registers s l n j := by
  simp only [registers_eq, Group.regBytes, Group.readV, h.vreg]

theorem registers_popped {s s' : State} {i j : Instr} (h : Checked s s' k gang l i) (th : Thread) (n m : Nat) :
    ((Spec.popped s' l j th).grp l.g).regBytes l n m = Spec.registers s l n m := by
  simp only [← registers_checked h, Group.regBytes, Group.readV, popped_vreg]

/-- The bytes ST stores, by the registers of its lane. -/
theorem stBytes_eq {g : Group} (x : StF) (v : DWord) (hg : ∀ n j, g.regBytes l n j = Spec.registers s l n j) : stBytes g l x v =
    (match x.ty, x.data with
    | .b128, .v d => Spec.registers s l d.val 4
    | _, _ => Spec.bytes (Spec.storeType x.ty) v.toNat) := by
  unfold stBytes
  generalize x.ty = t, x.data = d
  cases t with
  | b128 => cases d with
    | v n => exact hg _ _
    | _ => exact (bytes_eq _ _).symm
  | _ => exact (bytes_eq _ _).symm

theorem st_means (h : Head) (x : StF) (hp : s.plainAt k gang l (.st h x) = true) (ho : s.operandsOf l (.st h x) = some (vs, th))
    (ha : Spec.access s l (.st h x) vs = some a) :
    Means s k gang l (.st h x) th a (eachHeld fun c l s => s.store c (.st h x) x l) := by
  obtain rfl := Option.some.inj ha
  have hk := (checked_issued hp).lanesOfGang
  constructor
  case run => exact exec_st h x s
  case fault =>
    intro f s' hf
    simp only [storeType_eq] at hf
    rw [eachHeld_one hk]
    simp only [State.store, hf]
  case outside =>
    intro s' hf
    simp only [storeType_eq] at hf
    have hc := checked_address hp hf
    rw [eachHeld_one hk]
    simp only [State.store, hf, outsideUses_none _ hc.noRegion, withOps_ok (hc.operands ho _)]
    rfl
  case issue =>
    intro va sp s' hf _ _
    simp only [storeType_eq] at hf
    have hc := checked_address hp hf
    rw [eachHeld_one hk, toFlight_outward _ _ _ _ hc _ (show AccKind.store ≠ AccKind.load by decide)]
    simp only [State.store, hf, withOps_ok (hc.operands ho _), popped_region hc ho, storeType_eq, popped_scopeAt,
      stBytes_eq (s := s) x (vs.getD 0 0) fun n j => registers_popped hc th n j]
    rfl
  case poison =>
    intro va sp s' _ hd
    exact absurd rfl hd
  case host =>
    intro va sp s' p _ hd
    exact nomatch hd

theorem bst_means (h : Head) (x : BstF) (hp : s.plainAt k gang l (.bst h x) = true) (ho : s.operandsOf l (.bst h x) = some (vs, th))
    (ha : Spec.access s l (.bst h x) vs = some a) :
    Means s k gang l (.bst h x) th a (eachHeld fun c l s => s.bst c x l) := by
  obtain rfl := Option.some.inj ha
  have hk := (checked_issued hp).lanesOfGang
  constructor
  case run => exact exec_bst h x s
  case fault =>
    intro f s' hf
    rw [eachHeld_one hk]
    simp only [State.bst, hf]
  case outside =>
    intro s' hf
    have hc := checked_address hp hf
    rw [eachHeld_one hk, (popped_none hc rfl ho).2]
    simp only [State.bst, hf]
    rfl
  case issue =>
    intro va sp s' hf _ _
    have hc := checked_address hp hf
    rw [eachHeld_one hk, toFlight_outward _ _ _ _ hc _ (show AccKind.store ≠ AccKind.load by decide), (popped_none hc rfl ho).2]
    simp only [State.bst, hf, registers_checked hc]
    rfl
  case poison =>
    intro va sp s' _ hd
    exact absurd rfl hd
  case host =>
    intro va sp s' p _ hd
    exact nomatch hd

/-- Every atomic: `data` reads its operands, and `bs` is what it finds. -/
theorem atomic_means {i : Instr} {m : MAddr} {size : Nat} {scope : Scope} {ord : MOrd} {hint : Fin 7} {ctr : Counter} {kind : OpKind} {bs : List Byte}
    {data : Ctx → Lane → State → Except State (List Byte × State)} (hp : s.plainAt k gang l i = true)
    (hrun : exec i s = runWord i false (poisonFirst m size .atomic .rw fun c l s => s.atomic c m l size scope ord hint ctr kind (data c l)) s)
    (hdata : ∀ s', Checked s s' k gang l i → data (gang.ctx k) l s' = .ok (bs, Spec.popped s' l i th)) :
    Means s k gang l i th { m, size, dir := .atomic, need := .rw, scope, ord, hint, counter := ctr, kind, data := bs }
      (poisonFirst m size .atomic .rw fun c l s => s.atomic c m l size scope ord hint ctr kind (data c l)) := by
  have hk := (checked_issued hp).lanesOfGang
  constructor
  case run => exact hrun
  case fault =>
    intro f s' hf
    rw [poisonFirst_one hk (poisonWaits_fault hf)]
    simp only [State.atomic, hf]
  case outside =>
    intro s' hf
    rw [poisonFirst_one hk (poisonWaits_outside hf)]
    simp only [State.atomic, hf, hdata s' (checked_address hp hf)]
  case issue =>
    intro va sp s' hf hpoison hhost
    have hc := checked_address hp hf
    have hclean := hpoison (show AccKind.atomic ≠ AccKind.store by decide)
    have hplace := hhost rfl
    rw [poisonFirst_one hk (by rw [poisonWaits_at hf, State.poisonOpen, hclean, Bool.false_and]),
      toFlight_outward _ _ _ _ hc _ (show AccKind.atomic ≠ AccKind.load by decide)]
    simp only [State.atomic, hf, hdata s' hc, hclean, Bool.false_eq_true, if_false, popped_scopeAt, popped_atomKind]
    split
    · rename_i p hm
      exact absurd (memKind_eq s' sp ▸ hm) (hplace p)
    · rfl
  case poison =>
    intro va sp s' hf _ hhost hpoison hready
    have hplace := hhost rfl
    rw [poisonFirst_one hk (by rw [poisonWaits_at hf, State.poisonOpen, hready]; simp)]
    simp only [State.atomic, hf, hpoison, if_true]
    split
    · rename_i p hm
      exact absurd (memKind_eq s' sp ▸ hm) (hplace p)
    · rfl
  case host =>
    intro va sp s' p hf _ hhost hclean
    rw [poisonFirst_one hk (by rw [poisonWaits_at hf, State.poisonOpen, hclean, Bool.false_and])]
    simp only [State.atomic, hf, memKind_eq, hhost]

theorem atomData_ok {s' : State} {i : Instr} (h : Checked s s' k gang l i) (ho : s.operandsOf l i = some (vs, th)) (c : Ctx) (size : Nat) :
    State.atomData c i l size s' = .ok (Spec.bytes size (vs.getD 0 0).toNat, Spec.popped s' l i th) := by
  simp only [State.atomData, h.operands ho, bytes_eq]

/-- What every memory word does. -/
theorem access_means {i : Instr} (hp : s.plainAt k gang l i = true) (ho : s.operandsOf l i = some (vs, th)) (ha : Spec.access s l i vs = some a) :
    ∃ eff, Means s k gang l i th a eff := by
  unfold Spec.access at ha
  split at ha
  case h_1 h x => exact ⟨_, ld_means h x hp ho ha⟩
  case h_2 h x => exact ⟨_, st_means h x hp ho ha⟩
  case h_3 h x => exact ⟨_, bst_means h x hp ho ha⟩
  case h_4 h x =>
    obtain rfl := Option.some.inj ha
    exact ⟨_, atomic_means (size := widthBytes x.w) (data := fun c l => State.atomData c (.atom h x) l (widthBytes x.w)) hp (exec_atom h x s)
      fun s' hc => atomData_ok hc ho _ _⟩
  case h_5 h x =>
    obtain rfl := Option.some.inj ha
    exact ⟨_, atomic_means (size := widthBytes x.w) (data := fun c l => State.atomData c (.atomNr h x) l (widthBytes x.w)) hp (exec_atomNr h x s)
      fun s' hc => atomData_ok hc ho _ _⟩
  case h_6 h x =>
    obtain rfl := Option.some.inj ha
    refine ⟨_, atomic_means (size := widthBytes x.w)
      (data := fun _ l s => .ok ((s.grp l.g).regBytes l x.d.val (if x.w then 4 else 2), s)) hp (exec_acas h x s) fun s' hc => ?_⟩
    rw [(popped_none hc rfl ho).2, registers_checked hc]
  case h_7 => exact nomatch ha

end

end Sys2Proof.MemoryAccess
end

section
/-! SUPPORT. A word of one plain thread whose effect is a change of its group and bookkeeping of the register pool, said once: zero results of loads
(R40, R165), and the words of matrix registers. -/

namespace Sys2Proof.GroupWords

open Sys2Proof Sys2Proof.Machine Sys2Proof.PlainWords

/-! ### Quiet changes beside others -/

theorem group_quiet_modThread {x y : Group} (h : Group.Quiet x y) (n : Nat) (f : Thread → Thread) : Group.Quiet (x.modThread n f) (y.modThread n f) := by
  obtain ⟨ht, h1, h2, h3, h4, h5, h6, h7, h8, h9, h10, h11, h12, h13, h14, h15, h16, h17, h18, h19, h20, h21, h22, h23, hv⟩ := h
  exact ⟨by simp only [Group.modThread, ht], h1, h2, h3, h4, h5, h6, h7, h8, h9, h10, h11, h12, h13, h14, h15, h16, h17, h18, h19, h20, h21, h22, h23, hv⟩

theorem quiet_modThread {s t : State} {l : Lane} (h : Quiet s t l.g) (f : Thread → Thread) : Quiet (s.modThread l f) (t.modThread l f) l.g := by
  refine ⟨fun x hx => ?_, fun hn => ?_, fun g hg => ?_, h.cores, ?_⟩
  · rw [State.modThread, group?_modGroup_self, Option.map_eq_some_iff] at hx
    obtain ⟨x0, hx0, rfl⟩ := hx
    obtain ⟨y0, hy0, hq⟩ := h.group x0 hx0
    exact ⟨_, by rw [State.modThread, group?_modGroup_self, hy0, Option.map_some], group_quiet_modThread hq _ f⟩
  · rw [State.modThread, group?_modGroup_self, Option.map_eq_none_iff] at hn
    rw [State.modThread, group?_modGroup_self, h.none hn, Option.map_none]
  · rw [group?_modThread_ne _ _ hg, group?_modThread_ne _ _ hg, h.others g hg]
  · have e := h.fields
    rw [e]
    rfl

theorem quiet_modGang {s t : State} {g : Nat} (h : Quiet s t g) (k : Nat) (f : Gang → Gang) : Quiet (s.modGang k f) (t.modGang k f) g := by
  refine ⟨h.group, h.none, h.others, h.cores, ?_⟩
  have e := h.fields
  rw [e]
  rfl

/-! ### The law -/

/-- A plain word inside its clause whose effect makes its group `X`, up to bookkeeping: where the thread, the gang, the group and the rest
stand after it. -/
theorem runWith_makes {s s2 s3 : State} {k : Nat} {gang : Gang} {l : Lane} {i : Instr} {X : Group} {alu : Bool} {pend : Pending} {eff : Effect}
    (h : s.plainAt k gang l i = true) (hin : gang.inside = true) (he : eff (gang.ctx k) [l] (s.issued gang) = some s3)
    (h2 : s2 = { s.issued gang with groups := s2.groups, free := s2.free }) (hX : s2.group? l.g = some X)
    (ho : ∀ g, g ≠ l.g → s2.group? g = (s.issued gang).group? g) (h3 : Quiet s2 s3 l.g) :
    ∃ t, runWith i alu pend eff s = .next t ∧ s.wentOn t k gang i ∧ s.restKept t l ∧
      Group.Quiet (X.modThread l.key fun th => th.past (gang.ctx k)) (t.grp l.g) ∧
      ∀ m : Lane, m.g = l.g → t.thread? m = (X.modThread l.key fun th => th.past (gang.ctx k)).thread? m.key := by
  obtain ⟨-, hk, hl, -⟩ := standsAt_cases (plainAt_cases h).1
  have hq := issued_quiet s gang l hl
  have hg2 : s2.gang? k = some gang := by
    rw [h2]
    exact (hq.gang? k).trans hk
  obtain ⟨t, hrun, hqt⟩ := runWith_inside alu pend eff h hin he ((h3.gang? k).trans hg2) hl
  have hqt2 := (quiet_modGang (quiet_modThread h3 fun th => th.past (gang.ctx k)) k (Gang.onward i)).trans hqt
  have hgr : ((s2.modThread l fun th => th.past (gang.ctx k)).modGang k (Gang.onward i)).group? l.g =
      some (X.modThread l.key fun th => th.past (gang.ctx k)) := by
    have e := group?_modGroup_self s2 l.g fun g => g.modThread l.key fun th => th.past (gang.ctx k)
    rw [hX] at e
    exact e
  obtain ⟨y, hy, hqy⟩ := hqt2.group _ hgr
  have hty : t.grp l.g = y := by rw [State.grp, hy, Option.getD_some]
  refine ⟨t, hrun, ⟨?_, ?_⟩, restKept_of_fields ?_ (fun g hg => ?_) fun c => ?_, hty ▸ hqy, fun m hm => ?_⟩
  · rw [hqt2.fields]
    show s2.cur = s.cur
    rw [h2]
    show (s.issued gang).cur = s.cur
    rw [hq.fields]
  · rw [hqt2.gang? k]
    simp only [State.gang?] at hg2
    simp only [State.gang?, State.modGang_gangs, AMap.find?_modify_self, State.modThread_gangs, hg2]
    rfl
  · refine fields_chain hq.fields (s2 := (s2.modThread l fun th => th.past (gang.ctx k)).modGang k (Gang.onward i)) ?_ hqt2.fields
    rw [h2]
    rfl
  · rw [hqt2.others g hg, ← hq.others g hg, ← ho g hg]
    exact group?_modThread_ne s2 l hg _
  · rw [hqt2.cores c, ← hq.cores c]
    have : ((s2.modThread l fun th => th.past (gang.ctx k)).modGang k (Gang.onward i)).cores = (s.issued gang).cores := by
      show s2.cores = _
      rw [h2]
    simp only [State.core, this]
  · rw [hqt2.thread? m]
    simp only [State.thread?, hm, hgr, Option.bind_some]

/-! ### Registers written for one lane -/

/-- The group with words written for one lane. -/
def puts (l : Lane) (ws : List (Nat × Word)) (g : Group) : Group := ws.foldl (fun g e => g.putLane l e.1 e.2) g

section
variable (l : Lane)

theorem puts_vreg_other (ws : List (Nat × Word)) (g : Group) (sh : Bool) (n : Nat) (h : sh ≠ l.sh ∨ n ∉ ws.map Prod.fst) :
    (puts l ws g).vreg sh n = g.vreg sh n := by
  induction ws generalizing g with
  | nil => rfl
  | cons e r ih =>
    rw [puts, List.foldl_cons, ← puts, ih]
    · rcases h with h | h
      · exact vreg_putG_sh g h _ _ _
      · exact vreg_putG_ne g l.sh (fun e => h (by simp [e])) _ sh
    · rcases h with h | h
      · exact .inl h
      · exact .inr fun hm => h (by simp [hm])

/-- A write changes the register file alone. -/
theorem puts_keeps (ws : List (Nat × Word)) (g : Group) : ∃ v vsh, puts l ws g = { g with v := v, vsh := vsh } := by
  induction ws generalizing g with
  | nil => exact ⟨g.v, g.vsh, rfl⟩
  | cons e r ih =>
    rw [puts, List.foldl_cons, ← puts]
    obtain ⟨v, vsh, hv⟩ := ih (g.putLane l e.1 e.2)
    refine ⟨v, vsh, hv.trans ?_⟩
    simp only [Group.putLane, Group.putG, Group.setVreg]
    split <;> rfl

theorem puts_width (ws : List (Nat × Word)) (g : Group) : (puts l ws g).width = g.width := by
  obtain ⟨v, vsh, hv⟩ := puts_keeps l ws g
  rw [hv]

/-- Another thread of the group keeps its word of every register. -/
theorem puts_other (ws : List (Nat × Word)) (g : Group) (n : Nat) {t : Nat} (ht : t ≠ l.t) (hw : t < g.width) :
    ((puts l ws g).vreg l.sh n).val.at t = (g.vreg l.sh n).val.at t := by
  induction ws generalizing g with
  | nil => rfl
  | cons e r ih =>
    rw [puts, List.foldl_cons, ← puts, ih _ (by rw [← puts_width l [e] g] at hw; exact hw)]
    by_cases hn : n = e.1
    · rw [hn]
      exact putG_other g l e.1 e.2 ht hw
    · rw [Group.putLane, vreg_putG_ne g l.sh hn]

/-- A register that is written once reads back. -/
theorem puts_self (ws : List (Nat × Word)) (g : Group) (h : (ws.map Prod.fst).Nodup) {e : Nat × Word} (he : e ∈ ws) :
    (puts l ws g).readV l e.1 = e.2 := by
  induction ws generalizing g with
  | nil => exact absurd he List.not_mem_nil
  | cons a r ih =>
    rw [puts, List.foldl_cons, ← puts]
    rw [List.map_cons, List.nodup_cons] at h
    rcases List.mem_cons.1 he with rfl | her
    · rw [Group.readV, puts_vreg_other l r _ _ _ (.inr h.1)]
      exact putLane_self g l e.1 e.2
    · exact ih _ h.2 her

end

/-- A lane outside any region and protection is given words. -/
theorem give_quiet {s : State} {l : Lane} {g : Group} {th : Thread} (hg : s.group? l.g = some g) (hth : g.thread? l.key = some th)
    (hr : th.region = none) (hp : g.prot = false) (ws : List (Nat × Word)) : Quiet (s.modGroup l.g (puts l ws)) (s.give l ws) l.g := by
  have hput : s.putBoth l ws = s.modGroup l.g (puts l ws) := by
    have hprot : (s.grp l.g).prot = false := by rw [State.grp, hg, Option.getD_some, hp]
    rw [State.putBoth, hprot, if_neg Bool.false_ne_true, State.putRegs]
    refine modThread_self _ l fun th' hth' => ?_
    have e : (s.modGroup l.g (puts l ws)).thread? l = some th := by
      rw [State.thread?, group?_modGroup_self, hg, Option.map_some, Option.bind_some]
      obtain ⟨v, vsh, hv⟩ := puts_keeps l ws g
      rw [hv]
      exact hth
    obtain rfl : th = th' := Option.some.inj (e.symm.trans hth')
    rw [Thread.noteWrite, hr]
  unfold State.give
  split
  · rename_i hempty
    have hid : s.modGroup l.g (puts l ws) = s := by
      rw [List.isEmpty_iff.1 hempty]
      have : s.groups.modify l.g (puts l []) = s.groups := AMap.modify_id hg rfl
      rw [State.modGroup, this]
    rw [hid]
    exact Quiet.refl s l.g
  · rw [hput]
    exact (gave_tended _ _ _ _ _).quiet

end Sys2Proof.GroupWords
end

section
/-! SUPPORT. A load or a returning atomic outside its record's extent under ZERO bounds (R40, R165), and the two rules of O15. -/

namespace Sys2Proof.MemoryAccess

open Sys2Proof Sys2Proof.Machine Sys2Proof.Steadiness Sys2Proof.PlainWords Sys2Proof.FaultTaking Sys2Proof.GroupWords

/-- An address outside the extent is found before anything is translated. -/
theorem address_outside {s s' : State} {l : Lane} {m : MAddr} {size align : Nat} {k : AccKind} {n : Need}
    (h : s.address l m size align k n = (.outside, s')) : s' = s := by
  unfold State.address State.addressAt at h
  extract_lets g rec' odd at h
  clear_value odd
  split at h
  · cases h
  · split at h
    · cases h
    · cases h
      rfl
    · split at h
      · cases h
      · split at h <;> cases h

/-- One word written to every listed register reads back. -/
theorem puts_const {l : Lane} {w : Word} (ns : List Nat) (g : Group) {n : Nat} (hn : n ∈ ns) :
    (puts l (ns.map fun d => (d, w)) g).readV l n = w := by
  induction ns generalizing g with
  | nil => exact absurd hn List.not_mem_nil
  | cons d r ih =>
    rw [List.map_cons, puts, List.foldl_cons, ← puts]
    by_cases hr : n ∈ r
    · exact ih _ hr
    · obtain rfl : n = d := (List.mem_cons.1 hn).resolve_right hr
      have hnot : n ∉ (r.map fun d => (d, w)).map Prod.fst := by simpa using hr
      rw [Group.readV, puts_vreg_other l _ _ _ _ (.inr hnot)]
      exact putLane_self g l n w

section
variable {s : State} {k : Nat} {gang : Gang} {l : Lane} {i : Instr} {vs : List DWord} {th : Thread} {alu : Bool} {pend : Pending} {eff : Effect}

/-- A plain word that pops its operands and writes words of its lane's registers. -/
theorem runWith_gives (h : s.plainAt k gang l i = true) (hin : gang.inside = true) (ho : s.operandsOf l i = some (vs, th)) (ws : List (Nat × Word))
    (he : eff (gang.ctx k) [l] (s.issued gang) = some ((Spec.popped (s.issued gang) l i th).give l ws)) :
    ∃ t, runWith i alu pend eff s = .next t ∧ s.wentOn t k gang i ∧ s.restKept t l ∧ t.thread? l = some (th.past (gang.ctx k)) ∧
      (∃ g, (∀ sh n, g.vreg sh n = (s.grp l.g).vreg sh n) ∧ g.width = (s.grp l.g).width ∧
        ∀ sh n, (t.grp l.g).vreg sh n = (puts l ws g).vreg sh n) := by
  have hc := checked_issued h
  have hP := popped_thread? (th := th) hc
  obtain ⟨f, hf⟩ := popped_eq (s.issued gang) l i th
  obtain ⟨g, hg, hgth⟩ : ∃ g, (Spec.popped (s.issued gang) l i th).group? l.g = some g ∧ g.thread? l.key = some th := by
    simpa only [State.thread?, Option.bind_eq_some_iff] using hP
  have hgrp : (Spec.popped (s.issued gang) l i th).grp l.g = g := by rw [State.grp, hg, Option.getD_some]
  have hprot : g.prot = false := by
    rw [← hgrp, (popped_grp (s.issued gang) l i th l.g).2.2]
    exact hc.prot
  have hwidth : g.width = (s.grp l.g).width := by
    rw [← hgrp, ← hc.issued.grp.width, hf, grp_modThread, grp_modThread]
    split <;> split <;> rfl
  have hX : ((Spec.popped (s.issued gang) l i th).modGroup l.g (puts l ws)).group? l.g = some (puts l ws g) := by
    rw [group?_modGroup_self, hg, Option.map_some]
  obtain ⟨t, hrun, hwent, hrest, hq, hthr⟩ := runWith_makes h hin he (by rw [hf]; rfl) hX
    (fun n hn => by
      rw [group?_modGroup_ne _ hn, hf, group?_modThread_ne _ _ (show n ≠ l.shadow.g from hn), group?_modThread_ne _ _ hn])
    (give_quiet hg hgth (operandsOf_region hc ho) hprot ws)
  refine ⟨t, hrun, hwent, hrest, ?_, g, fun sh n => ?_, hwidth, hq.vreg⟩
  · rw [hthr l rfl]
    obtain ⟨v, vsh, hv⟩ := puts_keeps l ws g
    rw [hv]
    simp only [Group.thread?, Group.modThread, AMap.find?_modify_self] at hgth ⊢
    rw [hgth, Option.map_some]
  · rw [← hgrp, popped_vreg, hc.vreg]

end

/-- R165 to R168, R172, R173, R37: what a memory word issues. -/
theorem memoryWordsIssue : Spec.memoryWordsIssueRule := by
  intro i s k gang l vs th a va sp s' h hin ho ha hat hclean hplace
  obtain ⟨eff, hm⟩ := access_means h ho ha
  have hc := checked_address h hat
  refine ⟨fun b => congrArg (Memory.get · b) (toFlight_mem (s := s) (s' := s') (l := l) (i := i) th a va sp (gang.ctx k)), ?_⟩
  rw [hm.run]
  exact hc.issues hin (toFlight_agents th a va sp (gang.ctx k)) (hm.issue va sp s' hat hclean hplace)

/-- R40, R165, R174: what a memory word does where a check of its address fails. -/
theorem memoryWordsCheckFirst : Spec.memoryWordsCheckFirstRule := by
  intro i s k gang l vs th a s' h hin ho ha
  obtain ⟨eff, hm⟩ := access_means h ho ha
  rw [hm.run]
  refine ⟨fun f hf => (checked_address h hf).faults (hm.fault f s' hf), fun hf => ?_, fun va sp hf hd hhost hpoison hready => ?_,
    fun va sp p hf hd hhost hclean => ?_⟩
  · obtain rfl := address_outside hf
    obtain ⟨t, hrun, hwent, hrest, hth, g, hg, hwidth, hput⟩ := runWith_gives h hin ho _ (hm.outside _ hf)
    have hmap : ((opDst a.kind).map fun d => (d, (0 : Word))).map Prod.fst = opDst a.kind := by simp [Function.comp_def]
    have hzero : ∀ d ∈ opDst a.kind, t.v l d = 0 := fun d hd => by
      rw [State.v, Group.readV, hput]
      exact puts_const _ g hd
    refine ⟨t, hrun, ?_, hth, hwent, fun n hn m hml => ?_, fun n hn m hml hsh ht _ hw _ => ?_, hrest⟩
    · revert hzero
      cases a.kind with
      | load sgn dst input => exact fun hz _ => hz
      | atom op wide dst => exact fun hz _ => hz
      | acas wide dst => exact fun hz _ => hz
      | store => exact fun _ => trivial
      | signal add => exact fun _ => trivial
      | bld ts => exact fun _ => trivial
      | smld el => exact fun _ => trivial
      | smst => exact fun _ => trivial
    · rw [State.v, State.v, hml, Group.readV, Group.readV, hput, puts_vreg_other l _ g _ _ (.inr (by rwa [hmap])), hg]
    · have hls : m.sh = l.sh := hsh.trans (checked_issued h).sh.symm
      rw [State.v, State.v, hml, Group.readV, Group.readV, hput, hls, puts_other l _ g n ht (hwidth ▸ hw), hg]
  · exact (checked_address h hf).faults (hm.poison va sp s' hf hd (fun ha p => hhost p ha) hpoison hready)
  · exact (checked_address h hf).faults (hm.host va sp s' p hf hd hhost hclean)

/-- Settles O15: each memory word is brought to one form by what the checks of its address answer (`access_means`), from which the flight, the
faults and the zeros follow. -/
theorem memoryWordsCheckAndIssue : Obligations.MemoryWordsCheckAndIssue := ⟨memoryWordsIssue, memoryWordsCheckFirst⟩

end Sys2Proof.MemoryAccess
end

section
/-! SUPPORT. COPY (R34, R179, R180, R184; O17): the handle, the queue, the counter. -/

namespace Sys2Proof.CopyQueue

open Sys2Proof Sys2Proof.Machine Sys2Proof.Steadiness Sys2Proof.PlainWords Sys2Proof.FaultTaking Sys2Proof.MemoryAccess

/-- The effect of COPY: nothing while the engine of a die is full, else a copy of each lane. -/
def copyEffect (h : Head) (x : CopyF) : Effect := fun c act s =>
  let full := act.any fun l =>
    let d := coreDie (s.grp l.g).core
    decide (256 < (s.copiesOf d).length + (act.filter fun m => coreDie (s.grp m.g).core == d).length)
  if full then none else eachHeld (fun c l s => s.copyIssue c (.copy h x) x l) c act s

theorem exec_copy (h : Head) (x : CopyF) (s : State) : exec (.copy h x) s = runWord (.copy h x) false (copyEffect h x) s := rfl

/-! ### A change of a thread and its shadow -/

section
variable (s : State) {l : Lane}

theorem thread?_modBoth (hsh : l.sh = false) (f : Thread → Thread) : (s.modBoth l f).thread? l = (s.thread? l).map f := by
  rw [State.modBoth, thread?_modThread_ne _ l.shadow l (.inr (key_shadow l hsh)), thread?_modThread_self]

theorem modThread_vreg (m : Lane) (f : Thread → Thread) (g : Nat) (sh : Bool) (n : Nat) :
    ((s.modThread m f).grp g).vreg sh n = (s.grp g).vreg sh n := by
  rw [grp_modThread]
  split <;> rfl

theorem modBoth_vreg (m : Lane) (f : Thread → Thread) (g : Nat) (sh : Bool) (n : Nat) : ((s.modBoth m f).grp g).vreg sh n = (s.grp g).vreg sh n := by
  rw [State.modBoth, modThread_vreg, modThread_vreg]

end

/-! ### States alike -/

section
variable {u t : State} {l : Lane} {c : Ctx} (h : (u.modThread l fun th => th.past c).alike t l.g)
include h

theorem passed_thread? : t.thread? l = (u.thread? l).map fun th => th.past c := by
  obtain ⟨-, -, -, hg⟩ := alike_iff.1 h
  rw [← thread?_modThread_self]
  unfold State.thread?
  generalize (u.modThread l fun th => th.past c).group? l.g = a at hg ⊢
  generalize t.group? l.g = b at hg ⊢
  rcases hg with ⟨hxy⟩ | _
  · simp only [Option.bind_some, Group.thread?]
    rw [hxy.1]
  · rfl

theorem passed_v (m : Lane) (n : Nat) : t.v m n = u.v m n := by
  obtain ⟨-, ho, -, hg⟩ := alike_iff.1 h
  have hv : (t.grp m.g).vreg m.sh n = ((u.modThread l fun th => th.past c).grp m.g).vreg m.sh n := by
    by_cases hm : m.g = l.g
    · rw [hm]
      unfold State.grp
      generalize (u.modThread l fun th => th.past c).group? l.g = a at hg ⊢
      generalize t.group? l.g = b at hg ⊢
      rcases hg with ⟨hxy⟩ | _
      · exact hxy.2 _ _
      · rfl
    · rw [State.grp, ho m.g hm, State.grp]
  simp only [State.v, Group.readV, hv, modThread_vreg]

theorem passed_fields : t.copies = u.copies ∧ t.ops = u.ops ∧ t.dies = u.dies ∧ t.parts = u.parts := by
  obtain ⟨he, -⟩ := alike_iff.1 h
  rw [he]
  exact ⟨rfl, rfl, rfl, rfl⟩

end

/-! ### The handle (R34) -/

/-- A handle of kind 1. -/
def copyHandle (die gen seq : Nat) : DWord := BitVec.ofNat 64 (1 * 2 ^ 60 + die * 2 ^ 56 + gen % 256 * 2 ^ 48 + seq)

theorem copyHandle_fields {die gen seq : Nat} (hd : die < 16) (hs : seq < 2 ^ 48) : hKind (copyHandle die gen seq) = 1 ∧
    hDie (copyHandle die gen seq) = die ∧ hGen (copyHandle die gen seq) = gen % 256 ∧ hSeq (copyHandle die gen seq) = seq := by
  have hg : gen % 256 < 256 := Nat.mod_lt _ (by decide)
  have hn : (copyHandle die gen seq).toNat = 1 * 2 ^ 60 + die * 2 ^ 56 + gen % 256 * 2 ^ 48 + seq := by
    rw [copyHandle, BitVec.toNat_ofNat]
    exact Nat.mod_eq_of_lt (by omega)
  generalize gen % 256 = g at hg hn
  simp only [hKind, hDie, hGen, hSeq, natField, hn]
  omega

/-- A handle whose entry was written last names that entry. -/
theorem hEntry_latest {s : State} {part die seq : Nat} {e : HEntry} {r : List HEntry} (hd : die < 16) (hs : seq < 2 ^ 48)
    (he : (s.die die).handles = e :: r) (hk : e.kind = 1) (hseq : e.seq = seq) (hpart : e.part = part) (hgen : e.gen = (s.partn part).gen) :
    s.hEntry part (copyHandle die (s.partn part).gen.toNat seq) = some e := by
  obtain ⟨h1, h2, h3, h4⟩ := copyHandle_fields (gen := (s.partn part).gen.toNat) hd hs
  simp only [State.hEntry, h1, h2, h3, h4, he]
  simp [hk, hseq, hpart, hgen]

/-! ### The copy is queued -/

/-- The copy as it is queued. -/
def queued (s : State) (l : Lane) (x : CopyF) (dst src : DWord) (len : Nat) : CopyOp :=
  let g := s.grp l.g
  let die := coreDie g.core
  { die, lane := l, crew := g.crew, core := g.core, gid := g.gid, part := g.part, gen := (s.partn g.part).gen, launch := g.launch, scope := x.scope,
    dst, src, len, rel := x.rel, st := if len = 0 then .complete else .queued, off := 0, ahead := [], promise := s.promise die len, marked := false,
    batch := (s.thread l).batch, seq := hSeq (s.newHandle die 1 g.part g.launch).1, cancel := false, counted := decide (len ≠ 0), resumable := false }

/-- The state with the handle given and the copy queued. -/
def enqueued (s : State) (l : Lane) (x : CopyF) (dst src : DWord) (len : Nat) : State :=
  let g := s.grp l.g
  let r := s.newHandle (coreDie g.core) 1 g.part g.launch
  let u := r.2.modBoth l fun th => th.setHandle x.hd r.1
  { u with nextId := u.nextId + 1, copies := u.copies.set u.nextId (queued s l x dst src len) }

/-- What COPY does once its operands are popped and its checks have passed. -/
theorem copyIssue_queues {s u : State} {c : Ctx} {i : Instr} {l : Lane} {x : CopyF} {dst src n : DWord} {len : Nat} (hsh : l.sh = false)
    (ho : s.operands c i l = .ok ([dst, src, n], u)) (hlen : n.toNat % 2 ^ 32 = len) (hf : u.copyFault l.g dst src len = none) :
    s.copyIssue c i x l =
      if len = 0 then (enqueued u l x dst src len).setHandleState (coreDie (u.grp l.g).core) 1 (queued u l x dst src len).seq .complete
      else
        let v := (enqueued u l x dst src len).countOp c l .cp u.nextId
        if v.rangeOutward (u.grp l.g) dst len then v.sideEffect (u.grp l.g).launch else v := by
  have hbatch : ∀ (v : State) (hv : DWord), ((v.modBoth l fun th => th.setHandle x.hd hv).thread l).batch = (v.thread l).batch := fun v hv => by
    rw [State.thread, thread?_modBoth v hsh, State.thread]
    rcases v.thread? l with _ | th <;> rfl
  simp only [State.copyIssue, withOps_ok ho, List.getD_cons_zero, List.getD_cons_succ, hlen, hf, hbatch]
  rfl

/-! ### The checks of COPY see what the word stood with -/

/-- Where a group stands and whose it is. -/
def standing (g : Group) : Nat × Nat × Nat := (g.core, g.crew, g.launch)

/-- Two states with the same crews and launches and with every group where it was. -/
structure SamePlaces (s t : State) : Prop where
  crews : t.crews = s.crews
  launches : t.launches = s.launches
  groups : ∀ g, (t.group? g).map standing = (s.group? g).map standing

theorem SamePlaces.trans {s t u : State} (h : SamePlaces s t) (h' : SamePlaces t u) : SamePlaces s u :=
  ⟨h'.crews.trans h.crews, h'.launches.trans h.launches, fun g => (h'.groups g).trans (h.groups g)⟩

theorem samePlaces_modThread (s : State) (m : Lane) (f : Thread → Thread) : SamePlaces s (s.modThread m f) := by
  refine ⟨rfl, rfl, fun g => ?_⟩
  by_cases hg : g = m.g
  · rw [hg, State.modThread, group?_modGroup_self]
    rcases s.group? m.g with _ | x <;> rfl
  · rw [group?_modThread_ne s m hg]

theorem samePlaces_quiet {s t : State} {g : Nat} (h : Quiet s t g) : SamePlaces s t := by
  refine ⟨by rw [h.fields], by rw [h.fields], fun k => ?_⟩
  by_cases hk : k = g
  · rw [hk]
    rcases hx : s.group? g with _ | x
    · rw [h.none hx]
    · obtain ⟨y, hy, hq⟩ := h.group x hx
      simp only [hy, Option.map_some, standing, hq.core, hq.crew, hq.launch]
  · rw [h.others k hk]

section
variable {s t : State} (h : SamePlaces s t)
include h

theorem SamePlaces.grp (g : Nat) : standing (t.grp g) = standing (s.grp g) := by
  have hg := h.groups g
  unfold State.grp
  revert hg
  rcases t.group? g with _ | y <;> rcases s.group? g with _ | x <;> intro hg
  · rfl
  · simp at hg
  · simp at hg
  · exact Option.some.inj hg

theorem SamePlaces.core (g : Nat) : (t.grp g).core = (s.grp g).core := congrArg Prod.fst (h.grp g)
theorem SamePlaces.crew (g : Nat) : (t.grp g).crew = (s.grp g).crew := congrArg (fun p => p.2.1) (h.grp g)

theorem SamePlaces.recOf (g : Nat) : t.recOf g = s.recOf g := by
  have hg := h.groups g
  unfold State.recOf State.launch?
  rw [h.launches]
  revert hg
  rcases t.group? g with _ | y <;> rcases s.group? g with _ | x <;> intro hg
  · rfl
  · simp at hg
  · simp at hg
  · rw [Option.bind_some, Option.bind_some, show y.launch = x.launch from congrArg (fun p => p.2.2) (Option.some.inj hg)]

theorem SamePlaces.aperture (g off len : Nat) : t.aperture g off len = s.aperture g off len := by
  have hgscr : t.gscr g = s.gscr g := by rw [State.gscr, h.recOf, State.gscr]
  rw [State.aperture, State.aperture, hgscr, h.core, h.crew]
  unfold State.apertureOf State.crew?
  rw [h.crews]
  split
  · rfl
  · split
    · rfl
    · rename_i k _
      have hk := h.groups k
      revert hk
      rcases t.group? k with _ | y <;> rcases s.group? k with _ | x <;> intro hk
      · rfl
      · simp at hk
      · simp at hk
      · dsimp only
        rw [show y.core = x.core from congrArg Prod.fst (Option.some.inj hk)]

theorem SamePlaces.aperBad (g : Nat) (va : DWord) (len : Nat) : t.aperBad g va len = s.aperBad g va len := by
  simp only [State.aperBad, h.aperture]

end

/-- A copy between places that lie apart and hold no forbidden part of the aperture has no fault at issue. -/
theorem copyFault_none {s : State} {g : Nat} {dst src : DWord} {len : Nat} (hdst : canonical dst = true) (hsrc : canonical src = true)
    (h : len = 0 ∨ ((src.toNat + len ≤ dst.toNat ∨ dst.toNat + len ≤ src.toNat) ∧ s.aperBad g dst len = false ∧ s.aperBad g src len = false)) :
    s.copyFault g dst src len = none := by
  rcases h with rfl | ⟨hapart, hd, hs⟩
  · simp [State.copyFault, hdst, hsrc]
  · have hno : ¬(len ≠ 0 ∧ dst.toNat < src.toNat + len ∧ src.toNat < dst.toNat + len) := by omega
    simp [State.copyFault, hdst, hsrc, hno, hd, hs]

/-! ### The queue of a die after checks alone -/

theorem copiesOf_same {s t : State} (hc : t.copies = s.copies) (hp : t.parts = s.parts) (die : Nat) : t.copiesOf die = s.copiesOf die := by
  unfold State.copiesOf State.partn
  rw [hc, hp]

theorem promise_same {s t : State} (hc : t.copies = s.copies) (hp : t.parts = s.parts) (hd : t.dies = s.dies) (ht : t.time = s.time) (die len : Nat) :
    t.promise die len = s.promise die len := by
  unfold State.promise State.copyAhead State.dclk State.ticks State.die
  rw [copiesOf_same hc hp, hd, ht]

section
variable {s u : State} {k : Nat} {gang : Gang} {l : Lane} {i : Instr} {vs : List DWord} {th : Thread}

/-- The state with the operands popped. -/
theorem popped_issued_fields (h : s.plainAt k gang l i = true) (th : Thread) :
    Spec.popped (s.issued gang) l i th = { s with groups := (Spec.popped (s.issued gang) l i th).groups, cores := (Spec.popped (s.issued gang) l i th).cores } := by
  obtain ⟨f, hf⟩ := popped_eq (s.issued gang) l i th
  have hq := (checked_issued h).issued.fields
  rw [hf]
  generalize s.issued gang = S at hq
  rw [hq]
  rfl

theorem popped_issued_places (h : s.plainAt k gang l i = true) (th : Thread) : SamePlaces s (Spec.popped (s.issued gang) l i th) := by
  obtain ⟨f, hf⟩ := popped_eq (s.issued gang) l i th
  rw [hf]
  exact ((samePlaces_quiet (checked_issued h).issued).trans (samePlaces_modThread _ _ _)).trans (samePlaces_modThread _ _ _)

/-- The die whose copy engine serves a lane, and the handle it gives next. -/
theorem newHandle_eq (s : State) (die part launch : Nat) : (s.newHandle die 1 part launch).1 =
    copyHandle die (s.partn part).gen.toNat ((s.die die).seqs.get 0 1) := rfl

/-- The operands popped: the group is the one the word stood with but for its threads. -/
theorem popped_issued_grp (h : s.plainAt k gang l i = true) (th : Thread) :
    ((Spec.popped (s.issued gang) l i th).grp l.g).part = (s.grp l.g).part := by
  obtain ⟨f, hf⟩ := popped_eq (s.issued gang) l i th
  rw [hf, ← (checked_issued h).issued.grp.part, grp_modThread, grp_modThread]
  split <;> split <;> rfl

/-- The handle that COPY gives. -/
def nextHandle (s : State) (l : Lane) : DWord :=
  copyHandle ((s.grp l.g).core / 96) (s.partn (s.grp l.g).part).gen.toNat ((s.die ((s.grp l.g).core / 96)).seqs.get 0 1)

/-- The entry that tracks it. -/
def nextEntry (s : State) (l : Lane) : HEntry :=
  { kind := 1, seq := (s.die ((s.grp l.g).core / 96)).seqs.get 0 1, part := (s.grp l.g).part, gen := (s.partn (s.grp l.g).part).gen, state := .pending,
    launch := (s.grp l.g).launch }

/-- A state that checks and pops alone have made of one at a word. -/
structure Popped (s P : State) (l : Lane) (th : Thread) : Prop where
  fields : P = { s with groups := P.groups, cores := P.cores }
  core : (P.grp l.g).core = (s.grp l.g).core
  part : (P.grp l.g).part = (s.grp l.g).part
  launch : (P.grp l.g).launch = (s.grp l.g).launch
  thread : P.thread? l = some th
  batch : th.batch = (s.thread l).batch
  v : ∀ m n, P.v m n = s.v m n

theorem popped_popped (h : s.plainAt k gang l i = true) (ho : s.operandsOf l i = some (vs, th)) :
    Popped s (Spec.popped (s.issued gang) l i th) l th := by
  have hc := checked_issued h
  refine ⟨popped_issued_fields h th, (popped_issued_places h th).core l.g, popped_issued_grp h th,
    congrArg (fun p => p.2.2) ((popped_issued_places h th).grp l.g), popped_thread? hc, ?_, fun m n => ?_⟩
  · unfold State.operandsOf at ho
    split at ho
    · rename_i heq
      simp only [Option.some.injEq, Prod.mk.injEq] at ho
      obtain ⟨rfl, rfl⟩ := ho
      rw [readSrcs_keeps hc.region heq]
    · simp at ho
  · simp only [State.v, Group.readV, popped_vreg, hc.vreg]

end

section
variable {s P : State} {l : Lane} {th : Thread} (h : Popped s P l th)
include h

theorem Popped.handle : (P.newHandle (coreDie (P.grp l.g).core) 1 (P.grp l.g).part (P.grp l.g).launch).1 = nextHandle s l := by
  rw [h.core, h.part, h.fields]
  rfl

theorem Popped.entries : ∃ r, ((P.newHandle (coreDie (P.grp l.g).core) 1 (P.grp l.g).part (P.grp l.g).launch).2.die ((s.grp l.g).core / 96)).handles =
    nextEntry s l :: r := by
  refine ⟨(P.die ((s.grp l.g).core / 96)).handles, ?_⟩
  rw [h.core, h.part, h.launch]
  have he : nextEntry s l =
      { kind := 1, seq := (P.die ((s.grp l.g).core / 96)).seqs.get 0 1, part := (s.grp l.g).part,
        gen := (P.partn (s.grp l.g).part).gen, state := .pending, launch := (s.grp l.g).launch } := by
    rw [h.fields]
    rfl
  rw [he]
  simp only [State.newHandle, State.die, State.modDie_dies, coreDie, AMap.get_set_self]

end

section
variable {s P : State} {l : Lane} {th : Thread} (h : Popped s P l th) (x : CopyF) (dst src : DWord) (len : Nat)
include h

theorem Popped.enqueued_thread (hsh : l.sh = false) : (enqueued P l x dst src len).thread? l = some (th.setHandle x.hd (nextHandle s l)) := by
  have hth : ∀ hv : DWord, (((P.newHandle (coreDie (P.grp l.g).core) 1 (P.grp l.g).part (P.grp l.g).launch).2.modBoth l fun th => th.setHandle x.hd hv)).thread? l =
      some (th.setHandle x.hd hv) := fun hv => by
    rw [thread?_modBoth _ hsh]
    show (P.thread? l).map _ = _
    rw [h.thread, Option.map_some]
  rw [← h.handle]
  exact hth _

theorem Popped.enqueued_v (m : Lane) (n : Nat) : (enqueued P l x dst src len).v m n = s.v m n := by
  rw [← h.v m n, State.v, State.v, Group.readV, Group.readV]
  congr 2
  exact modBoth_vreg _ l _ m.g m.sh n

/-- The entry of the copy, and what stays as it was. -/
theorem Popped.enqueued_rest : (enqueued P l x dst src len).copies = s.copies.set s.nextId (queued P l x dst src len) ∧
    (enqueued P l x dst src len).parts = s.parts ∧ (enqueued P l x dst src len).ops = s.ops ∧ (enqueued P l x dst src len).gangs = s.gangs ∧
    (enqueued P l x dst src len).cur = s.cur := by
  unfold enqueued
  generalize queued P l x dst src len = c
  rw [h.fields]
  exact ⟨rfl, rfl, rfl, rfl, rfl⟩

theorem Popped.queued_eq : (queued P l x dst src len).batch = (s.thread l).batch ∧
    (queued P l x dst src len).promise = s.promise ((s.grp l.g).core / 96) len ∧
    (queued P l x dst src len).seq = hSeq (nextHandle s l) := by
  refine ⟨?_, ?_, ?_⟩
  · rw [← h.batch]
    show (P.thread l).batch = _
    rw [thread_of h.thread]
  · show P.promise (coreDie (P.grp l.g).core) len = _
    rw [h.core]
    exact promise_same (by rw [h.fields]) (by rw [h.fields]) (by rw [h.fields]) (by rw [h.fields]) _ _
  · rw [← h.handle]
    rfl

end

/-- A copy queued, its handle given, and its counter raised or its handle complete. -/
structure Queued (s u : State) (l : Lane) (x : CopyF) (dst src : DWord) (len : Nat) (th : Thread) : Prop where
  thread : u.thread? l = some { th with h := th.h.set x.hd.val (nextHandle s l), cp := if len = 0 then th.cp else th.cp + 1 }
  copies : ∃ P, Popped s P l th ∧ u.copies = s.copies.set s.nextId (queued P l x dst src len)
  parts : u.parts = s.parts
  ops : u.ops = s.ops
  v : ∀ m n, u.v m n = s.v m n
  handle : ∃ e r, (u.die ((s.grp l.g).core / 96)).handles = e :: r ∧ e = { nextEntry s l with state := e.state } ∧
    ((s.grp l.g).core / 96 < 16 → (nextEntry s l).seq < 2 ^ 48 → e.state = if len = 0 then .complete else .pending)

section
variable {s P : State} {l : Lane} {th : Thread} (h : Popped s P l th) (hsh : l.sh = false) (x : CopyF) (dst src : DWord)
include h hsh

/-- A copy of nothing is complete at once. -/
theorem Popped.queues_nothing : Queued s ((enqueued P l x dst src 0).setHandleState (coreDie (P.grp l.g).core) 1 (queued P l x dst src 0).seq .complete)
    l x dst src 0 th := by
  obtain ⟨hcopies, hparts, hops, -, -⟩ := h.enqueued_rest x dst src 0
  obtain ⟨r, hr⟩ := h.entries
  have hdie : ((enqueued P l x dst src 0).die ((s.grp l.g).core / 96)).handles = nextEntry s l :: r := hr
  refine ⟨(h.enqueued_thread x dst src 0 hsh).trans rfl, ⟨P, h, hcopies⟩, hparts, hops, h.enqueued_v x dst src 0, ?_⟩
  rw [(h.queued_eq x dst src 0).2.2, h.core]
  have hnew : (((enqueued P l x dst src 0).setHandleState (coreDie (s.grp l.g).core) 1 (hSeq (nextHandle s l)) .complete).die ((s.grp l.g).core / 96)).handles =
      (nextEntry s l :: r).map fun e => if e.kind = 1 ∧ e.seq = hSeq (nextHandle s l) then { e with state := .complete } else e := by
    rw [← hdie]
    simp [State.setHandleState, State.die, coreDie]
  refine ⟨_, _, hnew.trans (List.map_cons ..), ?_, fun hd hs => ?_⟩
  · split <;> rfl
  · rw [if_pos ⟨rfl, (copyHandle_fields hd hs).2.2.2.symm⟩]
    rfl

/-- A copy of something waits and is counted, and its launch may leave the package. -/
theorem Popped.queues_bytes {len : Nat} (hlen : len ≠ 0) {u : State}
    (hu : u = (enqueued P l x dst src len).modBoth l (Thread.bump · .cp) ∨
      ∃ n, u = ((enqueued P l x dst src len).modBoth l (Thread.bump · .cp)).sideEffect n) : Queued s u l x dst src len th := by
  obtain ⟨hcopies, hparts, hops, -, -⟩ := h.enqueued_rest x dst src len
  obtain ⟨r, hr⟩ := h.entries
  have hdie : ((enqueued P l x dst src len).die ((s.grp l.g).core / 96)).handles = nextEntry s l :: r := hr
  have hthread : ((enqueued P l x dst src len).modBoth l (Thread.bump · .cp)).thread? l =
      some { th with h := th.h.set x.hd.val (nextHandle s l), cp := if len = 0 then th.cp else th.cp + 1 } := by
    rw [thread?_modBoth _ hsh, h.enqueued_thread x dst src len hsh, if_neg hlen]
    rfl
  have hv : ∀ m n, ((enqueued P l x dst src len).modBoth l (Thread.bump · .cp)).v m n = s.v m n := fun m n => by
    rw [← h.enqueued_v x dst src len m n, State.v, State.v, Group.readV, Group.readV, modBoth_vreg]
  rcases hu with rfl | ⟨n, rfl⟩
  all_goals
    refine ⟨hthread, ⟨P, h, hcopies⟩, hparts, hops, hv, _, _, hdie, rfl, fun _ _ => ?_⟩
    rw [if_neg hlen]
    rfl

end

/-- What the claim says of a state in which a copy is queued. -/
theorem Queued.outcome {s u t : State} {k : Nat} {gang : Gang} {l : Lane} {i : Instr} {x : CopyF} {dst src : DWord} {len : Nat} {th : Thread}
    {ops : List Issued} (h : Queued s u l x dst src len th) (ht : s.passed u t k gang l i ops) :
    ∃ c, t.thread? l = some (Thread.past { th with h := th.h.set x.hd.val (nextHandle s l), cp := if len = 0 then th.cp else th.cp + 1 } (gang.ctx k)) ∧
      s.wentOn t k { gang with ops := ops ++ gang.ops } i ∧
      t.copies.find? s.nextId = some c ∧ c.dst = dst ∧ c.src = src ∧ c.len = len ∧ c.scope = x.scope ∧ c.lane = l ∧
      c.batch = (s.thread l).batch ∧ c.off = 0 ∧ c.st = (if len = 0 then .complete else .queued) ∧
      c.promise = s.promise ((s.grp l.g).core / 96) len ∧ c.ahead = [] ∧
      (∀ j, j ≠ s.nextId → t.copies.find? j = s.copies.find? j) ∧
      ((s.grp l.g).core / 96 < 16 → (s.die ((s.grp l.g).core / 96)).seqs.get 0 1 < 2 ^ 48 →
        t.hState (s.grp l.g).part (nextHandle s l) = (if len = 0 then .complete else .pending)) ∧
      s.regsKept t l [] ∧ t.ops = s.ops := by
  obtain ⟨halike, hwent, -⟩ := ht
  obtain ⟨hcopies, hops, hdies, hparts⟩ := passed_fields halike
  obtain ⟨P, hP, hc⟩ := h.copies
  obtain ⟨hbatch, hpromise, -⟩ := hP.queued_eq x dst src len
  refine ⟨queued P l x dst src len, ?_, hwent, ?_, rfl, rfl, rfl, rfl, rfl, hbatch, rfl, rfl, hpromise, rfl, fun j hj => ?_, fun hd hs => ?_,
    fun n _ m _ => ?_, hops.trans h.ops⟩
  · rw [passed_thread? halike, h.thread]
    rfl
  · rw [hcopies, hc, AMap.find?_set_self]
  · rw [hcopies, hc, AMap.find?_set_ne hj]
  · obtain ⟨e, r, he, hentry, hstate⟩ := h.handle
    have hgen : (t.partn (s.grp l.g).part).gen = (s.partn (s.grp l.g).part).gen := by rw [State.partn, hparts, h.parts, State.partn]
    have hfind : t.hEntry (s.grp l.g).part (nextHandle s l) = some e := by
      rw [nextHandle, ← hgen]
      refine hEntry_latest (r := r) hd hs ?_ ?_ ?_ ?_ ?_
      · rw [State.die, hdies]
        exact he
      · rw [hentry]
        rfl
      · rw [hentry]
        rfl
      · rw [hentry]
        rfl
      · rw [hentry, hgen]
        rfl
    rw [State.hState, hfind]
    dsimp only
    rw [hstate hd hs]
    by_cases hl : len = 0
    · rw [if_pos hl, if_pos hl]
    · rw [if_neg hl, if_neg hl]
  · rw [passed_v halike, h.v]

section
variable {s : State} {k : Nat} {gang : Gang} {l : Lane} {i : Instr} {vs : List DWord} {th : Thread}

theorem popped_issued_agents (h : s.plainAt k gang l i = true) (th : Thread) :
    (Spec.popped (s.issued gang) l i th).gangs = s.gangs ∧ (Spec.popped (s.issued gang) l i th).cur = s.cur ∧
    (Spec.popped (s.issued gang) l i th).nextId = s.nextId := by
  rw [popped_issued_fields h th]
  exact ⟨rfl, rfl, rfl⟩

/-- The copy engine takes one more copy. -/
theorem copy_has_room (h : s.plainAt k gang l i = true) (hroom : (s.copiesOf ((s.grp l.g).core / 96)).length < 256) :
    ([l].any fun m => decide (256 < ((s.issued gang).copiesOf (coreDie ((s.issued gang).grp m.g).core)).length +
      ([l].filter fun n => coreDie ((s.issued gang).grp n.g).core == coreDie ((s.issued gang).grp m.g).core).length)) = false := by
  have hq := (checked_issued h).issued
  have hcopies : (s.issued gang).copiesOf (coreDie ((s.issued gang).grp l.g).core) = s.copiesOf ((s.grp l.g).core / 96) := by
    rw [coreDie, hq.grp.core, hq.fields]
    rfl
  simp only [List.any_cons, List.any_nil, Bool.or_false, decide_eq_false_iff_not, hcopies]
  simp
  omega

end

/-- A copy of something is counted for its thread and noted at its gang, and may be a side effect of its launch. -/
theorem counted_cases (v : State) (c : Ctx) (l : Lane) (g : Group) (dst : DWord) (len id : Nat) :
    ∃ u, (u = v.modBoth l (Thread.bump · .cp) ∨ ∃ n, u = (v.modBoth l (Thread.bump · .cp)).sideEffect n) ∧
    ∃ s3, (if (v.countOp c l .cp id).rangeOutward g dst len then (v.countOp c l .cp id).sideEffect g.launch else v.countOp c l .cp id) = s3 ∧
      s3 = { u with gangs := s3.gangs, cur := s3.cur, free := s3.free } ∧
      s3.gangs = v.gangs.modify c.k (fun g => { g with ops := { lane := l, op := id } :: g.ops }) ∧ s3.cur = v.cur := by
  by_cases hout : (v.countOp c l .cp id).rangeOutward g dst len = true
  · exact ⟨_, .inr ⟨g.launch, rfl⟩, _, if_pos hout, rfl, rfl, rfl⟩
  · exact ⟨_, .inl rfl, _, if_neg hout, rfl, rfl, rfl⟩

/-- Settles O17: COPY leaves the handle given, the copy queued, and the counter raised where there is something to copy. -/
theorem copyIssues : Obligations.CopyIssues := by
  intro s k gang l h x dst src n th i g die len hp hin ho hdst hsrc hplaces hroom seq hv
  have hc := checked_issued hp
  have hpop := popped_popped hp ho
  obtain ⟨hgangs, hcur, hid⟩ := popped_issued_agents hp th
  have hgang : s.gang? k = some gang := (standsAt_cases (plainAt_cases hp).1).2.1
  have hfault : (Spec.popped (s.issued gang) l i th).copyFault l.g dst src len = none :=
    copyFault_none hdst hsrc (by
      rw [(popped_issued_places hp th).aperBad, (popped_issued_places hp th).aperBad]
      exact hplaces)
  have hissue := copyIssue_queues (x := x) hc.sh (hc.operands ho (gang.ctx k)) rfl hfault
  have heff : ∀ s3, (s.issued gang).copyIssue (gang.ctx k) i x l = s3 → copyEffect h x (gang.ctx k) [l] (s.issued gang) = some s3 := fun s3 hs3 => by
    dsimp only [copyEffect]
    rw [copy_has_room hp hroom, if_neg Bool.false_ne_true, eachHeld_one hc.lanesOfGang]
    exact congrArg some hs3
  rw [show exec i s = _ from exec_copy h x s]
  obtain ⟨-, -, -, hgangs', hcur'⟩ := hpop.enqueued_rest x dst src len
  by_cases hlen : len = 0
  · rw [if_pos hlen] at hissue
    have hq := hpop.queues_nothing hc.sh x dst src
    rw [← hlen] at hq
    obtain ⟨t, hrun, ht⟩ := runWith_passed (alu := false) (pend := fun _ _ s => s) (ops := if len = 0 then [] else [{ lane := l, op := s.nextId }])
      (u := (enqueued (Spec.popped (s.issued gang) l i th) l x dst src len).setHandleState _ _ _ _) hp hin (heff _ hissue) rfl (hcur'.trans rfl)
      (by rw [if_pos hlen]; exact (congrArg (AMap.find? · k) hgangs').trans hgang) fun j _ => congrArg (AMap.find? · j) hgangs'
    obtain ⟨c, hout⟩ := hq.outcome ht
    exact ⟨t, c, hrun, hout⟩
  · rw [if_neg hlen] at hissue
    obtain ⟨u, hu, s3, hs3, hrest, hgangs3, hcur3⟩ := counted_cases (enqueued (Spec.popped (s.issued gang) l i th) l x dst src len) (gang.ctx k) l
      ((Spec.popped (s.issued gang) l i th).grp l.g) dst len s.nextId
    have hs : (s.issued gang).copyIssue (gang.ctx k) i x l = s3 := by
      rw [hissue, hid]
      exact hs3
    have hq := hpop.queues_bytes hc.sh x dst src hlen hu
    have hg3 : s3.gangs = s.gangs.modify k fun g => { g with ops := { lane := l, op := s.nextId } :: g.ops } := by
      rw [hgangs3, hgangs']
      rfl
    obtain ⟨t, hrun, ht⟩ := runWith_passed (alu := false) (pend := fun _ _ s => s) (ops := if len = 0 then [] else [{ lane := l, op := s.nextId }])
      hp hin       (heff _ hs) hrest (hcur3.trans hcur')
      (by rw [if_neg hlen, State.gang?, hg3, AMap.find?_modify_self, show s.gangs.find? k = some gang from hgang]; rfl)
      fun j hj => by rw [State.gang?, hg3, AMap.find?_modify_ne hj]; rfl
    obtain ⟨c, hout⟩ := hq.outcome ht
    exact ⟨t, c, hrun, hout⟩

end Sys2Proof.CopyQueue
end

section
/-! SUPPORT. The words that begin their accesses and wait for them: BLD, SMLD, SMST (R35, R38, R167, R215; O31). -/

namespace Sys2Proof.WaitingWords

open Sys2Proof Sys2Proof.Machine Sys2Proof.Steadiness Sys2Proof.PlainWords Sys2Proof.FaultTaking Sys2Proof.MemoryAccess

/-- What BLD does as it begins. -/
def bldStart (x : BldF) : Pending := fun c act => beginning (fun c l s => s.bldBegin c x l (lanesOf act l.g)) (fun a => (performers a).map Prod.fst) c act

theorem exec_bld (h : Head) (x : BldF) (s : State) : exec (.bld h x) s =
    runWith (.bld h x) false (bldStart x) (phased (fun c w l s => s.bldEnd c x w l) fun a => (performers a).map Prod.fst) s := rfl
theorem exec_smld (h : Head) (x : SmMemF) (s : State) : exec (.smld h x) s =
    runWith (.smld h x) false (beginning (fun c l s => s.smldBegin c h x l) id) (phased (fun c w l s => s.smldEnd c x w l) id) s := rfl
theorem exec_smst (h : Head) (x : SmMemF) (s : State) : exec (.smst h x) s =
    runWith (.smst h x) false (beginning (fun c l s => s.smstBegin c h x l) id) (phased (fun _ _ _ s => s) id) s := rfl

theorem performers_one (l : Lane) : (performers [l]).map Prod.fst = [l] := by
  simp [performers, groupsOf_one, lanesOf, lowest]

/-! ### Beginning and waiting -/

section
variable {s u v : State} {k : Nat} {gang : Gang} {l : Lane} {i : Instr} {alu : Bool} {start : Ctx → Lane → State → State} {who : List Lane → List Lane}
  {fin : Ctx → List Issued → Lane → State → State} {pend : Pending}

/-- What a word waits for: all that is in flight since a number. -/
def flown (v : State) (n : Nat) : List Issued := (v.ops.filter fun e => decide (n ≤ e.1)).map fun e => { lane := e.2.lane, op := e.1 }

theorem beginning_one (hp : s.plainAt k gang l i = true) (hw : gang.wip = none) (hwho : who [l] = [l])
    (hstart : start (gang.ctx k) l (s.issued gang) = v) :
    beginning start who (gang.ctx k) [l] (s.issued gang) = v.modGang k fun g => { g with wip := some (flown v s.nextId) } := by
  have hc := checked_issued hp
  have hck : (gang.ctx k).k = k := rfl
  have hid : (s.issued gang).nextId = s.nextId := by rw [hc.issued.fields]
  simp only [beginning, State.wip, hck, hc.gang?, Option.bind_some, hw, hwho, List.foldl_cons, List.foldl_nil, hc.lanesOfGang,
    List.contains_cons, beq_self_eq_true, Bool.true_or, if_true, hstart, hid]
  rfl

/-- The word of a gang whose accesses are not there yet ends in the state in which they have begun. -/
theorem wordStep_begun (hp : s.plainAt k gang l i = true) (hw : gang.wip = none) (hv : (v.gang? k).isSome = true)
    (hbegin : pend (gang.ctx k) [l] (s.issued gang) = v.modGang k fun g => { g with wip := some (flown v s.nextId) }) :
    runWith i alu pend (phased fin who) s = .next
      (let t := v.modGang k fun g => { g with wip := some (flown v s.nextId) }
      if (t.lanesOfGang k).isEmpty then State.finishWord s t (gang.ctx k) gang i else t) := by
  have hc := checked_issued hp
  have hck : (gang.ctx k).k = k := rfl
  have hwait : phased fin who (gang.ctx k) [l] (s.issued gang) = none := by
    simp only [phased, List.isEmpty_cons, Bool.false_eq_true, if_false, State.wip, hck, hc.gang?, Option.bind_some, hw]
  have hbegun : (v.modGang k fun g => { g with wip := some (flown v s.nextId) }).begun (gang.ctx k).k = true := by
    obtain ⟨g, hg⟩ := Option.isSome_iff_exists.1 hv
    simp only [State.gang?] at hg
    simp [State.begun, hck, State.gang?, State.modGang, hg]
  rw [runWith_plain alu pend _ hp, wordStep_plain alu pend _ hp]
  simp only [hwait, stalled, hbegin, hbegun, if_true]

/-- Its accesses have begun, and it waits. -/
theorem waits (hp : s.plainAt k gang l i = true) (hw : gang.wip = none) (hv : v.gangs = s.gangs)
    (hbegin : pend (gang.ctx k) [l] (s.issued gang) = v.modGang k fun g => { g with wip := some (flown v s.nextId) })
    (hexec : exec i s = runWith i alu pend (phased fin who) s) : Spec.waitsFor s v k gang i s.nextId := by
  obtain ⟨-, hk, hl, -⟩ := standsAt_cases (plainAt_cases hp).1
  have hg : v.gang? k = some gang := by rw [State.gang?, hv]; exact hk
  have hmod : (v.modGang k fun g => { g with wip := some (flown v s.nextId) }) =
      v.modGang k fun _ => { gang with wip := some (flown v s.nextId) } :=
    congrArg (fun m => { v with gangs := m }) (AMap.modify_congr hg (by rfl))
  have hlanes : (v.modGang k fun _ => { gang with wip := some (flown v s.nextId) }).lanesOfGang k = [l] := by
    simp only [State.gang?] at hg
    simp [State.lanesOfGang, State.gang?, State.modGang, hg, hl]
  rw [Spec.waitsFor, hexec, wordStep_begun hp hw (by rw [hg]; rfl) hbegin, hmod]
  simp only [hlanes, List.isEmpty_cons, Bool.false_eq_true, if_false]
  rfl

/-- Its lane has left the gang as it began. -/
theorem begins_left (hp : s.plainAt k gang l i = true) (hw : gang.wip = none)
    (hu : v = { u with gangs := v.gangs, cur := v.cur, free := v.free }) (hstay : (v.gang? k).isSome = true) (hempty : v.lanesOfGang k = [])
    (hbegin : pend (gang.ctx k) [l] (s.issued gang) = v.modGang k fun g => { g with wip := some (flown v s.nextId) })
    (hexec : exec i s = runWith i alu pend (phased fin who) s) : ∃ t, exec i s = .next t ∧ u.leftGang t k l := by
  obtain ⟨-, -, hl, -, hstep, -⟩ := standsAt_cases (plainAt_cases hp).1
  have hgone : (v.modGang k fun g => { g with wip := some (flown v s.nextId) }).lanesOfGang k = [] := by
    simp only [State.lanesOfGang, State.gang?, State.modGang, AMap.find?_modify_self] at hempty ⊢
    generalize AMap.find? v.gangs k = o at hempty ⊢
    rcases o with _ | g
    · rfl
    · exact hempty
  rw [hexec, wordStep_begun hp hw hstay hbegin]
  simp only [hgone, List.isEmpty_nil, if_true]
  refine ⟨_, rfl, leftGang_of_finishWord ?_ hstep hl hgone⟩
  rw [State.modGang, hu]

/-- A fault as it begins. -/
theorem begins_faulted {s' : State} {f : FaultInfo} {n : Nat} (hc : Checked s s' k gang l i) (hw : gang.wip = none)
    (hbegin : pend (gang.ctx k) [l] (s.issued gang) =
      ((s'.takeFault l (gang.ctx k).w f).used n).modGang k fun g => { g with wip := some (flown ((s'.takeFault l (gang.ctx k).w f).used n) s.nextId) })
    (hexec : exec i s = runWith i alu pend (phased fin who) s) :
    ∃ t, exec i s = .next t ∧ (s'.takeFault l (gang.ctx k).w f).leftGang t k l := by
  have hh : (s'.thread l).hold = none := by rw [hc.thread, standsAt_hold (plainAt_cases hc.plain).1]
  have hr : (s'.thread l).region = none := by rw [hc.thread, hc.region]
  obtain ⟨hempty, -⟩ := takeFault_left hc.sh hr hh hc.lanesOfGang (gang.ctx k).w f
  have hstay := takeFault_stays (k := k) hc.sh hr (by rw [hc.gang?]; rfl) (gang.ctx k).w f
  exact begins_left hc.plain hw (v := (s'.takeFault l (gang.ctx k).w f).used n) rfl hstay hempty hbegin hexec

end

/-! ### The places of a matrix's elements -/

theorem smPlaces_steady (s : State) (l : Lane) (m : MAddr) (a : SMat) (d : AccKind) (n : Need) : Steady s (s.smPlaces l m a d n).2 := by
  unfold State.smPlaces
  suffices h : ∀ (es : List Nat) (acc : Except FaultInfo (List (Nat × Option (DWord × Space))) × State), Steady acc.2
      (es.foldl (fun (acc : Except FaultInfo (List (Nat × Option (DWord × Space))) × State) e =>
        match acc with
        | (.error f, s) => (.error f, s)
        | (.ok r, s) =>
          match s.addressAt l m (e * smElem a.f32) (smElem a.f32) (smElem a.f32) d n with
          | (.fault f, s) => (.error f, s)
          | (.outside, s) => (.ok (r ++ [(e, none)]), s)
          | (.at va sp, s) =>
            if d == .load && s.poisonNow l sp (smElem a.f32) then (.error { cause := .poison, kind := d, addr := va }, s)
            else (.ok (r ++ [(e, some (va, sp))]), s)) acc).2 from h _ (.ok [], s)
  intro es
  induction es with
  | nil => exact fun acc => Steady.refl acc.2
  | cons e r ih =>
    intro acc
    rw [List.foldl_cons]
    refine Steady.trans ?_ (ih _)
    obtain ⟨_ | ps, t⟩ := acc
    · exact Steady.refl t
    · have ha := addressAt_steady t l m (e * smElem a.f32) (smElem a.f32) (smElem a.f32) d n
      dsimp only
      generalize t.addressAt l m (e * smElem a.f32) (smElem a.f32) (smElem a.f32) d n = r at ha ⊢
      obtain ⟨_ | _ | _, t'⟩ := r
      · exact steady_snd_ite ha ha
      · exact ha
      · exact ha

section
variable {s s' : State} {k : Nat} {gang : Gang} {l : Lane} {i : Instr}

theorem checked_smPlaces (h : s.plainAt k gang l i = true) {m : MAddr} {a : SMat} {d : AccKind} {n : Need} {r}
    (ha : (s.issued gang).smPlaces l m a d n = (r, s')) : Checked s s' k gang l i := by
  refine ⟨h, ?_⟩
  have hs := smPlaces_steady (s.issued gang) l m a d n
  rwa [ha] at hs

theorem quiet_recOf {t : State} {g : Nat} (h : Quiet s t g) (n : Nat) : t.recOf n = s.recOf n := by
  have hl : t.launches = s.launches := by rw [h.fields]
  unfold State.recOf State.launch?
  rw [hl]
  by_cases hn : n = g
  · rw [hn]
    rcases hx : s.group? g with _ | x
    · rw [h.none hx]
    · obtain ⟨y, hy, hq⟩ := h.group x hx
      rw [hy, Option.bind_some, Option.bind_some, hq.launch]
  · rw [h.others n hn]

theorem issued_mat (h : s.plainAt k gang l i = true) (n : Fin 8) : (s.issued gang).mat l n = s.mat l n := by
  have hc := checked_issued h
  simp only [State.mat, hc.thread, State.smDim, quiet_recOf hc.issued]

end

/-! ### Matrix registers that R35 allows -/

/-- Does an M register keep within the launch's dimension (R35)? -/
def fits (s : State) (l : Lane) (n : Nat) : Bool :=
  let m := ((s.thread l).m.get MReg.empty n).mat (s.smDim l)
  decide (m.rows ≤ s.smDim l ∧ m.cols ≤ s.smDim l) && (decide (m.rows = 0) == decide (m.cols = 0))

theorem fits_iff (s : State) (l : Lane) (n : Fin 8) : fits s l n.val = true ↔ Spec.smFit s l n := by
  unfold fits Spec.smFit State.mat
  simp only [Bool.and_eq_true, decide_eq_true_iff, beq_iff_eq, decide_eq_decide, and_assoc]

theorem smFits_smld (s : State) (l : Lane) (h : Head) (x : SmMemF) : s.smFits l (.smld h x) = true ↔ Spec.smFit s l x.md := by
  rw [← fits_iff, show s.smFits l (.smld h x) = [x.md.val].all (fits s l) from rfl]
  simp

theorem smFits_smst (s : State) (l : Lane) (h : Head) (x : SmMemF) : s.smFits l (.smst h x) = true ↔ Spec.smFit s l x.md := by
  rw [← fits_iff, show s.smFits l (.smst h x) = [x.md.val].all (fits s l) from rfl]
  simp

theorem issued_smFit {s : State} {k : Nat} {gang : Gang} {l : Lane} {i : Instr} (h : s.plainAt k gang l i = true) (n : Fin 8) :
    Spec.smFit (s.issued gang) l n ↔ Spec.smFit s l n := by
  have hd : (s.issued gang).smDim l = s.smDim l := by simp only [State.smDim, quiet_recOf (checked_issued h).issued]
  rw [Spec.smFit, Spec.smFit, issued_mat h, hd]

/-! ### The accesses of a matrix word -/

section
variable (l : Lane) (c : Ctx) (x : SmMemF) (n word : Nat)

/-- A word of at most 8 bytes is one unit. -/
theorem putUnits_one (s : State) (a : Spec.Flight) (h : a.size = 4 ∨ a.size = 8) :
    s.putUnits l (accessOf a) word = { s with ops := s.ops.set s.nextId (Spec.inFlight s l a word 0), nextId := s.nextId + 1 } := by
  have hu : unitOffs a.size = [0] := by rcases h with h | h <;> rw [h] <;> rfl
  have hs : (accessOf a).size = a.size := rfl
  simp only [State.putUnits, hs, hu, List.foldl_cons, List.foldl_nil, unit_accessOf]
  rfl

/-- One access of a matrix word. -/
theorem smAccess_begun (hn : n = 4 ∨ n = 8) (s : State) (va : DWord) (sp : Space) (kind : OpKind) (data : List Byte) :
    s.smAccess c l x word va sp n kind data =
      (let u := s.watch l c.w va (if kind = .smst then 1 else 0) n (Spec.scopeOf s sp x.scope)
      { u with ops := u.ops.set u.nextId (Spec.inFlight u l { va, sp, size := n, scope := x.scope, ord := x.ord, hint := x.hint.val, kind, data } word 0),
               nextId := u.nextId + 1 }) := by
  rw [State.smAccess, scopeAt_eq]
  simp only [beq_iff_eq]
  exact putUnits_one l word _ { va, sp, size := n, scope := x.scope, ord := x.ord, hint := x.hint.val, kind, data } hn

end

theorem smElem_cases (f32 : Bool) : smElem f32 = 4 ∨ smElem f32 = 8 := by cases f32 <;> simp [smElem]

section
variable {s s' : State} {c : Ctx} {h : Head} {x : SmMemF} {l : Lane} {ps : List (Nat × Option (DWord × Space))}

theorem smldBegin_ok (hfit : s.smFits l (.smld h x) = true) (hps : s.smPlaces l x.m (s.mat l x.md) .load .rd = (.ok ps, s')) :
    s.smldBegin c h x l = Spec.begunAll l c.w x (smElem (s.mat l x.md).f32) s.nextId OpKind.smld (fun _ => []) ps s' := by
  unfold State.smldBegin
  simp only [hfit, Bool.not_true, Bool.false_eq_true, if_false, hps]
  clear hps
  induction ps generalizing s' with
  | nil => rfl
  | cons e r ih =>
    rw [List.foldl_cons, ih]
    obtain ⟨e, _ | ⟨va, sp⟩⟩ := e
    · rfl
    · rw [Spec.begunAll]
      dsimp only
      rw [smAccess_begun l c x _ _ (smElem_cases _)]
      rfl

theorem smldBegin_fault {f : FaultInfo} (hfit : s.smFits l (.smld h x) = true) (hps : s.smPlaces l x.m (s.mat l x.md) .load .rd = (.error f, s')) :
    s.smldBegin c h x l = s'.faultAt c l f := by
  unfold State.smldBegin
  simp only [hfit, Bool.not_true, Bool.false_eq_true, if_false, hps]

theorem smldBegin_illegal (hfit : ¬s.smFits l (.smld h x) = true) : s.smldBegin c h x l = s.plainFault c l .illegalEnc := by
  unfold State.smldBegin
  simp only [hfit, Bool.not_false, if_true]

theorem smstBegin_ok (hfit : s.smFits l (.smst h x) = true) (hrows : (s.mat l x.md).rows ≠ 0)
    (hps : s.smPlaces l x.m (s.mat l x.md) .store .wr = (.ok ps, s')) :
    s.smstBegin c h x l = Spec.begunAll l c.w x (smElem (s.mat l x.md).f32) s.nextId (fun _ => .smst)
      (fun e => Spec.bytes (smElem (s.mat l x.md).f32) ((s.mat l x.md).at (e / (s.mat l x.md).cols) (e % (s.mat l x.md).cols))) ps s' := by
  unfold State.smstBegin
  simp only [hfit, SMat.empty, hrows, decide_false, Bool.not_true, Bool.or_self, Bool.false_eq_true, if_false, hps]
  clear hps
  induction ps generalizing s' with
  | nil => rfl
  | cons e r ih =>
    rw [List.foldl_cons, ih]
    obtain ⟨e, _ | ⟨va, sp⟩⟩ := e
    · rfl
    · rw [Spec.begunAll]
      dsimp only
      rw [smAccess_begun l c x _ _ (smElem_cases _), bytes_eq]
      rfl

theorem smstBegin_fault {f : FaultInfo} (hfit : s.smFits l (.smst h x) = true) (hrows : (s.mat l x.md).rows ≠ 0)
    (hps : s.smPlaces l x.m (s.mat l x.md) .store .wr = (.error f, s')) : s.smstBegin c h x l = s'.faultAt c l f := by
  unfold State.smstBegin
  simp only [hfit, SMat.empty, hrows, decide_false, Bool.not_true, Bool.or_self, Bool.false_eq_true, if_false, hps]

theorem smstBegin_illegal (hbad : ¬s.smFits l (.smst h x) = true ∨ (s.mat l x.md).rows = 0) :
    s.smstBegin c h x l = s.plainFault c l .illegalEnc := by
  unfold State.smstBegin
  rw [if_pos]
  rcases hbad with hbad | hbad <;> simp [SMat.empty, hbad]

theorem begunAll_gangs (w : DWord) (n word : Nat) (kind : Nat → OpKind) (data : Nat → List Byte) (u : State) :
    (Spec.begunAll l w x n word kind data ps u).gangs = u.gangs := by
  induction ps generalizing u with
  | nil => rfl
  | cons e r ih =>
    obtain ⟨e, _ | ⟨va, sp⟩⟩ := e
    · exact ih u
    · rw [Spec.begunAll, ih]
      refine (watch_agents _ l w va _ n _).1.trans ?_
      split
      · unfold State.outward
        split <;> rfl
      · rfl

theorem bldBegin_ok {x : BldF} {va : DWord} {sp : Space} (hls : lanesOf [l] l.g = [l]) (ha : s.address l x.m 32 32 .load .rd = (.at va sp, s'))
    (hpoison : s'.spacePoison sp 32 = false) : s.bldBegin c x l (lanesOf [l] l.g) =
      Spec.began (s'.watch l c.w va 0 32 (Spec.scopeOf s' sp x.scope)) l .ld
        { va, sp, size := 32, scope := x.scope, ord := x.ord, hint := 0, kind := .bld [l.t], data := [] } := by
  simp only [State.bldBegin, ha, State.poisonNow, hpoison, Bool.false_and, Bool.false_eq_true, if_false, hls, List.map_cons, List.map_nil, List.foldl_cons,
    List.foldl_nil, scopeAt_eq]
  have hb : (fun th : Thread => th.bump .ld) = Spec.counted .ld := funext fun th => bump_counted .ld th
  rw [Spec.began, ← putUnits_accessOf, hb]
  rfl

theorem bldBegin_fault {x : BldF} {f : FaultInfo} {ls : List Lane} (ha : s.address l x.m 32 32 .load .rd = (.fault f, s')) :
    s.bldBegin c x l ls = s'.faultAt c l f := by
  simp only [State.bldBegin, ha]

end

/-! ### What the words do as they begin -/

section
variable {s v : State} {k : Nat} {gang : Gang} {l : Lane} {h : Head}

theorem bld_begins {x : BldF} (hp : s.plainAt k gang l (.bld h x) = true) (hw : gang.wip = none)
    (hstart : (s.issued gang).bldBegin (gang.ctx k) x l (lanesOf [l] l.g) = v) :
    bldStart x (gang.ctx k) [l] (s.issued gang) = v.modGang k fun g => { g with wip := some (flown v s.nextId) } := by
  rw [bldStart]
  exact beginning_one hp hw (performers_one l) hstart

theorem smld_begins {x : SmMemF} (hp : s.plainAt k gang l (.smld h x) = true) (hw : gang.wip = none)
    (hstart : (s.issued gang).smldBegin (gang.ctx k) h x l = v) :
    beginning (fun c l s => s.smldBegin c h x l) id (gang.ctx k) [l] (s.issued gang) =
      v.modGang k fun g => { g with wip := some (flown v s.nextId) } := beginning_one hp hw rfl hstart

theorem smst_begins {x : SmMemF} (hp : s.plainAt k gang l (.smst h x) = true) (hw : gang.wip = none)
    (hstart : (s.issued gang).smstBegin (gang.ctx k) h x l = v) :
    beginning (fun c l s => s.smstBegin c h x l) id (gang.ctx k) [l] (s.issued gang) =
      v.modGang k fun g => { g with wip := some (flown v s.nextId) } := beginning_one hp hw rfl hstart

end

section
variable {s s' : State} {k : Nat} {gang : Gang} {l : Lane} {h : Head}

theorem bld_waits {x : BldF} {va : DWord} {sp : Space} (hp : s.plainAt k gang l (.bld h x) = true) (hw : gang.wip = none)
    (ha : (s.issued gang).address l x.m 32 32 .load .rd = (.at va sp, s')) (hpoison : s'.spacePoison sp 32 = false) :
    Spec.waitsFor s (Spec.began (s'.watch l (gang.ctx k).w va 0 32 (Spec.scopeOf s' sp x.scope)) l .ld
      { va, sp, size := 32, scope := x.scope, ord := x.ord, hint := 0, kind := .bld [l.t], data := [] }) k gang (.bld h x) s.nextId := by
  have hc := checked_address hp ha
  have hbegin := bld_begins hp hw (bldBegin_ok (c := gang.ctx k) (by simp [lanesOf]) ha hpoison)
  refine waits hp hw ?_ hbegin (exec_bld h x s)
  rw [Spec.began, State.modBoth]
  exact ((flies_agents _ l _).1.trans (watch_agents s' l _ va 0 32 _).1).trans hc.gangs

theorem smld_waits {x : SmMemF} {ps : List (Nat × Option (DWord × Space))} (hp : s.plainAt k gang l (.smld h x) = true) (hw : gang.wip = none)
    (hfit : Spec.smFit s l x.md) (hps : (s.issued gang).smPlaces l x.m (s.mat l x.md) .load .rd = (.ok ps, s')) :
    Spec.waitsFor s (Spec.begunAll l (gang.ctx k).w x (if (s.mat l x.md).f32 then 4 else 8) s.nextId OpKind.smld (fun _ => []) ps s')
      k gang (.smld h x) s.nextId := by
  have hc := checked_smPlaces hp hps
  have hid : (s.issued gang).nextId = s.nextId := by rw [(checked_issued hp).issued.fields]
  rw [← issued_mat hp] at hps
  have hbegin := smld_begins hp hw (smldBegin_ok (c := gang.ctx k) ((smFits_smld _ l h x).2 ((issued_smFit hp _).2 hfit)) hps)
  rw [issued_mat hp, hid] at hbegin
  exact waits hp hw ((begunAll_gangs ..).trans hc.gangs) hbegin (exec_smld h x s)

theorem smst_waits {x : SmMemF} {ps : List (Nat × Option (DWord × Space))} (hp : s.plainAt k gang l (.smst h x) = true) (hw : gang.wip = none)
    (hfit : Spec.smFit s l x.md) (hrows : (s.mat l x.md).rows ≠ 0)
    (hps : (s.issued gang).smPlaces l x.m (s.mat l x.md) .store .wr = (.ok ps, s')) :
    Spec.waitsFor s (Spec.begunAll l (gang.ctx k).w x (if (s.mat l x.md).f32 then 4 else 8) s.nextId (fun _ => .smst)
      (fun e => Spec.bytes (if (s.mat l x.md).f32 then 4 else 8) ((s.mat l x.md).at (e / (s.mat l x.md).cols) (e % (s.mat l x.md).cols))) ps s')
      k gang (.smst h x) s.nextId := by
  have hc := checked_smPlaces hp hps
  have hid : (s.issued gang).nextId = s.nextId := by rw [(checked_issued hp).issued.fields]
  rw [← issued_mat hp] at hps hrows
  have hbegin := smst_begins hp hw (smstBegin_ok (c := gang.ctx k) ((smFits_smst _ l h x).2 ((issued_smFit hp _).2 hfit)) hrows hps)
  rw [issued_mat hp, hid] at hbegin
  exact waits hp hw ((begunAll_gangs ..).trans hc.gangs) hbegin (exec_smst h x s)

theorem bld_faults {x : BldF} {f : FaultInfo} (hp : s.plainAt k gang l (.bld h x) = true) (hw : gang.wip = none)
    (ha : (s.issued gang).address l x.m 32 32 .load .rd = (.fault f, s')) :
    ∃ t, exec (.bld h x) s = .next t ∧ (s'.takeFault l (gang.ctx k).w f).leftGang t k l :=
  begins_faulted (n := 0) (checked_address hp ha) hw (bld_begins hp hw (bldBegin_fault ha)) (exec_bld h x s)

theorem smld_faults {x : SmMemF} {f : FaultInfo} (hp : s.plainAt k gang l (.smld h x) = true) (hw : gang.wip = none) (hfit : Spec.smFit s l x.md)
    (hps : (s.issued gang).smPlaces l x.m (s.mat l x.md) .load .rd = (.error f, s')) :
    ∃ t, exec (.smld h x) s = .next t ∧ (s'.takeFault l (gang.ctx k).w f).leftGang t k l := by
  have hc := checked_smPlaces hp hps
  rw [← issued_mat hp] at hps
  exact begins_faulted (n := 0) hc hw (smld_begins hp hw (smldBegin_fault ((smFits_smld _ l h x).2 ((issued_smFit hp _).2 hfit)) hps)) (exec_smld h x s)

theorem smst_faults {x : SmMemF} {f : FaultInfo} (hp : s.plainAt k gang l (.smst h x) = true) (hw : gang.wip = none) (hfit : Spec.smFit s l x.md)
    (hrows : (s.mat l x.md).rows ≠ 0) (hps : (s.issued gang).smPlaces l x.m (s.mat l x.md) .store .wr = (.error f, s')) :
    ∃ t, exec (.smst h x) s = .next t ∧ (s'.takeFault l (gang.ctx k).w f).leftGang t k l := by
  have hc := checked_smPlaces hp hps
  rw [← issued_mat hp] at hps hrows
  exact begins_faulted (n := 0) hc hw (smst_begins hp hw (smstBegin_fault ((smFits_smst _ l h x).2 ((issued_smFit hp _).2 hfit)) hrows hps))
    (exec_smst h x s)

theorem smld_refused {x : SmMemF} (hp : s.plainAt k gang l (.smld h x) = true) (hw : gang.wip = none) (hfit : ¬Spec.smFit s l x.md) :
    Spec.smRefused s k gang l (.smld h x) := by
  have hbad : ¬(s.issued gang).smFits l (.smld h x) = true := fun hf => hfit ((issued_smFit hp _).1 ((smFits_smld _ l h x).1 hf))
  obtain ⟨t, ht⟩ := begins_faulted (checked_issued hp) hw (smld_begins hp hw (smldBegin_illegal hbad)) (exec_smld h x s)
  exact ⟨t, _, ht⟩

theorem smst_refused {x : SmMemF} (hp : s.plainAt k gang l (.smst h x) = true) (hw : gang.wip = none)
    (hbad : ¬Spec.smFit s l x.md ∨ (s.mat l x.md).rows = 0) : Spec.smRefused s k gang l (.smst h x) := by
  rw [← issued_mat hp, ← issued_smFit hp, ← smFits_smst _ l h] at hbad
  obtain ⟨t, ht⟩ := begins_faulted (checked_issued hp) hw (smst_begins hp hw (smstBegin_illegal hbad)) (exec_smst h x s)
  exact ⟨t, _, ht⟩

end

theorem waitingMemoryWordsBegin : Spec.waitingMemoryWordsBeginRule := by
  intro s s' k gang l h hw s0
  refine ⟨fun x va sp hp ha hpoison => bld_waits hp hw ha hpoison, fun x ps hp hfit hps => smld_waits hp hw hfit hps,
    fun x ps hp hfit hrows hps => smst_waits hp hw hfit hrows hps, fun i f hp hcase => ?_,
    fun x => ⟨fun hp hfit => smld_refused hp hw hfit, fun hp hbad => smst_refused hp hw hbad⟩⟩
  rcases hcase with ⟨x, rfl, ha⟩ | ⟨x, rfl, hfit, hps⟩ | ⟨x, rfl, hfit, hrows, hps⟩
  · exact bld_faults hp hw ha
  · exact smld_faults hp hw hfit hps
  · exact smst_faults hp hw hfit hrows hps

/-! ### Accesses that are there -/

/-- Accesses over and gone, and the counters fallen. -/
structure Dropped (s t : State) : Prop where
  agents : SameAgents s t
  thread : ∀ m, (t.thread m).region = (s.thread m).region ∧ (t.thread m).hold = (s.thread m).hold

theorem Dropped.refl (s : State) : Dropped s s := ⟨⟨rfl, rfl⟩, fun _ => ⟨rfl, rfl⟩⟩

theorem Dropped.trans {s t u : State} (h : Dropped s t) (h' : Dropped t u) : Dropped s u :=
  ⟨⟨h'.agents.1.trans h.agents.1, h'.agents.2.trans h.agents.2⟩,
    fun m => ⟨(h'.thread m).1.trans (h.thread m).1, (h'.thread m).2.trans (h.thread m).2⟩⟩

theorem dropped_modThread (s : State) (l : Lane) (f : Thread → Thread) (h : ∀ th, (f th).region = th.region ∧ (f th).hold = th.hold) :
    Dropped s (s.modThread l f) := by
  refine ⟨⟨rfl, rfl⟩, fun m => ?_⟩
  by_cases hm : m.g = l.g ∧ m.key = l.key
  · have ht : (s.modThread l f).thread? m = (s.thread? m).map f := by
      have e := thread?_modThread_self s l f
      simp only [State.thread?, hm.1, hm.2] at e ⊢
      exact e
    rw [State.thread, ht, State.thread]
    rcases s.thread? m with _ | th
    · exact ⟨rfl, rfl⟩
    · exact h th
  · rw [State.thread, thread?_modThread_ne s l m (by tauto), State.thread]
    exact ⟨rfl, rfl⟩

theorem dropped_foldl {α : Type} (f : State → α → State) (h : ∀ s a, Dropped s (f s a)) (as : List α) (s : State) : Dropped s (as.foldl f s) := by
  induction as generalizing s with
  | nil => exact Dropped.refl s
  | cons a r ih => exact (h s a).trans (ih _)

theorem opDone_dropped (s : State) (id : Nat) : Dropped s (s.opDone id) := by
  unfold State.opDone
  split
  · exact Dropped.refl s
  · rename_i o _
    dsimp only
    have herase : Dropped s { s with ops := s.ops.erase id } := ⟨⟨rfl, rfl⟩, fun _ => ⟨rfl, rfl⟩⟩
    split
    · exact herase
    · refine herase.trans (dropped_foldl _ (fun s l => (dropped_modThread s l _ fun th => ?_).trans (dropped_modThread _ l.shadow _ fun th => ?_)) _ _)
      all_goals split <;> exact ⟨rfl, rfl⟩

theorem wipDrop_dropped (s : State) (w : List Issued) (l : Lane) : Dropped s (s.wipDrop w l) := by
  refine dropped_foldl _ (fun s e => ?_) w s
  split
  · exact opDone_dropped s e.op
  · exact Dropped.refl s

section
variable {s u : State} {k : Nat} {gang : Gang} {l : Lane} {i : Instr} {alu : Bool} {who : List Lane → List Lane}
  {fin : Ctx → List Issued → Lane → State → State} {pend : Pending} {w : List Issued}

/-- A word whose accesses have begun has been issued before. -/
theorem issued_begun (hw : gang.wip = some w) : s.issued gang = s := by
  rw [State.issued, hw]
  rfl

theorem beginning_again {start : Ctx → Lane → State → State} (hp : s.plainAt k gang l i = true) (hw : gang.wip = some w) :
    beginning start who (gang.ctx k) [l] s = s := by
  have hk : s.gang? (gang.ctx k).k = some gang := (standsAt_cases (plainAt_cases hp).1).2.1
  simp only [beginning, State.wip, hk, Option.bind_some, hw]

/-- It stays while an access is under way. -/
theorem stays (hp : s.plainAt k gang l i = true) (hw : gang.wip = some w)
    (hlive : ∃ e ∈ w, ∃ o, s.ops.find? e.op = some o ∧ o.live = true)
    (hbegin : pend (gang.ctx k) [l] s = s) : runWith i alu pend (phased fin who) s = .next s := by
  have hc := checked_issued hp
  rw [issued_begun hw] at hc
  have hck : (gang.ctx k).k = k := rfl
  have hnot : s.wipDone w = false := by
    obtain ⟨e, he, o, ho, hl⟩ := hlive
    rw [State.wipDone, List.all_eq_false]
    exact ⟨e, he, by simp [ho, hl]⟩
  rw [runWith_plain alu _ _ hp, wordStep_plain alu _ _ hp, issued_begun hw]
  simp only [phased, List.isEmpty_cons, Bool.false_eq_true, if_false, State.wip, hck, hc.gang?, Option.bind_some, hw, hnot, stalled, hbegin, ite_self,
    hc.lanesOfGang]

/-- It takes what has arrived. -/
theorem phased_done (hp : s.plainAt k gang l i = true) (hw : gang.wip = some w) (hwho : who [l] = [l]) (ha : Spec.arrived s l w) :
    phased fin who (gang.ctx k) [l] (s.issued gang) = some (fin (gang.ctx k) w l s) := by
  have hc := checked_issued hp
  rw [issued_begun hw] at hc ⊢
  have hck : (gang.ctx k).k = k := rfl
  have hdone : s.wipDone w = true := by
    rw [State.wipDone, List.all_eq_true]
    intro e he
    obtain ⟨-, o, ho, hl, -⟩ := ha e he
    simp [ho, hl]
  simp only [phased, List.isEmpty_cons, Bool.false_eq_true, if_false, State.wip, hck, hc.gang?, Option.bind_some, hw, hdone, if_true, hwho,
    List.foldl_cons, List.foldl_nil, hc.lanesOfGang, List.contains_cons, beq_self_eq_true, Bool.true_or]

/-- And passes. -/
theorem completes (hp : s.plainAt k gang l i = true) (hin : gang.inside = true) (hw : gang.wip = some w) (hwho : who [l] = [l])
    (ha : Spec.arrived s l w) (hfin : fin (gang.ctx k) w l s = u) (hu : SameAgents s u) :
    ∃ t, runWith i alu pend (phased fin who) s = .next t ∧ s.passed u t k gang l i [] := by
  have hgang : s.gang? k = some gang := (standsAt_cases (plainAt_cases hp).1).2.1
  refine runWith_passed hp hin ((phased_done hp hw hwho ha).trans (congrArg some hfin)) rfl hu.2 ?_ fun j _ => by rw [State.gang?, hu.1, State.gang?]
  rw [State.gang?, hu.1]
  exact hgang

/-- No access of the lane has failed. -/
theorem arrived_wipFailed (ha : Spec.arrived s l w) : s.wipFailed w l = none := by
  rw [State.wipFailed, List.findSome?_eq_none_iff]
  intro e he
  obtain ⟨-, o, ho, -, hf⟩ := ha e he
  simp [ho, hf]

/-- What an element's load has read. -/
theorem smGot_eq (ha : Spec.arrived s l w) (e : Nat) : s.smGot w l e =
    ((((w.filterMap fun y => s.ops.find? y.op).find? fun o => o.kind = .smld e ∧ o.got.isSome).bind fun o => o.got).map wordOfBytes).getD 0 := by
  unfold State.smGot
  congr 1
  induction w with
  | nil => rfl
  | cons y r ih =>
    obtain ⟨hl, o, ho, -⟩ := ha y (List.mem_cons_self ..)
    have hr := ih fun e he => ha e (List.mem_cons_of_mem _ he)
    rw [List.findSome?_cons, List.filterMap_cons, ho, List.find?_cons]
    by_cases hk : o.kind = .smld e
    · rcases hg : o.got with _ | bs
      · simpa [hl, hk, hg] using hr
      · simp [hl, hk, hg]
    · simpa [hl, hk] using hr

end

section
variable {s : State} {k : Nat} {gang : Gang} {l : Lane} {h : Head} {w : List Issued}

/-- The record that the accesses of BLD have read. -/
def arrivedRec (os : List MemOp) : BRec := BitVec.ofNat 256 (wordOfBytes (os.map fun o => o.got.getD []).flatten)

theorem bldEnd_eq {c : Ctx} {x : BldF} {o : MemOp} {os : List MemOp} (ha : Spec.arrived s l w)
    (ho : w.map (fun e => s.ops.find? e.op) = (o :: os).map some) :
    s.bldEnd c x w l =
      if recOk (arrivedRec (o :: os)) then
        (s.wipDrop w l).modGroup l.g fun g => { g with b := g.b.set x.bd.val (recLoad (arrivedRec (o :: os))) }
      else (s.wipDrop w l).faultAt c l { cause := .illegalEnc, kind := .load, addr := o.va } := by
  have hown : (w.filter fun e => e.lane == l) = w := List.filter_eq_self.2 fun e he => by simp [(ha e he).1]
  have hus : (w.filterMap fun e => s.ops.find? e.op) = o :: os := by
    have h : (w.map fun e => s.ops.find? e.op).filterMap id = w.filterMap fun e => s.ops.find? e.op := by rw [List.filterMap_map]; rfl
    rw [← h, ho, List.filterMap_map]
    exact List.filterMap_some
  unfold State.bldEnd
  simp only [hown, hus, arrived_wipFailed ha]
  rfl

theorem bld_takes {x : BldF} {o : MemOp} {os : List MemOp} (hp : s.plainAt k gang l (.bld h x) = true) (hw : gang.wip = some w)
    (ha : Spec.arrived s l w) (ho : w.map (fun e => s.ops.find? e.op) = (o :: os).map some) :
    let r := arrivedRec (o :: os)
    (recOk r = true → gang.inside = true →
      ∃ t, exec (.bld h x) s = .next t ∧
        s.passed ((s.wipDrop w l).modGroup l.g fun g => { g with b := g.b.set x.bd.val (recLoad r) }) t k gang l (.bld h x) []) ∧
    (recOk r = false →
      ∃ t, exec (.bld h x) s = .next t ∧
        (((s.issued gang).wipDrop w l).takeFault l (gang.ctx k).w { cause := .illegalEnc, kind := .load, addr := o.va }).leftGang t k l) := by
  intro r
  have hd := wipDrop_dropped s w l
  have hend := bldEnd_eq (c := gang.ctx k) (x := x) ha ho
  refine ⟨fun hr hin => ?_, fun hr => ?_⟩
  · exact completes (who := fun a => (performers a).map Prod.fst) hp hin hw (performers_one l) ha (hend.trans (if_pos hr)) hd.agents
  · have hc := checked_issued hp
    rw [issued_begun hw] at hc ⊢
    have heff := phased_done (fin := fun c w l s => s.bldEnd c x w l) (who := fun a => (performers a).map Prod.fst) hp hw (performers_one l) ha
    rw [hend, if_neg (by rw [hr]; exact Bool.false_ne_true)] at heff
    have hlanes : (s.wipDrop w l).lanesOfGang k = [l] := by
      rw [State.lanesOfGang, State.gang?, hd.agents.1]
      exact hc.lanesOfGang
    obtain ⟨hempty, hhold⟩ := takeFault_left hc.sh ((hd.thread l).1.trans hc.region)
      ((hd.thread l).2.trans (standsAt_hold (plainAt_cases hp).1)) hlanes (gang.ctx k).w { cause := .illegalEnc, kind := .load, addr := o.va }
    exact runWith_left hp heff rfl hempty hhold

theorem smld_takes {x : SmMemF} (hp : s.plainAt k gang l (.smld h x) = true) (hin : gang.inside = true) (hw : gang.wip = some w)
    (ha : Spec.arrived s l w) :
    let m := s.mat l x.md
    let got := fun e => ((w.filterMap fun y => s.ops.find? y.op).find? fun o => o.kind = .smld e ∧ o.got.isSome).bind fun o => o.got
    let r := smResult m.f32 m.rows m.cols fun i j => ((got (i * m.cols + j)).map wordOfBytes).getD 0
    ∃ t, exec (.smld h x) s = .next t ∧ s.passed ((Spec.smLoaded s l x.md r).wipDrop w l) t k gang l (.smld h x) [] := by
  intro m got r
  refine completes hp hin hw rfl ha ?_ (wipDrop_dropped (Spec.smLoaded s l x.md r) w l).agents
  simp only [State.smldEnd, arrived_wipFailed ha, smGot_eq ha]
  rfl

theorem smst_takes {x : SmMemF} (hp : s.plainAt k gang l (.smst h x) = true) (hin : gang.inside = true) (hw : gang.wip = some w)
    (ha : Spec.arrived s l w) : ∃ t, exec (.smst h x) s = .next t ∧ s.passed s t k gang l (.smst h x) [] :=
  completes hp hin hw rfl ha rfl ⟨rfl, rfl⟩

end

theorem waitingMemoryWordsComplete : Spec.waitingMemoryWordsCompleteRule := by
  intro s k gang l h w hw
  refine ⟨fun i hi hp hlive => ?_, fun x o os hp ha ho => bld_takes hp hw ha ho, fun x hp hin ha => smld_takes hp hin hw ha,
    fun x hp hin ha => smst_takes hp hin hw ha⟩
  rcases hi with ⟨x, rfl⟩ | ⟨x, rfl⟩ | ⟨x, rfl⟩
  · rw [exec_bld]
    refine stays hp hw hlive ?_
    rw [bldStart]
    exact beginning_again hp hw
  · rw [exec_smld]
    exact stays hp hw hlive (beginning_again hp hw)
  · rw [exec_smst]
    exact stays hp hw hlive (beginning_again hp hw)

/-- Settles O31: the words begin their accesses or fault, stay while one is under way, and complete with what was read. -/
theorem waitingMemoryWords : Obligations.WaitingMemoryWords :=
  ⟨waitingMemoryWordsBegin, waitingMemoryWordsComplete⟩

end Sys2Proof.WaitingWords
end

section
/-! SUPPORT. The words of matrix registers: their results, scalars and refusals (R35, R215 to R218; O30). -/

namespace Sys2Proof.MatrixWords

open Sys2Proof Sys2Proof.Machine Sys2Proof.Steadiness Sys2Proof.PlainWords Sys2Proof.FaultTaking Sys2Proof.MemoryAccess Sys2Proof.GroupWords
  Sys2Proof.WaitingWords

/-! ### A word that changes its own thread -/

theorem group_alike_modThread {x y : Group} (h : x.alike y) (n : Nat) (f : Thread → Thread) : (x.modThread n f).alike (y.modThread n f) := by
  refine ⟨?_, h.2⟩
  rw [h.1]
  rfl

theorem tended_modThread {s t : State} {l : Lane} (h : Tended s t l.g) (f : Thread → Thread) : Tended (s.modThread l f) (t.modThread l f) l.g := by
  refine ⟨?_, fun g hg => ?_, h.cores, ?_⟩
  · rw [h.fields]
    rfl
  · rw [group?_modThread_ne _ _ hg, group?_modThread_ne _ _ hg, h.others g hg]
  · rw [State.modThread, State.modThread, group?_modGroup_self, group?_modGroup_self]
    have hg := h.group
    revert hg
    rcases s.group? l.g with _ | x <;> rcases t.group? l.g with _ | y <;> intro hg
    · exact .none
    · cases hg
    · cases hg
    · cases hg with
      | some hxy => exact .some (group_alike_modThread hxy _ f)

theorem alike_trans {s t u : State} {g : Nat} (h : Tended s t g) (h' : t.alike u g) : s.alike u g := by
  obtain ⟨hf, ho, hc, hg⟩ := alike_iff.1 h'
  refine alike_iff.2 ⟨?_, fun k hk => (ho k hk).trans (h.others k hk), fun c => (hc c).trans (h.cores c), rel_trans group_alike_trans h.group hg⟩
  have e := h.fields
  rw [hf, e]

section
variable {s v u : State} {k : Nat} {gang : Gang} {l : Lane} {i : Instr} {alu : Bool} {pend : Pending} {eff : Effect}

/-- A plain word that changes its own thread and state of the group's bookkeeping passes. -/
theorem runWith_threads (hp : s.plainAt k gang l i = true) (hin : gang.inside = true) (he : eff (gang.ctx k) [l] (s.issued gang) = some v)
    (hv : SameAgents (s.issued gang) v) (hu : Tended u v l.g) : ∃ t, runWith i alu pend eff s = .next t ∧ s.passed u t k gang l i [] := by
  have hc := checked_issued hp
  obtain ⟨t, hrun, halike, hwent, hkept⟩ := runWith_passed (ops := []) (u := v) (alu := alu) (pend := pend) hp hin he rfl (hv.2.trans hc.cur)
    (by rw [State.gang?, hv.1]; exact hc.gang?) fun j _ => by rw [State.gang?, hv.1, hc.gangs]; rfl
  exact ⟨t, hrun, alike_trans (tended_modThread hu _) halike, hwent, hkept⟩

/-- A plain word that refuses its operands. -/
theorem runWith_refused (hp : s.plainAt k gang l i = true) (he : eff (gang.ctx k) [l] (s.issued gang) = some ((s.issued gang).smIllegal (gang.ctx k) l))
    (hexec : exec i s = runWith i alu pend eff s) : Spec.smRefused s k gang l i := by
  have hc := checked_issued hp
  have hh : ((s.issued gang).thread l).hold = none := by rw [hc.thread, standsAt_hold (plainAt_cases hp).1]
  have hr : ((s.issued gang).thread l).region = none := by rw [hc.thread, hc.region]
  obtain ⟨hempty, hhold⟩ := takeFault_left hc.sh hr hh hc.lanesOfGang (gang.ctx k).w ((s.issued gang).freeFault .illegalEnc)
  rw [State.smIllegal, hc.sh, if_neg Bool.false_ne_true, State.plainFault] at he
  obtain ⟨t, ht⟩ := runWith_left (alu := alu) (pend := pend) hp he (u := (s.issued gang).takeFault l (gang.ctx k).w _) rfl hempty hhold
  exact ⟨t, _, hexec.trans ht.1, ht.2⟩

end

/-! ### Matrix words -/

/-- A word whose operands are registers of matrices alone: when it is legal and what it then does. -/
structure MatrixWord (i : Instr) (ok : State → Lane → Bool) (f : State → Lane → State) : Prop where
  run : ∀ s, exec i s = smWord i ok f s
  legal : ∀ s l, (s.smFits l i && ok s l) = true ↔ Spec.smLegal s l i

section
variable {s : State} {k : Nat} {gang : Gang} {l : Lane} {i : Instr}

theorem issued_smDim (h : s.plainAt k gang l i = true) : (s.issued gang).smDim l = s.smDim l := by
  simp only [State.smDim, quiet_recOf (checked_issued h).issued]

/-- A state with the lane's matrices and modes as another has them. -/
structure SameMats (s t : State) (l : Lane) : Prop where
  mat : ∀ n, t.mat l n = s.mat l n
  dim : t.smDim l = s.smDim l
  mode : ∀ rm, t.smMode l rm = s.smMode l rm
  texp : t.texp l = s.texp l

theorem issued_sameMats (h : s.plainAt k gang l i = true) : SameMats s (s.issued gang) l := by
  have hth := (checked_issued h).thread
  exact ⟨issued_mat h, issued_smDim h, fun rm => by rw [State.smMode, hth, State.smMode], by rw [State.texp, hth, State.texp]⟩

theorem smLegal_same {t : State} (h : SameMats s t l) (i : Instr) : Spec.smLegal t l i ↔ Spec.smLegal s l i := by
  have hfit : ∀ n, Spec.smFit t l n ↔ Spec.smFit s l n := fun n => by rw [Spec.smFit, Spec.smFit, h.mat, h.dim]
  have hagree : Spec.smAgree t l i ↔ Spec.smAgree s l i := by
    unfold Spec.smAgree
    split <;> simp only [h.mat]
  rw [Spec.smLegal, Spec.smLegal, hagree]
  simp only [hfit]

theorem smOutcome_same {t : State} (h : SameMats s t l) (i : Instr) : Spec.smOutcome t l i = Spec.smOutcome s l i := by
  unfold Spec.smOutcome
  split <;> simp only [h.mat, h.mode, h.texp]

end

section
variable {s : State} {k : Nat} {gang : Gang} {l : Lane} {i : Instr} {ok : State → Lane → Bool} {f : State → Lane → State}

theorem MatrixWord.refuses (h : MatrixWord i ok f) (hp : s.plainAt k gang l i = true) (hbad : ¬Spec.smLegal s l i) :
    Spec.smRefused s k gang l i := by
  refine runWith_refused hp ?_ (h.run s)
  rw [eachHeld_one (checked_issued hp).lanesOfGang, if_neg]
  rw [h.legal, smLegal_same (issued_sameMats hp)]
  exact hbad

theorem MatrixWord.acts (h : MatrixWord i ok f) (hp : s.plainAt k gang l i = true) (hin : gang.inside = true) (hok : Spec.smLegal s l i)
    {g : Thread → Thread} (hf : f (s.issued gang) l = (s.issued gang).modThread l g) :
    ∃ t, exec i s = .next t ∧ s.passed (s.modThread l g) t k gang l i [] := by
  obtain ⟨-, -, hl, -⟩ := standsAt_cases (plainAt_cases hp).1
  rw [h.run]
  refine runWith_threads (v := (s.issued gang).modThread l g) hp hin ?_ ⟨rfl, rfl⟩ (tended_modThread (issued_tended s gang l hl) g)
  rw [eachHeld_one (checked_issued hp).lanesOfGang, if_pos]
  · rw [hf]
  · rw [h.legal, smLegal_same (issued_sameMats hp)]
    exact hok

end

/-! ### What the words write -/

/-- The change of a thread in which a matrix word writes its register. -/
def wrote (d : Nat) (md : Fin 8) (m : SMat) (fl : Word) (smf : Option Word) (th : Thread) : Thread :=
  { { th with m := th.m.set md.val (m.reg d) }.raise fl with smf := smf.getD th.smf }

section
variable (s : State) (l : Lane) (md : Fin 8)

theorem smWritten_eq (m : SMat) (fl : Word) (smf : Option Word) : Spec.smWritten s l md m fl smf = s.modThread l (wrote (s.smDim l) md m fl smf) := rfl

theorem putMat_eq (m : SMat) : s.putMat l md m = Spec.smWritten s l md m 0 none := by
  rw [smWritten_eq, State.putMat]
  congr 1
  funext th
  simp [wrote, Thread.raise]

theorem smPut_eq (r : SMat × Word) : s.smPut l md r = Spec.smWritten s l md r.1 r.2 none := by
  rw [State.smPut, State.putMat, modThread_modThread]
  rfl

theorem smPutF_eq (r : SMat × Word × Word) : s.smPutF l md r = Spec.smWritten s l md r.1 r.2.1 (some r.2.2) := by
  rw [State.smPutF, State.putMat, modThread_modThread]
  rfl

end

/-- Fused steps over a list, and over a number of steps. -/
theorem smDot_steps (f : FPar) (rm : RMode) (a b : Nat → Nat) (acc : Nat × Word) (n : Nat) :
    smDot f rm ((List.range n).map fun k => (a k, b k)) acc = Spec.steps f rm a b acc n := by
  induction n with
  | zero => rfl
  | succ n ih =>
    rw [List.range_succ, List.map_append, smDot, List.foldl_append]
    show smDot f rm _ (smDot f rm ((List.range n).map fun k => (a k, b k)) acc) = _
    rw [ih]
    rfl

theorem smMad_eq (rm : RMode) (a b : SMat) (c : Nat → Nat → Nat) : smMad rm a b c =
    smMap a.f32 a.rows b.cols fun i j => Spec.steps a.par rm (a.at i) (fun k => b.at k j) (c i j, 0) a.cols := by
  simp only [smMad, smDot_steps]

/-- A word that writes the result the rules give. -/
theorem MatrixWord.writes {s : State} {k : Nat} {gang : Gang} {l : Lane} {i : Instr} {ok : State → Lane → Bool} {f : State → Lane → State}
    {md : Fin 8} {m : SMat} {fl : Word} {smf : Option Word} (h : MatrixWord i ok f) (hp : s.plainAt k gang l i = true) (hin : gang.inside = true)
    (hok : Spec.smLegal s l i) (ho : Spec.smOutcome s l i = some (m, fl, smf))
    (hf : ∀ t, Spec.smOutcome t l i = some (m, fl, smf) → f t l = Spec.smWritten t l md m fl smf) :
    ∃ t, exec i s = .next t ∧ s.passed (Spec.smWritten s l md m fl smf) t k gang l i [] := by
  refine h.acts hp hin hok ?_
  rw [hf _ ((smOutcome_same (issued_sameMats hp) i).trans ho), smWritten_eq, issued_smDim hp]
  rfl

section
variable (h : Head) (s : State) (l : Lane)

theorem smmov_word (md ma : Fin 8) : MatrixWord (.smmov h md ma) (fun s l => !(s.mat l ma).empty) fun s l =>
    s.modThread l fun th => { th with m := th.m.set md.val (th.m.get MReg.empty ma.val) } := by
  refine ⟨fun _ => rfl, fun s l => ?_⟩
  rw [show s.smFits l (.smmov h md ma) = [ma.val].all (fits s l) from rfl]
  simp [fits_iff, SMat.empty, Spec.smLegal, Spec.smReads, Spec.smAgree]

theorem smtr_word (md ma : Fin 8) : MatrixWord (.smtr h md ma) (fun s l => !(s.mat l ma).empty) fun s l =>
    s.putMat l md (smResult (s.mat l ma).f32 (s.mat l ma).cols (s.mat l ma).rows fun i j => (s.mat l ma).at j i) := by
  refine ⟨fun _ => rfl, fun s l => ?_⟩
  rw [show s.smFits l (.smtr h md ma) = [ma.val].all (fits s l) from rfl]
  simp [fits_iff, SMat.empty, Spec.smLegal, Spec.smReads, Spec.smAgree]

theorem smadd_word (x : Sm2F) : MatrixWord (.smadd h x)
    (fun s l => !(s.mat l x.ma).empty && !(s.mat l x.mb).empty && (s.mat l x.ma).f32 == (s.mat l x.mb).f32 &&
      decide ((s.mat l x.ma).rows = (s.mat l x.mb).rows) && decide ((s.mat l x.ma).cols = (s.mat l x.mb).cols))
    fun s l => s.smPut l x.md (smAdd (s.smMode l x.rm) (s.mat l x.ma) (s.mat l x.mb)) := by
  refine ⟨fun _ => rfl, fun s l => ?_⟩
  rw [show s.smFits l (.smadd h x) = [x.ma.val, x.mb.val].all (fits s l) from rfl]
  simp [fits_iff, SMat.empty, Spec.smLegal, Spec.smReads, Spec.smAgree, Spec.sameShape]
  grind

theorem conform_iff (a b : SMat) : smConform a b = true ↔ a.rows ≠ 0 ∧ b.rows ≠ 0 ∧ a.f32 = b.f32 ∧ a.cols = b.rows := by
  simp [smConform, SMat.empty, and_assoc]

theorem square_iff (n : Fin 8) : s.smSquare l n = true ↔ (s.mat l n).rows ≠ 0 ∧ (s.mat l n).rows = (s.mat l n).cols := by
  simp [State.smSquare, SMat.empty]

theorem smmul_word (x : Sm2F) : MatrixWord (.smmul h x) (fun s l => smConform (s.mat l x.ma) (s.mat l x.mb)) fun s l =>
    s.smPut l x.md (smMad (s.smMode l x.rm) (s.mat l x.ma) (s.mat l x.mb) fun _ _ => 0) := by
  refine ⟨fun _ => rfl, fun s l => ?_⟩
  rw [show s.smFits l (.smmul h x) = [x.ma.val, x.mb.val].all (fits s l) from rfl]
  simp [fits_iff, conform_iff, Spec.smLegal, Spec.smReads, Spec.smAgree]

theorem smmad_word (x : Sm3F) : MatrixWord (.smmad h x)
    (fun s l => smConform (s.mat l x.ma) (s.mat l x.mb) && !(s.mat l x.mc).empty && (s.mat l x.mc).f32 == (s.mat l x.ma).f32 &&
      decide ((s.mat l x.mc).rows = (s.mat l x.ma).rows) && decide ((s.mat l x.mc).cols = (s.mat l x.mb).cols))
    fun s l => s.smPut l x.md (smMad (s.smMode l x.rm) (s.mat l x.ma) (s.mat l x.mb) (s.mat l x.mc).at) := by
  refine ⟨fun _ => rfl, fun s l => ?_⟩
  rw [show s.smFits l (.smmad h x) = [x.ma.val, x.mb.val, x.mc.val].all (fits s l) from rfl]
  simp [fits_iff, conform_iff, SMat.empty, Spec.smLegal, Spec.smReads, Spec.smAgree]
  grind

theorem smchol_word (x : Sm1F) : MatrixWord (.smchol h x) (fun s l => s.smSquare l x.ma) fun s l =>
    s.smPutF l x.md (smChol (s.smMode l x.rm) (s.texp l) (s.mat l x.ma)) := by
  refine ⟨fun _ => rfl, fun s l => ?_⟩
  rw [show s.smFits l (.smchol h x) = [x.ma.val].all (fits s l) from rfl]
  simp [fits_iff, square_iff, Spec.smLegal, Spec.smReads, Spec.smAgree]

theorem smlu_word (x : Sm1F) : MatrixWord (.smlu h x) (fun s l => s.smSquare l x.ma) fun s l =>
    s.smPutF l x.md (smLu (s.smMode l x.rm) (s.texp l) (s.mat l x.ma)) := by
  refine ⟨fun _ => rfl, fun s l => ?_⟩
  rw [show s.smFits l (.smlu h x) = [x.ma.val].all (fits s l) from rfl]
  simp [fits_iff, square_iff, Spec.smLegal, Spec.smReads, Spec.smAgree]

theorem smsolve_word (x : Sm2F) : MatrixWord (.smsolve h x)
    (fun s l => s.smSquare l x.ma && ((s.mat l x.ma).fact == 1 || (s.mat l x.ma).fact == 2) && smConform (s.mat l x.ma) (s.mat l x.mb))
    fun s l => s.smPutF l x.md (smSolve (s.smMode l x.rm) (s.mat l x.ma) (s.mat l x.mb)) := by
  refine ⟨fun _ => rfl, fun s l => ?_⟩
  rw [show s.smFits l (.smsolve h x) = [x.ma.val, x.mb.val].all (fits s l) from rfl]
  simp [fits_iff, square_iff, conform_iff, Spec.smLegal, Spec.smReads, Spec.smAgree]
  grind

end

section
variable {s : State} {k : Nat} {gang : Gang} {l : Lane}

theorem smset_writes {h : Head} {x : SmsetF} (hp : s.plainAt k gang l (.smset h x) = true) (hin : gang.inside = true) :
    ∃ t, exec (.smset h x) s = .next t ∧
      s.passed (Spec.smWritten s l x.md (smResult x.f32 x.rows.val x.cols.val fun _ _ => 0) 0 none) t k gang l (.smset h x) [] := by
  obtain ⟨-, -, hl, -⟩ := standsAt_cases (plainAt_cases hp).1
  refine runWith_threads (alu := true) (pend := fun _ _ s => s)
    (v := Spec.smWritten (s.issued gang) l x.md (smResult x.f32 x.rows.val x.cols.val fun _ _ => 0) 0 none) hp hin ?_ ⟨rfl, rfl⟩ ?_
  · rw [← putMat_eq]
    rfl
  · rw [smWritten_eq, smWritten_eq, issued_smDim hp]
    exact tended_modThread (issued_tended s gang l hl) _

end

/-- Every word with a target writes what the rules give. -/
theorem matrixWord_writes {i : Instr} {s : State} {k : Nat} {gang : Gang} {l : Lane} {md : Fin 8} {m : SMat} {fl : Word} {smf : Option Word}
    (hp : s.plainAt k gang l i = true) (hin : gang.inside = true) (ht : Spec.smTarget i = some md) (hok : Spec.smLegal s l i)
    (ho : Spec.smOutcome s l i = some (m, fl, smf)) :
    ∃ t, exec i s = .next t ∧ s.passed (Spec.smWritten s l md m fl smf) t k gang l i [] := by
  unfold Spec.smTarget at ht
  split at ht
  case h_1 h x =>
    obtain rfl := Option.some.inj ht
    cases ho
    exact smset_writes hp hin
  case h_2 h x =>
    obtain rfl := Option.some.inj ht
    refine (smadd_word h x).writes hp hin hok ho fun t ht => ?_
    cases ht
    exact smPut_eq t l x.md _
  case h_3 h x =>
    obtain rfl := Option.some.inj ht
    refine (smmul_word h x).writes hp hin hok ho fun t ht => ?_
    cases ht
    rw [smPut_eq, smMad_eq]
  case h_4 h x =>
    obtain rfl := Option.some.inj ht
    refine (smsolve_word h x).writes hp hin hok ho fun t ht => ?_
    cases ht
    exact smPutF_eq t l x.md _
  case h_5 h x =>
    obtain rfl := Option.some.inj ht
    refine (smmad_word h x).writes hp hin hok ho fun t ht => ?_
    cases ht
    rw [smPut_eq, smMad_eq]
  case h_6 h x =>
    obtain rfl := Option.some.inj ht
    refine (smchol_word h x).writes hp hin hok ho fun t ht => ?_
    cases ht
    exact smPutF_eq t l x.md _
  case h_7 h x =>
    obtain rfl := Option.some.inj ht
    refine (smlu_word h x).writes hp hin hok ho fun t ht => ?_
    cases ht
    exact smPutF_eq t l x.md _
  case h_8 h md' ma =>
    obtain rfl := Option.some.inj ht
    refine (smtr_word h md' ma).writes hp hin hok ho fun t ht => ?_
    cases ht
    exact putMat_eq t l md' _
  case h_9 => exact nomatch ht

/-- A word with a target, or one that copies a register, refuses operands that are not legal. -/
theorem matrixWord_refuses {i : Instr} {s : State} {k : Nat} {gang : Gang} {l : Lane} (hp : s.plainAt k gang l i = true)
    (hi : (Spec.smTarget i).isSome ∨ ∃ h md ma, i = .smmov h md ma) (hbad : ¬Spec.smLegal s l i) : Spec.smRefused s k gang l i := by
  rcases hi with ht | ⟨h, md, ma, rfl⟩
  · unfold Spec.smTarget at ht
    split at ht
    case h_1 h x => exact absurd ⟨fun n hn => absurd hn List.not_mem_nil, trivial⟩ hbad
    case h_2 h x => exact (smadd_word h x).refuses hp hbad
    case h_3 h x => exact (smmul_word h x).refuses hp hbad
    case h_4 h x => exact (smsolve_word h x).refuses hp hbad
    case h_5 h x => exact (smmad_word h x).refuses hp hbad
    case h_6 h x => exact (smchol_word h x).refuses hp hbad
    case h_7 h x => exact (smlu_word h x).refuses hp hbad
    case h_8 h md ma => exact (smtr_word h md ma).refuses hp hbad
    case h_9 => exact nomatch ht
  · exact (smmov_word h md ma).refuses hp hbad

theorem smallMatrixWords : Spec.smallMatrixWordsRule := by
  intro i s k gang l hp
  refine ⟨fun md m fl smf hin ht hok ho => matrixWord_writes hp hin ht hok ho, fun h md ma hi hin hok => ?_,
    fun hi hbad => matrixWord_refuses hp hi hbad⟩
  subst hi
  exact (smmov_word h md ma).acts hp hin hok rfl

end Sys2Proof.MatrixWords
end

section
/-! SUPPORT. The words of matrix registers with a scalar: SMMOV.get, SMMOV.put, SMSCL (R215; O30). -/

namespace Sys2Proof.MatrixScalars

open Sys2Proof Sys2Proof.Machine Sys2Proof.Steadiness Sys2Proof.PlainWords Sys2Proof.FaultTaking Sys2Proof.MemoryAccess Sys2Proof.GroupWords
  Sys2Proof.WaitingWords Sys2Proof.MatrixWords

/-! ### A word that pops its operands and writes registers of its lane -/

/-- Registers written outside any region. -/
theorem putRegs_eq {s : State} {l : Lane} {th : Thread} (hth : s.thread? l = some th) (hr : th.region = none) (ws : List (Nat × Word)) :
    s.putRegs l ws = s.modGroup l.g (puts l ws) := by
  refine modThread_self _ l fun th' hth' => ?_
  have e : (s.modGroup l.g (puts l ws)).thread? l = some th := by
    rw [← hth, State.thread?, State.thread?, group?_modGroup_self]
    rcases s.group? l.g with _ | g
    · rfl
    · obtain ⟨v, vsh, hv⟩ := puts_keeps l ws g
      rw [Option.map_some, hv]
      rfl
  obtain rfl : th = th' := Option.some.inj (e.symm.trans hth')
  rw [Thread.noteWrite, hr]

section
variable {s : State} {k : Nat} {gang : Gang} {l : Lane} {i : Instr} {vs : List DWord} {th : Thread} {alu : Bool} {pend : Pending} {eff : Effect}

/-- The operands of a thread without a region leave it without one. -/
theorem readSrcs_region (hp : s.plainAt k gang l i = true) {os : List (Src × Bool)} (ho : readSrcs (s.grp l.g) l (s.thread l) os = (.ok vs, th)) :
    th.region = none := by
  rw [readSrcs_keeps (checked_issued hp).region ho]
  exact (checked_issued hp).region

/-- What such a word leaves behind. -/
theorem runWith_puts (hp : s.plainAt k gang l i = true) (hin : gang.inside = true) (hr : th.region = none) (ws : List (Nat × Word))
    (hn : (ws.map Prod.fst).Nodup) (he : eff (gang.ctx k) [l] (s.issued gang) = some (((s.issued gang).modThread l fun _ => th).putRegs l ws)) :
    ∃ t, runWith i alu pend eff s = .next t ∧ (∀ e ∈ ws, t.v l e.1 = e.2) ∧ t.thread? l = some (th.past (gang.ctx k)) ∧ s.wentOn t k gang i ∧
      s.regsKept t l (ws.map Prod.fst) ∧ s.othersKept t l (ws.map Prod.fst) ∧ s.groupKept t l ∧ s.restKept t l := by
  have hc := checked_issued hp
  have hq := hc.issued
  obtain ⟨-, -, -, hsh, -, ⟨th0, hth0⟩, -⟩ := standsAt_cases (plainAt_cases hp).1
  have hth1 : (s.issued gang).thread? l = some th0 := (hq.thread? l).trans hth0
  obtain ⟨x, hx, hxt⟩ : ∃ x, (s.issued gang).group? l.g = some x ∧ x.thread? l.key = some th0 := by
    simpa only [State.thread?, Option.bind_eq_some_iff] using hth1
  have hth : ((s.issued gang).modThread l fun _ => th).thread? l = some th := by rw [thread?_modThread_self, hth1, Option.map_some]
  rw [putRegs_eq hth hr] at he
  have hX : (((s.issued gang).modThread l fun _ => th).modGroup l.g (puts l ws)).group? l.g = some (puts l ws (x.modThread l.key fun _ => th)) := by
    rw [group?_modGroup_self, State.modThread, group?_modGroup_self, hx, Option.map_some, Option.map_some]
  obtain ⟨t, hrun, hwent, hrest, hqg, hthr⟩ := runWith_makes hp hin he rfl hX
    (fun n hn => by rw [group?_modGroup_ne _ hn, group?_modThread_ne _ _ hn]) (Quiet.refl _ _)
  have hxs : (s.issued gang).grp l.g = x := by rw [State.grp, hx, Option.getD_some]
  have hgq := hq.grp
  rw [hxs] at hgq
  obtain ⟨v, vsh, hputs⟩ := puts_keeps l ws (x.modThread l.key fun _ => th)
  have hread : ∀ (m : Lane) n, m.g = l.g → t.v m n = (puts l ws (x.modThread l.key fun _ => th)).readV m n := fun m n hm => by
    simp only [State.v, hm, Group.readV, hqg.val]
    rfl
  have hkeep : ∀ sh n, (x.modThread l.key fun _ => th).vreg sh n = x.vreg sh n := fun _ _ => rfl
  refine ⟨t, hrun, fun e hm => ?_, ?_, hwent, fun n hnot m hm => ?_, fun n hnm m hm hms hmt _ hw _ => ?_, ?_, hrest⟩
  · rw [hread l _ rfl]
    exact puts_self l ws _ hn hm
  · rw [hthr l rfl, hputs]
    simp only [Group.thread?] at hxt
    simp only [Group.thread?, Group.modThread, AMap.find?_modify_self, hxt, Option.map_some]
  · rw [hread m n hm, Group.readV, puts_vreg_other l ws _ _ _ (.inr hnot), hkeep, ← hxs, ← hm]
    exact hc.v m n
  · rw [hread m n hm, Group.readV, hms, ← hsh, puts_other l ws _ n hmt (by rw [← hgq.width] at hw; exact hw), hkeep, ← hxs, hsh, ← hms, ← hm]
    exact hc.v m n
  · have hg : ∀ {α : Type} (p : Group → α), (∀ g v vsh ts, p { g with v := v, vsh := vsh, threads := ts } = p g) →
        p ((puts l ws (x.modThread l.key fun _ => th)).modThread l.key fun th => th.past (gang.ctx k)) = p x := fun p hpk => by
      rw [hputs]
      exact hpk x v vsh _
    refine ⟨?_, ?_, ?_, ?_, ?_, ?_, fun m hm hne => ?_⟩
    · rw [hqg.j, ← hgq.j]
      exact hg Group.j fun _ _ _ _ => rfl
    · rw [hqg.b, ← hgq.b]
      exact hg Group.b fun _ _ _ _ => rfl
    · rw [hqg.scratch, ← hgq.scratch]
      exact hg Group.scratch fun _ _ _ _ => rfl
    · rw [hqg.scratchPoison, ← hgq.scratchPoison]
      exact hg Group.scratchPoison fun _ _ _ _ => rfl
    · rw [hqg.rounds, ← hgq.rounds]
      exact hg Group.rounds fun _ _ _ _ => rfl
    · rw [hqg.slice, ← hgq.slice]
      exact hg Group.slice fun _ _ _ _ => rfl
    · rw [hthr m hm, ← hq.thread? m, hputs]
      simp only [State.thread?, hm, hx, Option.bind_some, Group.thread?, Group.modThread, AMap.find?_modify_ne hne]

end

/-! ### The effects of the three words -/

section
variable (h : Head)

/-- The registers that take an element, and their words. -/
def elementWords (f32 : Bool) (d : Nat) (v : DWord) : List (Nat × Word) := if f32 then [(d, v.lo)] else [(d, v.lo), (d + 1, v.hi)]

theorem elementWords_fst (f32 : Bool) (d : Nat) (v : DWord) : (elementWords f32 d v).map Prod.fst = if f32 then [d] else [d, d + 1] := by
  cases f32 <;> rfl

/-- What SMMOV.get does with its operands. -/
theorem smmovGet_effect (x : SmGetF) : ∃ eff : Effect, (∀ s, exec (.smmovGet h x) s = runWord (.smmovGet h x) true eff s) ∧
    ∀ (s u : State) (c : Ctx) (l : Lane) (a b : DWord), s.lanesOfGang c.k = [l] → ((s.mat l x.ma).f32 = false → s.smBusy l [x.d.val + 1] = false) →
      s.popOperands c (.smmovGet h x) l = .ok ([a, b], u) →
      eff c [l] s = some (if (s.mat l x.ma).rows ≤ a.toNat ∨ (s.mat l x.ma).cols ≤ b.toNat ∨ !s.smFits l (.smmovGet h x) ∨
          (!(s.mat l x.ma).f32 ∧ !s.smPairOk l x.d.val) then s.smIllegal c l
        else u.putRegs l (elementWords (s.mat l x.ma).f32 x.d.val (BitVec.ofNat 64 ((s.mat l x.ma).at a.toNat b.toNat)))) := by
  refine ⟨_, fun _ => rfl, fun s u c l a b hl hbusy hops => ?_⟩
  have hfree : ([l].any fun l => !(s.mat l x.ma).f32 && s.smBusy l [x.d.val + 1]) = false := by
    simp only [List.any_cons, List.any_nil, Bool.or_false]
    cases hf : (s.mat l x.ma).f32
    · exact hbusy hf
    · rfl
  rw [if_neg (by rw [hfree]; exact Bool.false_ne_true), eachHeld_one hl]
  simp only [hops, List.getD_cons_zero, List.getD_cons_succ]
  rfl

/-- What SMMOV.put does with its operands. -/
theorem smmovPut_effect (x : SmPutF) : ∃ eff : Effect, (∀ s, exec (.smmovPut h x) s = runWord (.smmovPut h x) true eff s) ∧
    ∀ (s : State) (c : Ctx) (l : Lane) (v a b : DWord) (th : Thread), s.lanesOfGang c.k = [l] →
      s.smScalarWaits l (s.mat l x.md).f32 x.a [(x.i, false), (x.j, false)] = false →
      readSrcs (s.grp l.g) l (s.thread l) ((x.a, !(s.mat l x.md).f32) :: [(x.i, false), (x.j, false)]) = (.ok [v, a, b], th) →
      eff c [l] s = some (if (s.mat l x.md).rows ≤ a.toNat ∨ (s.mat l x.md).cols ≤ b.toNat ∨ !s.smFits l (.smmovPut h x) ∨
          !s.smScalarOk l (s.mat l x.md).f32 x.a then s.smIllegal c l
        else Spec.smSlot (Spec.smWritten (Spec.smPopped s l th) l x.md
          { s.mat l x.md with fact := 0, perm := 0, e := (s.mat l x.md).e.set (8 * a.toNat + b.toNat) v.toNat } 0 none) l x.md
            (a.toNat * s.smDim l + b.toNat) ((s.thread l).m.get MReg.empty x.md.val)) := by
  refine ⟨_, fun _ => rfl, fun s c l v a b th hl hwait hread => ?_⟩
  have hfree : ([l].any fun l => s.smScalarWaits l (s.mat l x.md).f32 x.a [(x.i, false), (x.j, false)]) = false := by
    simp only [List.any_cons, List.any_nil, Bool.or_false, hwait]
  rw [if_neg (by rw [hfree]; exact Bool.false_ne_true), eachHeld_one hl]
  simp only [State.smOperands, smSources, hread, List.getD_cons_zero, List.getD_cons_succ, putMat_eq]
  rfl

/-- What SMSCL does with its operands. -/
theorem smscl_effect (x : SmsclF) : ∃ eff : Effect, (∀ s, exec (.smscl h x) s = runWord (.smscl h x) true eff s) ∧
    ∀ (s : State) (c : Ctx) (l : Lane) (v : DWord) (th : Thread), s.lanesOfGang c.k = [l] →
      s.smScalarWaits l (s.mat l x.ma).f32 x.e [] = false →
      readSrcs (s.grp l.g) l (s.thread l) [(x.e, !(s.mat l x.ma).f32)] = (.ok [v], th) →
      eff c [l] s = some (if (s.mat l x.ma).empty ∨ !s.smFits l (.smscl h x) ∨ !s.smScalarOk l (s.mat l x.ma).f32 x.e then s.smIllegal c l
        else (Spec.smPopped s l th).smPut l x.md (smScale ((Spec.smPopped s l th).smMode l x.rm) (s.mat l x.ma) v.toNat)) := by
  refine ⟨_, fun _ => rfl, fun s c l v th hl hwait hread => ?_⟩
  have hfree : ([l].any fun l => s.smScalarWaits l (s.mat l x.ma).f32 x.e []) = false := by
    simp only [List.any_cons, List.any_nil, Bool.or_false, hwait]
  rw [if_neg (by rw [hfree]; exact Bool.false_ne_true), eachHeld_one hl]
  simp only [State.smOperands, smSources, hread, List.getD_cons_zero]
  rfl

end

/-! ### What the lane's operands are at the word -/

section
variable {s : State} {k : Nat} {gang : Gang} {l : Lane} {i : Instr} (hp : s.plainAt k gang l i = true)
include hp

theorem issued_readSrcs (os : List (Src × Bool)) : readSrcs ((s.issued gang).grp l.g) l ((s.issued gang).thread l) os =
    readSrcs (s.grp l.g) l (s.thread l) os := by
  have hc := checked_issued hp
  rw [readSrcs_group (g := s.grp l.g) (fun n => by rw [hc.vreg]) _ _, hc.thread]

theorem issued_smBusy (ns : List Nat) : (s.issued gang).smBusy l ns = s.smBusy l ns := by
  rw [State.smBusy, (checked_issued hp).issued.fields, State.smBusy]

theorem issued_smPairOk (n : Nat) : (s.issued gang).smPairOk l n = s.smPairOk l n := by
  rw [State.smPairOk, quiet_recOf (checked_issued hp).issued, State.smPairOk]

theorem issued_smScalarOk (f32 : Bool) (a : Src) : (s.issued gang).smScalarOk l f32 a = s.smScalarOk l f32 a := by
  cases a with
  | v n => simp only [State.smScalarOk, issued_smPairOk hp]
  | q n => rfl
  | zero => rfl

theorem issued_smScalarWaits (f32 : Bool) (a : Src) (rest : List (Src × Bool)) :
    (s.issued gang).smScalarWaits l f32 a rest = s.smScalarWaits l f32 a rest := by
  have hc := checked_issued hp
  simp only [State.smScalarWaits, issued_smBusy hp, hc.thread, hc.issued.grp.slice]

theorem issued_popOperands {vs : List DWord} {th : Thread} (ho : s.operandsOf l i = some (vs, th)) (c : Ctx) :
    (s.issued gang).popOperands c i l = .ok (vs, (s.issued gang).modThread l fun _ => th) := by
  have hread : readSrcs (s.grp l.g) l (s.thread l) (sources i) = (.ok vs, th) := by
    unfold State.operandsOf at ho
    split at ho
    · rename_i heq
      simp only [Option.some.injEq, Prod.mk.injEq] at ho
      rw [heq, ho.1, ho.2]
    · simp at ho
  simp only [State.popOperands, issued_readSrcs hp, hread]

end

/-! ### The rules -/

section
variable {s : State} {k : Nat} {gang : Gang} {l : Lane} {h : Head} {i : Instr} {th : Thread}

theorem fits_smmovGet (s : State) (l : Lane) (h : Head) (x : SmGetF) : s.smFits l (.smmovGet h x) = true ↔ Spec.smFit s l x.ma := by
  rw [← fits_iff, show s.smFits l (.smmovGet h x) = [x.ma.val].all (fits s l) from rfl]
  simp

theorem fits_smmovPut (s : State) (l : Lane) (h : Head) (x : SmPutF) : s.smFits l (.smmovPut h x) = true ↔ Spec.smFit s l x.md := by
  rw [← fits_iff, show s.smFits l (.smmovPut h x) = [x.md.val].all (fits s l) from rfl]
  simp

theorem fits_smscl (s : State) (l : Lane) (h : Head) (x : SmsclF) : s.smFits l (.smscl h x) = true ↔ Spec.smFit s l x.ma := by
  rw [← fits_iff, show s.smFits l (.smscl h x) = [x.ma.val].all (fits s l) from rfl]
  simp

theorem smPairOk_odd {n : Nat} (hn : n % 2 = 1) : s.smPairOk l n = false := by
  simp [State.smPairOk, hn]

theorem smmovGet_rule {x : SmGetF} {a b : DWord} (hp : s.plainAt k gang l (.smmovGet h x) = true) (hin : gang.inside = true)
    (ho : s.operandsOf l (.smmovGet h x) = some ([a, b], th)) (hbusy : (s.mat l x.ma).f32 = false → s.smBusy l [x.d.val + 1] = false) :
    (Spec.smFit s l x.ma → a.toNat < (s.mat l x.ma).rows → b.toNat < (s.mat l x.ma).cols →
        ((s.mat l x.ma).f32 = true ∨ s.smPairOk l x.d.val = true) →
      ∃ t, exec (.smmovGet h x) s = .next t ∧ s.computed t k gang l (.smmovGet h x) (if (s.mat l x.ma).f32 then [x.d.val] else [x.d.val, x.d.val + 1])
        (BitVec.ofNat 64 ((s.mat l x.ma).at a.toNat b.toNat)) th) ∧
    ((s.mat l x.ma).rows ≤ a.toNat ∨ (s.mat l x.ma).cols ≤ b.toNat ∨ ((s.mat l x.ma).f32 = false ∧ x.d.val % 2 = 1) ∨ ¬Spec.smFit s l x.ma →
      Spec.smRefused s k gang l (.smmovGet h x)) := by
  obtain ⟨eff, hrun, heff⟩ := smmovGet_effect h x
  have hc := checked_issued hp
  have he := heff (s.issued gang) _ (gang.ctx k) l a b hc.lanesOfGang (by rw [issued_mat hp, issued_smBusy hp]; exact hbusy)
    (issued_popOperands hp ho _)
  rw [issued_mat hp, issued_smPairOk hp] at he
  refine ⟨fun hfit ha hb hpair => ?_, fun hbad => runWith_refused (alu := true) (pend := fun _ _ s => s) hp (he.trans ?_) (hrun s)⟩
  · rw [if_neg] at he
    · obtain ⟨t, ht, hv, hth, hwent, hregs, hothers, hgroup, hrest⟩ := runWith_puts (alu := true) (pend := fun _ _ s => s) hp hin
        (operandsOf_region hc ho) _ (by rw [elementWords_fst]; cases (s.mat l x.ma).f32 <;> simp) he
      rw [elementWords_fst] at hregs hothers
      refine ⟨t, (hrun s).trans ht, ?_, hth, hwent, hregs, hothers, hgroup, hrest⟩
      revert hv
      unfold elementWords
      cases (s.mat l x.ma).f32
      · exact fun hv => ⟨hv _ (List.mem_cons_self ..), hv _ (List.mem_cons_of_mem _ (List.mem_singleton_self _))⟩
      · exact fun hv => hv _ (List.mem_singleton_self _)
    · have hf := (fits_smmovGet (s.issued gang) l h x).2 ((issued_smFit hp _).2 hfit)
      rw [hf]
      rcases hpair with hpair | hpair <;> simp [hpair] <;> omega
  · rw [if_pos]
    rcases hbad with hbad | hbad | ⟨hf, hodd⟩ | hbad
    · exact .inl hbad
    · exact .inr (.inl hbad)
    · exact .inr (.inr (.inr (by simp [hf, smPairOk_odd hodd])))
    · refine .inr (.inr (.inl ?_))
      rw [Bool.not_eq_true', ← Bool.not_eq_true, fits_smmovGet, issued_smFit hp]
      exact hbad

theorem smDim_modThread (s : State) (m : Lane) (f : Thread → Thread) (l : Lane) : (s.modThread m f).smDim l = s.smDim l := by
  have hrec : (s.modThread m f).recOf l.g = s.recOf l.g := by
    unfold State.recOf
    by_cases hg : l.g = m.g
    · rw [hg, State.modThread, group?_modGroup_self]
      rcases s.group? m.g with _ | x <;> rfl
    · rw [group?_modThread_ne s m hg]
      rfl
  rw [State.smDim, hrec, State.smDim]

theorem smMode_popped {os : List (Src × Bool)} {vs : List DWord} {t : State} (ht : t.thread? l = some (t.thread l)) (hr : (t.thread l).region = none)
    (ho : readSrcs (t.grp l.g) l (t.thread l) os = (.ok vs, th)) (rm : RMode) : (Spec.smPopped t l th).smMode l rm = t.smMode l rm := by
  have hth : (Spec.smPopped t l th).thread l = th := by
    rw [Spec.smPopped, State.thread, thread?_modThread_self, ht]
    rfl
  have hkeep := readSrcs_keeps hr ho
  rw [State.smMode, hth, State.smMode, hkeep]

/-- A result written after the pops, seen from the word. -/
theorem smWritten_tended (hp : s.plainAt k gang l i = true) (th : Thread) (md : Fin 8) (m : SMat) (fl : Word) (smf : Option Word) :
    Tended (Spec.smWritten (Spec.smPopped s l th) l md m fl smf) (Spec.smWritten (Spec.smPopped (s.issued gang) l th) l md m fl smf) l.g := by
  obtain ⟨-, -, hl, -⟩ := standsAt_cases (plainAt_cases hp).1
  rw [smWritten_eq, smWritten_eq, Spec.smPopped, Spec.smPopped, smDim_modThread, smDim_modThread, issued_smDim hp]
  exact tended_modThread (tended_modThread (issued_tended s gang l hl) _) _

theorem smmovPut_rule {x : SmPutF} {v a b : DWord} (hp : s.plainAt k gang l (.smmovPut h x) = true) (hin : gang.inside = true)
    (ho : readSrcs (s.grp l.g) l (s.thread l) ((x.a, !(s.mat l x.md).f32) :: [(x.i, false), (x.j, false)]) = (.ok [v, a, b], th))
    (hwait : s.smScalarWaits l (s.mat l x.md).f32 x.a [(x.i, false), (x.j, false)] = false) :
    (Spec.smFit s l x.md → a.toNat < (s.mat l x.md).rows → b.toNat < (s.mat l x.md).cols → s.smScalarOk l (s.mat l x.md).f32 x.a = true →
      ∃ t, exec (.smmovPut h x) s = .next t ∧
        s.passed (Spec.smSlot (Spec.smWritten (Spec.smPopped s l th) l x.md
            { s.mat l x.md with fact := 0, perm := 0, e := (s.mat l x.md).e.set (8 * a.toNat + b.toNat) v.toNat } 0 none)
          l x.md (a.toNat * s.smDim l + b.toNat) ((s.thread l).m.get MReg.empty x.md.val)) t k gang l (.smmovPut h x) []) ∧
    ((s.mat l x.md).rows ≤ a.toNat ∨ (s.mat l x.md).cols ≤ b.toNat ∨ s.smScalarOk l (s.mat l x.md).f32 x.a = false ∨ ¬Spec.smFit s l x.md →
      Spec.smRefused s k gang l (.smmovPut h x)) := by
  obtain ⟨eff, hrun, heff⟩ := smmovPut_effect h x
  have hc := checked_issued hp
  have he := heff (s.issued gang) (gang.ctx k) l v a b th hc.lanesOfGang (by rw [issued_mat hp, issued_smScalarWaits hp]; exact hwait)
    (by rw [issued_mat hp, issued_readSrcs hp]; exact ho)
  rw [issued_mat hp, issued_smScalarOk hp, issued_smDim hp, hc.thread] at he
  refine ⟨fun hfit ha hb hok => ?_, fun hbad => runWith_refused (alu := true) (pend := fun _ _ s => s) hp (he.trans ?_) (hrun s)⟩
  · rw [if_neg] at he
    · rw [hrun]
      exact runWith_threads hp hin he ⟨rfl, rfl⟩ (tended_modThread (smWritten_tended hp th x.md _ 0 none) _)
    · have hf := (fits_smmovPut (s.issued gang) l h x).2 ((issued_smFit hp _).2 hfit)
      simp [hf, hok]
      omega
  · rw [if_pos]
    rcases hbad with hbad | hbad | hbad | hbad
    · exact .inl hbad
    · exact .inr (.inl hbad)
    · exact .inr (.inr (.inr (by simp [hbad])))
    · refine .inr (.inr (.inl ?_))
      rw [Bool.not_eq_true', ← Bool.not_eq_true, fits_smmovPut, issued_smFit hp]
      exact hbad

theorem smscl_rule {x : SmsclF} {v : DWord} (hp : s.plainAt k gang l (.smscl h x) = true) (hin : gang.inside = true)
    (ho : readSrcs (s.grp l.g) l (s.thread l) [(x.e, !(s.mat l x.ma).f32)] = (.ok [v], th))
    (hwait : s.smScalarWaits l (s.mat l x.ma).f32 x.e [] = false) :
    (Spec.smFit s l x.ma → (s.mat l x.ma).rows ≠ 0 → s.smScalarOk l (s.mat l x.ma).f32 x.e = true →
      let r := smMap (s.mat l x.ma).f32 (s.mat l x.ma).rows (s.mat l x.ma).cols fun i j =>
        fmulBits (s.mat l x.ma).par (s.smMode l x.rm) ((s.mat l x.ma).at i j) v.toNat
      ∃ t, exec (.smscl h x) s = .next t ∧ s.passed (Spec.smWritten (Spec.smPopped s l th) l x.md r.1 r.2 none) t k gang l (.smscl h x) []) ∧
    ((s.mat l x.ma).rows = 0 ∨ s.smScalarOk l (s.mat l x.ma).f32 x.e = false ∨ ¬Spec.smFit s l x.ma → Spec.smRefused s k gang l (.smscl h x)) := by
  obtain ⟨eff, hrun, heff⟩ := smscl_effect h x
  have hc := checked_issued hp
  have ho' : readSrcs ((s.issued gang).grp l.g) l ((s.issued gang).thread l) [(x.e, !(s.mat l x.ma).f32)] = (.ok [v], th) := by
    rw [issued_readSrcs hp]
    exact ho
  have he := heff (s.issued gang) (gang.ctx k) l v th hc.lanesOfGang (by rw [issued_mat hp, issued_smScalarWaits hp]; exact hwait)
    (by rw [issued_mat hp]; exact ho')
  have hthread : (s.issued gang).thread? l = some ((s.issued gang).thread l) := by
    obtain ⟨-, -, -, -, -, ⟨th0, hth0⟩, -⟩ := standsAt_cases (plainAt_cases hp).1
    have e := hc.thread?.trans hth0
    rw [e, thread_of e]
  have hregion : ((s.issued gang).thread l).region = none := by rw [hc.thread, hc.region]
  rw [issued_mat hp, issued_smScalarOk hp, smMode_popped hthread hregion ho', (issued_sameMats hp).mode] at he
  refine ⟨fun hfit hrows hok => ?_, fun hbad => runWith_refused (alu := true) (pend := fun _ _ s => s) hp (he.trans ?_) (hrun s)⟩
  · rw [if_neg] at he
    · rw [hrun]
      rw [smPut_eq] at he
      exact runWith_threads hp hin he ⟨rfl, rfl⟩ (smWritten_tended hp th x.md _ _ none)
    · have hf := (fits_smscl (s.issued gang) l h x).2 ((issued_smFit hp _).2 hfit)
      simp [hf, hok, SMat.empty, hrows]
  · rw [if_pos]
    rcases hbad with hbad | hbad | hbad
    · exact .inl (by simp [SMat.empty, hbad])
    · exact .inr (.inr (by simp [hbad]))
    · refine .inr (.inl ?_)
      rw [Bool.not_eq_true', ← Bool.not_eq_true, fits_smscl, issued_smFit hp]
      exact hbad

end

theorem smallMatrixScalars : Spec.smallMatrixScalarsRule := by
  intro s k gang l h
  exact ⟨fun x a b th hp hin ho hbusy => smmovGet_rule hp hin ho hbusy,
    fun x v a b th hp hin ho hwait => smmovPut_rule hp hin ho hwait,
    fun x v th hp hin ho hwait => smscl_rule hp hin ho hwait⟩

end Sys2Proof.MatrixScalars
end

section
/-! SUPPORT. The recurrences of matrix words: tables of elements, fused steps, and the solution by factors (R216, R218; O30). -/

namespace Sys2Proof.MatrixSteps

open Sys2Proof Sys2Proof.Machine Sys2Proof.MatrixWords

/-! ### Elements of a matrix -/

theorem mem_smCells {r c i j : Nat} : (i, j) ∈ smCells r c ↔ i < r ∧ j < c := by
  simp [smCells]

/-- A table built from a list whose keys tell its entries apart. -/
theorem find?_map_mem {α β : Type} (key : α → Nat) (g : α → β) {xs : List α} {y : α} (hy : y ∈ xs) (hinj : ∀ x ∈ xs, key x = key y → x = y) :
    AMap.find? (xs.map fun x => (key x, g x)) (key y) = some (g y) := by
  induction xs with
  | nil => exact absurd hy List.not_mem_nil
  | cons x r ih =>
    by_cases hx : key x = key y
    · obtain rfl := hinj x (List.mem_cons_self ..) hx
      simp [AMap.find?]
    · have hyr : y ∈ r := (List.mem_cons.1 hy).resolve_left fun h => hx (by rw [h])
      simp only [List.map_cons, AMap.find?]
      rw [if_neg hx]
      exact ih hyr fun z hz => hinj z (List.mem_cons_of_mem _ hz)

theorem get_cells {r c i j : Nat} (f : Nat → Nat → Nat) (hc : c ≤ 8) (hi : i < r) (hj : j < c) :
    AMap.get 0 ((smCells r c).map fun x => (8 * x.1 + x.2, f x.1 x.2)) (8 * i + j) = f i j := by
  rw [AMap.get_eq_find?, find?_map_mem (y := (i, j)) (fun x : Nat × Nat => 8 * x.1 + x.2) (fun x => f x.1 x.2) (mem_smCells.2 ⟨hi, hj⟩) ?_]
  · rfl
  · rintro ⟨i', j'⟩ hx hk
    obtain ⟨-, hj'⟩ := mem_smCells.1 hx
    simp only at hk
    rw [Prod.mk.injEq]
    omega

theorem smResult_at (f32 : Bool) {r c i j : Nat} (f : Nat → Nat → Nat) (hc : c ≤ 8) (hi : i < r) (hj : j < c) : (smResult f32 r c f).at i j = f i j :=
  get_cells f hc hi hj

/-! ### Fused steps -/

section
variable (f : FPar) (rm : RMode)

/-- Steps see the terms below their number, and their sum not the flags. -/
theorem steps_congr {a a' b b' : Nat → Nat} {v : Nat} {w w' : Word} {n : Nat} (ha : ∀ k, k < n → a k = a' k) (hb : ∀ k, k < n → b k = b' k) :
    (Spec.steps f rm a b (v, w) n).1 = (Spec.steps f rm a' b' (v, w') n).1 := by
  induction n with
  | zero => rfl
  | succ n ih =>
    have h := ih (fun k hk => ha k (by omega)) fun k hk => hb k (by omega)
    simp only [Spec.steps, ha n (by omega), hb n (by omega), h]

end

theorem smfWord_ne_zero (e : SmStop) (i : Nat) : smfWord e i ≠ 0 := by
  intro h
  have hbit : ∀ n, (smfWord e i).getLsbD n = false := fun n => by rw [h]; exact BitVec.getLsbD_zero
  cases e
  · simpa [smfWord] using hbit 0
  · simpa [smfWord] using hbit 1
  · simpa [smfWord] using hbit 2
  · simpa [smfWord] using hbit 3

/-! ### Columns of a solution -/

/-- A table filled in the order of a list, each entry from those before it: every entry is what the finished table gives. -/
theorem fold_table {R : Nat → Nat → Prop} {step : AMap Nat × Word → Nat → AMap Nat × Word} {g : (Nat → Nat) → Nat → Nat}
    (hstep : ∀ y i, (step y i).1 = y.1.set i (g (fun k => y.1.get 0 k) i)) (hR : ∀ i, ¬R i i)
    (hdep : ∀ i p q, (∀ k, k ≠ i → ¬R i k → p k = q k) → g p i = g q i) (is : List Nat) (his : is.Pairwise R) (y : AMap Nat × Word) :
    (∀ k, k ∉ is → (is.foldl step y).1.get 0 k = y.1.get 0 k) ∧
    ∀ i ∈ is, (is.foldl step y).1.get 0 i = g (fun k => (is.foldl step y).1.get 0 k) i := by
  induction is generalizing y with
  | nil => exact ⟨fun _ _ => rfl, fun i hi => absurd hi List.not_mem_nil⟩
  | cons i r ih =>
    obtain ⟨hir, hr⟩ := List.pairwise_cons.1 his
    obtain ⟨hout, hin⟩ := ih hr (step y i)
    have hi : i ∉ r := fun h => hR i (hir i h)
    have hkeep : ∀ k, k ∉ i :: r → (r.foldl step (step y i)).1.get 0 k = y.1.get 0 k := fun k hk => by
      rw [List.mem_cons, not_or] at hk
      rw [hout k hk.2, hstep, AMap.get_set_ne hk.1]
    refine ⟨hkeep, fun j hj => ?_⟩
    rcases List.mem_cons.1 hj with rfl | hjr
    · rw [List.foldl_cons, hout j hi, hstep, AMap.get_set_self]
      refine hdep j _ _ fun k hk hR' => (hkeep k fun hm => ?_).symm
      rcases List.mem_cons.1 hm with h | h
      · exact hk h
      · exact hR' (hir k h)
    · exact hin j hjr

section
variable (f : FPar) (rm : RMode) (m b : SMat) (c : Nat)

/-- Where the forward pass of a row starts (R218). -/
def solveStart (i : Nat) : Nat := b.at (if m.fact = 1 then i else natField m.perm (3 * i) 3) c

/-- The factor of the backward pass. -/
def solveUp (i k : Nat) : Nat := if m.fact = 1 then m.at k i else m.at i k

/-- An entry of the forward pass, from those above it. -/
def forward (y : Nat → Nat) (i : Nat) : Nat :=
  let t := (Spec.steps f rm (fun k => negBits f (m.at i k)) y (solveStart m b c i, 0) i).1
  if m.fact = 1 then (fdivBits f rm t (m.at i i)).1 else t

/-- An entry of the backward pass, from those below it. -/
def backward (y x : Nat → Nat) (i : Nat) : Nat :=
  (fdivBits f rm (Spec.steps f rm (fun k => negBits f (solveUp m i (i + 1 + k))) (fun k => x (i + 1 + k)) (y i, 0) (m.rows - i - 1)).1
    (solveUp m i i)).1

/-- A row of the forward pass. -/
def forwardStep (y : AMap Nat × Word) (i : Nat) : AMap Nat × Word :=
  let t := smDot f rm ((List.range i).map fun k => (negBits f (m.at i k), y.1.get 0 k)) (solveStart m b c i, y.2)
  let t := if m.fact = 1 then ((fdivBits f rm t.1 (m.at i i)).1, t.2 ||| (fdivBits f rm t.1 (m.at i i)).2) else t
  (y.1.set i t.1, t.2)

/-- A row of the backward pass. -/
def backwardStep (y : AMap Nat) (x : AMap Nat × Word) (i : Nat) : AMap Nat × Word :=
  let t := smDot f rm ((rangeFrom (i + 1) (m.rows - i - 1)).map fun k => (negBits f (solveUp m i k), x.1.get 0 k)) (y.get 0 i, x.2)
  (x.1.set i (fdivBits f rm t.1 (solveUp m i i)).1, t.2 ||| (fdivBits f rm t.1 (solveUp m i i)).2)

theorem solveCol_eq : solveCol f rm m b c =
    (let y := (List.range m.rows).foldl (forwardStep f rm m b c) ([], 0)
    (List.range m.rows).reverse.foldl (backwardStep f rm m y.1) ([], y.2)) := by
  unfold solveCol forwardStep backwardStep solveStart solveUp
  simp only [decide_eq_true_iff]

theorem forwardStep_fst (y : AMap Nat × Word) (i : Nat) :
    (forwardStep f rm m b c y i).1 = y.1.set i (forward f rm m b c (fun k => y.1.get 0 k) i) := by
  have h := steps_congr f rm (v := solveStart m b c i) (w := y.2) (w' := 0) (n := i) (fun k _ => rfl : ∀ k, k < i → negBits f (m.at i k) = negBits f (m.at i k))
    (fun k _ => rfl : ∀ k, k < i → y.1.get 0 k = y.1.get 0 k)
  unfold forwardStep forward
  simp only [smDot_steps, ← h]
  split <;> rfl

theorem backwardStep_fst (y : AMap Nat) (x : AMap Nat × Word) (i : Nat) :
    (backwardStep f rm m y x i).1 = x.1.set i (backward f rm m (fun k => y.get 0 k) (fun k => x.1.get 0 k) i) := by
  have h := steps_congr f rm (v := y.get 0 i) (w := x.2) (w' := 0) (n := m.rows - i - 1)
    (fun k _ => rfl : ∀ k, k < m.rows - i - 1 → negBits f (solveUp m i (i + 1 + k)) = negBits f (solveUp m i (i + 1 + k)))
    (fun k _ => rfl : ∀ k, k < m.rows - i - 1 → x.1.get 0 (i + 1 + k) = x.1.get 0 (i + 1 + k))
  have hmap : (rangeFrom (i + 1) (m.rows - i - 1)).map (fun k => (negBits f (solveUp m i k), x.1.get 0 k)) =
      (List.range (m.rows - i - 1)).map fun k => (negBits f (solveUp m i (i + 1 + k)), x.1.get 0 (i + 1 + k)) := by
    rw [rangeFrom, List.map_map]
    rfl
  unfold backwardStep backward
  simp only [hmap, smDot_steps, ← h]

theorem forward_congr {p q : Nat → Nat} {i : Nat} (h : ∀ k, k < i → p k = q k) : forward f rm m b c p i = forward f rm m b c q i := by
  unfold forward
  simp only [steps_congr f rm (fun _ _ => rfl) h (w' := 0)]

theorem backward_congr {y p q : Nat → Nat} {i : Nat} (h : ∀ k, i < k → k < m.rows → p k = q k) : backward f rm m y p i = backward f rm m y q i := by
  unfold backward
  simp only [steps_congr f rm (fun _ _ => rfl) (fun k hk => h (i + 1 + k) (by omega) (by omega) : ∀ k, k < m.rows - i - 1 → p (i + 1 + k) = q (i + 1 + k))
    (w' := 0)]

theorem solveCol_passes : ∃ y : Nat → Nat, (∀ i, i < m.rows → y i = forward f rm m b c y i) ∧
    ∀ i, i < m.rows → (solveCol f rm m b c).1.get 0 i = backward f rm m y (fun k => (solveCol f rm m b c).1.get 0 k) i := by
  rw [solveCol_eq]
  refine ⟨fun i => ((List.range m.rows).foldl (forwardStep f rm m b c) ([], 0)).1.get 0 i, fun i hi => ?_, fun i hi => ?_⟩
  · exact (fold_table (R := (· < ·)) (forwardStep_fst f rm m b c) (fun i => lt_irrefl i)
      (fun i p q h => forward_congr f rm m b c fun k hk => h k (by omega) (by omega)) _ List.pairwise_lt_range _).2 i (List.mem_range.2 hi)
  · exact (fold_table (R := fun i j => j < i) (backwardStep_fst f rm m _) (fun i => lt_irrefl i)
      (fun i p q h => backward_congr f rm m fun k hk _ => h k (by omega) (by omega)) _ (List.pairwise_reverse.2 List.pairwise_lt_range) _).2 i
      (by simpa using hi)

end

/-! ### The solution (R218) -/

theorem smSolve_bad {rm : RMode} {m b : SMat} (hb : b.cols ≤ 7) {i : Nat} (hi : i < m.rows)
    (hbad : (unpackF m.par (m.at i i)).isNan = true ∨ (unpackF m.par (m.at i i)).isZero = true) :
    ((smSolve rm m b).1.rows = m.rows ∧ (smSolve rm m b).1.cols = b.cols ∧ (smSolve rm m b).1.fact = 0) ∧
    (∀ i c, i < m.rows → c < b.cols → (smSolve rm m b).1.at i c = m.par.nan) ∧ (smSolve rm m b).2.2 ≠ 0 := by
  obtain ⟨j, hj⟩ : ∃ j, ((List.range m.rows).find? fun i => (unpackF m.par (m.at i i)).isNan || (unpackF m.par (m.at i i)).isZero) = some j := by
    rw [← Option.isSome_iff_exists, List.find?_isSome]
    exact ⟨i, List.mem_range.2 hi, by rwa [Bool.or_eq_true]⟩
  simp only [smSolve, hj]
  exact ⟨⟨rfl, rfl, rfl⟩, fun i c hi hc => smResult_at _ _ (by omega) hi hc, smfWord_ne_zero _ _⟩

theorem smSolve_good {rm : RMode} {m b : SMat} (hb : b.cols ≤ 7)
    (hgood : ∀ i, i < m.rows → ¬((unpackF m.par (m.at i i)).isNan = true ∨ (unpackF m.par (m.at i i)).isZero = true)) :
    ((smSolve rm m b).1.rows = m.rows ∧ (smSolve rm m b).1.cols = b.cols ∧ (smSolve rm m b).1.fact = 0) ∧
    ∀ i c, i < m.rows → c < b.cols → (smSolve rm m b).1.at i c = (solveCol m.par rm m b c).1.get 0 i := by
  have hnone : ((List.range m.rows).find? fun i => (unpackF m.par (m.at i i)).isNan || (unpackF m.par (m.at i i)).isZero) = none := by
    rw [List.find?_eq_none]
    intro i hi
    rw [Bool.or_eq_true]
    exact hgood i (List.mem_range.1 hi)
  simp only [smSolve, hnone]
  refine ⟨⟨rfl, rfl, rfl⟩, fun i c hi hc => (smResult_at _ _ (by omega) hi hc).trans ?_⟩
  simp [List.getD_eq_getElem?_getD, hc]

theorem solveRecurrence : Spec.solveRecurrenceRule := by
  intro rm m b hm hrows hcols hfact f n r bad up
  by_cases hany : ∃ i, i < n ∧ bad i
  · obtain ⟨i, hi, hbad⟩ := hany
    obtain ⟨⟨h1, h2, h3⟩, hnan, hsmf⟩ := smSolve_bad (rm := rm) hcols hi hbad
    exact ⟨h1, h2, h3, fun _ => ⟨hnan, hsmf⟩, fun hgood => absurd hbad (hgood i hi)⟩
  · have hgood : ∀ i, i < n → ¬bad i := fun i hi hb => hany ⟨i, hi, hb⟩
    obtain ⟨⟨h1, h2, h3⟩, hat⟩ := smSolve_good (rm := rm) hcols hgood
    refine ⟨h1, h2, h3, fun h => absurd h hany, fun _ c hc => ?_⟩
    obtain ⟨y, hy, hx⟩ := solveCol_passes f rm m b c
    refine ⟨y, fun i hi => ⟨hy i hi, ?_⟩⟩
    show (smSolve rm m b).1.at i c = _
    rw [hat i c hi hc, hx i hi]
    have hbelow := backward_congr f rm m (y := y) (i := i) (p := fun k => (solveCol f rm m b c).1.get 0 k) (q := fun k => r.at k c)
      fun k hk hkn => (hat k c hkn hc).symm
    exact hbelow

end Sys2Proof.MatrixSteps
end

section
/-! SUPPORT. The LU factorisation (R217; O30): magnitudes, the pivot, the exchange of rows, and a step of elimination. -/

namespace Sys2Proof.MatrixLu

open Sys2Proof Sys2Proof.Machine Sys2Proof.MatrixWords Sys2Proof.MatrixSteps

/-! ### Magnitudes -/

/-- The magnitude of a value that is not NaN, infinity on top. -/
def magnitude : FVal → WithTop ℚ
  | .inf _ => ⊤
  | .fin _ m e => (m * (2 : ℚ) ^ e : ℚ)
  | .nan _ => 0

theorem asInt_scale (m : Nat) {e q : Int} (h : q ≤ e) : ((asInt false m e q : Int) : ℚ) * (2 : ℚ) ^ q = m * (2 : ℚ) ^ e := by
  have he : e = ((e - q).toNat : Int) + q := by omega
  simp only [asInt, Bool.false_eq_true, if_false]
  conv_rhs => rw [he, zpow_add₀ two_ne_zero, zpow_natCast, ← mul_assoc]
  push_cast
  rfl

theorem asInt_lt_iff (m1 m2 : Nat) (e1 e2 : Int) :
    asInt false m1 e1 (min e1 e2) < asInt false m2 e2 (min e1 e2) ↔ (m1 * (2 : ℚ) ^ e1 : ℚ) < m2 * (2 : ℚ) ^ e2 := by
  rw [← asInt_scale m1 (min_le_left e1 e2), ← asInt_scale m2 (min_le_right e1 e2), mul_lt_mul_iff_left₀ (zpow_pos two_pos _), Int.cast_lt]

theorem cmpVal_abs {a b : FVal} (ha : a.abs.isNan = false) (hb : b.abs.isNan = false) :
    (cmpVal a.abs b.abs = .lt ↔ magnitude a < magnitude b) ∧ (cmpVal a.abs b.abs = .gt ↔ magnitude b < magnitude a) := by
  cases a with
  | nan s => exact nomatch ha
  | inf n1 => cases b with
    | nan s => exact nomatch hb
    | inf n2 => simp [cmpVal, FVal.abs, magnitude]
    | fin n2 m2 e2 =>
      have htop : magnitude (.fin n2 m2 e2) < magnitude (.inf n1) := WithTop.coe_lt_top _
      simp [cmpVal, FVal.abs, htop, htop.le]
  | fin n1 m1 e1 => cases b with
    | nan s => exact nomatch hb
    | inf n2 =>
      have htop : magnitude (.fin n1 m1 e1) < magnitude (.inf n2) := WithTop.coe_lt_top _
      simp [cmpVal, FVal.abs, htop, htop.le]
    | fin n2 m2 e2 =>
      simp only [cmpVal, FVal.abs, magnitude, WithTop.coe_lt_coe, ← asInt_lt_iff]
      rw [compare_lt_iff_lt, compare_gt_iff_gt, min_comm e2 e1]
      exact ⟨Iff.rfl, Iff.rfl⟩

/-! ### The pivot -/

/-- A row is the pivot's candidate among those up to a bound: the first of largest magnitude. -/
def Leads (v : Nat → FVal) (j n p : Nat) : Prop :=
  (j ≤ p ∧ p < n) ∧ ∀ i, j ≤ i → i < n → i ≠ p → (v i).abs.isNan = false →
    (v p).abs.isNan = false ∧ cmpVal (v i).abs (v p).abs ≠ .gt ∧ (i < p → cmpVal (v i).abs (v p).abs = .lt)

theorem leads_step {v : Nat → FVal} {j n p : Nat} (h : Leads v j n p) :
    Leads v j (n + 1) (if (v n).abs.isNan then p else if (v p).abs.isNan || cmpVal (v n).abs (v p).abs == .gt then n else p) := by
  obtain ⟨⟨hjp, hpn⟩, hlead⟩ := h
  by_cases hn : (v n).abs.isNan = true
  · rw [if_pos hn]
    refine ⟨⟨hjp, by omega⟩, fun i hi hin hip hv => ?_⟩
    rcases Nat.lt_succ_iff_lt_or_eq.1 hin with h | rfl
    · exact hlead i hi h hip hv
    · exact absurd hn (by simp [hv])
  · rw [if_neg hn]
    rw [Bool.not_eq_true] at hn
    by_cases hp : (v p).abs.isNan = true
    · rw [hp, Bool.true_or, if_pos rfl]
      refine ⟨⟨by omega, by omega⟩, fun i hi hin hne hv => ?_⟩
      by_cases hip : i = p
      · exact absurd hp (by simp [← hip, hv])
      · exact absurd (hlead i hi (by omega) hip hv).1 (by simp [hp])
    · rw [Bool.not_eq_true] at hp
      rw [hp, Bool.false_or]
      by_cases hgt : cmpVal (v n).abs (v p).abs = .gt
      · rw [hgt, if_pos (by rfl)]
        refine ⟨⟨by omega, by omega⟩, fun i hi hin hne hv => ?_⟩
        have hpn' := (cmpVal_abs hn hp).2.1 hgt
        have hlt : magnitude (v i) < magnitude (v n) := by
          by_cases hip : i = p
          · rwa [hip]
          · have hle := (hlead i hi (by omega) hip hv).2.1
            rw [Ne, (cmpVal_abs hv hp).2, not_lt] at hle
            exact lt_of_le_of_lt hle hpn'
        have hc := (cmpVal_abs hv hn).1.2 hlt
        exact ⟨hn, by rw [hc]; decide, fun _ => hc⟩
      · rw [if_neg (by simpa using hgt)]
        refine ⟨⟨hjp, by omega⟩, fun i hi hin hip hv => ?_⟩
        rcases Nat.lt_succ_iff_lt_or_eq.1 hin with h | rfl
        · exact hlead i hi h hip hv
        · exact ⟨hp, hgt, fun h => by omega⟩

theorem pivotRow_leads (f : FPar) {n j : Nat} (s : SmFac) (hj : j < n) : Leads (fun i => unpackF f (s.at i j)) j n (pivotRow f n s j) := by
  have h : ∀ d, Leads (fun i => unpackF f (s.at i j)) j (j + 1 + d) ((rangeFrom (j + 1) d).foldl (fun p i =>
      let v := (unpackF f (s.at i j)).abs
      let b := (unpackF f (s.at p j)).abs
      if v.isNan then p else if b.isNan || cmpVal v b == .gt then i else p) j) := by
    intro d
    induction d with
    | zero =>
      have hself : Leads (fun i => unpackF f (s.at i j)) j (j + 1) j := ⟨⟨le_rfl, by omega⟩, fun i hi hin hne => by omega⟩
      exact hself
    | succ d ih =>
      rw [rangeFrom, List.range_succ, List.map_append, List.foldl_append]
      exact leads_step ih
  have e : j + 1 + (n - j - 1) = n := by omega
  have := h (n - j - 1)
  rwa [e] at this

/-! ### The exchange of rows -/

/-- The exchange of two rows. -/
def swapped (p j i : Nat) : Nat := if i = j then p else if i = p then j else i

theorem swapped_lt {p j i n : Nat} (hp : p < n) (hj : j < n) (hi : i < n) : swapped p j i < n := by
  unfold swapped
  split
  · exact hp
  · split
    · exact hj
    · exact hi

theorem swapped_swapped (p j i : Nat) : swapped p j (swapped p j i) = i := by
  unfold swapped
  split_ifs <;> omega

theorem swapped_below {p j i : Nat} (hp : j ≤ p) (hi : i < j) : swapped p j i = i := by
  unfold swapped
  split_ifs <;> omega

theorem swapped_above {p j i : Nat} (hp : j ≤ p) (hi : j ≤ i) : j ≤ swapped p j i := by
  unfold swapped
  split_ifs <;> omega

theorem swapped_self (p j : Nat) : swapped p j j = p := if_pos rfl

theorem rowOrder_succ (q : Nat → Nat) (j i : Nat) : Spec.rowOrder q (j + 1) i = Spec.rowOrder q j (swapped (q j) j i) := rfl

theorem rowOrder_lt {q : Nat → Nat} {n : Nat} : ∀ {j i : Nat}, (∀ k, k < j → q k < n) → j ≤ n → i < n → Spec.rowOrder q j i < n
  | 0, _, _, _, hi => hi
  | j + 1, _, hq, hj, hi => by
    rw [rowOrder_succ]
    exact rowOrder_lt (fun k hk => hq k (by omega)) (by omega) (swapped_lt (hq j (by omega)) hj hi)

theorem rowOrder_injective {q : Nat → Nat} {n : Nat} : ∀ {j i i' : Nat}, (∀ k, k < j → q k < n) → j ≤ n → i < n → i' < n →
    Spec.rowOrder q j i = Spec.rowOrder q j i' → i = i'
  | 0, _, _, _, _, _, _, h => h
  | j + 1, i, i', hq, hj, hi, hi', h => by
    rw [rowOrder_succ, rowOrder_succ] at h
    have hlt := fun {x} (hx : x < n) => swapped_lt (hq j (by omega)) hj hx
    have e := rowOrder_injective (fun k hk => hq k (by omega)) (by omega) (hlt hi) (hlt hi') h
    rw [← swapped_swapped (q j) j i, e, swapped_swapped]

section
variable (s : SmFac) {n p j : Nat}

theorem swap_at (hn : n ≤ 7) {i k : Nat} (hi : i < n) (hk : k < n) : (s.swap n p j).at i k = s.at (swapped p j i) k := by
  refine (get_cells (fun i k => if i = j then s.at p k else if i = p then s.at j k else s.at i k) (by omega) hi hk).trans ?_
  unfold swapped
  split_ifs <;> rfl

theorem swap_perm (hlen : s.perm.length = n) (hp : p < n) (hj : j < n) : (s.swap n p j).perm.length = n ∧
    ∀ i, i < n → (s.swap n p j).perm.getD i 0 = s.perm.getD (swapped p j i) 0 := by
  refine ⟨by simp [SmFac.swap, hlen], fun i hi => ?_⟩
  simp only [SmFac.swap, List.getD_eq_getElem?_getD]
  by_cases hip : p = i
  · have hv : swapped p j i = j := by unfold swapped; split_ifs <;> omega
    rw [hv, ← hip, List.getElem?_set_self (by rw [List.length_set, hlen]; exact hp)]
    rfl
  · rw [List.getElem?_set_ne hip]
    by_cases hij : j = i
    · have hv : swapped p j i = p := if_pos hij.symm
      rw [hv, ← hij, List.getElem?_set_self (by rw [hlen]; exact hj)]
      rfl
    · have hv : swapped p j i = i := by unfold swapped; split_ifs <;> omega
      rw [hv, List.getElem?_set_ne hij]

theorem swap_stop : (s.swap n p j).stop = s.stop := rfl

end

/-! ### Elimination -/

theorem put_at_self (s : SmFac) (i k : Nat) (v : Nat × Word) : (s.put i k v).at i k = v.1 := AMap.get_set_self ..

theorem put_at_ne (s : SmFac) {i k i' k' : Nat} (v : Nat × Word) (hk : k ≤ 7) (hk' : k' ≤ 7) (h : i' ≠ i ∨ k' ≠ k) :
    (s.put i k v).at i' k' = s.at i' k' := AMap.get_set_ne (by omega) ..

section
variable (f : FPar) (rm : RMode) (n j : Nat) (v : Nat)

/-- The rest of a row below the pivot. -/
def elimRow (s : SmFac) (i : Nat) : SmFac :=
  let q := fdivBits f rm (s.at i j) v
  (rangeFrom (j + 1) (n - j - 1)).foldl (fun s k => s.put i k (ffmaBits f rm (negBits f q.1) (s.at j k) (s.at i k))) (s.put i j q)

/-- What an element of it becomes. -/
def elimAt (s : SmFac) (i k : Nat) : Nat :=
  let q := (fdivBits f rm (s.at i j) v).1
  if k < j then s.at i k else if k = j then q else (ffmaBits f rm (negBits f q) (s.at j k) (s.at i k)).1

theorem luCol_eq (tiny : FVal) (s : SmFac) : luCol f rm n tiny s j =
    if s.stop.isSome then s
    else
      let u := s.swap n (pivotRow f n s j) j
      match pivotStop false tiny (unpackF f (u.at j j)) with
      | some e => { u with stop := some (e, j) }
      | none => (rangeFrom (j + 1) (n - j - 1)).foldl (elimRow f rm n j (u.at j j)) u := by
  unfold luCol elimRow
  split <;> rfl

/-- What elimination leaves alone. -/
def SameOrder (s t : SmFac) : Prop := t.perm = s.perm ∧ t.stop = s.stop

theorem elimTerms_at (c i : Nat) (ks : List Nat) (hks : ks.Nodup) (h7 : ∀ k ∈ ks, k ≤ 7) (u : SmFac) :
    SameOrder u (ks.foldl (fun s k => s.put i k (ffmaBits f rm c (s.at j k) (s.at i k))) u) ∧
    ∀ i' k', k' ≤ 7 → (ks.foldl (fun s k => s.put i k (ffmaBits f rm c (s.at j k) (s.at i k))) u).at i' k' =
      if i' = i ∧ k' ∈ ks then (ffmaBits f rm c (u.at j k') (u.at i k')).1 else u.at i' k' := by
  induction ks generalizing u with
  | nil => exact ⟨⟨rfl, rfl⟩, fun i' k' _ => by simp⟩
  | cons k r ih =>
    obtain ⟨hkr, hr⟩ := List.nodup_cons.1 hks
    have hk := h7 k (List.mem_cons_self ..)
    obtain ⟨hsame, hat⟩ := ih hr (fun x hx => h7 x (List.mem_cons_of_mem _ hx)) (u.put i k (ffmaBits f rm c (u.at j k) (u.at i k)))
    refine ⟨hsame, fun i' k' hk' => ?_⟩
    rw [List.foldl_cons, hat i' k' hk']
    by_cases hii : i' = i
    · by_cases hkk : k' = k
      · rw [hii, hkk, if_neg (fun h => hkr h.2), if_pos ⟨rfl, List.mem_cons_self ..⟩, put_at_self]
      · rw [hii, put_at_ne u _ hk hk' (.inr hkk : j ≠ i ∨ k' ≠ k), put_at_ne u _ hk hk' (.inr hkk : i ≠ i ∨ k' ≠ k)]
        simp [hkk]
    · rw [if_neg (fun h => hii h.1), if_neg (fun h => hii h.1), put_at_ne u _ hk hk' (.inl hii)]

variable (hn : n ≤ 7) (hj : j < n)
include hn hj

theorem elimRow_at (s : SmFac) {i : Nat} (hi : i ≠ j) : SameOrder s (elimRow f rm n j v s i) ∧
    ∀ i' k', k' < n → (elimRow f rm n j v s i).at i' k' = if i' = i then elimAt f rm j v s i k' else s.at i' k' := by
  have hmem : ∀ k, k ∈ rangeFrom (j + 1) (n - j - 1) ↔ j < k ∧ k < n := fun k => by
    simp only [rangeFrom, List.mem_map, List.mem_range]
    exact ⟨fun ⟨d, hd, e⟩ => by omega, fun h => ⟨k - (j + 1), by omega, by omega⟩⟩
  have hnodup : (rangeFrom (j + 1) (n - j - 1)).Nodup := List.nodup_range.map fun a b h => by simpa using h
  obtain ⟨hsame, hat⟩ := elimTerms_at f rm j (negBits f (fdivBits f rm (s.at i j) v).1) i _ hnodup
    (fun k hk => by have := (hmem k).1 hk; omega) (s.put i j (fdivBits f rm (s.at i j) v))
  refine ⟨hsame, fun i' k' hk' => ?_⟩
  rw [elimRow, hat i' k' (by omega)]
  by_cases hii : i' = i
  · rw [if_pos hii, hii]
    simp only [true_and, hmem, elimAt]
    by_cases hlt : k' < j
    · rw [if_neg (by omega), if_pos hlt, put_at_ne s _ (by omega) (by omega) (.inr (by omega))]
    · by_cases heq : k' = j
      · rw [if_neg (by omega), if_neg hlt, if_pos heq, heq, put_at_self]
      · rw [if_pos (by omega), if_neg hlt, if_neg heq, put_at_ne s _ (by omega) (by omega) (.inl (Ne.symm hi)),
          put_at_ne s _ (by omega) (by omega) (.inr heq)]
  · rw [if_neg (fun h => hii h.1), if_neg hii, put_at_ne s _ (by omega) (by omega) (.inl hii)]

theorem elimRows_at (is : List Nat) (his : is.Nodup) (hne : ∀ i ∈ is, i ≠ j) (s : SmFac) :
    SameOrder s (is.foldl (elimRow f rm n j v) s) ∧
    ∀ i' k', k' < n → (is.foldl (elimRow f rm n j v) s).at i' k' = if i' ∈ is then elimAt f rm j v s i' k' else s.at i' k' := by
  induction is generalizing s with
  | nil => exact ⟨⟨rfl, rfl⟩, fun i' k' _ => by simp⟩
  | cons i r ih =>
    obtain ⟨hir, hr⟩ := List.nodup_cons.1 his
    have hij := hne i (List.mem_cons_self ..)
    obtain ⟨⟨hp1, hs1⟩, hat1⟩ := elimRow_at f rm n j v hn hj s hij
    obtain ⟨⟨hp2, hs2⟩, hat2⟩ := ih hr (fun x hx => hne x (List.mem_cons_of_mem _ hx)) (elimRow f rm n j v s i)
    refine ⟨⟨hp2.trans hp1, hs2.trans hs1⟩, fun i' k' hk' => ?_⟩
    rw [List.foldl_cons, hat2 i' k' hk', hat1 i' k' hk']
    by_cases hii : i' = i
    · rw [hii, if_neg hir, if_pos rfl, if_pos (List.mem_cons_self ..)]
    · have hrow : elimAt f rm j v (elimRow f rm n j v s i) i' k' = elimAt f rm j v s i' k' := by
        unfold elimAt
        rw [hat1 i' k' hk', hat1 i' j hj, hat1 j k' hk', if_neg hii, if_neg hii, if_neg (Ne.symm hij)]
      rw [hrow, if_neg hii]
      simp [hii]

/-- A step that is not stopped: the pivot's row is exchanged into its place and the rows below it are eliminated. -/
theorem luCol_at {tiny : FVal} {s : SmFac} (hs : s.stop = none) (hgo : (luCol f rm n tiny s j).stop = none) (hlen : s.perm.length = n) :
    let p := pivotRow f n s j
    let t := luCol f rm n tiny s j
    pivotStop false tiny (unpackF f (s.at p j)) = none ∧ t.perm.length = n ∧
    (∀ i, i < n → t.perm.getD i 0 = s.perm.getD (swapped p j i) 0) ∧
    ∀ i k, i < n → k < n → t.at i k = if j < i then elimAt f rm j (s.at p j) (s.swap n p j) i k else s.at (swapped p j i) k := by
  intro p t
  obtain ⟨⟨hjp, hpn⟩, -⟩ := pivotRow_leads f s hj
  have hpiv : (s.swap n p j).at j j = s.at p j := by rw [swap_at s hn hj hj, swapped_self]
  have hmem : ∀ i, i ∈ rangeFrom (j + 1) (n - j - 1) ↔ j < i ∧ i < n := fun k => by
    simp only [rangeFrom, List.mem_map, List.mem_range]
    exact ⟨fun ⟨d, hd, e⟩ => by omega, fun h => ⟨k - (j + 1), by omega, by omega⟩⟩
  have hnodup : (rangeFrom (j + 1) (n - j - 1)).Nodup := List.nodup_range.map fun a b h => by simpa using h
  have heq := luCol_eq f rm n j tiny s
  rw [hs, if_neg (by simp)] at heq
  dsimp only at heq
  rw [show pivotRow f n s j = p from rfl, hpiv] at heq
  split at heq
  · rw [heq] at hgo
    exact nomatch hgo
  · rename_i hnone
    obtain ⟨⟨hperm, -⟩, hat⟩ := elimRows_at f rm n j (s.at p j) hn hj _ hnodup (fun i hi => by have := (hmem i).1 hi; omega) (s.swap n p j)
    obtain ⟨hl, hp⟩ := swap_perm s hlen hpn hj
    rw [← heq] at hperm hat
    refine ⟨hnone, by rw [show t.perm = _ from hperm]; exact hl, fun i hi => by rw [show t.perm = _ from hperm]; exact hp i hi, fun i k hi hk => ?_⟩
    rw [hat i k hk]
    by_cases hij : j < i
    · rw [if_pos ((hmem i).2 ⟨hij, hi⟩), if_pos hij]
    · rw [if_neg (fun h => hij ((hmem i).1 h).1), if_neg hij, swap_at s hn hi hk]

end

/-! ### The factorisation, step by step -/

section
variable (f : FPar) (rm : RMode) (a : SMat)

/-- What is left at an entry of a row that began as row `o` after some fused steps. -/
def left (s : SmFac) (o i c m : Nat) : Nat := (Spec.steps f rm (fun k => negBits f (s.at i k)) (fun k => s.at k c) (a.at o c, 0) m).1

theorem left_congr {s t : SmFac} {o i i' c m : Nat} (hrow : ∀ k, k < m → t.at i k = s.at i' k) (hcol : ∀ k, k < m → t.at k c = s.at k c) :
    left f rm a t o i c m = left f rm a s o i' c m :=
  steps_congr f rm (fun k hk => by rw [hrow k hk]) hcol

theorem left_succ (s : SmFac) (o i c m : Nat) :
    left f rm a s o i c (m + 1) = (ffmaBits f rm (negBits f (s.at i m)) (s.at m c) (left f rm a s o i c m)).1 := rfl

/-- Is row `q j` a pivot for step `j`, over the rows that stood at or below it? -/
structure Pivot (q : Nat → Nat) (n : Nat) (tiny : FVal) (s : SmFac) (steps j : Nat) : Prop where
  place : j ≤ q j ∧ q j < n
  goes : pivotStop false tiny (unpackF f (s.at j j)) = none
  largest : ∀ i x, j ≤ i → i < n → i ≠ q j → x < n → Spec.rowOrder q steps x = Spec.rowOrder q j i →
    (unpackF f (left f rm a s (Spec.rowOrder q steps x) x j j)).abs.isNan = false →
    cmpVal (unpackF f (left f rm a s (Spec.rowOrder q steps x) x j j)).abs (unpackF f (s.at j j)).abs ≠ .gt ∧
    (i < q j → cmpVal (unpackF f (left f rm a s (Spec.rowOrder q steps x) x j j)).abs (unpackF f (s.at j j)).abs = .lt)

/-- The factorisation after its first `j` steps. -/
structure Factored (q : Nat → Nat) (n : Nat) (tiny : FVal) (s : SmFac) (j : Nat) : Prop where
  length : s.perm.length = n
  perm : ∀ i, i < n → s.perm.getD i 0 = Spec.rowOrder q j i
  value : ∀ i c, i < n → c < n → s.at i c =
    if c < i ∧ c < j then (fdivBits f rm (left f rm a s (Spec.rowOrder q j i) i c c) (s.at c c)).1 else left f rm a s (Spec.rowOrder q j i) i c (min j i)
  pivots : ∀ k, k < j → Pivot f rm a q n tiny s j k

/-- A step of elimination, entry by entry. -/
structure Eliminated (n p j : Nat) (s t : SmFac) : Prop where
  kept : ∀ i k, i < n → k < n → k < j ∨ i ≤ j → t.at i k = s.at (swapped p j i) k
  factor : ∀ i, i < n → j < i → t.at i j = (fdivBits f rm (s.at (swapped p j i) j) (t.at j j)).1
  rest : ∀ i k, i < n → k < n → j < i → j < k → t.at i k = (ffmaBits f rm (negBits f (t.at i j)) (t.at j k) (s.at (swapped p j i) k)).1

theorem eliminated_of_at {n p j : Nat} {s t : SmFac} (hn : n ≤ 7) (hj : j < n)
    (h : ∀ i k, i < n → k < n → t.at i k = if j < i then elimAt f rm j (s.at p j) (s.swap n p j) i k else s.at (swapped p j i) k) :
    Eliminated f rm n p j s t := by
  have hjj : t.at j j = s.at p j := by rw [h j j hj hj, if_neg (lt_irrefl j), swapped_self]
  have hfac : ∀ i, i < n → j < i → t.at i j = (fdivBits f rm (s.at (swapped p j i) j) (t.at j j)).1 := fun i hi hij => by
    rw [h i j hi hj, if_pos hij, elimAt, if_neg (lt_irrefl j), if_pos rfl, swap_at s hn hi hj, hjj]
  refine ⟨fun i k hi hk hor => ?_, hfac, fun i k hi hk hij hjk => ?_⟩
  · rw [h i k hi hk]
    split
    · rw [elimAt, if_pos (by omega), swap_at s hn hi hk]
    · rfl
  · rw [h i k hi hk, if_pos hij, elimAt, if_neg (by omega), if_neg (by omega), hfac i hi hij, hjj, h j k hj hk, if_neg (lt_irrefl j),
      swap_at s hn hi hk, swap_at s hn hi hj, swap_at s hn hj hk]

section
variable {q : Nat → Nat} {n j : Nat} {tiny : FVal} {s t : SmFac} (hf : Factored f rm a q n tiny s j) (he : Eliminated f rm n (q j) j s t)
  (hj : j < n) (hq : j ≤ q j ∧ q j < n)
include he hq

/-- The first steps at an entry see what they saw before. -/
theorem left_kept {o i c m : Nat} (hi : i < n) (hc : c < n) (hm : m ≤ j) : left f rm a t o i c m = left f rm a s o (swapped (q j) j i) c m :=
  left_congr f rm a (fun k hk => he.kept i k hi (by omega) (.inl (by omega)))
    fun k hk => by rw [he.kept k c (by omega) hc (.inr (by omega)), swapped_below hq.1 (by omega)]

theorem kept_above {i c : Nat} (hi : i < j) (hc : c < n) : t.at i c = s.at i c := by
  rw [he.kept i c (by omega) hc (.inr (by omega)), swapped_below hq.1 hi]

include hf hj

theorem factored_value {i c : Nat} (hi : i < n) (hc : c < n) : t.at i c =
    if c < i ∧ c < j + 1 then (fdivBits f rm (left f rm a t (Spec.rowOrder q (j + 1) i) i c c) (t.at c c)).1
    else left f rm a t (Spec.rowOrder q (j + 1) i) i c (min (j + 1) i) := by
  have hs := hf.value (swapped (q j) j i) c (swapped_lt hq.2 hj hi) hc
  rw [← rowOrder_succ] at hs
  generalize Spec.rowOrder q (j + 1) i = o at hs
  have hleft : ∀ m, m ≤ j → left f rm a t o i c m = left f rm a s o (swapped (q j) j i) c m := fun m hm => left_kept f rm a he hq hi hc hm
  rcases lt_or_ge i j with hij | hij
  · have hsw : swapped (q j) j i = i := swapped_below hq.1 hij
    rw [hsw] at hs hleft
    rw [kept_above f rm he hq hij hc, hs]
    by_cases hci : c < i
    · rw [if_pos ⟨hci, by omega⟩, if_pos ⟨hci, by omega⟩, hleft c (by omega), kept_above f rm he hq (by omega) hc]
    · rw [if_neg (fun h => hci h.1), if_neg (fun h => hci h.1), hleft _ (by omega), show min j i = min (j + 1) i by omega]
  · have hsw : j ≤ swapped (q j) j i := swapped_above hq.1 hij
    rcases lt_or_ge c j with hcj | hcj
    · rw [he.kept i c hi hc (.inl hcj), hs, if_pos ⟨by omega, hcj⟩, if_pos ⟨by omega, by omega⟩, hleft c (by omega), kept_above f rm he hq hcj hc]
    · rw [if_neg (by omega), show min j (swapped (q j) j i) = j by omega, ← hleft j le_rfl] at hs
      rcases eq_or_lt_of_le hij with rfl | hlt
      · rw [if_neg (by omega), he.kept j c hi hc (.inr le_rfl), hs, show min (j + 1) j = j by omega]
      · rcases eq_or_lt_of_le hcj with rfl | hclt
        · rw [if_pos ⟨hlt, by omega⟩, he.factor i hi hlt, hs]
        · rw [if_neg (by omega), show min (j + 1) i = j + 1 by omega, left_succ, ← hs, he.rest i c hi hc hlt hclt]

/-- A pivot of an earlier step stays one. -/
theorem pivot_kept {k : Nat} (hk : k < j) : Pivot f rm a q n tiny t (j + 1) k := by
  obtain ⟨hplace, hgoes, hlarge⟩ := hf.pivots k hk
  have hkk := kept_above f rm he hq hk (show k < n by omega)
  refine ⟨hplace, by rw [hkk]; exact hgoes, fun i x hi hin hne hx hrow => ?_⟩
  rw [rowOrder_succ] at hrow ⊢
  rw [left_kept f rm a he hq hx (by omega) (by omega), hkk]
  exact hlarge i _ hi hin hne (swapped_lt hq.2 hj hx) hrow

/-- The pivot of the step. -/
theorem pivot_new (hqn : ∀ k, k < j → q k < n) (hgo : pivotStop false tiny (unpackF f (s.at (q j) j)) = none)
    (hlead : Leads (fun i => unpackF f (s.at i j)) j n (q j)) : Pivot f rm a q n tiny t (j + 1) j := by
  have hjj : t.at j j = s.at (q j) j := by rw [he.kept j j hj hj (.inr le_rfl), swapped_self]
  refine ⟨hq, by rw [hjj]; exact hgo, fun i x hi hin hne hx hrow => ?_⟩
  have hsx : swapped (q j) j x = i :=
    rowOrder_injective hqn hj.le (swapped_lt hq.2 hj hx) hin hrow
  have hval := hf.value i j hin hj
  rw [if_neg (by omega), show min j i = j by omega] at hval
  rw [hrow, left_kept f rm a he hq hx hj le_rfl, hsx, ← hval, hjj]
  exact fun hv => (hlead.2 i hi hin hne hv).2

end

/-! ### All steps -/

section
variable (n : Nat) (tiny : FVal)

/-- The factorisation on its way after `j` steps. -/
def luAfter (j : Nat) : SmFac := (List.range j).foldl (luCol f rm n tiny) { w := a.e, perm := List.range n, fl := 0, stop := none }

/-- The row exchanged at a step. -/
def luPivot (j : Nat) : Nat := pivotRow f n (luAfter f rm a n tiny j) j

theorem luAfter_succ (j : Nat) : luAfter f rm a n tiny (j + 1) = luCol f rm n tiny (luAfter f rm a n tiny j) j := by
  rw [luAfter, List.range_succ, List.foldl_append, ← luAfter]
  rfl

/-- What has stopped stays stopped. -/
theorem luAfter_stop {j : Nat} (h : (luAfter f rm a n tiny (j + 1)).stop = none) : (luAfter f rm a n tiny j).stop = none := by
  by_contra hne
  rw [luAfter_succ, luCol_eq, if_pos (Option.isSome_iff_ne_none.2 hne)] at h
  exact hne h

theorem luAfter_factored (hn : n ≤ 7) : ∀ j, j ≤ n → (luAfter f rm a n tiny j).stop = none →
    Factored f rm a (luPivot f rm a n tiny) n tiny (luAfter f rm a n tiny j) j
  | 0, _, _ => by
    refine ⟨List.length_range, fun i hi => ?_, fun i c _ _ => ?_, fun k hk => absurd hk (Nat.not_lt_zero k)⟩
    · simp [luAfter, hi, Spec.rowOrder]
    · rw [if_neg (fun h => Nat.not_lt_zero _ h.2), Nat.zero_min]
      rfl
  | j + 1, hj, hstop => by
    have hs := luAfter_stop f rm a n tiny hstop
    have hf := luAfter_factored hn j (by omega) hs
    have hjn : j < n := hj
    rw [luAfter_succ] at hstop
    obtain ⟨hgo, hlen, hperm, hat⟩ := luCol_at f rm n j hn hjn hs hstop hf.length
    have hlead := pivotRow_leads f (luAfter f rm a n tiny j) hjn
    have he := eliminated_of_at f rm hn hjn hat
    rw [← luAfter_succ] at hlen hperm he
    have hq : j ≤ luPivot f rm a n tiny j ∧ luPivot f rm a n tiny j < n := hlead.1
    refine ⟨hlen, fun i hi => ?_, fun i c hi hc => factored_value f rm a hf he hjn hq hi hc, fun k hk => ?_⟩
    · exact (hperm i hi).trans (hf.perm _ (swapped_lt hq.2 hjn hi))
    · rcases Nat.lt_succ_iff_lt_or_eq.1 hk with h | rfl
      · exact pivot_kept f rm a hf he hjn hq h
      · exact pivot_new f rm a hf he hjn hq (fun k hk => (hf.pivots k hk).place.2) hgo hlead

end

end

/-! ### The matrix that results -/

/-- A digit of a number written from digits. -/
theorem digit_of_sum {ds : List Nat} (h : ∀ d ∈ ds, d < 8) (i : Nat) : (ds.zipIdx.map fun e => e.1 * 8 ^ e.2).sum / 8 ^ i % 8 = ds.getD i 0 := by
  have hsum : ∀ (ds : List Nat) (k : Nat), ((ds.zipIdx k).map fun e => e.1 * 8 ^ e.2).sum = 8 ^ k * Nat.ofDigits 8 ds := by
    intro ds
    induction ds with
    | nil => intro k; simp
    | cons d r ih =>
      intro k
      rw [List.zipIdx_cons, List.map_cons, List.sum_cons, ih, Nat.ofDigits_cons]
      ring
  rw [hsum, pow_zero, one_mul, Nat.ofDigits_div_pow_eq_ofDigits_drop i (by decide) ds h, List.getD_eq_getElem?_getD, ← List.head?_drop]
  have hdrop : ∀ d ∈ ds.drop i, d < 8 := fun d hd => h d (List.mem_of_mem_drop hd)
  generalize ds.drop i = es at hdrop
  rcases es with _ | ⟨d, r⟩
  · rfl
  · have hd := hdrop d (List.mem_cons_self ..)
    simp only [Nat.ofDigits_cons, List.head?_cons, Option.getD_some]
    omega

theorem matrix_at {s : SmFac} (hs : s.stop = none) (f32 : Bool) {n i j : Nat} (fact : Nat) (hn : n ≤ 7) (hi : i < n) (hj : j < n) :
    (s.matrix f32 n false fact).at i j = s.at i j := by
  unfold SmFac.matrix
  simp only [hs, Bool.false_and, Bool.not_false, Bool.and_true, if_true]
  exact smResult_at f32 s.at (by omega) hi hj

theorem luRecurrence : Spec.luRecurrenceRule := by
  intro rm texp a hrows hcols _ hsmf f n r p sum mag tiny
  obtain ⟨s, hs⟩ : ∃ s, s = luAfter f rm a n tiny n := ⟨_, rfl⟩
  obtain ⟨q, hq⟩ : ∃ q, q = luPivot f rm a n tiny := ⟨_, rfl⟩
  have hlu : smLu rm texp a = (s.matrix a.f32 n false 2, s.fl, s.smf) := by
    rw [hs]
    rfl
  have hstop : s.stop = none := by
    rw [hlu] at hsmf
    rcases hx : s.stop with _ | ⟨e, j⟩
    · rfl
    · simp only [SmFac.smf, hx] at hsmf
      exact absurd hsmf (smfWord_ne_zero e j)
  have hr : r = s.matrix a.f32 n false 2 := congrArg Prod.fst hlu
  have hf : Factored f rm a q n tiny s n := by
    rw [hs] at hstop ⊢
    rw [hq]
    exact luAfter_factored f rm a n tiny hrows n le_rfl hstop
  have hat : ∀ i j, i < n → j < n → r.at i j = s.at i j := fun i j hi hj => by
    rw [hr]
    exact matrix_at hstop a.f32 2 hrows hi hj
  have hqn : ∀ k, k < n → q k < n := fun k hk => (hf.pivots k hk).place.2
  have hp : ∀ i, i < n → p i = Spec.rowOrder q n i := fun i hi => by
    have hsmall : ∀ d ∈ s.perm, d < 8 := fun d hd => by
      obtain ⟨k, hk, rfl⟩ := List.getElem_of_mem hd
      have hkn : k < n := by rwa [hf.length] at hk
      have e := hf.perm k hkn
      rw [List.getD_eq_getElem _ _ hk] at e
      rw [e]
      have := rowOrder_lt hqn le_rfl hkn
      omega
    have hdigit := digit_of_sum hsmall i
    rw [hf.perm i hi] at hdigit
    rw [← hdigit]
    show r.perm / 8 ^ i % 8 = _
    rw [hr]
    rfl
  have hsum : ∀ i j m, i < n → j < n → m ≤ n → sum i j m = left f rm a s (Spec.rowOrder q n i) i j m := fun i j m hi hj hm => by
    show (Spec.steps f rm _ _ (a.at (p i) j, 0) m).1 = _
    rw [hp i hi]
    exact steps_congr f rm (fun k hk => by rw [hat i k hi (by omega)]) fun k hk => hat k j (by omega) hj
  refine ⟨by rw [hr]; rfl, by rw [hr]; rfl, by rw [hr]; rfl, fun i j hi hj => ⟨fun hij => ?_, fun hji => ?_⟩, q, hp, fun j hj => ?_⟩
  · rw [hat i j hi hj, hf.value i j hi hj, if_neg (by omega), hsum i j i hi hj hi.le, show min n i = i by omega]
  · rw [hat i j hi hj, hf.value i j hi hj, if_pos ⟨hji, hj⟩, hsum i j j hi hj hj.le, hat j j hj hj]
  · obtain ⟨hplace, hgoes, hlarge⟩ := hf.pivots j hj
    have hjj : s.at j j = sum j j j := by
      rw [hf.value j j hj hj, if_neg (by omega), hsum j j j hj hj hj.le, show min n j = j by omega]
    refine ⟨hplace.1, hplace.2, by rw [hat j j hj hj]; exact hgoes, fun i x hi hin hne hx hrow => ?_⟩
    show (unpackF f (sum x j j)).abs.isNan = false → cmpVal (unpackF f (sum x j j)).abs (unpackF f (sum j j j)).abs ≠ .gt ∧
      (i < q j → cmpVal (unpackF f (sum x j j)).abs (unpackF f (sum j j j)).abs = .lt)
    rw [← hjj, hsum x j j hx hj hj.le]
    exact hlarge i x hi hin hne hx ((hp x hx).symm.trans hrow)

/-- Settles O30: the words and their scalars by one law of a matrix word, and the two recurrences each by an invariant of its steps. -/
theorem smallMatrixResults : Obligations.SmallMatrixResults :=
  ⟨smallMatrixWords, MatrixScalars.smallMatrixScalars, luRecurrence, solveRecurrence⟩

end Sys2Proof.MatrixLu
end

section
/-! SUPPORT. What the moves of copies through the caches leave alone: every byte, all that `Steady` keeps, and who holds one sector (R261, R262,
R267; O46). -/

namespace Sys2Proof.SectorMoves

open Sys2Proof Sys2Proof.Machine Sys2Proof.Steadiness

/-! ### Reading a sector -/

section
variable (s : State)

@[simp] theorem sector_setSector_self (k : Nat) (x : Sector) : (s.setSector k x).sector k = x := by
  simp only [State.sector, State.setSector]
  split
  · rename_i hx
    rw [AMap.get_eq_find?, AMap.find?_erase_self, hx]
    rfl
  · exact AMap.get_set_self _ _ _ _

theorem sector_setSector_ne {j k : Nat} (h : j ≠ k) (x : Sector) : (s.setSector k x).sector j = s.sector j := by
  simp only [State.sector, State.setSector]
  split
  · rw [AMap.get_eq_find?, AMap.find?_erase_ne h, AMap.get_eq_find?]
  · exact AMap.get_set_ne h _ _ _

@[simp] theorem sector_modSector_self (k : Nat) (f : Sector → Sector) : (s.modSector k f).sector k = f (s.sector k) :=
  sector_setSector_self s k _

theorem sector_modSector_ne {j k : Nat} (h : j ≠ k) (f : Sector → Sector) : (s.modSector k f).sector j = s.sector j :=
  sector_setSector_ne s h _

end

/-! ### Moves that leave one sector to its holders -/

/-- What the caches do elsewhere: no byte changes, and one sector stays with its L1 copies and its L2 owner. -/
structure Moved (keep : Nat) (s t : State) : Prop where
  steady : Steady s t
  mem : t.mem = s.mem
  l1 : (t.sector keep).l1 = (s.sector keep).l1
  l2own : (t.sector keep).l2own = (s.sector keep).l2own

variable {keep : Nat} {s t u : State}

theorem Moved.refl (s : State) : Moved keep s s := ⟨Steady.refl s, rfl, rfl, rfl⟩

theorem Moved.trans (h : Moved keep s t) (h' : Moved keep t u) : Moved keep s u :=
  ⟨h.steady.trans h'.steady, h'.mem.trans h.mem, h'.l1.trans h.l1, h'.l2own.trans h.l2own⟩

theorem moved_of_sectors (h : Steady s t) (hm : t.mem = s.mem) (hx : t.sectors = s.sectors) : Moved keep s t := by
  have e : t.sector keep = s.sector keep := by rw [State.sector, hx, State.sector]
  exact ⟨h, hm, by rw [e], by rw [e]⟩

theorem moved_ite {c : Prop} [Decidable c] (ht : Moved keep s t) (hu : Moved keep s u) : Moved keep s (if c then t else u) := by
  split
  · exact ht
  · exact hu

theorem moved_foldl {α : Type} (f : State → α → State) (l : List α) (h : ∀ s, ∀ x ∈ l, Moved keep s (f s x)) (s : State) :
    Moved keep s (l.foldl f s) := by
  induction l generalizing s with
  | nil => exact Moved.refl s
  | cons a r ih => exact (h s a List.mem_cons_self).trans (ih (fun s x hx => h s x (List.mem_cons_of_mem _ hx)) _)

section
variable (s)

theorem used_moved (n : Nat) : Moved keep s (s.used n) := moved_of_sectors (used_steady s n) rfl rfl
theorem modCore_moved (c : Nat) (f : Core → Core) : Moved keep s (s.modCore c f) := moved_of_sectors (modCore_steady s c f) rfl rfl
theorem modDie_moved (d : Nat) (f : Die → Die) : Moved keep s (s.modDie d f) := moved_of_sectors (modDie_steady s d f) rfl rfl

/-- A change of another sector. -/
theorem setSector_moved {k : Nat} (h : keep ≠ k) (x : Sector) : Moved keep s (s.setSector k x) :=
  ⟨setSector_steady s k x, rfl, by rw [sector_setSector_ne s h], by rw [sector_setSector_ne s h]⟩

theorem modSector_moved_ne {k : Nat} (h : keep ≠ k) (f : Sector → Sector) : Moved keep s (s.modSector k f) := setSector_moved s h _

/-- A change of any sector that its holders keep. -/
theorem modSector_moved (k : Nat) (f : Sector → Sector) (h : ∀ x, (f x).l1 = x.l1 ∧ (f x).l2own = x.l2own) : Moved keep s (s.modSector k f) := by
  by_cases hk : keep = k
  · subst hk
    refine ⟨modSector_steady s _ f, rfl, ?_, ?_⟩
    · rw [sector_modSector_self, (h _).1]
    · rw [sector_modSector_self, (h _).2]
  · exact modSector_moved_ne s hk f

theorem markCore_moved (sec core : Nat) : Moved keep s (s.markCore sec core) :=
  moved_ite (moved_of_sectors (markSec_steady s _ _) rfl rfl) (Moved.refl s)

theorem markOthers_moved (sec : Nat) (who : Lane) : Moved keep s (s.markOthers sec who) :=
  moved_ite (moved_of_sectors (markSec_steady s _ _) rfl rfl) (Moved.refl s)

theorem markOwners_moved (sec : Nat) (f : Nat → Bool) : Moved keep s (s.markOwners sec f) :=
  moved_foldl _ _ (fun s _ _ => moved_ite (Moved.refl s) (markCore_moved s _ _)) s

theorem wakeSector_moved (sec : Nat) : Moved keep s (s.wakeSector sec) := by
  refine moved_foldl _ _ (fun s p _ => ?_) s
  unfold State.wake
  split
  case h_6 => exact Moved.refl s
  all_goals exact moved_of_sectors (modPart_steady s _ _) rfl rfl

/-! ### The memory-side cache (R262) -/

theorem mscCount_moved (sec : Nat) : Moved keep s (s.mscCount sec) := moved_ite (modDie_moved s _ _) (modDie_moved s _ _)

theorem mscDrain_moved (line : Nat) : Moved keep s (s.mscDrain line) :=
  moved_ite ((moved_foldl _ _ (fun s k _ => modSector_moved s k _ fun _ => ⟨by rfl, by rfl⟩) s).trans (modDie_moved _ _ _)) (Moved.refl s)

theorem mscRoom_moved (sec : Nat) (may : Bool) : Moved keep s (s.mscRoom sec may) := by
  have out : ∀ (t : State) (line : Nat), Moved keep t ((lineSectors line).foldl (fun (s : State) k => s.modSector k fun x =>
      { x with mscHas := false }) ((t.used 1).mscDrain line)) := fun t line =>
    ((used_moved t 1).trans (mscDrain_moved _ line)).trans (moved_foldl _ _ (fun s k _ => modSector_moved s k _ fun _ => ⟨by rfl, by rfl⟩) _)
  unfold State.mscRoom
  exact moved_ite (out s _) (moved_ite (Moved.refl s) (moved_ite (used_moved s 1) ((used_moved s 1).trans (out _ _))))

theorem mscTake_moved (sec hint : Nat) : Moved keep s (s.mscTake sec hint) :=
  moved_ite (Moved.refl s) ((modSector_moved s _ _ fun _ => ⟨by rfl, by rfl⟩).trans (mscRoom_moved _ _ _))

theorem toMsc_moved (sec : Nat) : Moved keep s (s.toMsc sec) := by
  have hat : ∀ (x : Sector) (now : Nat) (hbm : Bool), (x.atMsc now hbm).l1 = x.l1 ∧ (x.atMsc now hbm).l2own = x.l2own := fun x now hbm => by
    cases hbm <;> exact ⟨rfl, rfl⟩
  unfold State.toMsc
  exact moved_ite (((mscCount_moved s sec).trans (modSector_moved _ _ _ fun _ => by exact hat _ _ _)).trans (mscRoom_moved _ _ _))
    (modSector_moved s _ _ fun _ => by exact hat _ _ _)

theorem fromHome_moved (sec hint : Nat) : Moved keep s (s.fromHome sec hint) := by
  unfold State.fromHome
  exact moved_ite (Moved.refl s) (moved_ite (mscCount_moved s sec) ((mscCount_moved s sec).trans (mscTake_moved _ _ _)))

/-! ### A line leaves a cache (R261, R267) -/

theorem dropCopy_moved {k : Nat} (h : keep ≠ k) (core : Nat) : Moved keep s (s.dropCopy core k) := by
  unfold State.dropCopy
  dsimp only
  split
  · exact Moved.refl s
  · exact (setSector_moved s h _).trans (markCore_moved _ _ _)

theorem leaveL2_moved {k : Nat} (h : keep ≠ k) (die : Nat) : Moved keep s (s.leaveL2 die k) := by
  have hleft : ∀ t : State, Moved keep s t → ∀ f : Sector → Sector, ∀ c : Bool,
      Moved keep s (if c then (t.modSector k f).toMsc k else t.modSector k f) := fun t ht f c =>
    ht.trans (moved_ite ((modSector_moved_ne t h f).trans (toMsc_moved _ _)) (modSector_moved_ne t h f))
  unfold State.leaveL2
  exact hleft _ ((moved_foldl _ _ (fun s _ _ => dropCopy_moved s h _) s).trans (moved_foldl _ _ (fun s _ _ => markCore_moved s _ _) _)) _ _

/-- A sector of a line lies in no other line. -/
theorem ne_of_lineSectors {line k : Nat} (h : line ≠ keep / 4) (hk : k ∈ lineSectors line) : keep ≠ k := by
  rintro rfl
  simp only [lineSectors, rangeFrom, List.mem_map, List.mem_range] at hk
  obtain ⟨i, hi, rfl⟩ := hk
  omega

/-- The line that a free value picks among those of the sectors a test picks is one of them. -/
theorem picked_line (p : Nat × Sector → Bool) (n : Nat) (h : s.sectors.any p = true) :
    ∃ e, p e = true ∧ (s.linesOf p).getD (n % (s.linesOf p).length) 0 = e.1 / 4 := by
  obtain ⟨e, he, hp⟩ := List.any_eq_true.1 h
  have hmem : e.1 / 4 ∈ s.linesOf p :=
    List.mem_map.2 ⟨e.1, List.mem_map.2 ⟨e, List.mem_filter.2 ⟨he, hp⟩, rfl⟩, rfl⟩
  have hlt : n % (s.linesOf p).length < (s.linesOf p).length := Nat.mod_lt _ (List.length_pos_of_mem hmem)
  obtain ⟨k, hk, hline⟩ := List.mem_map.1 (List.getElem_mem hlt)
  obtain ⟨x, hx, rfl⟩ := List.mem_map.1 hk
  exact ⟨x, (List.mem_filter.1 hx).2, (List.getD_eq_getElem _ _ hlt).trans hline.symm⟩

theorem evictSome_moved (core : Nat) : Moved keep s (s.evictSome core keep) := by
  unfold State.evictSome
  extract_lets holds other l line
  by_cases hany : s.sectors.any other = true
  · have hline : line ≠ keep / 4 := by
      obtain ⟨e, he, hl⟩ := picked_line s other (s.used 1).freeWord.toNat hany
      simp only [other, Bool.and_eq_true, bne_iff_ne] at he
      exact fun h => he.1.2 (hl.symm.trans h)
    rw [if_neg (by simp [hany])]
    refine moved_ite ((used_moved s 2).trans ?_) (used_moved s 1)
    exact moved_foldl _ _ (fun s k hk => dropCopy_moved s (ne_of_lineSectors hline hk) core) _
  · rw [if_pos (by simp [hany])]
    exact Moved.refl s

theorem evictL2_moved (die : Nat) : Moved keep s (s.evictL2 die keep) := by
  unfold State.evictL2
  extract_lets slice holds other l line
  by_cases hany : s.sectors.any other = true
  · have hline : line ≠ keep / 4 := by
      obtain ⟨e, he, hl⟩ := picked_line s other (s.used 1).freeWord.toNat hany
      simp only [other, Bool.and_eq_true, bne_iff_ne] at he
      exact fun h => he.1.1.1 (hl.symm.trans h)
    rw [if_neg (by simp [hany])]
    refine moved_ite ((used_moved s 2).trans ?_) (used_moved s 1)
    exact moved_foldl _ _ (fun s k hk => leaveL2_moved s (ne_of_lineSectors hline hk) die) _
  · rw [if_pos (by simp [hany])]
    exact Moved.refl s

theorem makeRoom_moved (o : MemOp) : Moved keep s (s.makeRoom o keep) :=
  moved_ite ((evictSome_moved s o.core).trans (evictL2_moved _ _)) (evictSome_moved s o.core)

end

/-! ### A grant (R268, R269) -/

/-- A change that no byte of memory sees. -/
def Unwritten (s t : State) : Prop := Steady s t ∧ t.mem = s.mem

theorem Unwritten.trans (h : Unwritten s t) (h' : Unwritten t u) : Unwritten s u := ⟨h.1.trans h'.1, h'.2.trans h.2⟩
theorem Moved.unwritten (h : Moved keep s t) : Unwritten s t := ⟨h.steady, h.mem⟩
theorem setSector_unwritten (s : State) (k : Nat) (x : Sector) : Unwritten s (s.setSector k x) := ⟨setSector_steady s k x, rfl⟩

section
variable (s)

/-- A grant of ownership leaves one L1 copy. -/
theorem grantOwn_granted (core sec : Nat) : Unwritten s (s.grantOwn core sec) ∧ ∃ v, ((s.grantOwn core sec).sector sec).l1 = [(core, v)] :=
  ⟨(markOwners_moved (keep := sec) s sec _).unwritten.trans (setSector_unwritten _ _ _), _, by rw [State.grantOwn, sector_setSector_self]; rfl⟩

/-- A read that is answered leaves its core a copy. -/
theorem grantRead_granted (core sec : Nat) :
    Unwritten s (s.grantRead core sec) ∧ (((s.grantRead core sec).sector sec).l1.find? core).isSome = true := by
  unfold State.grantRead
  dsimp only
  split
  · refine ⟨setSector_unwritten _ _ _, ?_⟩
    rw [sector_setSector_self]
    simp [AMap.find?]
  · refine ⟨setSector_unwritten _ _ _, ?_⟩
    rw [sector_setSector_self]
    exact congrArg Option.isSome (AMap.find?_set_self core _ _)

/-- A sector taken for a directory has no L1 copy, and its owner is the L2 of the die. -/
theorem takeInside_taken (core : Nat) (scope : Scope) (die sec : Nat) : Unwritten s (s.takeInside core scope die sec) ∧
    ((s.takeInside core scope die sec).sector sec).l1 = [] ∧ ((s.takeInside core scope die sec).sector sec).l2own = some die := by
  have hmarks : ∀ (p : Nat → Bool) (l : List (Nat × L1St)) (l' : List (Nat × List Byte)),
      Unwritten s (l'.foldl (fun s e => if p e.1 then s.markCore sec e.1 else s)
        (l.foldl (fun s e => if p e.1 || e.2 != L1St.s then s.markCore sec e.1 else s) s)) := fun p l l' =>
    ((moved_foldl (keep := sec) _ _ (fun s _ _ => moved_ite (markCore_moved s _ _) (Moved.refl s)) s).trans
      (moved_foldl _ _ (fun s _ _ => moved_ite (markCore_moved s _ _) (Moved.refl s)) _)).unwritten
  unfold State.takeInside
  refine ⟨(hmarks _ _ _).trans (setSector_unwritten _ _ _), ?_⟩
  rw [sector_setSector_self]
  exact ⟨rfl, rfl⟩

end

end Sys2Proof.SectorMoves
end

section
/-! SUPPORT. What is left of an access that has been performed or has met poison: its registers, its counter and its fault, and nothing in flight
(R37, R171, R375; O46). -/

namespace Sys2Proof.AccessEnd

open Sys2Proof Sys2Proof.Machine Sys2Proof.Steadiness Sys2Proof.PlainWords Sys2Proof.FaultTaking Sys2Proof.GroupWords Sys2Proof.CopyQueue

/-! ### Changes of threads alone -/

/-- Threads may differ, and no register does. -/
structure ThreadsOnly (s t : State) : Prop where
  fields : t = { s with groups := t.groups }
  v : ∀ m n, t.v m n = s.v m n

variable {s t u : State}

theorem ThreadsOnly.refl (s : State) : ThreadsOnly s s := ⟨rfl, fun _ _ => rfl⟩

theorem ThreadsOnly.trans (h : ThreadsOnly s t) (h' : ThreadsOnly t u) : ThreadsOnly s u := by
  refine ⟨?_, fun m n => (h'.v m n).trans (h.v m n)⟩
  have e := h'.fields
  rw [h.fields] at e
  exact e

theorem modBoth_threadsOnly (s : State) (l : Lane) (f : Thread → Thread) : ThreadsOnly s (s.modBoth l f) :=
  ⟨rfl, fun m n => by simp only [State.v, Group.readV, modBoth_vreg]⟩

theorem threadsOnly_foldl {α : Type} (f : State → α → State) (h : ∀ s a, ThreadsOnly s (f s a)) (l : List α) (s : State) :
    ThreadsOnly s (l.foldl f s) := by
  induction l generalizing s with
  | nil => exact ThreadsOnly.refl s
  | cons a r ih => exact (h s a).trans (ih _)

/-- What a change of a thread and its shadow leaves of a field that a thread without one reads as 0 or empty. -/
theorem thread_modBoth {l : Lane} (hsh : l.sh = false) (s : State) (f : Thread → Thread) :
    (s.modBoth l f).thread l = if (s.thread? l).isSome then f (s.thread l) else s.thread l := by
  simp only [State.thread, thread?_modBoth s hsh]
  rcases s.thread? l with _ | th <;> rfl

/-- LD falls by one; a thread that does not exist reads as 0. -/
theorem ld_modBoth {l : Lane} (hsh : l.sh = false) (s : State) :
    ((s.modBoth l fun th => { th with ld := th.ld - 1 }).thread l).ld = (s.thread l).ld - 1 := by
  rw [State.thread, thread?_modBoth s hsh, State.thread]
  rcases s.thread? l with _ | th <;> rfl

/-! ### A unit is over (R37) -/

/-- The access is in flight no more; only threads and, where it returns, registers and their bookkeeping differ. -/
structure Ended (s t : State) (id : Nat) : Prop where
  fields : t = { s with groups := t.groups, cores := t.cores, ops := t.ops }
  gone : t.ops.find? id = none

/-- An access ends after a change of groups and cores. -/
theorem Ended.after {id : Nat} (h : Ended t u id) (hf : t = { s with groups := t.groups, cores := t.cores }) : Ended s u id := by
  refine ⟨?_, h.gone⟩
  have e := h.fields
  rw [hf] at e
  exact e

section
variable {id : Nat} {o : MemOp}

/-- A unit of an access is over. -/
theorem opDone_ends (h : s.ops.find? id = some o) : Ended s (s.opDone id) id ∧ ThreadsOnly { s with ops := s.ops.erase id } (s.opDone id) := by
  have hc : ThreadsOnly { s with ops := s.ops.erase id } (s.opDone id) := by
    unfold State.opDone
    rw [h]
    dsimp only
    split
    · exact ThreadsOnly.refl _
    · exact threadsOnly_foldl _ (fun s l => modBoth_threadsOnly s l _) _ _
  refine ⟨⟨?_, ?_⟩, hc⟩
  · rw [hc.fields]
  · rw [hc.fields]
    exact AMap.find?_erase_self _ _

/-- With the last unit of a load its thread's LD falls. -/
theorem opDone_ld (h : s.ops.find? id = some o) {sg : Bool} {dst : List Nat} {inp : Option Nat} (hk : o.kind = .load sg dst inp)
    (hlast : ∀ e ∈ s.ops, e.1 ≠ id → e.2.word ≠ o.word) :
    s.opDone id = ({ s with ops := s.ops.erase id }.modBoth o.lane fun th => { th with ld := th.ld - 1 }) := by
  have hany : ((s.ops.erase id).any fun e => e.2.word == o.word) = false := by
    refine List.any_eq_false.2 fun e he => ?_
    obtain ⟨hmem, hne⟩ := List.mem_filter.1 he
    simpa using hlast e hmem (by simpa using hne)
  unfold State.opDone
  rw [h]
  simp only [hany, Bool.false_eq_true, if_false, MemOp.counts, hk, List.foldl_cons, List.foldl_nil, OpKind.onSt]

/-! ### What a returning access leaves (R171, R220) -/

/-- Is the value of an access extended by its sign, or has it no sort that says so? -/
def signed (k : OpKind) (sg : Bool) : Prop := (∃ dst inp, k = .load sg dst inp) ∨ (sg = false ∧ k.plainRead = false)

/-- The words that one unit of an access puts in its registers. -/
def unitWords (o : MemOp) (sg : Bool) (bs : List Byte) : List (Nat × Word) :=
  loadWords sg (o.unitDst (opDst o.kind)) (bs.zipIdx.map fun e => (o.patch.find? e.2).getD e.1)

/-- A group takes words in a lane and, where it is protected, in its shadow. -/
def takes (l : Lane) (ws : List (Nat × Word)) (g : Group) : Group :=
  let g := puts l ws g
  if g.prot then puts l.shadow ws g else g

theorem loadWords_fst (sg : Bool) (dst : List Nat) (bs : List Byte) : (loadWords sg dst bs).map Prod.fst = dst := by
  have hlong : ((List.zip dst (List.range dst.length)).map fun e =>
      (e.1, BitVec.ofNat 32 (wordOfBytes ((bs.drop (4 * e.2)).take 4)))).map Prod.fst = dst := by
    rw [List.map_map]
    exact List.map_fst_zip (by simp)
  unfold loadWords
  split
  · rfl
  · exact hlong

theorem unitWords_nodup (sg : Bool) (bs : List Byte) (h : (opDst o.kind).Nodup) : ((unitWords o sg bs).map Prod.fst).Nodup := by
  rw [unitWords, loadWords_fst, MemOp.unitDst]
  exact h.sublist ((List.take_sublist _ _).trans (List.drop_sublist _ _))

theorem takes_threads (l : Lane) (ws : List (Nat × Word)) (g : Group) : (takes l ws g).threads = g.threads := by
  have hput : ∀ (l : Lane) (g : Group), (puts l ws g).threads = g.threads := fun l g => by
    obtain ⟨v, vsh, hv⟩ := puts_keeps l ws g
    rw [hv]
  unfold takes
  dsimp only
  split
  · rw [hput, hput]
  · exact hput l g

theorem takes_readV {l : Lane} (hsh : l.sh = false) {ws : List (Nat × Word)} (h : (ws.map Prod.fst).Nodup) (g : Group) {e : Nat × Word} (he : e ∈ ws) :
    (takes l ws g).readV l e.1 = e.2 := by
  unfold takes
  dsimp only
  split
  · rw [Group.readV, puts_vreg_other l.shadow ws _ _ _ (.inl (by simp [Lane.shadow, hsh]))]
    exact puts_self l ws g h he
  · exact puts_self l ws g h he

/-- The bytes with a region's own stores in them are the bytes, where there are none. -/
theorem patched_nil (bs : List Byte) : (bs.zipIdx.map fun e => ((AMap.find? [] e.2 : Option Byte)).getD e.1) = bs := by
  have : (fun e : Byte × Nat => ((AMap.find? [] e.2 : Option Byte)).getD e.1) = Prod.fst := rfl
  rw [this]
  exact List.zipIdx_map_fst 0 bs

/-- A returning access changes its region's input, then its registers; the rest is bookkeeping. -/
theorem loadReturns_takes {sg : Bool} (hk : signed o.kind sg) (s : State) (bs : List Byte) :
    ∃ f : Thread → Thread, (∀ th, ∃ r, f th = { th with region := r }) ∧ ∃ u, (u = s ∨ u = s.modBoth o.lane f) ∧
      ((o.unitDst (opDst o.kind) = [] ∧ s.loadReturns o bs = u) ∨
        Tended (u.modGroup o.lane.g (takes o.lane (unitWords o sg bs))) (s.loadReturns o bs) o.lane.g) := by
  have hpatch : (if o.patch.isEmpty then bs else bs.zipIdx.map fun e => (o.patch.find? e.2).getD e.1) =
      bs.zipIdx.map fun e => (o.patch.find? e.2).getD e.1 := by
    split
    · rename_i he
      rw [List.isEmpty_iff.1 he]
      exact (patched_nil bs).symm
    · rfl
  refine ⟨fun th => th.inputVal ((opInput o.kind).getD 0) (bs.zipIdx.map fun e => (o.patch.find? e.2).getD e.1), fun th => ⟨_, rfl⟩,
    match opInput o.kind with
      | some i => s.modBoth o.lane fun th => th.inputVal i (bs.zipIdx.map fun e => (o.patch.find? e.2).getD e.1)
      | none => s, ?_, ?_⟩
  · rcases opInput o.kind with _ | i
    · exact .inl rfl
    · exact .inr rfl
  · unfold State.loadReturns
    simp only [hpatch, unitWords]
    generalize o.unitDst (opDst o.kind) = dst
    generalize (bs.zipIdx.map fun e => (o.patch.find? e.2).getD e.1) = bytes
    rcases dst with _ | ⟨d, r⟩
    · exact .inl ⟨rfl, rfl⟩
    · right
      rcases hk with ⟨dst, inp, hk⟩ | ⟨rfl, hk⟩
      · rw [hk]
        exact gave_tended _ _ _ _ _
      · revert hk
        cases o.kind with
        | load | bld | smld => exact fun hk => nomatch hk
        | store | smst | signal | atom | acas => exact fun _ => gave_tended _ _ _ _ _

/-- A returning access changes nothing but its group, and its core's bookkeeping. -/
theorem loadReturns_fields {sg : Bool} (hk : signed o.kind sg) (s : State) (bs : List Byte) :
    s.loadReturns o bs = { s with groups := (s.loadReturns o bs).groups, cores := (s.loadReturns o bs).cores } := by
  obtain ⟨f, -, u, hu, hcase⟩ := loadReturns_takes hk s bs
  have hs : u = { s with groups := u.groups } := by
    rcases hu with rfl | rfl
    · rfl
    · rfl
  rcases hcase with ⟨-, he⟩ | ht
  · rw [he, hs]
  · have e := ht.fields
    rw [State.modGroup, hs] at e
    exact e

/-- Its registers take the words of its unit. -/
theorem loadReturns_v {sg : Bool} (hk : signed o.kind sg) (hsh : o.lane.sh = false) (hnd : (opDst o.kind).Nodup)
    (hg : (s.group? o.lane.g).isSome = true) (bs : List Byte) {e : Nat × Word} (he : e ∈ unitWords o sg bs) :
    (s.loadReturns o bs).v o.lane e.1 = e.2 := by
  obtain ⟨f, -, u, hu, ⟨hd, -⟩ | ht⟩ := loadReturns_takes hk s bs
  · rw [unitWords, hd] at he
    exact absurd he List.not_mem_nil
  · have hgu : ∃ x, u.group? o.lane.g = some x := by
      obtain ⟨x, hx⟩ := Option.isSome_iff_exists.1 hg
      rcases hu with rfl | rfl
      · exact ⟨x, hx⟩
      · simp only [State.modBoth, State.modThread, group?_modGroup_self, show o.lane.shadow.g = o.lane.g from rfl, hx]
        exact ⟨_, rfl⟩
    obtain ⟨x, hx⟩ := hgu
    rw [ht.quiet.v, State.v, State.grp, group?_modGroup_self, hx]
    exact takes_readV hsh (unitWords_nodup sg bs hnd) x he

/-- Its thread keeps its counter. -/
theorem loadReturns_ld {sg : Bool} (hk : signed o.kind sg) (hsh : o.lane.sh = false) (s : State) (bs : List Byte) :
    ((s.loadReturns o bs).thread o.lane).ld = (s.thread o.lane).ld := by
  obtain ⟨f, hf, u, hu, hcase⟩ := loadReturns_takes hk s bs
  have hkeep : (u.thread o.lane).ld = (s.thread o.lane).ld := by
    rcases hu with rfl | rfl
    · rfl
    · rw [thread_modBoth hsh]
      obtain ⟨r, hr⟩ := hf (s.thread o.lane)
      rw [hr]
      split <;> rfl
  rcases hcase with ⟨-, he⟩ | ht
  · rw [he, hkeep]
  · rw [ht.quiet.thread, ← hkeep, State.thread, State.thread, State.thread?, group?_modGroup_self, State.thread?]
    rcases u.group? o.lane.g with _ | x
    · rfl
    · simp only [Option.map_some, Option.bind_some, Group.thread?, takes_threads]

/-! ### An access that is performed -/

theorem signed_not_staged {sg : Bool} (hk : signed o.kind sg) : o.kind.staged = false := by
  rcases hk with ⟨dst, inp, hk⟩ | ⟨-, hk⟩
  · rw [hk]
    rfl
  · revert hk
    cases o.kind with
    | load | bld | smld => exact fun hk => nomatch hk
    | store | smst | signal | atom | acas => exact fun _ => rfl

/-- An access that is performed is in flight no more, and its registers have what its unit brought. -/
theorem opPerformed_takes {sg : Bool} (hop : s.ops.find? id = some o) (hk : signed o.kind sg) (hsh : o.lane.sh = false) (hnd : (opDst o.kind).Nodup)
    (hg : (s.group? o.lane.g).isSome = true) (bs : List Byte) :
    Ended s (s.opPerformed id o bs) id ∧ Spec.unitTakes (s.opPerformed id o bs) o sg bs := by
  have hf := loadReturns_fields hk s bs
  have hops : (s.loadReturns o bs).ops.find? id = some o := by rw [hf]; exact hop
  obtain ⟨hend, hthreads⟩ := opDone_ends hops
  rw [State.opPerformed, signed_not_staged hk, if_neg Bool.false_ne_true]
  refine ⟨hend.after hf, fun e he => ?_⟩
  rw [hthreads.v]
  exact loadReturns_v hk hsh hnd hg bs he

/-- With its last unit LD falls. -/
theorem opPerformed_ld {sg : Bool} {dst : List Nat} {inp : Option Nat} (hop : s.ops.find? id = some o) (hk : o.kind = .load sg dst inp)
    (hsh : o.lane.sh = false) (hlast : Spec.lastUnit s id o) (bs : List Byte) :
    ((s.opPerformed id o bs).thread o.lane).ld = (s.thread o.lane).ld - 1 := by
  have hsigned : signed o.kind sg := .inl ⟨dst, inp, hk⟩
  have hf := loadReturns_fields hsigned s bs
  have hops : (s.loadReturns o bs).ops = s.ops := by rw [hf]
  rw [State.opPerformed, signed_not_staged hsigned, if_neg Bool.false_ne_true,
    opDone_ld (by rw [hops]; exact hop) hk (by rw [hops]; exact hlast), ld_modBoth hsh, ← loadReturns_ld hsigned hsh s bs]
  rfl

/-! ### A load that meets poison (R375, R376) -/

/-- What the error action changes: counters, the launch, and the gangs of a launch that is halted. -/
structure Reported (s t : State) : Prop where
  fields : t = { s with dies := t.dies, launches := t.launches, gangs := t.gangs }
  consume : ∀ d, (t.die d).consume = (s.die d).consume

theorem errorAction_reported (s : State) (l : Nat) (f : Option (FaultInfo × Nat × Bool)) : Reported s (s.errorAction l f).1 := by
  have hcount : ∀ (v : State) (m : Nat), v.dies = s.dies → ∀ d, ((v.modDie m fun d => { d with replay := d.replay + 1 }).die d).consume = (s.die d).consume := by
    intro v m hv d
    rw [State.die, State.modDie]
    by_cases hd : d = m
    · rw [hd, AMap.get_set_self, State.die, State.die, hv]
    · rw [AMap.get_set_ne hd, State.die, hv]
  unfold State.errorAction
  split
  · exact ⟨rfl, fun _ => rfl⟩
  · split
    · unfold State.replayStart
      split
      · exact ⟨rfl, fun _ => rfl⟩
      · dsimp only
        split
        · exact ⟨rfl, fun _ => rfl⟩
        · exact ⟨rfl, hcount _ _ rfl⟩
    · exact ⟨rfl, fun _ => rfl⟩

/-- Poison is consumed: the die counts it. -/
theorem consume_counts (s : State) (die launch gid : Nat) (f : FaultInfo) :
    (s.consume die launch gid f).1 = { s with dies := (s.consume die launch gid f).1.dies, launches := (s.consume die launch gid f).1.launches,
                                              gangs := (s.consume die launch gid f).1.gangs } ∧
    ((s.consume die launch gid f).1.die die).consume = (s.die die).consume + 1 := by
  have h := errorAction_reported (s.countError die .poison) launch (some (f, gid, false))
  refine ⟨?_, (h.consume die).trans ?_⟩
  · exact h.fields
  · rw [State.countError, State.die, State.modDie, AMap.get_set_self]

theorem find?_filter_key {α : Type} {k : Nat} {m : AMap α} {p : Nat × α → Bool} (hp : ∀ v, p (k, v) = true) :
    AMap.find? (m.filter p) k = AMap.find? m k := by
  induction m with
  | nil => rfl
  | cons e r ih =>
    obtain ⟨j, v⟩ := e
    rw [List.filter_cons]
    by_cases hj : j = k
    · subst hj
      rw [if_pos (hp v)]
      simp [AMap.find?]
    · split
      · simpa [AMap.find?, hj] using ih
      · simpa [AMap.find?, hj] using ih

/-- The fault of a load that met poison. -/
def poisonFault (o : MemOp) : FaultInfo := { cause := .poison, kind := .load, addr := o.va }

/-- An access is in flight no more. -/
def finished (s : State) (id : Nat) : State := { s with ops := s.ops.erase id }

/-- What a load leaves that met poison: its fault among those its thread has to raise, and nothing in flight. -/
structure Poisoned (s t : State) (id : Nat) (o : MemOp) (dst : List Nat) (input : Bool) : Prop where
  mem : t.mem = s.mem
  gone : t.ops.find? id = none
  loads : (t.thread o.lane).loads = (s.thread o.lane).loads ++ [{ info := poisonFault o, dst, input }]
  ld : (t.thread o.lane).ld = (s.thread o.lane).ld - 1
  consume : (t.die (coreDie o.core)).consume = (s.die (coreDie o.core)).consume + 1
  v : ∀ m n, t.v m n = s.v m n

/-- What the cores count has no part in it. -/
theorem Poisoned.of_cores {dst : List Nat} {input : Bool} (h : Poisoned t u id o dst input) (ht : t = { s with cores := t.cores }) :
    Poisoned s u id o dst input := by
  rw [ht] at h
  exact ⟨h.mem, h.gone, h.loads, h.ld, h.consume, h.v⟩

/-- The other units of a word whose load fails are dropped. -/
def unitsDropped (s : State) (id : Nat) (o : MemOp) : State := { s with ops := s.ops.filter fun e => e.1 == id || e.2.word != o.word }

/-- A load that meets poison is over, and its fault waits for a word that needs its value. -/
theorem opFails_eq {sg : Bool} {dst : List Nat} {inp : Option Nat} (hop : s.ops.find? id = some o) (hk : o.kind = .load sg dst inp)
    (hsh : o.lane.sh = false) (hlive : (s.thread o.lane).live = true) (hdst : dst ≠ []) (hu : u = ((unitsDropped s id o).consume (coreDie o.core)
      o.launch o.gid (poisonFault o)).1) (hug : u.groups = s.groups) (huo : u.ops = (unitsDropped s id o).ops) :
    s.opFails id o .poison = (((finished u id).modBoth o.lane fun th => { th with ld := th.ld - 1 }).modBoth o.lane
      fun th => { th with loads := th.loads ++ [{ info := poisonFault o, dst, input := inp.isSome }] }) := by
  have hthread : u.thread o.lane = s.thread o.lane := by
    simp only [State.thread, State.thread?, State.group?, hug]
  have hdone : u.opDone id = ((finished u id).modBoth o.lane fun th => { th with ld := th.ld - 1 }) := by
    refine opDone_ld ?_ hk fun e he hne => ?_
    · rw [huo, unitsDropped, find?_filter_key (by simp), hop]
    · rw [huo] at he
      simpa [hne] using (List.mem_filter.1 he).2
  have hstill : ((u.opDone id).thread o.lane).live = true := by
    rw [hdone, thread_modBoth hsh]
    split <;> exact (congrArg Thread.live hthread).trans hlive
  obtain ⟨d, r, rfl⟩ := List.exists_cons_of_ne_nil hdst
  rw [← hdone]
  unfold State.opFails
  simp only [hk, OpKind.staged, Bool.false_eq_true, if_false, hop, Option.isNone_some, if_true, accKind, OpKind.returns, opDst, opInput]
  rw [show ({ s with ops := s.ops.filter fun e => e.1 == id || e.2.word != o.word } : State) = unitsDropped s id o from rfl,
    show ({ cause := .poison, kind := .load, addr := o.va } : FaultInfo) = poisonFault o from rfl, ← hu, hstill]
  rfl

theorem opFails_poisoned {sg : Bool} {dst : List Nat} {inp : Option Nat} (hop : s.ops.find? id = some o) (hk : o.kind = .load sg dst inp)
    (hsh : o.lane.sh = false) (hlive : (s.thread o.lane).live = true) (hdst : dst ≠ []) :
    Poisoned s (s.opFails id o .poison) id o dst inp.isSome := by
  have hth : (s.thread? o.lane).isSome = true := by
    by_contra hn
    rw [State.thread, Option.not_isSome_iff_eq_none.1 hn] at hlive
    exact absurd hlive (by decide)
  obtain ⟨hfields, hcount⟩ := consume_counts (unitsDropped s id o) (coreDie o.core) o.launch o.gid (poisonFault o)
  generalize hu : ((unitsDropped s id o).consume (coreDie o.core) o.launch o.gid (poisonFault o)).1 = u
    at hfields hcount
  have hug : u.groups = s.groups := by rw [hfields]; rfl
  have huo : u.ops = (unitsDropped s id o).ops := by rw [hfields]
  have hs : ∀ l, u.thread? l = s.thread? l := fun l => by simp only [State.thread?, State.group?, hug]
  have huv : ∀ m n, u.v m n = s.v m n := fun m n => by simp only [State.v, State.grp, State.group?, hug]
  rw [opFails_eq hop hk hsh hlive hdst hu.symm hug huo]
  have h1 := modBoth_threadsOnly (finished u id) o.lane fun th => { th with ld := th.ld - 1 }
  have ht1 : ((finished u id).modBoth o.lane fun th => { th with ld := th.ld - 1 }).thread? o.lane =
      (s.thread? o.lane).map fun th => { th with ld := th.ld - 1 } := (thread?_modBoth _ hsh _).trans (by rw [← hs]; rfl)
  generalize hw : ((finished u id).modBoth o.lane fun th => { th with ld := th.ld - 1 }) = w at h1 ht1
  have h2 := modBoth_threadsOnly w o.lane fun th =>
    { th with loads := th.loads ++ [{ info := poisonFault o, dst, input := inp.isSome }] }
  have ht2 := thread?_modBoth w hsh fun th =>
    { th with loads := th.loads ++ [{ info := poisonFault o, dst, input := inp.isSome }] }
  obtain ⟨th, hthe⟩ := Option.isSome_iff_exists.1 hth
  rw [ht1, hthe] at ht2
  have hsth : s.thread o.lane = th := thread_of hthe
  constructor
  case mem =>
    rw [h2.fields, h1.fields, hfields]
    rfl
  case gone =>
    rw [h2.fields, h1.fields]
    exact AMap.find?_erase_self _ _
  case loads => rw [thread_of ht2, hsth]
  case ld => rw [thread_of ht2, hsth]
  case consume =>
    rw [h2.fields, h1.fields]
    exact hcount
  case v => exact fun m n => (h2.v m n).trans ((h1.v m n).trans (huv m n))

end

end Sys2Proof.AccessEnd
end

section
/-! SUPPORT. The events that perform an access: a load, a store or an atomic under ownership, an early store, an atomic at the directory of its
scope (R37, R171, R174, R266, R270, R375; O46). -/

namespace Sys2Proof.AccessEvents

open Sys2Proof Sys2Proof.Machine Sys2Proof.EventRun Sys2Proof.Steadiness Sys2Proof.SectorMoves Sys2Proof.AccessEnd

/-! ### The events -/

theorem exec_loadComplete (id : Nat) (s : State) : exec (.loadComplete id) s = runEvent (fun s => s.complete id true) s := rfl
theorem exec_storeComplete (id : Nat) (s : State) : exec (.storeComplete id) s = runEvent (fun s => s.complete id false) s := rfl

/-- The event that performs an access. -/
def performing (id : Nat) (o : MemOp) : Instr := if o.kind.returns then Instr.loadComplete id else Instr.storeComplete id

theorem exec_performing (id : Nat) (o : MemOp) (s : State) : exec (performing id o) s = runEvent (fun s => s.complete id o.kind.returns) s := by
  unfold performing
  cases o.kind.returns
  · exact exec_storeComplete id s
  · exact exec_loadComplete id s

/-- The note of an early store changes nothing but the early stores. -/
theorem noteEarly_rels (s : State) (id : Nat) (o : MemOp) (t : State) : ∃ r, s.noteEarly id o t = { t with rels := r } := by
  unfold State.noteEarly
  extract_lets old needs early
  split
  · exact ⟨t.rels, rfl⟩
  · exact ⟨_, rfl⟩

section
variable {s t u : State} {id pa : Nat} {o : MemOp}

/-- Where an access goes that its own thread's order allows. -/
theorem complete_eq (h : Spec.onItsWay s id o pa) (hr : s.relReady id o = true ∨ (o.scope ≠ .sys ∧ o.kind.isRead = false)) :
    s.complete id o.kind.returns = (s.perform id o).map (s.noteEarly id o) := by
  obtain ⟨hop, hlive, hrej, hready, -⟩ := h
  have hmay : (s.relReady id o || (o.scope != .sys && !o.kind.isRead)) = true := by
    rcases hr with hr | ⟨hs, hk⟩
    · rw [hr, Bool.true_or]
    · simp [hs, hk]
  simp only [State.complete, hop, hlive, hrej, hready, hmay, Bool.not_true, Bool.false_or, bne_self_eq_false, Bool.false_eq_true, if_false, if_true]

theorem performs (h : Spec.onItsWay s id o pa) (hr : s.relReady id o = true ∨ (o.scope ≠ .sys ∧ o.kind.isRead = false)) (hp : s.perform id o = some t) :
    exec (performing id o) s = .next (s.noteEarly id o t) := by
  rw [exec_performing]
  exact runEvent_of_some ((complete_eq h hr).trans (by rw [hp, Option.map_some]))

theorem stalls (h : Spec.onItsWay s id o pa) (hr : s.relReady id o = true ∨ (o.scope ≠ .sys ∧ o.kind.isRead = false)) (hp : s.perform id o = none) :
    Spec.nothing (performing id o) s := by
  rw [Spec.nothing, exec_performing]
  exact runEvent_of_none ((complete_eq h hr).trans (by rw [hp, Option.map_none]))

/-- A release that may not be performed early waits for what it releases. -/
theorem release_waits (h : Spec.onItsWay s id o pa) (hr : s.relReady id o = false) (hs : o.scope = .sys ∨ o.kind.isRead = true) :
    Spec.nothing (performing id o) s := by
  obtain ⟨hop, hlive, hrej, hready, -⟩ := h
  have hnot : (s.relReady id o || (o.scope != .sys && !o.kind.isRead)) = false := by
    rcases hs with hs | hs <;> simp [hr, hs]
  rw [Spec.nothing, exec_performing]
  refine runEvent_of_none ?_
  simp only [State.complete, hop, hlive, hrej, hready, hnot, Bool.not_true, Bool.false_or, bne_self_eq_false, Bool.false_eq_true, if_false, if_true]

/-! ### Where an access is performed -/

theorem atDirectory_plainRead (h : o.atDirectory = true) : o.kind.plainRead = false := by
  simp only [MemOp.atDirectory, Bool.and_eq_true] at h
  obtain ⟨-, h⟩ := h
  revert h
  cases o.kind with
  | load | store | bld | smld | smst => exact fun h => nomatch h
  | atom | acas | signal => exact fun _ => rfl

theorem perform_eq (hsp : o.space = .phys pa) (hp : Spec.plainHbm s pa) : s.perform id o =
    if o.kind.plainRead then s.readCopy id o o.core pa
    else if o.atDirectory then s.pocPerform id o pa
    else s.writeCopy id o o.core pa := by
  obtain ⟨hk, hw⟩ := hp
  simp only [State.perform, hsp, hk, hw, Option.isSome_none, Bool.false_eq_true, if_false]

/-! ### Memory -/

theorem sameMemory_of_mem (h : t.mem = s.mem) : Spec.sameMemory s t := fun b => by rw [State.byteAt, h, State.byteAt]

theorem read_getD (m : List Host.Cell) (a : Nat) {n j : Nat} (h : j < n) : (Memory.read m a n).getD j 0 = Memory.get m (a + j) := by
  induction n generalizing a j with
  | zero => exact absurd h (Nat.not_lt_zero _)
  | succ n ih =>
    cases j with
    | zero => rfl
    | succ j =>
      rw [Memory.read, List.getD_cons_succ, ih (a + 1) (by omega)]
      congr 1
      omega

/-- Bytes that were written read back, and every other byte is as it was. -/
theorem written_bytes (hs : s.sound = true) {bs : List Byte} (h : t.mem = Memory.write pa bs s.mem) :
    Spec.bytesAre t pa bs ∧ Spec.memoryKept s t pa bs.length := by
  refine ⟨fun j hj => ?_, fun b hb => ?_⟩
  · have e := read_getD (Memory.write pa bs s.mem) pa hj
    rw [Memory.read_write bs pa hs] at e
    rw [State.byteAt, h, ← e]
  · rw [State.byteAt, h, Memory.get_write_ne bs pa hs hb, State.byteAt]

theorem paKind_hbm (s : State) (pa : Nat) : s.paKind pa = .hbm ↔ pa < hbmSize := by
  unfold State.paKind
  refine ⟨fun h => ?_, fun h => if_pos h⟩
  by_contra hn
  rw [if_neg hn] at h
  revert h
  dsimp only
  repeat' split
  all_goals exact fun h => nomatch h

/-- Bytes written to HBM reach memory; the caches' copies stay where they are. -/
theorem poke_moved {keep : Nat} (hk : s.paKind pa = .hbm) (bs : List Byte) (whole : Bool) : Moved keep (s.wrN pa bs) (s.poke pa bs whole) := by
  have hk' : (s.wakeSector (pa / 64)).paKind pa = .hbm := (paKind_hbm _ _).2 ((paKind_hbm _ _).1 hk)
  have hw := wakeSector_moved (keep := keep) s (pa / 64)
  have hmove : Moved keep (s.wrN pa bs) ((s.wakeSector (pa / 64)).wrN pa bs) := by
    refine ⟨?_, ?_, hw.l1, hw.l2own⟩
    · refine ⟨?_, hw.steady.groups⟩
      have e := hw.steady.fields
      simp only [State.wrN]
      rw [e]
    · simp only [State.wrN, hw.mem]
  unfold State.poke
  simp only [hk']
  exact moved_ite (hmove.trans (modSector_moved _ _ _ fun _ => ⟨by rfl, by rfl⟩)) hmove

/-- A launch without a snapshot captures nothing. -/
theorem capture_none {launch : Nat} (h : Spec.noCapture s launch) (pa : Nat) : s.capture (some launch) pa = s := by
  unfold State.capture
  rw [Option.bind_some]
  rcases hx : s.launch? launch with _ | x
  · rfl
  · have hsnap : (x.snap != .held) = true := by simpa using h x hx
    simp only [hsnap, Bool.true_or, if_true]

/-! ### Steady states and accesses -/

/-- A thread may differ in its open region only. -/
theorem steady_thread (h : Steady s t) (m : Lane) : ∃ r, t.thread m = { s.thread m with region := r } := by
  have hg := h.groups m.g
  simp only [State.thread, State.thread?]
  generalize s.group? m.g = x at hg ⊢
  generalize t.group? m.g = y at hg ⊢
  rcases hg with ⟨hxy⟩ | _
  · rename_i x y
    have ht := hxy.2 m.key
    simp only [Option.bind_some]
    generalize x.thread? m.key = a at ht ⊢
    generalize y.thread? m.key = b at ht ⊢
    rcases ht with ⟨hab⟩ | _
    · exact ⟨_, hab.1⟩
    · exact ⟨_, rfl⟩
  · exact ⟨_, rfl⟩

theorem steady_ops (h : Steady s t) : t.ops = s.ops := by rw [h.fields]

theorem steady_group?_isSome (h : Steady s t) {g : Nat} (hg : (s.group? g).isSome = true) : (t.group? g).isSome = true := by
  have hr := h.groups g
  generalize s.group? g = x at hg hr
  generalize t.group? g = y at hr ⊢
  rcases hr with ⟨hxy⟩ | _
  · rfl
  · exact absurd hg (by decide)

theorem steady_unitTakes (h : Steady s t) {sg : Bool} {bs : List Byte} (hs : Spec.unitTakes s o sg bs) : Spec.unitTakes t o sg bs :=
  fun e he => (h.v o.lane e.1).trans (hs e he)

theorem dropCopy_unwritten (s : State) (core k : Nat) : Unwritten s (s.dropCopy core k) :=
  (dropCopy_moved (keep := k + 1) s (by omega) core).unwritten

theorem markCore_dies (s : State) (sec core : Nat) : (s.markCore sec core).dies = s.dies := by
  unfold State.markCore
  split <;> rfl

theorem dropCopy_dies (s : State) (core k : Nat) : (s.dropCopy core k).dies = s.dies := by
  unfold State.dropCopy
  dsimp only
  split
  · rfl
  · exact (markCore_dies _ _ _).trans rfl

/-- A copy that its request brought with HINT 4 may go with the access. -/
theorem mayDrop_unwritten (s : State) (c : Prop) [Decidable c] (core k : Nat) : Unwritten s (if c then s.dropCopy core k else s) := by
  split
  · exact dropCopy_unwritten s core k
  · exact ⟨Steady.refl s, rfl⟩

theorem countHit_unwritten (s : State) (core : Nat) (o : MemOp) : Unwritten s (s.countHit core o) := by
  unfold State.countHit
  split
  · exact ⟨modCore_steady s _ _, rfl⟩
  · exact ⟨Steady.refl s, rfl⟩

theorem countHit_fields (s : State) (core : Nat) (o : MemOp) : s.countHit core o = { s with cores := (s.countHit core o).cores } := by
  unfold State.countHit
  split <;> rfl

/-! ### An access that has been performed -/

/-- The access is performed: over, its registers have what it read, and its last unit takes LD down. -/
structure Performed (s t : State) (id : Nat) (o : MemOp) (sg : Bool) (bs : List Byte) : Prop where
  gone : t.ops.find? id = none
  takes : Spec.unitTakes t o sg bs
  ld : ∀ dst inp, o.kind = .load sg dst inp → Spec.lastUnit s id o → (t.thread o.lane).ld = (s.thread o.lane).ld - 1

/-- An access is performed after a change that threads do not see. -/
theorem opPerformed_performed (h : Spec.onItsWay s id o pa) (hst : Steady s t) {sg : Bool} (hk : signed o.kind sg) (bs : List Byte) :
    Performed s (t.opPerformed id o bs) id o sg bs ∧ (t.opPerformed id o bs).mem = t.mem ∧ (t.opPerformed id o bs).sectors = t.sectors := by
  obtain ⟨hop, -, -, -, -, -, -, hg, hsh, -, hnd⟩ := h
  have hopt : t.ops.find? id = some o := by rw [steady_ops hst, hop]
  obtain ⟨hend, htakes⟩ := opPerformed_takes hopt hk hsh hnd (steady_group?_isSome hst hg) bs
  refine ⟨⟨hend.gone, htakes, fun dst inp hload hlast => ?_⟩, ?_, ?_⟩
  · obtain ⟨r, hr⟩ := steady_thread hst o.lane
    rw [opPerformed_ld hopt hload hsh (by unfold Spec.lastUnit; rw [steady_ops hst]; exact hlast), hr]
  · rw [hend.fields]
  · rw [hend.fields]

/-- What comes after it is seen by regions at most. -/
theorem Performed.steady {sg : Bool} {bs : List Byte} (h : Performed s t id o sg bs) (hst : Steady t u) : Performed s u id o sg bs := by
  refine ⟨by rw [steady_ops hst]; exact h.gone, steady_unitTakes hst h.takes, fun dst inp hk hl => ?_⟩
  obtain ⟨r, hr⟩ := steady_thread hst o.lane
  rw [hr]
  exact h.ld dst inp hk hl

/-! ### A load (R270, R375) -/

section
variable {sg : Bool} {dst : List Nat} {inp : Option Nat}

theorem load_event (h : Spec.onItsWay s id o pa) (hk : o.kind = .load sg dst inp) : performing id o = .loadComplete id ∧
    s.perform id o = s.readCopy id o o.core pa := by
  obtain ⟨-, -, -, -, hsp, hhbm, -⟩ := h
  refine ⟨?_, ?_⟩
  · rw [performing, hk]
    rfl
  · rw [perform_eq hsp hhbm, hk]
    rfl

/-- The bytes of the load's own copy: those that its invalidation has not reached, or those of memory. -/
theorem readCopy_takes (h : Spec.onItsWay s id o pa) (hk : o.kind = .load sg dst inp) {bs : List Byte}
    (hbs : ((s.sector (pa / 64)).stale.find? o.core = none ∧ ((s.sector (pa / 64)).l1.find? o.core).isSome ∧ s.poisoned pa o.size = false ∧
        bs = s.rdN pa o.size) ∨
      (∃ old, (s.sector (pa / 64)).stale.find? o.core = some old ∧ bs = (old.drop (pa % 64)).take o.size)) :
    ∃ t, s.readCopy id o o.core pa = some t ∧ Performed s t id o sg bs ∧ Spec.sameMemory s t := by
  have hheld : s.heldFor (pa / 64) (some o.lane) = false := h.2.2.2.2.2.2.1
  have hhit := countHit_unwritten s o.core o
  obtain ⟨hperf, hmem, -⟩ := opPerformed_performed h hhit.1 (sg := sg) (.inl ⟨dst, inp, hk⟩) bs
  rcases hbs with ⟨hstale, hl1, hpoison, rfl⟩ | ⟨old, hstale, rfl⟩
  · have hclean : (s.countHit o.core o).poisoned pa o.size = false := by
      rw [countHit_fields]
      exact hpoison
    have hread : (s.countHit o.core o).rdN pa o.size = s.rdN pa o.size := by rw [State.rdN, hhit.2, State.rdN]
    have hdrop := mayDrop_unwritten ((s.countHit o.core o).opPerformed id o (s.rdN pa o.size)) (o.hint = 4 ∧ o.level = 5) o.core (pa / 64)
    refine ⟨_, ?_, hperf.steady hdrop.1, sameMemory_of_mem (hdrop.2.trans (hmem.trans hhit.2))⟩
    simp only [State.readCopy, hstale, Option.isNone_eq_false_iff.2 hl1, hheld, Bool.or_false, Bool.false_eq_true, if_false, hclean, hread]
  · refine ⟨_, ?_, hperf, sameMemory_of_mem (hmem.trans hhit.2)⟩
    simp only [State.readCopy, hstale]

/-- A load that finds poison fails. -/
theorem readCopy_poisoned (h : Spec.onItsWay s id o pa) (hk : o.kind = .load sg dst inp)
    (hstale : (s.sector (pa / 64)).stale.find? o.core = none) (hl1 : ((s.sector (pa / 64)).l1.find? o.core).isSome)
    (hpoison : s.poisoned pa o.size = true) (hlive : (s.thread o.lane).live = true) (hdst : dst ≠ []) :
    ∃ u t, s.readCopy id o o.core pa = some t ∧ Poisoned s u id o dst inp.isSome ∧ Unwritten u t ∧ t.dies = u.dies := by
  obtain ⟨hop, -, -, -, -, -, hheld, -, hsh, -⟩ := h
  have hhit := countHit_fields s o.core o
  have hp : (s.countHit o.core o).poisoned pa o.size = true := by
    rw [hhit]
    exact hpoison
  have hfail : Poisoned s ((s.countHit o.core o).opFails id o .poison) id o dst inp.isSome :=
    (opFails_poisoned (by rw [hhit]; exact hop) hk hsh (by rw [hhit]; exact hlive) hdst).of_cores hhit
  refine ⟨_, _, ?_, hfail, mayDrop_unwritten _ (o.hint = 4 ∧ o.level = 5) o.core (pa / 64), ?_⟩
  · simp only [State.readCopy, hstale, Option.isNone_eq_false_iff.2 hl1, hheld, Bool.or_false, Bool.false_eq_true, if_false, hp, if_true]
  · split
    · exact dropCopy_dies _ _ _
    · rfl

theorem readCopy_none (hstale : (s.sector (pa / 64)).stale.find? o.core = none) (hl1 : (s.sector (pa / 64)).l1.find? o.core = none) :
    s.readCopy id o o.core pa = none := by
  simp only [State.readCopy, hstale, hl1, Option.isNone_none, Bool.true_or, if_true]

end

/-! ### A store or an atomic where its bytes are held (R174, R266, R270) -/

/-- The access has stored what its old bytes give, if anything, and is performed. -/
structure Stored (s t : State) (id : Nat) (o : MemOp) (pa : Nat) : Prop where
  bytes : ∀ bs, rmwBytes o.kind (s.rdN pa o.size) o.data = some bs → Spec.bytesAre t pa bs ∧ Spec.memoryKept s t pa bs.length
  kept : rmwBytes o.kind (s.rdN pa o.size) o.data = none → Spec.sameMemory s t
  performed : Performed s t id o false (s.rdN pa o.size)

/-- A state in which memory is what an access stores. -/
structure Wrote (s t : State) (o : MemOp) (pa : Nat) : Prop where
  steady : Steady s t
  some : ∀ bs, rmwBytes o.kind (s.rdN pa o.size) o.data = some bs → t.mem = Memory.write pa bs s.mem
  none : rmwBytes o.kind (s.rdN pa o.size) o.data = none → t.mem = s.mem

theorem wrote_some (hst : Steady s t) {bs : List Byte} (hbs : rmwBytes o.kind (s.rdN pa o.size) o.data = some bs)
    (hmem : t.mem = Memory.write pa bs s.mem) : Wrote s t o pa :=
  ⟨hst, fun bs' h => by rw [hbs] at h; rw [← Option.some.inj h]; exact hmem, fun h => by rw [hbs] at h; exact nomatch h⟩

theorem wrote_none (hst : Steady s t) (hbs : rmwBytes o.kind (s.rdN pa o.size) o.data = none) (hmem : t.mem = s.mem) : Wrote s t o pa :=
  ⟨hst, fun _ h => by rw [hbs] at h; exact (nomatch h), fun _ => hmem⟩

/-- An access that has written is performed. -/
theorem Wrote.stored (hs : s.sound = true) (h : Spec.onItsWay s id o pa) (hk : o.kind.plainRead = false) (hw : Wrote s t o pa)
    (hu : Unwritten (t.opPerformed id o (s.rdN pa o.size)) u) : Stored s u id o pa := by
  obtain ⟨hperf, hmem, -⟩ := opPerformed_performed h hw.steady (sg := false) (.inr ⟨rfl, hk⟩) (s.rdN pa o.size)
  have hm : u.mem = t.mem := hu.2.trans hmem
  exact ⟨fun bs hbs => written_bytes hs (hm.trans (hw.some bs hbs)), fun hn => sameMemory_of_mem (hm.trans (hw.none hn)), hperf.steady hu.1⟩

/-- A write under ownership: the bytes reach memory, and the core's copy is M. -/
theorem ownWrite_writes {launch : Nat} (hcap : Spec.noCapture s launch) (hk : s.paKind pa = .hbm) (core : Nat) (who : Lane) (bs : List Byte)
    (whole : Bool) : Unwritten (s.wrN pa bs) (s.ownWrite core (some launch) (some who) pa bs whole) ∧
      ((s.ownWrite core (some launch) (some who) pa bs whole).sector (pa / 64)).l1.find? core = some .m := by
  have hmark := markOthers_moved (keep := pa / 64) ((s.poke pa bs whole).modSector (pa / 64) fun x =>
    { x with l1 := x.l1.set core .m, below := if x.dirty then x.below else some (s.rdN (64 * (pa / 64)) 64) }) (pa / 64) who
  unfold State.ownWrite
  simp only [capture_none hcap]
  refine ⟨((poke_moved (keep := pa / 64) hk bs whole).unwritten.trans (setSector_unwritten _ _ _)).trans hmark.unwritten, ?_⟩
  rw [hmark.l1, sector_modSector_self]
  exact AMap.find?_set_self _ _ _

/-- A store or an atomic under ownership, every copy inside its scope gone. -/
theorem writeCopy_stores (hs : s.sound = true) (h : Spec.onItsWay s id o pa) (hk : o.kind.plainRead = false)
    (howns : (s.sector (pa / 64)).l1.find? o.core = some .m ∨ (s.sector (pa / 64)).l1.find? o.core = some .e)
    (hclear : (s.sector (pa / 64)).clearFor o.scope o.core = true) (hpoison : o.kind.reads = true → s.poisoned pa o.size = false)
    (hcap : Spec.noCapture s o.launch) :
    ∃ t, s.writeCopy id o o.core pa = some t ∧ Stored s t id o pa ∧
      (∀ bs, rmwBytes o.kind (s.rdN pa o.size) o.data = some bs → ¬(o.hint = 4 ∧ o.level = 5) → (t.sector (pa / 64)).l1.find? o.core = some .m) := by
  have hheld : s.heldFor (pa / 64) (some o.lane) = false := h.2.2.2.2.2.2.1
  have hhbm : s.paKind pa = .hbm := h.2.2.2.2.2.1.1
  have hhit := countHit_unwritten s o.core o
  have howns' : ((s.sector (pa / 64)).l1.find? o.core == some .m || (s.sector (pa / 64)).l1.find? o.core == some .e) = true := by
    rcases howns with e | e <;> rw [e] <;> rfl
  have hclean : (o.kind.reads && s.poisoned pa o.size) = false := by
    rcases hr : o.kind.reads with _ | _
    · rfl
    · rw [hpoison hr]
      rfl
  have hwrite : ∀ t : State, Wrote s t o pa → ∃ u, (if o.hint = 4 ∧ o.level = 5 then (t.opPerformed id o (s.rdN pa o.size)).dropCopy o.core (pa / 64)
      else t.opPerformed id o (s.rdN pa o.size)) = u ∧ Stored s u id o pa ∧ (¬(o.hint = 4 ∧ o.level = 5) → u.sectors = t.sectors) := fun t ht => by
    refine ⟨_, rfl, ht.stored hs h hk (mayDrop_unwritten _ _ _ _), fun hn => ?_⟩
    rw [if_neg hn]
    exact (opPerformed_performed h ht.steady (sg := false) (.inr ⟨rfl, hk⟩) (s.rdN pa o.size)).2.2
  simp only [State.writeCopy, howns', hclear, hheld, hclean, Bool.not_true, Bool.or_false, Bool.false_eq_true, if_false]
  rcases hbs : rmwBytes o.kind (s.rdN pa o.size) o.data with _ | bs
  · obtain ⟨u, hu, hstored, -⟩ := hwrite _ (wrote_none hhit.1 hbs hhit.2)
    exact ⟨u, congrArg some hu, hstored, fun bs h => nomatch h⟩
  · have hcap' : Spec.noCapture (s.countHit o.core o) o.launch := by
      rw [countHit_fields]
      exact hcap
    obtain ⟨hown, hm⟩ := ownWrite_writes hcap' ((paKind_hbm _ _).2 ((paKind_hbm _ _).1 hhbm)) o.core o.lane bs o.whole
    have hmem : ((s.countHit o.core o).ownWrite o.core (some o.launch) (some o.lane) pa bs o.whole).mem = Memory.write pa bs s.mem := by
      rw [hown.2, State.wrN, hhit.2]
    obtain ⟨u, hu, hstored, hsec⟩ := hwrite _ (wrote_some (hhit.1.trans ((wrN_steady _ _ _).trans hown.1)) hbs hmem)
    refine ⟨u, congrArg some hu, hstored, fun _ _ hn => ?_⟩
    rw [State.sector, hsec hn]
    exact hm

/-- Without ownership, or with a copy inside its scope still to go, it waits. -/
theorem writeCopy_none (hn : ¬((s.sector (pa / 64)).l1.find? o.core = some .m ∨ (s.sector (pa / 64)).l1.find? o.core = some .e) ∨
    (s.sector (pa / 64)).clearFor o.scope o.core = false) : s.writeCopy id o o.core pa = none := by
  unfold State.writeCopy
  refine if_pos ?_
  simp only [Bool.or_eq_true, Bool.not_eq_true', Bool.or_eq_false_iff, beq_eq_false_iff_ne]
  rcases hn with hn | hn
  · exact .inl (.inl ⟨fun e => hn (.inl e), fun e => hn (.inr e)⟩)
  · exact .inl (.inr hn)

/-! ### An atomic at the directory of its scope (R174, R266) -/

/-- The sector stands alone with the L2 of the issuer's die, and the directory of the scope answers. -/
def held (s : State) (o : MemOp) (pa : Nat) : Prop :=
  let x := s.sector (pa / 64)
  x.l1 = [] ∧ x.l2own = some (coreDie o.core) ∧ (∀ d ∈ x.l2s, d = coreDie o.core) ∧ x.clearFor o.scope o.core = true ∧
    s.entryLost (pocLevel o.scope) o.core (pa / 64) = false

theorem pocReady_iff (h : Spec.onItsWay s id o pa) : s.pocReady o pa = true ↔ held s o pa := by
  have hheld : s.heldFor (pa / 64) (some o.lane) = false := h.2.2.2.2.2.2.1
  simp only [State.pocReady, Sector.ownedBy, hheld, held, Bool.and_eq_true, Bool.not_eq_true', List.isEmpty_iff, beq_iff_eq, List.all_eq_true,
    and_assoc, true_and]

/-- It reads and writes in one step, and the L2 holds what it wrote. -/
theorem pocPerform_stores (hs : s.sound = true) (h : Spec.onItsWay s id o pa) (hdir : o.atDirectory = true) (hready : held s o pa)
    (hpoison : s.poisoned pa o.size = false) (hcap : Spec.noCapture s o.launch) :
    ∃ t, s.pocPerform id o pa = some t ∧ Stored s t id o pa ∧ (t.sector (pa / 64)).l1 = [] ∧
      (∀ bs, rmwBytes o.kind (s.rdN pa o.size) o.data = some bs → (t.sector (pa / 64)).l2dirty = some (coreDie o.core)) := by
  have hk := atDirectory_plainRead hdir
  have hhbm : s.paKind pa = .hbm := h.2.2.2.2.2.1.1
  have hl1 : (s.sector (pa / 64)).l1 = [] := hready.1
  have hend : ∀ t : State, Wrote s t o pa → Stored s (t.opPerformed id o (s.rdN pa o.size)) id o pa ∧
      ((t.opPerformed id o (s.rdN pa o.size)).sector (pa / 64)) = t.sector (pa / 64) := fun t ht => by
    refine ⟨ht.stored hs h hk ⟨Steady.refl _, rfl⟩, ?_⟩
    rw [State.sector, (opPerformed_performed h ht.steady (sg := false) (.inr ⟨rfl, hk⟩) (s.rdN pa o.size)).2.2, State.sector]
  simp only [State.pocPerform, (pocReady_iff h).2 hready, hpoison, Bool.not_true, Bool.false_eq_true, if_false, capture_none hcap]
  rcases hbs : rmwBytes o.kind (s.rdN pa o.size) o.data with _ | bs
  · obtain ⟨hstored, hsec⟩ := hend _ (wrote_none (Steady.refl s) hbs rfl)
    exact ⟨_, rfl, hstored, by rw [hsec, hl1], fun bs h => nomatch h⟩
  · have hpoke := poke_moved (keep := pa / 64) hhbm bs o.whole
    obtain ⟨hstored, hsec⟩ := hend _ (wrote_some (((wrN_steady s pa bs).trans hpoke.steady).trans (modSector_steady _ (pa / 64)
      fun x => { x with l2dirty := some (coreDie o.core) })) hbs hpoke.mem)
    refine ⟨_, rfl, hstored, ?_, fun _ _ => ?_⟩
    · rw [hsec, sector_modSector_self]
      exact hpoke.l1.trans hl1
    · rw [hsec, sector_modSector_self]

theorem pocPerform_none (h : Spec.onItsWay s id o pa) (hn : ¬held s o pa) : s.pocPerform id o pa = none := by
  unfold State.pocPerform
  exact if_pos (by simpa using fun hr => hn ((pocReady_iff h).1 hr))

/-! ### A release before what it releases (R282) -/

/-- A release that is performed before what it releases is remembered. -/
theorem noteEarly_remembers (t : State) (hr : s.relReady id o = false) : ∃ r ∈ (s.noteEarly id o t).rels,
    r.lane = o.lane ∧ r.core = o.core ∧ r.scope = o.scope ∧ r.rel = true ∧ r.space = o.space ∧ r.size = o.size ∧ r.last = true := by
  have hrel : MOrd.releases o.ord = true := by
    by_contra hn
    simp [State.relReady, Bool.eq_false_iff.2 hn] at hr
  unfold State.noteEarly
  extract_lets old needs early
  have hearly : early = true := by simp [early, hrel, hr]
  clear_value early
  subst hearly
  rw [if_neg (by simp)]
  exact ⟨_, List.mem_cons_self, rfl, rfl, rfl, hrel, rfl, rfl, rfl⟩

end

end Sys2Proof.AccessEvents
end

section
/-! SUPPORT. The events that move requests and copies: a request climbs and is answered, a rejected one is presented again, an invalidation arrives,
a line is written back (R262, R265 to R273; O46). -/

namespace Sys2Proof.AccessEvents

open Sys2Proof Sys2Proof.Machine Sys2Proof.EventRun Sys2Proof.Steadiness Sys2Proof.SectorMoves

theorem exec_directoryRequest (id : Nat) (s : State) : exec (.directoryRequest id) s = runEvent (fun s => s.directoryRequest id) s := rfl
theorem exec_requestRepresent (id : Nat) (s : State) : exec (.requestRepresent id) s = runEvent (fun s => s.representRequest id) s := rfl
theorem exec_forwardedRequest (sec core : Nat) (s : State) : exec (.forwardedRequest sec core) s = runEvent (fun s => s.forwardedRequest sec core) s := rfl
theorem exec_mscWriteback (line : Nat) (s : State) : exec (.mscWriteback line) s = runEvent (fun s => s.mscWriteback line) s := rfl

section
variable {s t u : State} {id pa : Nat} {o : MemOp}

/-! ### A request at a directory (R265 to R268) -/

/-- A request of a plain sector of HBM climbs. -/
theorem directoryRequest_eq (hop : s.ops.find? id = some o) (hlive : o.live = true) (hrej : o.rejected = false) (hsp : o.space = .phys pa)
    (hp : Spec.plainHbm s pa) : s.directoryRequest id = s.climb id o pa := by
  obtain ⟨hk, hw⟩ := hp
  have hopen : s.portOpen o.space = true := by
    simp only [State.portOpen, State.spaceKind, hsp, hk, State.kindOpen]
  rw [hsp] at hopen
  simp only [State.directoryRequest, hop, hlive, hrej, hsp, hopen, hk, hw, Bool.not_true, Bool.or_false, Bool.false_eq_true, if_false,
    Option.isSome_none]

/-- One that is answered where it stands, or whose directory is being rebuilt, does not. -/
theorem climb_none (hlev : o.level ≤ 4) (h : s.answered o pa = true ∨ s.entryLost o.level o.core (pa / 64) = true) : s.climb id o pa = none := by
  have hk : (if 5 ≤ o.level then 0 else o.level) = o.level := if_neg (by omega)
  unfold State.climb
  simp only [hk]
  refine if_pos ?_
  rcases h with h | h
  · rw [h, Bool.true_or]
  · rw [h, Bool.or_true]

/-- L1MISS counts the request of a core without a copy (R275). -/
def missed (s : State) (o : MemOp) (pa : Nat) : State :=
  if o.level = 0 ∧ ((s.sector (pa / 64)).l1.find? o.core).isNone then s.modCore o.core fun c => { c with l1miss := c.l1miss + 1 } else s

/-- Is the directory of an atomic's scope farther on? -/
def farther (o : MemOp) : Bool := o.atDirectory && decide (o.level < pocLevel o.scope)

/-- Does the directory of a request's level answer it? -/
def answers (s : State) (o : MemOp) (pa : Nat) : Bool :=
  let d := (s.sector (pa / 64)).dir.find? (dirKey o.level o.core)
  (if !o.kind.plainRead then d == some .x else d.isSome) || o.level == 4

/-- What a request does at a directory below which no old copy answers. -/
theorem climb_eq (hlev : o.level ≤ 4) (ha : s.answered o pa = false) (hl : s.entryLost o.level o.core (pa / 64) = false)
    (hold : o.kind.plainRead = true → (s.sector (pa / 64)).oldBelow (dirKey o.level o.core) o.core = none) :
    s.climb id o pa =
      if !farther o && answers s o pa then
        if o.atDirectory then (missed s o pa).grantPoc id o pa else (missed s o pa).grant id o (pa / 64) (!o.kind.plainRead)
      else if o.level = 1 then some ((missed s o pa).leaveDie id o pa 2)
      else some { missed s o pa with ops := (missed s o pa).ops.modify id fun o' => { o' with level := o.level + 1 } } := by
  have hk : (if 5 ≤ o.level then 0 else o.level) = o.level := if_neg (by omega)
  have hnone : (if !o.kind.plainRead then none else (s.sector (pa / 64)).oldBelow (dirKey o.level o.core) o.core) = none := by
    rcases hp : o.kind.plainRead with _ | _
    · rfl
    · exact hold hp
  unfold State.climb
  simp only [hk, ha, hl, hnone, Bool.false_or, Bool.false_eq_true, if_false, Option.isSome_none, Bool.false_and]
  rfl

theorem farther_iff : farther o = true ↔ o.atDirectory = true ∧ o.level < pocLevel o.scope := by
  simp only [farther, Bool.and_eq_true, decide_eq_true_eq]

theorem answers_iff : answers s o pa = true ↔
    (if o.kind.plainRead then (s.sector (pa / 64)).dir.find? (dirKey o.level o.core) ≠ none
      else (s.sector (pa / 64)).dir.find? (dirKey o.level o.core) = some .x) ∨ o.level = 4 := by
  unfold answers
  cases o.kind.plainRead
  · simp
  · simp [Option.isSome_iff_ne_none]

/-- What counts a miss changes its core's counters alone. -/
theorem missed_fields : missed s o pa = { s with cores := (missed s o pa).cores } := by
  unfold missed
  split <;> rfl

theorem missed_l1miss : ((missed s o pa).core o.core).l1miss =
    (s.core o.core).l1miss + if o.level = 0 ∧ (s.sector (pa / 64)).l1.find? o.core = none then 1 else 0 := by
  unfold missed
  simp only [Option.isNone_iff_eq_none]
  split
  · rw [State.core, State.modCore, State.setCore, AMap.get_set_self]
  · exact (BitVec.add_zero _).symm

/-- A request that its directory does not answer goes to the next, and on its way out of the die it takes an entry or is rejected. -/
theorem climb_on (hop : s.ops.find? id = some o) (hlev : o.level ≤ 4) (ha : s.answered o pa = false)
    (hl : s.entryLost o.level o.core (pa / 64) = false)
    (hold : o.kind.plainRead = true → (s.sector (pa / 64)).oldBelow (dirKey o.level o.core) o.core = none)
    (hp : farther o = true ∨ answers s o pa = false) (hk : o.level ≠ 1) :
    ∃ t, s.climb id o pa = some t ∧ t.ops.find? id = some { o with level := o.level + 1 } ∧ t.sectors = s.sectors ∧ t.mem = s.mem ∧
      (t.core o.core).l1miss = (s.core o.core).l1miss + if o.level = 0 ∧ (s.sector (pa / 64)).l1.find? o.core = none then 1 else 0 := by
  have hno : ¬(!farther o && answers s o pa) = true := by
    rcases hp with h | h <;> simp [h]
  refine ⟨_, (climb_eq hlev ha hl hold).trans ((if_neg hno).trans (if_neg hk)), ?_, ?_, ?_, missed_l1miss⟩
  · rw [missed_fields]
    exact (AMap.find?_modify_self _ _ _).trans (by rw [hop, Option.map_some])
  · rw [missed_fields]
  · rw [missed_fields]

theorem climb_out (hop : s.ops.find? id = some o) (ha : s.answered o pa = false) (hl : s.entryLost o.level o.core (pa / 64) = false)
    (hold : o.kind.plainRead = true → (s.sector (pa / 64)).oldBelow (dirKey o.level o.core) o.core = none)
    (hp : farther o = true ∨ answers s o pa = false) (hk : o.level = 1) :
    ∃ t, s.climb id o pa = some t ∧ t.sectors = s.sectors ∧ t.mem = s.mem ∧
      t.ops.find? id = some (if o.entry = true ∨ s.entryFree (coreDie o.core) (sliceOf pa) id none = true
        then { o with level := 2, entry := true } else { o with rejected := true, rejects := o.rejects + 1 }) := by
  have hno : ¬(!farther o && answers s o pa) = true := by
    rcases hp with h | h <;> simp [h]
  have hs : missed s o pa = s := if_neg (by simp [hk])
  have hclimb := (climb_eq (id := id) (by omega) ha hl hold).trans ((if_neg hno).trans (if_pos hk))
  rw [hs] at hclimb
  have hmod : ∀ f : MemOp → MemOp, (s.ops.modify id f).find? id = some (f o) := fun f =>
    (AMap.find?_modify_self _ _ _).trans (by rw [hop, Option.map_some])
  refine ⟨_, hclimb, ?_⟩
  unfold State.leaveDie
  simp only [Bool.or_eq_true]
  split
  · exact ⟨rfl, rfl, hmod _⟩
  · exact ⟨rfl, rfl, hmod _⟩

/-! ### A request is answered (R262, R268, R269) -/

/-- Room is made for an access that a directory has answered: it is at its place, and its sector stays with its holders. -/
theorem answered_moved (o : MemOp) (k : Nat) {f : MemOp → MemOp} (hop : t.ops.find? id = some o) :
    let w := ({ t with ops := t.ops.modify id f }).makeRoom o k
    w.ops.find? id = some (f o) ∧ w.mem = t.mem ∧ (w.sector k).l1 = (t.sector k).l1 ∧ (w.sector k).l2own = (t.sector k).l2own := by
  have hroom := makeRoom_moved (keep := k) { t with ops := t.ops.modify id f } o
  refine ⟨?_, hroom.mem, hroom.l1, hroom.l2own⟩
  rw [AccessEvents.steady_ops hroom.steady]
  exact (AMap.find?_modify_self _ _ _).trans (by rw [hop, Option.map_some])

/-- The checks of an answer. -/
theorem grant_open {k : Nat} {own : Bool} (hclear : own = true → (s.sector k).stale = [] ∧ (s.sector k).l2stale = []) :
    (own && !((s.sector k).stale.isEmpty && (s.sector k).l2stale.isEmpty)) = false := by
  rcases own with _ | _
  · rfl
  · obtain ⟨h1, h2⟩ := hclear rfl
    rw [h1, h2]
    rfl

/-- A core's request is answered: it has a copy, and for ownership the only one. -/
theorem grant_grants (hop : s.ops.find? id = some o) (k : Nat) (own : Bool)
    (hclear : own = true → (s.sector k).stale = [] ∧ (s.sector k).l2stale = []) (hheld : s.heldFor k (some o.lane) = false)
    (hlost : s.pathLost o.level o.core k own = false) :
    ∃ t, s.grant id o k own = some t ∧ t.ops.find? id = some { o with level := 5, entry := o.entry && own } ∧ t.mem = s.mem ∧
      ((t.sector k).l1.find? o.core).isSome = true ∧ (own = true → (t.sector k).l1.map Prod.fst = [o.core]) := by
  have hhome := (fromHome_moved (keep := k) s k o.hint).unwritten
  have hown := grantOwn_granted (s.fromHome k o.hint) o.core k
  have hread := grantRead_granted (s.fromHome k o.hint) o.core k
  have hend : ∀ t : State, Unwritten (s.fromHome k o.hint) t → ((t.sector k).l1.find? o.core).isSome = true →
      (own = true → (t.sector k).l1.map Prod.fst = [o.core]) →
      let w := ({ t with ops := t.ops.modify id fun o => { o with level := 5, entry := o.entry && own } }).makeRoom o k
      w.ops.find? id = some { o with level := 5, entry := o.entry && own } ∧ w.mem = s.mem ∧ ((w.sector k).l1.find? o.core).isSome = true ∧
        (own = true → (w.sector k).l1.map Prod.fst = [o.core]) := fun t ht hc ho => by
    obtain ⟨h1, h2, h3, -⟩ := answered_moved o k (f := fun o => { o with level := 5, entry := o.entry && own })
      (by rw [steady_ops (hhome.trans ht).1, hop] : t.ops.find? id = some o)
    exact ⟨h1, h2.trans (hhome.trans ht).2, by rw [h3]; exact hc, fun e => by rw [h3]; exact ho e⟩
  simp only [State.grant, grant_open hclear, hheld, hlost, Bool.or_false, Bool.false_eq_true, if_false]
  refine ⟨_, rfl, ?_⟩
  cases own
  · exact hend _ hread.1 hread.2 fun h => nomatch h
  · obtain ⟨hu, v, hv⟩ := hown
    refine hend _ hu ?_ fun _ => ?_
    · rw [if_pos rfl, hv]
      simp [AMap.find?]
    · rw [if_pos rfl, hv]
      rfl

/-- An atomic's directory takes the sector for the L2 of its die. -/
theorem grantPoc_grants (hop : s.ops.find? id = some o) (hstale : (s.sector (pa / 64)).stale = [] ∧ (s.sector (pa / 64)).l2stale = [])
    (hheld : s.heldFor (pa / 64) (some o.lane) = false) (hlost : s.pathLost (pocLevel o.scope) o.core (pa / 64) true = false) :
    ∃ t, s.grantPoc id o pa = some t ∧ t.ops.find? id = some { o with level := 5 } ∧ t.mem = s.mem ∧
      (t.sector (pa / 64)).l1 = [] ∧ (t.sector (pa / 64)).l2own = some (coreDie o.core) := by
  have hhome := (fromHome_moved (keep := pa / 64) s (pa / 64) o.hint).unwritten
  obtain ⟨htake, hl1, hown⟩ := takeInside_taken (s.fromHome (pa / 64) o.hint) o.core o.scope (coreDie o.core) (pa / 64)
  obtain ⟨h1, h2, h3, h4⟩ := answered_moved o (pa / 64) (f := fun o => { o with level := 5 })
    (by rw [steady_ops (hhome.trans htake).1, hop] :
      ((s.fromHome (pa / 64) o.hint).takeInside o.core o.scope (coreDie o.core) (pa / 64)).ops.find? id = some o)
  have hopen := grant_open (s := s) (k := pa / 64) (own := true) fun _ => hstale
  rw [Bool.true_and] at hopen
  simp only [State.grantPoc, hopen, hheld, hlost, Bool.or_false, Bool.false_eq_true, if_false]
  exact ⟨_, rfl, h1, h2.trans (hhome.trans htake).2, h3.trans hl1, h4.trans hown⟩

/-! ### A rejected request (R272, R273) -/

theorem die_modDie_self (s : State) (d : Nat) (f : Die → Die) : (s.modDie d f).die d = f (s.die d) := AMap.get_set_self _ _ _ _

/-- It takes an entry that is free for it. -/
theorem represent_enters (hop : s.ops.find? id = some o) (hlive : o.live = true) (hrej : o.rejected = true) (hsp : o.space = .phys pa)
    (hroom : s.entryFree (coreDie o.core) (sliceOf pa) id o.agedAt = true) :
    ∃ t, s.representRequest id = some t ∧ t.ops.find? id = some { o with rejected := false, agedAt := none, level := 2, entry := true } ∧
      (t.die (coreDie o.core)).memAged = (s.die (coreDie o.core)).memAged + if o.agedAt.isSome then 1 else 0 := by
  let u : State := { s with ops := s.ops.modify id fun o => { o with rejected := false, agedAt := none, level := 2, entry := true } }
  have hentered : u.ops.find? id = some { o with rejected := false, agedAt := none, level := 2, entry := true } :=
    (AMap.find?_modify_self _ _ _).trans (by rw [hop, Option.map_some])
  have hrep : s.representRequest id =
      some (if o.agedAt.isSome then u.modDie (coreDie o.core) fun d => { d with memAged := d.memAged + 1 } else u) := by
    simp only [State.representRequest, hop, hsp, hlive, hrej, hroom, Bool.not_true, Bool.or_false, Bool.false_eq_true, if_false, if_true, u]
  refine ⟨_, hrep, ?_⟩
  split
  · exact ⟨hentered, by rw [die_modDie_self]; rfl⟩
  · exact ⟨hentered, (BitVec.add_zero _).symm⟩

/-- It is rejected again, and after 64 times it is on the aged list. -/
theorem represent_rejected (hop : s.ops.find? id = some o) (hlive : o.live = true) (hrej : o.rejected = true) (hsp : o.space = .phys pa)
    (hroom : s.entryFree (coreDie o.core) (sliceOf pa) id o.agedAt = false) (hage : o.agedAt = none) :
    ∃ t, s.representRequest id = some t ∧
      t.ops.find? id = some { o with rejects := o.rejects + 1, agedAt := if 64 ≤ o.rejects + 1 then some s.time else none } ∧
      (t.die (coreDie o.core)).memRej = (s.die (coreDie o.core)).memRej + 1 := by
  rw [hage] at hroom
  let u : State := { s with ops := s.ops.modify id fun p =>
    { p with rejects := o.rejects + 1, agedAt := if 64 ≤ o.rejects + 1 then some s.time else none } }
  have hrep : s.representRequest id = some (u.modDie (coreDie o.core) fun d => { d with memRej := d.memRej + 1 }) := by
    simp only [State.representRequest, hop, hsp, hlive, hrej, hage, hroom, Bool.not_true, Bool.or_false, Bool.false_eq_true, if_false,
      Option.isSome_none, u]
  refine ⟨_, hrep, ?_, by rw [die_modDie_self]; rfl⟩
  exact (AMap.find?_modify_self _ _ _).trans (by rw [hop, Option.map_some])

theorem represent_waits (hop : s.ops.find? id = some o) (hsp : o.space = .phys pa)
    (hroom : s.entryFree (coreDie o.core) (sliceOf pa) id o.agedAt = false) (hage : o.agedAt.isSome = true) : s.representRequest id = none := by
  simp only [State.representRequest, hop, hsp, hroom, hage, Bool.false_eq_true, if_false, if_true, ite_self]

/-! ### An invalidation arrives (R270) -/

/-- What every step of a run leaves alone, the run does. -/
theorem foldl_keeps {α β : Type} (p : State → β) (f : State → α → State) (h : ∀ s x, p (f s x) = p s) (l : List α) (s : State) :
    p (l.foldl f s) = p s := by
  induction l generalizing s with
  | nil => rfl
  | cons a r ih => exact (ih _).trans (h s a)

theorem markCore_sectors (s : State) (sec core : Nat) : (s.markCore sec core).sectors = s.sectors := by
  unfold State.markCore
  split <;> rfl

theorem wakeSector_sectors (s : State) (sec : Nat) : (s.wakeSector sec).sectors = s.sectors := by
  refine foldl_keeps State.sectors _ (fun s p => ?_) _ s
  unfold State.wake
  split <;> rfl

/-- The stale copy of a core ends, and no other does. -/
theorem forwarded_core {sec core : Nat} (h : ((s.sector sec).stale.find? core).isSome = true) :
    ∃ t, s.forwardedRequest sec core = some t ∧ (t.sector sec).stale.find? core = none ∧
      (∀ c, c ≠ core → (t.sector sec).stale.find? c = (s.sector sec).stale.find? c) ∧ t.mem = s.mem := by
  unfold State.forwardedRequest
  simp only [h, if_true]
  refine ⟨_, rfl, ?_⟩
  have hsec : ∀ v : State, ((v.markCore sec core).wakeSector sec).sector sec = v.sector sec := fun v => by
    rw [State.sector, wakeSector_sectors, markCore_sectors, State.sector]
  rw [hsec, sector_modSector_self]
  exact ⟨AMap.find?_erase_self _ _, fun c hc => AMap.find?_erase_ne hc _, by simp⟩

/-- The stale copy in an L2 ends, and no other does. -/
theorem forwarded_l2 {sec core : Nat} (hn : (s.sector sec).stale.find? core = none)
    (h : ((s.sector sec).l2stale.find? (coreDie core)).isSome = true) :
    ∃ t, s.forwardedRequest sec core = some t ∧ (t.sector sec).l2stale.find? (coreDie core) = none ∧
      (∀ d, d ≠ coreDie core → (t.sector sec).l2stale.find? d = (s.sector sec).l2stale.find? d) ∧ t.mem = s.mem := by
  unfold State.forwardedRequest
  simp only [hn, h, Option.isSome_none, Bool.false_eq_true, if_false, if_true]
  refine ⟨_, rfl, ?_⟩
  rw [sector_modSector_self]
  exact ⟨AMap.find?_erase_self _ _, fun d hd => AMap.find?_erase_ne hd _, rfl⟩

/-! ### A dirty line is written back (R262, R275) -/

/-- A line loses its dirty data sector by sector. -/
theorem drained_msc (ks : List Nat) (s : State) (k : Nat) (h : k ∈ ks ∨ (s.sector k).msc = none) :
    ((ks.foldl (fun (s : State) k => s.modSector k fun x => { x with msc := none }) s).sector k).msc = none := by
  induction ks generalizing s with
  | nil => exact h.resolve_left List.not_mem_nil
  | cons j r ih =>
    refine ih _ ?_
    by_cases hk : k = j
    · right
      rw [hk, sector_modSector_self]
    · rcases h with h | h
      · exact .inl ((List.mem_cons.1 h).resolve_left hk)
      · right
        rw [sector_modSector_ne _ hk, h]

theorem mem_lineSectors {line j : Nat} (h : j < 4) : 4 * line + j ∈ lineSectors line :=
  List.mem_map.2 ⟨j, List.mem_range.2 h, rfl⟩

theorem mscWriteback_drains {line k : Nat} (hk : k < 4) (h : (s.sector (4 * line + k)).msc.isSome = true) :
    ∃ t, s.mscWriteback line = some t ∧ (∀ j, j < 4 → (t.sector (4 * line + j)).msc = none) ∧
      (t.die (s.home (256 * line))).mscWb = (s.die (s.home (256 * line))).mscWb + 1 ∧ t.mem = s.mem := by
  have hany : ((lineSectors line).any fun k => (s.sector k).msc.isSome) = true := List.any_eq_true.2 ⟨_, mem_lineSectors hk, h⟩
  refine ⟨s.mscDrain line, if_pos hany, ?_, ?_, State.mscDrain_mem s line⟩
  · intro j hj
    unfold State.mscDrain
    rw [if_pos hany]
    exact drained_msc _ s _ (.inl (mem_lineSectors hj))
  · unfold State.mscDrain
    have hhome := foldl_keeps (fun s : State => (s.dies, s.homemap)) (fun (s : State) k => s.modSector k fun x => { x with msc := none })
      (fun _ _ => rfl) (lineSectors line) s
    obtain ⟨hd, -⟩ := Prod.mk.inj hhome
    rw [if_pos hany, die_modDie_self, State.die, hd, State.die]

end

end Sys2Proof.AccessEvents
end

section
/-! SUPPORT. Accesses are performed, requests climb and are answered, stale copies end, dirty lines drain (O46). -/

namespace Sys2Proof.AccessEvents

open Sys2Proof Sys2Proof.Machine Sys2Proof.EventRun Sys2Proof.Steadiness Sys2Proof.SectorMoves Sys2Proof.AccessEnd

section
variable {s t : State} {id pa : Nat} {o : MemOp}

/-- The state in which an access has been performed, with what is remembered of it. -/
theorem performed_state (h : Spec.onItsWay s id o pa) (hr : s.relReady id o = true ∨ (o.scope ≠ .sys ∧ o.kind.isRead = false))
    (hp : s.perform id o = some t) :
    ∃ w, exec (performing id o) s = .next w ∧ w = { t with rels := w.rels } ∧ w.rels = (s.noteEarly id o t).rels := by
  obtain ⟨r, hw⟩ := noteEarly_rels s id o t
  exact ⟨_, performs h hr hp, by rw [hw], rfl⟩

/-- Registers, counters and what is in flight do not show what is remembered of early stores. -/
theorem Performed.rels {w : State} {sg : Bool} {bs : List Byte} (h : Performed s t id o sg bs) (hw : w = { t with rels := w.rels }) :
    Performed s w id o sg bs := by
  rw [hw]
  exact ⟨h.gone, h.takes, h.ld⟩

theorem Stored.rels {w : State} (h : Stored s t id o pa) (hw : w = { t with rels := w.rels }) : Stored s w id o pa := by
  refine ⟨fun bs hbs => ?_, fun hn => ?_, h.performed.rels hw⟩
  · rw [hw]
    exact h.bytes bs hbs
  · rw [hw]
    exact h.kept hn

theorem sector_rels {w : State} (hw : w = { t with rels := w.rels }) (k : Nat) : w.sector k = t.sector k := by
  rw [hw]
  rfl

/-! ### Loads -/

section
variable {sg : Bool} {dst : List Nat} {inp : Option Nat}

theorem load_completes (h : Spec.mayPerform s id o pa) (hk : o.kind = .load sg dst inp) {bs : List Byte}
    (hbs : ((s.sector (pa / 64)).stale.find? o.core = none ∧ ((s.sector (pa / 64)).l1.find? o.core).isSome ∧ s.poisoned pa o.size = false ∧
        bs = s.rdN pa o.size) ∨
      (∃ old, (s.sector (pa / 64)).stale.find? o.core = some old ∧ bs = (old.drop (pa % 64)).take o.size)) :
    ∃ t, exec (.loadComplete id) s = .next t ∧ Spec.unitTakes t o sg bs ∧ t.ops.find? id = none ∧
      (Spec.lastUnit s id o → (t.thread o.lane).ld = (s.thread o.lane).ld - 1) ∧ Spec.sameMemory s t := by
  obtain ⟨he, hperf⟩ := load_event h.1 hk
  obtain ⟨t, ht, hdone, hmem⟩ := readCopy_takes h.1 hk hbs
  obtain ⟨w, hexec, hw, -⟩ := performed_state h.1 (.inl h.2) (hperf.trans ht)
  obtain ⟨hgone, htakes, hld⟩ := hdone.rels hw
  refine ⟨w, he ▸ hexec, htakes, hgone, hld dst inp hk, ?_⟩
  rw [hw]
  exact hmem

theorem load_fails (h : Spec.mayPerform s id o pa) (hk : o.kind = .load sg dst inp)
    (hstale : (s.sector (pa / 64)).stale.find? o.core = none) (hl1 : ((s.sector (pa / 64)).l1.find? o.core).isSome)
    (hpoison : s.poisoned pa o.size = true) (hlive : (s.thread o.lane).live = true) (hdst : dst ≠ []) :
    ∃ t, exec (.loadComplete id) s = .next t ∧ t.ops.find? id = none ∧
      (t.thread o.lane).loads = (s.thread o.lane).loads ++
        [{ info := { cause := .poison, kind := .load, addr := o.va }, dst, input := inp.isSome }] ∧
      (t.thread o.lane).ld = (s.thread o.lane).ld - 1 ∧
      (t.die (coreDie o.core)).consume = (s.die (coreDie o.core)).consume + 1 ∧ (∀ l n, t.v l n = s.v l n) ∧ Spec.sameMemory s t := by
  obtain ⟨he, hperf⟩ := load_event h.1 hk
  obtain ⟨u, t, ht, hfail, ⟨hst, hmem⟩, hdies⟩ := readCopy_poisoned h.1 hk hstale hl1 hpoison hlive hdst
  obtain ⟨w, hexec, hw, -⟩ := performed_state h.1 (.inl h.2) (hperf.trans ht)
  obtain ⟨r, hthread⟩ := steady_thread hst o.lane
  refine ⟨w, he ▸ hexec, ?_⟩
  rw [hw]
  refine ⟨?_, ?_, ?_, ?_, fun l n => (hst.v l n).trans (hfail.v l n), sameMemory_of_mem (hmem.trans hfail.mem)⟩
  · exact (congrArg (fun m => AMap.find? m id) (steady_ops hst)).trans hfail.gone
  · exact (congrArg Thread.loads hthread).trans hfail.loads
  · exact (congrArg Thread.ld hthread).trans hfail.ld
  · exact (congrArg (fun m => (AMap.get Die.init m (coreDie o.core)).consume) hdies).trans hfail.consume

theorem load_waits (h : Spec.mayPerform s id o pa) (hk : o.kind = .load sg dst inp)
    (hstale : (s.sector (pa / 64)).stale.find? o.core = none) (hl1 : (s.sector (pa / 64)).l1.find? o.core = none) :
    Spec.nothing (.loadComplete id) s := by
  obtain ⟨he, hperf⟩ := load_event h.1 hk
  exact he ▸ stalls h.1 (.inl h.2) (hperf.trans (readCopy_none hstale hl1))

end

/-! ### Stores and atomics -/

theorem perform_copy (h : Spec.onItsWay s id o pa) (hk : o.kind.plainRead = false) (hd : o.atDirectory = false) :
    s.perform id o = s.writeCopy id o o.core pa := by
  rw [perform_eq h.2.2.2.2.1 h.2.2.2.2.2.1, hk, hd]
  rfl

theorem perform_directory (h : Spec.onItsWay s id o pa) (hd : o.atDirectory = true) : s.perform id o = s.pocPerform id o pa := by
  rw [perform_eq h.2.2.2.2.1 h.2.2.2.2.2.1, atDirectory_plainRead hd, hd]
  rfl

end

/-! ### Requests -/

section
variable {s : State} {id pa : Nat} {o : MemOp}

/-- The answer of the directory that a request has come to. -/
theorem request_answered (hop : s.ops.find? id = some o) (hlev : o.level ≤ 4) (ha : s.answered o pa = false)
    (hl : s.entryLost o.level o.core (pa / 64) = false) (hheld : s.heldFor (pa / 64) (some o.lane) = false)
    (hold : o.kind.plainRead = true → (s.sector (pa / 64)).oldBelow (dirKey o.level o.core) o.core = none)
    (hfar : farther o = false) (hhere : answers s o pa = true)
    (hlost : s.pathLost (if o.atDirectory then pocLevel o.scope else o.level) o.core (pa / 64) (!o.kind.plainRead) = false)
    (hclear : o.kind.plainRead = false → (s.sector (pa / 64)).stale = [] ∧ (s.sector (pa / 64)).l2stale = []) :
    ∃ t, s.climb id o pa = some t ∧
      t.ops.find? id = some { o with level := 5, entry := o.entry && (o.atDirectory || !o.kind.plainRead) } ∧
      (o.atDirectory = true → (t.sector (pa / 64)).l1 = [] ∧ (t.sector (pa / 64)).l2own = some (coreDie o.core)) ∧
      (o.atDirectory = false → ((t.sector (pa / 64)).l1.find? o.core).isSome) ∧
      (o.atDirectory = false → o.kind.plainRead = false → (t.sector (pa / 64)).l1.map Prod.fst = [o.core]) ∧ Spec.sameMemory s t := by
  have hyes : (!farther o && answers s o pa) = true := by rw [hfar, hhere]; rfl
  have hclimb := (climb_eq (id := id) hlev ha hl hold).trans (if_pos hyes)
  have hm := missed_fields (s := s) (o := o) (pa := pa)
  rcases hd : o.atDirectory with _ | _
  · rw [hd, if_neg Bool.false_ne_true] at hclimb hlost
    obtain ⟨t, ht, hops, hmem, hone, honly⟩ := grant_grants (s := missed s o pa) (by rw [hm]; exact hop) (pa / 64) (!o.kind.plainRead)
      (by rw [hm]; exact fun e => hclear (by simpa using e)) (by rw [hm]; exact hheld) (by rw [hm]; exact hlost)
    refine ⟨t, hclimb.trans ht, hops, fun h => (nomatch h), fun _ => hone, fun _ hk => honly (by rw [hk]; rfl), sameMemory_of_mem ?_⟩
    rw [hmem, hm]
  · have hk := atDirectory_plainRead hd
    rw [hd, if_pos rfl] at hclimb hlost
    rw [hk] at hlost
    obtain ⟨t, ht, hops, hmem, hnone, hown⟩ := grantPoc_grants (s := missed s o pa) (by rw [hm]; exact hop)
      (by rw [hm]; exact hclear hk) (by rw [hm]; exact hheld) (by rw [hm]; exact hlost)
    refine ⟨t, hclimb.trans ht, ?_, fun _ => ⟨hnone, hown⟩, fun h => (nomatch h), fun h => (nomatch h), sameMemory_of_mem ?_⟩
    · rw [hops, Bool.true_or, Bool.and_true]
    · rw [hmem, hm]

/-- A request goes on where its directory does not answer it, or its scope's is farther. -/
theorem goes_on (h : (o.atDirectory = true ∧ o.level < pocLevel o.scope) ∨
    ¬((if o.kind.plainRead then (s.sector (pa / 64)).dir.find? (dirKey o.level o.core) ≠ none
      else (s.sector (pa / 64)).dir.find? (dirKey o.level o.core) = some .x) ∨ o.level = 4)) : farther o = true ∨ answers s o pa = false :=
  h.imp farther_iff.2 fun hn => Bool.eq_false_iff.2 fun ha => hn (answers_iff.1 ha)

/-- What the step of a request leaves is what the event leaves. -/
theorem request_steps (hop : s.ops.find? id = some o) (hlive : o.live = true) (hrej : o.rejected = false) (hsp : o.space = .phys pa)
    (hp : Spec.plainHbm s pa) {t : State} (h : s.climb id o pa = some t) : exec (.directoryRequest id) s = .next t :=
  (exec_directoryRequest id s).trans (runEvent_of_some ((directoryRequest_eq hop hlive hrej hsp hp).trans h))

end

/-! ### The claim -/

/-- Settles O46, event by event: what `complete` performs is the read of a copy, the write under ownership or the atomic of a directory, each with
its own lemma; a request's step is one of `climb_on`, `climb_out` and `request_answered`, and makes room in other lines only. -/
theorem accessEvents : Obligations.AccessEvents := by
  unfold Obligations.AccessEvents
  intro s hs
  refine ⟨?_, ?_, ?_, ?_, ?_, ?_, ?_, ?_, ?_⟩
  · intro id o pa sg dst inp h hk
    exact ⟨fun bs hbs => load_completes h hk hbs, load_fails h hk, load_waits h hk⟩
  · intro id o pa h hk hd
    refine ⟨fun howns hclear hpoison hcap => ?_, fun hn => ?_⟩
    · obtain ⟨t, ht, hstored, hm⟩ := writeCopy_stores hs h.1 hk howns hclear hpoison hcap
      obtain ⟨w, hexec, hw, -⟩ := performed_state h.1 (.inl h.2) ((perform_copy h.1 hk hd).trans ht)
      obtain ⟨hbytes, hkept, hdone⟩ := hstored.rels hw
      refine ⟨w, hexec, fun bs hbs => ?_, hkept, hdone.takes, hdone.gone⟩
      obtain ⟨hare, hrest⟩ := hbytes bs hbs
      exact ⟨hare, hrest, fun hn => by rw [sector_rels hw]; exact hm bs hbs hn⟩
    · exact stalls h.1 (.inl h.2) ((perform_copy h.1 hk hd).trans (writeCopy_none hn))
  · intro id o pa h hr hk hd
    refine ⟨release_waits h hr, fun hscope hread howns hclear hpoison hcap => ?_⟩
    obtain ⟨t, ht, hstored, -⟩ := writeCopy_stores hs h hk howns hclear hpoison hcap
    obtain ⟨w, hexec, hw, hrels⟩ := performed_state h (.inr ⟨hscope, hread⟩) ((perform_copy h hk hd).trans ht)
    obtain ⟨hbytes, -, hdone⟩ := hstored.rels hw
    exact ⟨w, hexec, hbytes, hdone.gone, by rw [hrels]; exact noteEarly_remembers t hr⟩
  · intro id o pa h hd
    refine ⟨fun hready hpoison hcap => ?_, fun hn => ?_⟩
    · obtain ⟨t, ht, hstored, hl1, hdirty⟩ := pocPerform_stores hs h.1 hd hready hpoison hcap
      obtain ⟨w, hexec, hw, -⟩ := performed_state h.1 (.inl h.2) ((perform_directory h.1 hd).trans ht)
      obtain ⟨hbytes, hkept, hdone⟩ := hstored.rels hw
      refine ⟨w, hexec, fun bs hbs => ?_, hkept, hdone.takes, by rw [sector_rels hw, hl1], hdone.gone⟩
      obtain ⟨hare, hrest⟩ := hbytes bs hbs
      exact ⟨hare, hrest, by rw [sector_rels hw]; exact hdirty bs hbs⟩
    · exact stalls h.1 (.inl h.2) ((perform_directory h.1 hd).trans (pocPerform_none h.1 hn))
  · intro id o pa hop hlive hrej hsp hp hlev
    refine ⟨fun hn => ?_, fun ha hl hheld hold => ⟨fun hon hk => ?_, fun hon hk => ?_, fun hfar hhere hlost hclear => ?_⟩⟩
    · exact (exec_directoryRequest id s).trans (runEvent_of_none ((directoryRequest_eq hop hlive hrej hsp hp).trans (climb_none hlev hn)))
    · obtain ⟨t, ht, hops, hsec, hmem, hmiss⟩ := climb_on hop hlev ha hl (fun e => hold (by simp [e])) (goes_on hon) hk
      exact ⟨t, request_steps hop hlive hrej hsp hp ht, hops, hmiss, hsec, sameMemory_of_mem hmem⟩
    · obtain ⟨t, ht, hsec, hmem, hops⟩ := climb_out hop ha hl (fun e => hold (by simp [e])) (goes_on hon) hk
      exact ⟨t, request_steps hop hlive hrej hsp hp ht, hsec, sameMemory_of_mem hmem, hops⟩
    · obtain ⟨t, ht, hrest⟩ := request_answered hop hlev ha hl hheld (fun e => hold (by simp [e]))
        (Bool.eq_false_iff.2 fun e => hfar (farther_iff.1 e)) (answers_iff.2 hhere) hlost hclear
      exact ⟨t, request_steps hop hlive hrej hsp hp ht, hrest⟩
  · intro id o pa hop hlive hrej hsp
    refine ⟨fun hroom => ?_, fun hroom hage => ?_, fun hroom hage => ?_⟩
    · obtain ⟨t, ht, hrest⟩ := represent_enters hop hlive hrej hsp hroom
      exact ⟨t, (exec_requestRepresent id s).trans (runEvent_of_some ht), hrest⟩
    · obtain ⟨t, ht, hrest⟩ := represent_rejected hop hlive hrej hsp (Bool.eq_false_iff.2 hroom) hage
      exact ⟨t, (exec_requestRepresent id s).trans (runEvent_of_some ht), hrest⟩
    · exact (exec_requestRepresent id s).trans (runEvent_of_none (represent_waits hop hsp (Bool.eq_false_iff.2 hroom) hage))
  · intro sec core h
    obtain ⟨t, ht, hend, hothers, hmem⟩ := forwarded_core h
    exact ⟨t, (exec_forwardedRequest sec core s).trans (runEvent_of_some ht), hend, hothers, sameMemory_of_mem hmem⟩
  · intro sec core hn h
    obtain ⟨t, ht, hend, hothers, hmem⟩ := forwarded_l2 hn h
    exact ⟨t, (exec_forwardedRequest sec core s).trans (runEvent_of_some ht), hend, hothers, sameMemory_of_mem hmem⟩
  · intro line k hk h
    obtain ⟨t, ht, hdrained, hcount, hmem⟩ := mscWriteback_drains hk h
    exact ⟨t, (exec_mscWriteback line s).trans (runEvent_of_some ht), hdrained, hcount, sameMemory_of_mem hmem⟩

end Sys2Proof.AccessEvents
end
